-- ==== Sys2Proof/Word.lean ====
section
/-! DEFINITION. The word types of the machine (R3, R36). -/

namespace Sys2Proof

/-- A scalar register, an instruction word, an address: 64 bits. -/
abbrev Word := BitVec 64

/-- A vector register or the payload of a token: 512 bits, lane i at bits [32i+31:32i]. -/
abbrev Vec := BitVec 512

/-- One byte of a store. -/
abbrev Byte := BitVec 8

end Sys2Proof
end

