-- ==== Sys2Proof/Config.lean ====
section
/-! DEFINITION. What the part fixes (R1, R11, R13), and the free values: constants with no body, so that nothing can be
proved about the value the manual leaves open. -/

namespace Sys2Proof.Config

/-- Tiles on the wafer (R11). -/
def numTiles : Nat := 9216
/-- Fields on the wafer (R11). -/
def numFields : Nat := 64
/-- Bytes of a tile store (R13). -/
def storeBytes : Nat := 0x180000
/-- Instructions of a handler store (R13, R14). -/
def codeWords : Nat := 6144
/-- Slots of the queue buffer (R19). -/
def queueSlots : Nat := 256
/-- Bytes of the store buffer (R165). -/
def storeBufferBytes : Nat := 65536
/-- Bytes of device DRAM: 256 slices of 8 GiB (R26). -/
def dramBytes : Nat := 256 * 8 * 2 ^ 30

/-- Free value: the wall time in ns that the n-th step takes; clocks are not fixed (R5, R317). DESIGN CHOICE: notes/assumptions/6.md. -/
opaque stepNs : Nat → Nat
/-- Free value: the cycles of the tile clock that the n-th step takes (R5, R317). DESIGN CHOICE: notes/assumptions/6.md. -/
opaque stepCycles : Nat → Nat
/-- Free value: the XMSS^MT signature of a message under the identity key at an index; the identity key is derived from
the PUF seed, which the manual gives no value (R354, R358). DESIGN CHOICE: notes/assumptions/11.md. -/
opaque identitySign : Nat → List Byte → List Byte
/-- Free value: the identity seed of the module (R354). DESIGN CHOICE: notes/assumptions/11.md. -/
opaque identitySeed : List Byte
/-- Free value: the n-th ML-KEM-1024 encapsulation key the security island generates (R357). DESIGN CHOICE: notes/assumptions/11.md. -/
opaque encapKey : Nat → List Byte
/-- Free value: the secret that the n-th decapsulation key recovers from a ciphertext (R357). DESIGN CHOICE: notes/assumptions/11.md. -/
opaque sharedSecret : Nat → List Byte → List Byte
/-- Free value: the root and public seed of the identity key, derived from the identity seed (R354, R358). DESIGN CHOICE: notes/assumptions/11.md. -/
opaque identityPublic : List Byte
/-- Free value: Ralryn's root public key, whose hash stands in the mask ROM (R354, R358). DESIGN CHOICE: notes/assumptions/11.md. -/
opaque rootKey : List Byte
/-- Free value: whether an XMSS^MT signature of a message verifies under a public key (R358). DESIGN CHOICE: notes/assumptions/11.md. -/
opaque signatureValid : List Byte → List Byte → List Byte → Bool
/-- Free value: whether the n-th write of the signature bound to flash fails (R359). DESIGN CHOICE: notes/assumptions/50.md. -/
opaque flashWriteFails : Nat → Bool
/-- Free value: the n-th key of 64 bytes that the island's generator draws (R354). DESIGN CHOICE: notes/assumptions/81.md. -/
opaque drbg : Nat → List Byte
/-- Free value: the keys of the two directions, 64 bytes, that the n-th ML-KEM-1024 exchange with a linked module's island gives (R353). DESIGN CHOICE: notes/assumptions/57.md. -/
opaque linkSecret : Nat → List Byte
/-- Free value: the report data of the n-th identity quote made for a link (R353, R363). DESIGN CHOICE: notes/assumptions/57.md. -/
opaque linkReport : Nat → List Byte
/-- Free value: the AES-GCM keys of the host link that the n-th IDE_KM exchange sets (R352, R354). DESIGN CHOICE: notes/assumptions/57.md. -/
opaque ideSecret : Nat → List Byte
/-- Free values: the message, the customisation string and the length in bytes of the tag of an unfreeze command, of which
the manual says only that it is KMAC256 under the session key (R369). DESIGN CHOICE: notes/assumptions/56.md. -/
opaque unfreezeMessage : Nat → List Byte
opaque unfreezeCustom : List Byte
opaque unfreezeLength : Nat
/-- Free value: the n-th field of a violation record that the manual gives no meaning for the record's KIND (R349). DESIGN CHOICE: notes/assumptions/47.md. -/
opaque recordField : Nat → Nat
/-- Free value: the n-th field of a stopwatch record for which the millisecond has no sample (R331). DESIGN CHOICE: notes/assumptions/47.md. -/
opaque unmeasured : Nat → Nat
/-- Free value: the network part of a field's mean power in 0.1 W, in the n-th stopwatch record; no sensor reads it (R331). DESIGN CHOICE: notes/assumptions/47.md. -/
opaque networkPower : Nat → Nat
/-- Free value: which of the reduce-adds on their way that may combine with one have met it in a router as it arrives, a bit each, in
the n-th step (R158). DESIGN CHOICE: notes/assumptions/106.md. -/
opaque combines : Nat → Nat
/-- Free value: what TADDR holds below its two highest bits for the parity error of a register whose file R37 gives no kind code: files k,
lc, wa and pa as 0, 1, 2 and 3, and the register's index (R15, R381). DESIGN CHOICE: notes/assumptions/108.md. -/
opaque parityTaddr : Nat → Nat → BitVec 62
/-- Free value: which of the slices that have a commit's confirmation still to accept accepts it next, in the n-th step (R186, R199). DESIGN CHOICE: notes/assumptions/41.md. -/
opaque nextSlice : Nat → Nat

end Sys2Proof.Config
end

