-- ==== Sys2Proof/Syntax.lean ====
section
/-! DEFINITION. The syntax: the five word formats (R43), the data that events carry, and `Instr`, one constructor for
every row of spec/opcode_table.json. -/

namespace Sys2Proof

/-- A source field of formats A and I (R46): kind tag, index and, where the kind has one, the wait bit. -/
inductive Src where
  | v (i : BitVec 8) (wait : Bool)
  | g (i : BitVec 8) (wait : Bool)
  | c (i : BitVec 8)
  | lit (code : BitVec 8)
deriving DecidableEq, Repr

/-- Predicate fields pk and pn (R50). -/
structure Pred where
  pk : BitVec 4
  pn : Bool
deriving DecidableEq, Repr

/-- Format A (R43): predicate, destination, three sources, and mod as type code, saturate bit and mod[1:0] (R51). -/
structure FA where
  p : Pred
  dk : Bool
  dst : BitVec 8
  a : Src
  b : Src
  c : Src
  ty : BitVec 4
  sat : Bool
  m : BitVec 2
deriving DecidableEq, Repr

/-- Format I (R43). -/
structure FI where
  p : Pred
  dk : Bool
  dst : BitVec 8
  a : Src
  imm : BitVec 29
deriving DecidableEq, Repr

/-- Format M (R43, R52): data register, base with its wait bit, size or type, order or scope, byte offset, aux. -/
structure FM where
  p : Pred
  dk : Bool
  dst : BitVec 8
  base : BitVec 8
  bw : Bool
  size : BitVec 3
  ord : BitVec 3
  off : BitVec 20
  aux : BitVec 5
deriving DecidableEq, Repr

/-- Format C (R43, R53). -/
structure FC where
  p : Pred
  g : BitVec 8
  aux : BitVec 9
  off : BitVec 32
deriving DecidableEq, Repr

/-- Format E (R43, R54). -/
structure FE where
  p : Pred
  ix : BitVec 5
  ga : BitVec 8
  gb : BitVec 8
  gc : BitVec 8
  cmd : BitVec 20
deriving DecidableEq, Repr

/-- A register that firmware or the host writes from outside the instruction stream (R402, R416, R421, R425): a CSR number
with the tile, field, owner or context that holds it, a BAR0 register by context and byte offset, or the setpoint of a rail (R319):
the compute rail of a field below 64, edge I/O island n at 64 + n, the security island at 72. -/
inductive RegName where
  | csr (num inst : Nat)
  | queueReg (ctx off : Nat)
  | telemetry (off : Nat)
  | rail (island : Nat)
deriving DecidableEq, Repr

/-- What another rank sends for the photo finish (R396): its rank and, for every open region in increasing region number,
the region and its two digests. -/
structure RankDigest where
  rank : Nat
  regions : List (Nat × Nat × Nat)
deriving DecidableEq, Repr

/-- What another rank of a collective contributes (R312): its descriptor and the bytes of its buffer. -/
structure CollSide where
  rank : Nat
  gid : BitVec 32
  kind : BitVec 2
  ty : BitVec 4
  op : BitVec 2
  dg : Bool
  count : Nat
  root : Nat
  mode : BitVec 3
  data : List Byte
deriving DecidableEq, Repr

/-- A page migration the referee issues (R197): the context, the page and where it goes. -/
structure MigrSpec where
  ctx : Nat
  va : Word
  size : BitVec 2
  newPa : Nat
  slice : Option (BitVec 8)
deriving DecidableEq, Repr

/-- A sample of a tile's sensors (R330): millivolts, sixteenths of a degree C, tenths of an ampere. -/
structure SensorReading where
  mv : Int
  temp : Int
  cur : Int
deriving DecidableEq, Repr

/-- The sources of the security alarm (R367). -/
inductive AlarmSource where
  | lid | glitch | osc | temp | debug | rej
deriving DecidableEq, Repr

/-- What device firmware gives when it creates a partition (R342, R344, R345): owner, rectangle, referee tiles, granules,
contexts (number, root of the page table, priority), and the referee image, which each referee tile runs from its first word. -/
structure PartSpec where
  owner : Nat
  x0 : Nat
  y0 : Nat
  x1 : Nat
  y1 : Nat
  referees : List Nat
  granules : List Nat
  contexts : List (Nat × Nat × Nat)
  refCode : List Word
deriving DecidableEq, Repr

/-- What bring-up reads from outside the module (R423): the digest of each firmware copy in flash with whether it verifies,
whether the repair record verifies and the identity can be derived, the tile-map byte of each tile in the repair record, the
tiles whose BIST fails, the serial number, the digests of the mask ROM and of the repair record, the ALARMPOL value firmware locks,
and the device certificate in flash (R358). DEDUCED: notes/assumptions/51.md. -/
structure BootInput where
  fw : List (Bool × List Byte)
  repairOk : Bool
  identityOk : Bool
  tiles : List (Nat × BitVec 8)
  bistFail : List Nat
  serial : Word
  romHash : List Byte
  repairHash : List Byte
  alarmpol : Word
  cert : List Byte
  romOk : Bool := true
deriving DecidableEq, Repr

/-- The register files of a tile core (R36). -/
inductive RegKind where
  | g | v | k | c | lc | wa | pa
deriving DecidableEq, Repr
/-- Where a soft error strikes (R15): a unit of a tile store, a DRAM unit, a handler-store word or a register; `double` is an
uncorrectable one. An accumulator word of the patch counts 64 in a row, 4096 in a set. -/
inductive SoftErr where
  | tileUnit (t off : Nat) (double : Bool)
  | dramUnit (pa : Nat) (double : Bool)
  | codeWord (t i : Nat)
  | reg (t : Nat) (file : RegKind) (i : Nat)
deriving DecidableEq, Repr

/-- A step of a replica port's training (R353, R422): it begins, or the other island has sent its identity quote and the certificate
of its identity key. DEDUCED: notes/assumptions/57.md. -/
inductive Training where
  | start
  | peer (quote cert : List Byte)
deriving DecidableEq, Repr

/-- A frame of sixteen flits as a replica port receives it, ciphertext and tag (R353). -/
structure BadFrame where
  port : Nat
  frame : List Byte
  tag : List Byte
deriving DecidableEq, Repr

/-- The instructions and events of spec/opcode_table.json, one constructor a row. The first 197 are the rows an
instruction word decodes to (R55); the rest are the rows in which the part, the host or the outside acts. -/
inductive Instr where
  /-- NOP (R59). Retires with no effect on any architectural state. -/
  | nop (f : FA)
  /-- ADD (R96). Adds two integer elements, wrapping or clamping by R69. -/
  | add (f : FA)
  /-- SUB (R96). Subtracts two integer elements, wrapping or clamping. -/
  | sub (f : FA)
  /-- MUL (R96). Multiplies two integer elements, wrapping or clamping. -/
  | mul (f : FA)
  /-- MULH (R96). Writes the high half of a signed integer product. -/
  | mulh (f : FA)
  /-- MULHN (R96). Writes the high half of an unsigned integer product. -/
  | mulhn (f : FA)
  /-- DIV (R97). Signed division truncated toward zero; traps DIVZERO at issue on a zero divisor. -/
  | div (f : FA)
  /-- DIVN (R97). Unsigned division truncated toward zero; traps DIVZERO on a zero divisor. -/
  | divn (f : FA)
  /-- REM (R97). Signed remainder taking the sign of the dividend; traps DIVZERO on zero. -/
  | rem (f : FA)
  /-- REMN (R97). Unsigned remainder; traps DIVZERO on a zero divisor. -/
  | remn (f : FA)
  /-- NEG (R96). Negates a signed integer element. -/
  | neg (f : FA)
  /-- ABS (R96). Writes the absolute value of a signed integer element. -/
  | abs (f : FA)
  /-- MIN (R96). Writes the smaller of two signed elements. -/
  | min (f : FA)
  /-- MAX (R96). Writes the larger of two signed elements. -/
  | max (f : FA)
  /-- MINN (R96). Writes the smaller of two unsigned elements. -/
  | minn (f : FA)
  /-- MAXN (R96). Writes the larger of two unsigned elements. -/
  | maxn (f : FA)
  /-- AND (R96). Bitwise AND of two elements. -/
  | and (f : FA)
  /-- OR (R96). Bitwise OR of two elements. -/
  | or (f : FA)
  /-- XOR (R96). Bitwise XOR of two elements. -/
  | xor (f : FA)
  /-- ANDN (R96). Bitwise AND of a with NOT b. -/
  | andn (f : FA)
  /-- ORN (R96). Bitwise OR of a with NOT b. -/
  | orn (f : FA)
  /-- NOT (R96). Bitwise NOT of an element. -/
  | not (f : FA)
  /-- SHL (R98). Shifts left, optionally saturating. -/
  | shl (f : FA)
  /-- SHR (R98). Logical shift right. -/
  | shr (f : FA)
  /-- SRA (R98). Arithmetic shift right. -/
  | sra (f : FA)
  /-- ROL (R98). Rotates an element left. -/
  | rol (f : FA)
  /-- CLZ (R96). Counts leading zero bits. -/
  | clz (f : FA)
  /-- CTZ (R96). Counts trailing zero bits. -/
  | ctz (f : FA)
  /-- POPC (R96). Counts one bits. -/
  | popc (f : FA)
  /-- BREV (R96). Reverses the bits of an element. -/
  | brev (f : FA)
  /-- BEXT (R99). Extracts a bit field described by a descriptor. -/
  | bext (f : FA)
  /-- BINS (R99). Inserts a bit field described by a descriptor. -/
  | bins (f : FA)
  /-- SEXT (R100). Sign-extends the low M bits to the full width. -/
  | sext (f : FA)
  /-- ZEXT (R100). Zero-extends the low M bits to the full width. -/
  | zext (f : FA)
  /-- CMP (R101). Compares two integer elements under a selected condition. -/
  | cmp (f : FA)
  /-- SEL (R96). Selects a or b according to c. -/
  | sel (f : FA)
  /-- MOV (R96). Copies an element. -/
  | mov (f : FA)
  /-- MOVI (R103). Loads a sign-extended 29-bit immediate. -/
  | movi (f : FI)
  /-- MOVHI (R103). Builds a scalar from a shifted immediate and the low 29 bits of a. -/
  | movhi (f : FI)
  /-- ADDI (R103). Adds a sign-extended immediate. -/
  | addi (f : FI)
  /-- LEA (R103). Forms base plus offset without any access or check. -/
  | lea (f : FM)
  /-- SADD (R102). Saturating or halving addition. -/
  | sadd (f : FA)
  /-- SSUB (R102). Saturating or halving subtraction. -/
  | ssub (f : FA)
  /-- FADD (R105). Floating-point addition rounded once. -/
  | fadd (f : FA)
  /-- FSUB (R105). Floating-point subtraction rounded once. -/
  | fsub (f : FA)
  /-- FMUL (R105). Floating-point multiplication rounded once. -/
  | fmul (f : FA)
  /-- FMA (R105). Fused multiply-add a*b+c rounded once. -/
  | fma (f : FA)
  /-- FMS (R105). Fused multiply-subtract a*b-c rounded once. -/
  | fms (f : FA)
  /-- FNMA (R105). Fused c-a*b rounded once. -/
  | fnma (f : FA)
  /-- FMIN (R106). Floating-point minimum with NaN propagation. -/
  | fmin (f : FA)
  /-- FMAX (R106). Floating-point maximum with NaN propagation. -/
  | fmax (f : FA)
  /-- FMINP (R106). Minimum that returns the non-NaN operand. -/
  | fminp (f : FA)
  /-- FMAXP (R106). Maximum that returns the non-NaN operand. -/
  | fmaxp (f : FA)
  /-- FABS (R107). Clears the sign bit. -/
  | fabs (f : FA)
  /-- FNEG (R107). Inverts the sign bit. -/
  | fneg (f : FA)
  /-- FSGN (R107). Copies the sign of b onto a. -/
  | fsgn (f : FA)
  /-- FCMP (R108). Floating-point comparison under a selected condition. -/
  | fcmp (f : FA)
  /-- FCLASS (R109). Writes a one-hot class mask of the operand. -/
  | fclass (f : FA)
  /-- FRCP (R110). Correctly rounded reciprocal. -/
  | frcp (f : FA)
  /-- FRSQ (R110). Correctly rounded reciprocal square root. -/
  | frsq (f : FA)
  /-- FSQRT (R110). Correctly rounded square root. -/
  | fsqrt (f : FA)
  /-- FDIV (R105). Floating-point division rounded once. -/
  | fdiv (f : FA)
  /-- FEXP2 (R110). Correctly rounded 2 to the power a. -/
  | fexp2 (f : FA)
  /-- FLOG2 (R110). Correctly rounded base-2 logarithm. -/
  | flog2 (f : FA)
  /-- FSIN (R111). Sine with reduced-pi argument, limited range. -/
  | fsin (f : FA)
  /-- FCOS (R111). Cosine with reduced-pi argument, limited range. -/
  | fcos (f : FA)
  /-- FSINPI (R110). Correctly rounded sin(pi*a). -/
  | fsinpi (f : FA)
  /-- FCOSPI (R110). Correctly rounded cos(pi*a). -/
  | fcospi (f : FA)
  /-- FTANH (R110). Correctly rounded hyperbolic tangent. -/
  | ftanh (f : FA)
  /-- FSIGM (R110). Correctly rounded logistic sigmoid. -/
  | fsigm (f : FA)
  /-- FRND (R112). Rounds to an integral value under the sampled mode. -/
  | frnd (f : FA)
  /-- CVT (R114). Converts elements between two type codes with part selection. -/
  | cvt (f : FA)
  /-- FSCALE (R113). Multiplies by a power of two and rounds. -/
  | fscale (f : FA)
  /-- FGETEXP (R113). Writes floor(log2|a|) exactly. -/
  | fgetexp (f : FA)
  /-- VPERM (R117). Permutes elements by an index vector. -/
  | vperm (f : FA)
  /-- VBCAST (R117). Broadcasts one element to all positions. -/
  | vbcast (f : FA)
  /-- VROT (R117). Rotates elements toward higher indices. -/
  | vrot (f : FA)
  /-- VSLIDE (R117). Slides elements down, filling from C. -/
  | vslide (f : FA)
  /-- VRED (R119). Reduces enabled elements by a fixed tree. -/
  | vred (f : FA)
  /-- VREDX (R121). Sums enabled elements exactly and rounds once. -/
  | vredx (f : FA)
  /-- VSCAN (R120). Writes sequential prefix results. -/
  | vscan (f : FA)
  /-- VCMPR (R118). Compresses selected lanes to the bottom. -/
  | vcmpr (f : FA)
  /-- VXPD (R118). Expands lanes into selected positions. -/
  | vxpd (f : FA)
  /-- VLANE (R118). Reads or replaces one lane. -/
  | vlane (f : FA)
  /-- KAND (R122). AND of two predicates. -/
  | kand (f : FA)
  /-- KOR (R122). OR of two predicates. -/
  | kor (f : FA)
  /-- KXOR (R122). XOR of two predicates. -/
  | kxor (f : FA)
  /-- KNOT (R122). NOT of a predicate. -/
  | knot (f : FA)
  /-- KPOP (R122). Counts set predicate bits into a g register. -/
  | kpop (f : FA)
  /-- KFIRST (R122). Writes the index of the lowest set predicate bit. -/
  | kfirst (f : FA)
  /-- KMOV (R123). Moves between predicates, g registers and vector lane tests. -/
  | kmov (f : FA)
  /-- VPACK (R124). Narrows two vectors into one. -/
  | vpack (f : FA)
  /-- VUNPK (R124). Widens half of one vector. -/
  | vunpk (f : FA)
  /-- VMXQ (R125). Quantises 32 f32 values into one MX block. -/
  | vmxq (f : FA)
  /-- VMXD (R126). Expands half of an MX block to f32 lanes. -/
  | vmxd (f : FA)
  /-- VDOT (R128). Forms one fused dot product per 32-bit lane. -/
  | vdot (f : FA)
  /-- WADD (R127). Adds elements exactly into a wide accumulator. -/
  | wadd (f : FA)
  /-- WRND (R127). Rounds a wide accumulator into a register. -/
  | wrnd (f : FA)
  /-- WCLR (R127). Clears a wide accumulator. -/
  | wclr (f : FA)
  /-- WMOV (R127). Moves a wide accumulator to or from a vector register. -/
  | wmov (f : FA)
  /-- LD (R218). Loads 1 to 8 bytes into a g register. -/
  | ld (f : FM)
  /-- ST (R218). Stores 1 to 8 bytes from a g register. -/
  | st (f : FM)
  /-- LDV (R218). Loads 64 bytes into a vector register. -/
  | ldv (f : FM)
  /-- STV (R218). Stores 64 bytes from a vector register. -/
  | stv (f : FM)
  /-- LDG (R220). Gathers 32-bit words by index vector. -/
  | ldg (f : FM)
  /-- STG (R220). Scatters 32-bit words by index vector. -/
  | stg (f : FM)
  /-- LDS (R222). Waits until words are full, then reads, optionally emptying them. -/
  | lds (f : FM)
  /-- STF (R223). Stores and sets the covered words full in one step. -/
  | stf (f : FM)
  /-- FECLR (R224). Empties a range of full/empty bits. -/
  | feclr (f : FM)
  /-- FETST (R225). Reads a mask of full bits without waiting. -/
  | fetst (f : FM)
  /-- LDC (R228). Chained load performed in chain order at its slice. -/
  | ldc (f : FM)
  /-- STC (R228). Chained store performed in chain order at its slice. -/
  | stc (f : FM)
  /-- CHBIND (R227). Binds a chain handle to a slice and chain id. -/
  | chbind (f : FE)
  /-- AMO (R230). Atomic read-modify-write at the home. -/
  | amo (f : FM)
  /-- RED (R231). Reduce-add or integer reduction to a global word. -/
  | red (f : FM)
  /-- FENCE (R232). Holds later core accesses until earlier ones in scope are acknowledged. -/
  | fence (f : FM)
  /-- SPBIND (R242). Loads a stream descriptor into a port once it is not running. -/
  | spbind (f : FE)
  /-- SPGO (R242). Starts a stream port from element 0 or its position. -/
  | spgo (f : FE)
  /-- SPHALT (R242). Halts a running stream port after the element in progress. -/
  | sphalt (f : FE)
  /-- SPPOS (R243). Reads a stream port's position and state. -/
  | sppos (f : FE)
  /-- CPA (R244). Starts an asynchronous linear copy. -/
  | cpa (f : FE)
  /-- CP2D (R244). Starts an asynchronous row copy from a descriptor. -/
  | cp2d (f : FE)
  /-- HDINIT (R248). Arms a hurdle on a hurdle word, or reports BUSY or CONFLICT. -/
  | hdinit (f : FE)
  /-- HDARR (R248). Adds an arrival count to a hurdle. -/
  | hdarr (f : FE)
  /-- HDWAIT (R248). Holds the core until the hurdle phase differs from the parity. -/
  | hdwait (f : FE)
  /-- HDTEST (R248). Tests whether the hurdle phase differs from the parity. -/
  | hdtest (f : FE)
  /-- HDKILL (R248). Disarms a hurdle so later arrivals are orphans. -/
  | hdkill (f : FE)
  /-- DREQ (R250). Sends a read request to the DRAM actors, replying to a queue or the tile store. -/
  | dreq (f : FE)
  /-- MXCFG (R161). Sets the activation type of a patch source. -/
  | mxcfg (f : FE)
  /-- MXWLD (R161). Loads a weight block and scales into the shadow set. -/
  | mxwld (f : FE)
  /-- MXWSW (R161). Swaps shadow and active weight sets. -/
  | mxwsw (f : FE)
  /-- MXSC (R161). Pushes scale entries onto the scale queue. -/
  | mxsc (f : FE)
  /-- MXRUN (R133). Runs activation rows through the active weights into an accumulator set. -/
  | mxrun (f : FE)
  /-- MXDRN (R139). Drains accumulator rows with rounding to the tile store or a queue. -/
  | mxdrn (f : FE)
  /-- MXCLR (R161). Clears one or both accumulator sets. -/
  | mxclr (f : FE)
  /-- MXRGN (R149). Enters or leaves systolic region mode. -/
  | mxrgn (f : FE)
  /-- MXRING (R151). Enters or leaves relay ring mode. -/
  | mxring (f : FE)
  /-- MXLAP (R152). Copies the active set into the successor's shadow set. -/
  | mxlap (f : FE)
  /-- MXREC (R153). Turns recurrence mode on or off. -/
  | mxrec (f : FE)
  /-- MXCMD (R155). Sends a capability-checked command to another tile's patch. -/
  | mxcmd (f : FE)
  /-- MXST (R161). Waits for earlier patch commands and reads patch status. -/
  | mxst (f : FE)
  /-- BR (R286). Unconditional relative branch. -/
  | br (f : FC)
  /-- BC (R286). Conditional branch on a g register. -/
  | bc (f : FC)
  /-- JAL (R286). Writes the return index and branches. -/
  | jal (f : FC)
  /-- JR (R286). Jumps to the index held in a register. -/
  | jr (f : FC)
  /-- LOOP (R288). Starts a hardware loop on a counter. -/
  | loop (f : FC)
  /-- LBRK (R290). Ends a loop and later loops and leaves the body. -/
  | lbrk (f : FC)
  /-- SND (R294). Pushes a token to an output queue. -/
  | snd (f : FA)
  /-- RCV (R295). Claims the next token of an input queue without holding the core. -/
  | rcv (f : FA)
  /-- QPK (R296). Peeks at the head token of an input queue. -/
  | qpk (f : FA)
  /-- QCNT (R297). Counts resident tokens or free output slots. -/
  | qcnt (f : FA)
  /-- EOD (R298). Pushes an end-of-dimension token. -/
  | eod (f : FA)
  /-- QPSN (R298). Pushes POISON tokens with a cause. -/
  | qpsn (f : FA)
  /-- SPAWN (R300). Sends a task record to an actor slot. -/
  | spawn (f : FE)
  /-- TDEC (R301). Sends a decrement to a dependence counter. -/
  | tdec (f : FE)
  /-- TEND (R303). Ends and commits the task. -/
  | tend (f : FC)
  /-- GFORM (R304). Forms the gang so followers execute the anchor's stream. -/
  | gform (f : FC)
  /-- GEND (R306). Disbands a formed gang. -/
  | gend (f : FC)
  /-- GSYNC (R307). Holds all gang members until their earlier accesses are acknowledged. -/
  | gsync (f : FC)
  /-- CAR (R310). Starts an all-reduce over a collective group. -/
  | car (f : FE)
  /-- CBC (R310). Starts a broadcast from a root rank. -/
  | cbc (f : FE)
  /-- CRD (R310). Starts a reduction to a root rank. -/
  | crd (f : FE)
  /-- CBAR (R310). Holds the core until every rank issues its matching barrier. -/
  | cbar (f : FE)
  /-- CSRR (R402). Reads a CSR into a g register. -/
  | csrr (f : FI)
  /-- CSRW (R402). Writes a CSR, optionally returning the old value. -/
  | csrw (f : FI)
  /-- CSRS (R402). Sets bits in a CSR. -/
  | csrs (f : FI)
  /-- CSRC (R402). Clears bits in a CSR. -/
  | csrc (f : FI)
  /-- TRAP (R403). Raises SWTRAP with a code. -/
  | trap (f : FI)
  /-- ERET (R403). Leaves a trap handler, returning to TEPC or past it. -/
  | eret (f : FC)
  /-- BRK (R403). Raises BRK and halts the tile's halt group. -/
  | brk (f : FC)
  /-- HGRP_SET (R405). Makes a tile join or leave a halt group. -/
  | hgrpSet (f : FE)
  /-- HGRP_HALT (R405). Halts a halt group or the partition. -/
  | hgrpHalt (f : FE)
  /-- HGRP_RES (R405). Resumes every halted member of a group or the partition. -/
  | hgrpRes (f : FE)
  /-- HGRP_STEP (R400). Issues exactly one instruction on a halted tile. -/
  | hgrpStep (f : FE)
  /-- HGRP_RESTILE (R405). Resumes one tile, optionally clearing its engine fault. -/
  | hgrpRestile (f : FE)
  /-- HGRP_STAT (R405). Reads a tile's halted state, last cause and PC. -/
  | hgrpStat (f : FE)
  /-- HGRP_READ (R405). Reads one word of a tile's halt record. -/
  | hgrpRead (f : FE)
  /-- WFE (R405). Holds the core until a referee event is pending or a timeout expires. -/
  | wfe (f : FC)
  /-- RDTIME (R404). Reads wall time in ns. -/
  | rdtime (f : FI)
  /-- RDPERF (R404). Reads a tile performance counter. -/
  | rdperf (f : FI)
  /-- ATTQ (R362). Requests a signed quote from the security island. -/
  | attq (f : FE)
  /-- SEAL (R364). Seals data to bound measurements into a blob. -/
  | seal (f : FE)
  /-- UNSEAL (R364). Verifies and decrypts a sealed blob. -/
  | unseal (f : FE)
  /-- CAPSET (R365). Writes a capability entry on a tile. -/
  | capset (f : FE)
  /-- CAPCLR (R365). Clears one or all capability entries on a tile. -/
  | capclr (f : FE)
  /-- DGOPEN (R406). Declares a digest region and starts its scan. -/
  | dgopen (f : FE)
  /-- DGCLOSE (R406). Frees a digest region. -/
  | dgclose (f : FE)
  /-- DGSNAP (R406). Reads a region's two digest lanes after its scan. -/
  | dgsnap (f : FE)
  /-- DGVER (R406). Reads the verdict word of the stream's last CAR.DG. -/
  | dgver (f : FE)
  /-- FNRECT (R386). Fences and resets a rectangle of the partition. -/
  | fnrect (f : FE)
  /-- FNRECT_REL (R407). Releases a fenced rectangle for placement. -/
  | fnrectRel (f : FE)
  /-- TKILL_TASK (R407). Aborts the running I task on a tile. -/
  | tkillTask (f : FE)
  /-- TKILL_CONFIG (R398). Kills the configuration running on a tile. -/
  | tkillConfig (f : FE)
  /-- TKILL_CONTEXT (R407). Kills every configuration of a context. -/
  | tkillContext (f : FE)
  /-- PREMP_SAVE (R389). Checkpoints the configuration on a tile. -/
  | prempSave (f : FE)
  /-- PREMP_RESTORE (R391). Restores a context's saved configuration. -/
  | prempRestore (f : FE)
  /-- PREMP_REMAP (R385). Replays a REPLAY actor of a dead tile on a spare tile. -/
  | prempRemap (f : FE)
  /-- UNASSIGNED_OPCODE (R56). A fetched word with an unassigned opcode, such as the 0xFFFF_FFFF_FFFF_FFFF fill word, raises ILLOP. -/
  | unassignedOpcode (w : Word)
  /-- LONG_LATENCY_FILL (R57). A long-latency producer's result arrives and fills its destination. -/
  | longLatencyFill (t n : Nat)
  /-- LDS_WAKE (R222). A waiting LDS finds its words full and reads them. -/
  | ldsWake (t n : Nat)
  /-- PERFORM_AT_HOME (R162). A plain load or store reaches its home tile store, slice or host and performs there: it updates digests, closes a reduce window, or is discarded on an armed hurdle word. -/
  | performAtHome (t n : Nat)
  /-- ATOMIC_AT_HOME (R187). An atomic executes indivisibly at its home. -/
  | atomicAtHome (t n : Nat)
  /-- RED_ARRIVAL (R190). A reduce-add opens or adds exactly into a reduce window. -/
  | redArrival (t n : Nat)
  /-- CHAIN_ARRIVAL (R180). A chained access arrives at the finish-line buffer and performs, waits or is refused. -/
  | chainArrival (t n : Nat)
  /-- CHAIN_RETRY (R183). A refused chained access is resent after its spacing. -/
  | chainRetry (t n : Nat)
  /-- ENGINE_GRANULE_WRITE (R233). An engine writes a granule, sets it full and arrives on its hurdle. -/
  | engineGranuleWrite (t : Nat)
  /-- DREQ_REPLY (R251). A DRAM actor's reply arrives in its reserved slot or tile-store range. -/
  | dreqReply (t n : Nat)
  /-- STREAM_ELEMENT (R241). A running stream port reads or writes one element. -/
  | streamElement (t p : Nat)
  /-- PATCH_COMMAND (R143). A queued patch command takes effect in command order. -/
  | patchCommand (t : Nat)
  /-- PACER_GRANT (R323). The pacer grants the highest-priority start request. -/
  | pacerGrant (f : Nat)
  /-- PACER_STOP (R323). The pacer serves the oldest stop request. -/
  | pacerStop (f : Nat)
  /-- RUN_COMPLETE (R324). A patch run finishes and asks the pacer for a stop. -/
  | runComplete (t : Nat)
  /-- FIRING (R253). An actor whose firing rule is met enters the run list. -/
  | firing (t : Nat)
  /-- TASK_START (R265). A free tile starts the run-list entry of highest effective priority. -/
  | taskStart (t : Nat)
  /-- ACTOR_CLOSE (R254). An actor whose inputs all hold CLOSE pops them and pushes CLOSE on its outputs. -/
  | actorClose (t : Nat)
  /-- TOKEN_ARRIVAL (R30). A token arrives in an input queue over a circuit. -/
  | tokenArrival (t q : Nat)
  /-- RECORD_ARRIVAL (R260). A spawned record reaches its target and is readied or linked. -/
  | recordArrival (t : Nat)
  /-- TDEC_ARRIVAL (R260). A decrement applies to a counter, releasing linked records at zero. -/
  | tdecArrival (t : Nat)
  /-- CONFIG_START (R175). A placed configuration starts once the previous one of its stream has ended. -/
  | configStart (sq : Nat)
  /-- END_NOTICE (R255). A configuration meets its end conditions and its end notice is sent. -/
  | endNotice (sq : Nat)
  /-- LAUNCH_PACKET (R355). A launch packet read from the submission ring is checked for tag and counter and passed to the sequencer. -/
  | launchPacket (ctx : Nat)
  /-- LAUNCH_RECORD (R263). A ready LAUNCH record sends its launch packet to the sequencer. -/
  | launchRecord (t : Nat)
  /-- ENGFAULT (R380). The tile takes ENGFAULT at its next instruction boundary. -/
  | engfault (t : Nat)
  /-- ENGINE_FAULT (R235). An engine stops at a faulting granule and records the fault. -/
  | engineFault (t e : Nat)
  /-- DIGEST_SCAN (R195). A region's scan reads its words once and completes. -/
  | digestScan (ctx rg : Nat)
  /-- PARTITION_CREATE (R344). Firmware creates a partition, zeroing its tiles and granules. -/
  | partitionCreate (p : PartSpec)
  /-- POWER_ON (R423). Bring-up runs from security-island boot to link training. -/
  | powerOn (b : BootInput)
  /-- SOFT_ERROR (R15). A soft error corrupts bits of a stored unit, to be corrected or met as DUE when the unit is next read. -/
  | softError (e : SoftErr)
  /-- HEARTBEAT (R382). A tile beats to its field monitor every HBPERIOD. -/
  | heartbeat (t : Nat)
  /-- DEAD_DECLARATION (R34). A tile missing HBMISS beats is declared dead and fenced. -/
  | deadDeclaration (t : Nat)
  /-- COLLECTIVE_COMPLETE (R313). A collective completes once every rank issued its match. -/
  | collectiveComplete (g : Nat) (others : List CollSide)
  /-- HOST_CXL_MEM_ACCESS (R350). A host CXL.mem access reaches host-window granules or is refused. -/
  | hostCxlMemAccess (pa : Nat) (data : List Byte) (wr : Bool)
  /-- SQTAIL_DOORBELL (R417). Host doorbell that makes Shagan read new launch packets. -/
  | sqtailDoorbell (ctx : Nat) (v : BitVec 16)
  /-- CSR_WRITE (R402). Write to a register that has no row of its own, following field rules. -/
  | csrWrite (r : RegName) (v : Word)
  /-- REMOTE_COMMAND_ARRIVAL (R156). A remote patch command is checked against the capability table and accepted or refused. -/
  | remoteCommandArrival (t : Nat)
  /-- WAKE_ADMIT (R328). At each 64 ns slot the arbiter admits up to W queued wakes. -/
  | wakeAdmit (f : Nat)
  /-- POWER_GATE (R328). A patch idle for BEH gates its cells. -/
  | powerGate (t : Nat)
  /-- ENGST_FAULT_CLEAR (R234). Writing 1 to ENGST.FAULT clears it and resumes the engine from ENGPOS. -/
  | engstFaultClear (t : Nat)
  /-- SAVEBASE_WRITE (R390). Writing SAVEBASE locks save translations and restarts an abandoned save. -/
  | savebaseWrite (ctx : Nat) (v : Word)
  /-- REDCTL_WRITE (R393). Marks later configurations of the context as redundant. -/
  | redctlWrite (ctx : Nat) (v : Word)
  /-- CQHEAD_WRITE (R420). Host consumes completion records, freeing room for waiting records. -/
  | cqheadWrite (ctx : Nat) (v : BitVec 16)
  /-- TMTAIL_WRITE (R421). Host frees room in the telemetry ring. -/
  | tmtailWrite (v : Word)
  /-- STAGE_TIMEOUT (R271). A pre-staged configuration's timeout expires and it ends CANCELLED. -/
  | stageTimeout (sq : Nat)
  /-- DIGEST_VERDICT (R314). After a CAR.DG configuration ends, snapshots are exchanged and the verdict formed. -/
  | digestVerdict (sq : Nat) (others : List RankDigest)
  /-- VERDICT_TIMEOUT (R315). Missing digests 20 µs after the snapshot give UNRESOLVED. -/
  | verdictTimeout (sq : Nat)
  /-- RESERVED_TAG (R18). A switch box replaces a reserved-tag transfer by POISON and raises a machine check. -/
  | reservedTag (t q : Nat)
  /-- CHAIN_CONFIRMATION (R186). A commit's confirmation turns tentative entries into waiting entries. -/
  | chainConfirmation (t : Nat)
  /-- CHAIN_CANCELLATION (R186). A commit's cancellation frees its tentative entries. -/
  | chainCancellation (t : Nat)
  /-- CHGAP (R182). A chain gap lasting CHGAPT sends one CHGAP event. -/
  | chgap (slice ch : Nat)
  /-- SHOOT_DOWN (R170). A referee shoot-down of a page-table change is acknowledged by all gateways. -/
  | shootDown (ctx : Nat) (va : Word)
  /-- PAGE_MIGRATION (R197). Referee-issued migration stalls, drains, copies and switches a page. -/
  | pageMigration (m : MigrSpec)
  /-- SENSOR_SAMPLE (R330). Tile sensors are sampled every 16 µs and checked for plausibility. -/
  | sensorSample (t : Nat) (sm : SensorReading)
  /-- THROTTLE_STEP (R320). Every 100 µs a hot field's compute rail steps down or back up. -/
  | throttleStep (f : Nat)
  /-- NETWORK_GOVERNOR (R321). Every 10 µs the network rail is raised or lowered by occupancy. -/
  | networkGovernor (f occ : Nat)
  /-- STOPWATCH_RECORD (R331). Each field writes one telemetry record per millisecond. -/
  | stopwatchRecord (f : Nat)
  /-- POWER_KILL (R333). Current above LIMIT for FILT kills the lowest-priority context. -/
  | powerKill (f : Nat)
  /-- DEAD_RETURN (R383). Traffic returned DEAD is handled at its sender. -/
  | deadReturn (t n : Nat)
  /-- DUE_ERROR_REPLY (R438). A home returns an error reply for an uncorrectable access after issue. -/
  | dueErrorReply (t n : Nat)
  /-- REJECT_REPLY (R347). An owner-mismatched packet is dropped and the sender gets REJECT. -/
  | rejectReply (t n : Nat)
  /-- REBALANCE_WINDOW (R273). At each window end, qualifying actors are chosen for moves. -/
  | rebalanceWindow (o : Nat)
  /-- REBALANCE_MOVE (R274). An actor moves to a reserve tile once its tile reaches a task boundary. -/
  | rebalanceMove (o : Nat)
  /-- DRAIN_TIMEOUT (R278). A draining victim task running 2·CYC past the decision is killed or checkpointed. -/
  | drainTimeout (t : Nat)
  /-- ESCAPE_ENTRY (R279). A packet blocked ESCWAIT switch cycles enters the escape channel. -/
  | escapeEntry (f n : Nat)
  /-- REDUNDANT_COMPARE (R395). The signatures of redundant runs decide which run commits. -/
  | redundantCompare (sq : Nat)
  /-- LINK_TAG_FAILURE (R353). A replica link frame failing its tag is discarded and resent. -/
  | linkTagFailure (p : BadFrame)
  /-- LINK_REKEY (R353). A replica port rekeys before its frame counter reaches 2^40. -/
  | linkRekey (p : Nat)
  /-- SESSION_NONCE (R357). A tenant's nonce makes the island return an encapsulation key and quote. -/
  | sessionNonce (o : Nat) (nt : List Byte)
  /-- SESSION_CIPHERTEXT (R357). The tenant's ciphertext sets the partition's session key. -/
  | sessionCiphertext (o : Nat) (ct : List Byte)
  /-- UNFREEZE (R369). An authenticated unfreeze command ends a partition's frozen state. -/
  | unfreeze (o : Nat) (tag : List Byte)
  /-- ALARM (R367). A security alarm source fires and applies its ALARMPOL level. -/
  | alarm (src : AlarmSource) (at_ : Nat)
  /-- PARTITION_DESTROY (R344). Firmware destroys a partition and its key. -/
  | partitionDestroy (o : Nat)
  /-- MGMT_ASSIGN_GROUP (R422). Management assigns a job's GID and module rank. -/
  | mgmtAssignGroup (n : Nat) (v : Word)
  /-- TILE_STATE_REQUEST (R33). A referee request moves a tile between usable and spare, taking effect in all tile-map copies at a configuration boundary. -/
  | tileStateRequest (t : Nat) (spare : Bool)
  /-- STAGED_RELEASE_OR_CANCEL (R315). The referee releases or cancels a configuration held after a DIVERGENT or UNRESOLVED verdict, or cancels a pre-staged configuration. -/
  | stagedReleaseOrCancel (sq : Nat) (release : Bool)
  /-- REBALANCE_SAMPLE (R273). Every 64 ns each field's rebalancer samples the input-queue occupancy of its actors against THR. -/
  | rebalanceSample (f : Nat)
  /-- LOST_CLOCK_OR_SUPPLY (R382). A tile loses its clock or its supply, stops working and stops its heartbeat. -/
  | lostClockOrSupply (t : Nat)
  /-- LINK_TRAINING (R422). A replica link port trains and comes up, with its keys set by the ML-KEM exchange of R353, which changes LINKST. -/
  | linkTraining (p : Nat) (up : Training)
  /-- DEBUG_UNLOCK (R360). A signed debug unlock request is verified and accepted, which changes the debug state measured into MEAS5. -/
  | debugUnlock (ok : Bool) (o : Nat) (digest : List Byte)
  /-- POWER_LOSS (R354). Module power is lost, which ends every key and loses state that is not held in retention. -/
  | powerLoss (retention : Bool)
  /-- WFE_TIMEOUT (R405). The timeout of a WFE expires and releases the core without a pending event. -/
  | wfeTimeout (t : Nat)
  /-- SEQUENCED_MESSAGE (R268). Each starter handles a sequenced launch, end notice, dead declaration or remap. -/
  | sequencedMessage
  /-- QUOTE_COMPLETE (R362). The security island writes a signed quote into the destination. -/
  | quoteComplete
  /-- MGMT_READ_STOPWATCH (R424). Management operation reading stopwatch records. -/
  | mgmtReadStopwatch
  /-- MGMT_READ_SECURITY_LOG (R424). Management operation reading the security log. -/
  | mgmtReadSecurityLog
  /-- MGMT_READ_LINKST (R424). Management operation reading LINKST and bring-up status. -/
  | mgmtReadLinkst
  /-- MIGRATION_CANCEL (R197). The referee cancels a page migration in its step 3, releasing the stalls with the translation unchanged. -/
  | migrationCancel
  /-- IDE_KEY_EXCHANGE (R352). The host sets up CXL IDE keys through IDE_KM over SPDM, after which the device answers more than configuration requests and the mailbox. -/
  | ideKeyExchange
deriving DecidableEq, Repr

end Sys2Proof
end

