-- ==== Sys2Proof/WellFormed.lean ====
section
/-! DEFINITION. Well-formed instructions: the checks that belong to a word format as a whole (R41, R45, R46, R50, R51,
R53, R54), and the ranges of an event's tile, field, port and slice numbers. The checks of one instruction's own entry
are `legal` of Decode.lean. -/

namespace Sys2Proof

/-- pk = 0 with pn = 1 is no predicate (R50). -/
def Pred.wellFormed (p : Pred) : Bool := !(p.pk == 0 && p.pn)

/-- A scalar source index is 0 to 63 (R46). -/
def Src.wellFormed : Src → Bool
  | .g i _ => decide (i.toNat < 64)
  | .v _ _ => true
  | .c _ => true
  | .lit _ => true

/-- Format A: predicate and sources well-formed, a g destination below 64, type code 15 reserved (R45, R51). -/
def FA.wellFormed (f : FA) : Bool :=
  f.p.wellFormed && f.a.wellFormed && f.b.wellFormed && f.c.wellFormed &&
  (!f.dk || decide (f.dst.toNat < 64)) && f.ty != 15

/-- Format I. -/
def FI.wellFormed (f : FI) : Bool :=
  f.p.wellFormed && f.a.wellFormed && (!f.dk || decide (f.dst.toNat < 64))

/-- Format M: no window as data or base register (R41). -/
def FM.wellFormed (f : FM) : Bool :=
  f.p.wellFormed && decide (f.base.toNat < 56) &&
  decide (f.dst.toNat < if f.dk then 56 else 248)

/-- Format C: the g operand is g0 to g55 (R41, R53). -/
def FC.wellFormed (f : FC) : Bool := f.p.wellFormed && decide (f.g.toNat < 56)

/-- Format E: the scalar operands are g0 to g55 (R41, R54). -/
def FE.wellFormed (f : FE) : Bool :=
  f.p.wellFormed && decide (f.ga.toNat < 56) && decide (f.gb.toNat < 56) && decide (f.gc.toNat < 56)

/-- A tile id (R11). -/
def tileOk (t : Nat) : Bool := decide (t < Config.numTiles)
/-- A field id (R11). -/
def fieldOk (f : Nat) : Bool := decide (f < Config.numFields)

/-- The ranges of opcodes that R56 lists as unassigned. -/
def unassignedOp (op : Nat) : Bool :=
  (decide (0x02B ≤ op) && decide (op ≤ 0x07F)) || (decide (0x09F ≤ op) && decide (op ≤ 0x0FF)) ||
  (decide (0x11A ≤ op) && decide (op ≤ 0x17F)) || (decide (0x190 ≤ op) && decide (op ≤ 0x1FF)) ||
  (decide (0x20C ≤ op) && decide (op ≤ 0x27F)) || (decide (0x28D ≤ op) && decide (op ≤ 0x2FF)) ||
  (decide (0x316 ≤ op) && decide (op ≤ 0x37F)) || (decide (0x397 ≤ op) && decide (op ≤ 0x3FF))

/-- Well-formed instructions and events. -/
def Instr.wellFormed : Instr → Bool
  | .nop f => f.wellFormed
  | .add f => f.wellFormed
  | .sub f => f.wellFormed
  | .mul f => f.wellFormed
  | .mulh f => f.wellFormed
  | .mulhn f => f.wellFormed
  | .div f => f.wellFormed
  | .divn f => f.wellFormed
  | .rem f => f.wellFormed
  | .remn f => f.wellFormed
  | .neg f => f.wellFormed
  | .abs f => f.wellFormed
  | .min f => f.wellFormed
  | .max f => f.wellFormed
  | .minn f => f.wellFormed
  | .maxn f => f.wellFormed
  | .and f => f.wellFormed
  | .or f => f.wellFormed
  | .xor f => f.wellFormed
  | .andn f => f.wellFormed
  | .orn f => f.wellFormed
  | .not f => f.wellFormed
  | .shl f => f.wellFormed
  | .shr f => f.wellFormed
  | .sra f => f.wellFormed
  | .rol f => f.wellFormed
  | .clz f => f.wellFormed
  | .ctz f => f.wellFormed
  | .popc f => f.wellFormed
  | .brev f => f.wellFormed
  | .bext f => f.wellFormed
  | .bins f => f.wellFormed
  | .sext f => f.wellFormed
  | .zext f => f.wellFormed
  | .cmp f => f.wellFormed
  | .sel f => f.wellFormed
  | .mov f => f.wellFormed
  | .movi f => f.wellFormed
  | .movhi f => f.wellFormed
  | .addi f => f.wellFormed
  | .lea f => f.wellFormed
  | .sadd f => f.wellFormed
  | .ssub f => f.wellFormed
  | .fadd f => f.wellFormed
  | .fsub f => f.wellFormed
  | .fmul f => f.wellFormed
  | .fma f => f.wellFormed
  | .fms f => f.wellFormed
  | .fnma f => f.wellFormed
  | .fmin f => f.wellFormed
  | .fmax f => f.wellFormed
  | .fminp f => f.wellFormed
  | .fmaxp f => f.wellFormed
  | .fabs f => f.wellFormed
  | .fneg f => f.wellFormed
  | .fsgn f => f.wellFormed
  | .fcmp f => f.wellFormed
  | .fclass f => f.wellFormed
  | .frcp f => f.wellFormed
  | .frsq f => f.wellFormed
  | .fsqrt f => f.wellFormed
  | .fdiv f => f.wellFormed
  | .fexp2 f => f.wellFormed
  | .flog2 f => f.wellFormed
  | .fsin f => f.wellFormed
  | .fcos f => f.wellFormed
  | .fsinpi f => f.wellFormed
  | .fcospi f => f.wellFormed
  | .ftanh f => f.wellFormed
  | .fsigm f => f.wellFormed
  | .frnd f => f.wellFormed
  | .cvt f => f.wellFormed
  | .fscale f => f.wellFormed
  | .fgetexp f => f.wellFormed
  | .vperm f => f.wellFormed
  | .vbcast f => f.wellFormed
  | .vrot f => f.wellFormed
  | .vslide f => f.wellFormed
  | .vred f => f.wellFormed
  | .vredx f => f.wellFormed
  | .vscan f => f.wellFormed
  | .vcmpr f => f.wellFormed
  | .vxpd f => f.wellFormed
  | .vlane f => f.wellFormed
  | .kand f => f.wellFormed
  | .kor f => f.wellFormed
  | .kxor f => f.wellFormed
  | .knot f => f.wellFormed
  | .kpop f => f.wellFormed
  | .kfirst f => f.wellFormed
  | .kmov f => f.wellFormed
  | .vpack f => f.wellFormed
  | .vunpk f => f.wellFormed
  | .vmxq f => f.wellFormed
  | .vmxd f => f.wellFormed
  | .vdot f => f.wellFormed
  | .wadd f => f.wellFormed
  | .wrnd f => f.wellFormed
  | .wclr f => f.wellFormed
  | .wmov f => f.wellFormed
  | .ld f => f.wellFormed
  | .st f => f.wellFormed
  | .ldv f => f.wellFormed
  | .stv f => f.wellFormed
  | .ldg f => f.wellFormed
  | .stg f => f.wellFormed
  | .lds f => f.wellFormed
  | .stf f => f.wellFormed
  | .feclr f => f.wellFormed
  | .fetst f => f.wellFormed
  | .ldc f => f.wellFormed
  | .stc f => f.wellFormed
  | .chbind f => f.wellFormed
  | .amo f => f.wellFormed
  | .red f => f.wellFormed
  | .fence f => f.wellFormed
  | .spbind f => f.wellFormed
  | .spgo f => f.wellFormed
  | .sphalt f => f.wellFormed
  | .sppos f => f.wellFormed
  | .cpa f => f.wellFormed
  | .cp2d f => f.wellFormed
  | .hdinit f => f.wellFormed
  | .hdarr f => f.wellFormed
  | .hdwait f => f.wellFormed
  | .hdtest f => f.wellFormed
  | .hdkill f => f.wellFormed
  | .dreq f => f.wellFormed
  | .mxcfg f => f.wellFormed
  | .mxwld f => f.wellFormed
  | .mxwsw f => f.wellFormed
  | .mxsc f => f.wellFormed
  | .mxrun f => f.wellFormed
  | .mxdrn f => f.wellFormed
  | .mxclr f => f.wellFormed
  | .mxrgn f => f.wellFormed
  | .mxring f => f.wellFormed
  | .mxlap f => f.wellFormed
  | .mxrec f => f.wellFormed
  | .mxcmd f => f.wellFormed
  | .mxst f => f.wellFormed
  | .br f => f.wellFormed
  | .bc f => f.wellFormed
  | .jal f => f.wellFormed
  | .jr f => f.wellFormed
  | .loop f => f.wellFormed
  | .lbrk f => f.wellFormed
  | .snd f => f.wellFormed
  | .rcv f => f.wellFormed
  | .qpk f => f.wellFormed
  | .qcnt f => f.wellFormed
  | .eod f => f.wellFormed
  | .qpsn f => f.wellFormed
  | .spawn f => f.wellFormed
  | .tdec f => f.wellFormed
  | .tend f => f.wellFormed
  | .gform f => f.wellFormed
  | .gend f => f.wellFormed
  | .gsync f => f.wellFormed
  | .car f => f.wellFormed
  | .cbc f => f.wellFormed
  | .crd f => f.wellFormed
  | .cbar f => f.wellFormed
  | .csrr f => f.wellFormed
  | .csrw f => f.wellFormed
  | .csrs f => f.wellFormed
  | .csrc f => f.wellFormed
  | .trap f => f.wellFormed
  | .eret f => f.wellFormed
  | .brk f => f.wellFormed
  | .hgrpSet f => f.wellFormed
  | .hgrpHalt f => f.wellFormed
  | .hgrpRes f => f.wellFormed
  | .hgrpStep f => f.wellFormed
  | .hgrpRestile f => f.wellFormed
  | .hgrpStat f => f.wellFormed
  | .hgrpRead f => f.wellFormed
  | .wfe f => f.wellFormed
  | .rdtime f => f.wellFormed
  | .rdperf f => f.wellFormed
  | .attq f => f.wellFormed
  | .seal f => f.wellFormed
  | .unseal f => f.wellFormed
  | .capset f => f.wellFormed
  | .capclr f => f.wellFormed
  | .dgopen f => f.wellFormed
  | .dgclose f => f.wellFormed
  | .dgsnap f => f.wellFormed
  | .dgver f => f.wellFormed
  | .fnrect f => f.wellFormed
  | .fnrectRel f => f.wellFormed
  | .tkillTask f => f.wellFormed
  | .tkillConfig f => f.wellFormed
  | .tkillContext f => f.wellFormed
  | .prempSave f => f.wellFormed
  | .prempRestore f => f.wellFormed
  | .prempRemap f => f.wellFormed
  | .unassignedOpcode w => unassignedOp (w >>> 54).toNat
  | .longLatencyFill t _ => tileOk t
  | .ldsWake t _ => tileOk t
  | .performAtHome t _ => tileOk t
  | .atomicAtHome t _ => tileOk t
  | .redArrival t _ => tileOk t
  | .chainArrival t _ => tileOk t
  | .chainRetry t _ => tileOk t
  | .engineGranuleWrite t => tileOk t
  | .dreqReply t _ => tileOk t
  | .streamElement t p => tileOk t && decide (p < 4)
  | .patchCommand t => tileOk t
  | .pacerGrant f => fieldOk f
  | .pacerStop f => fieldOk f
  | .runComplete t => tileOk t
  | .firing t => tileOk t
  | .taskStart t => tileOk t
  | .actorClose t => tileOk t
  | .tokenArrival t q => tileOk t && decide (q < 16)
  | .recordArrival t => tileOk t
  | .tdecArrival t => tileOk t
  | .configStart _ => true
  | .endNotice _ => true
  | .launchPacket ctx => decide (ctx < 256)
  | .launchRecord t => tileOk t
  | .engfault t => tileOk t
  | .engineFault t _ => tileOk t
  | .digestScan ctx _ => decide (ctx < 256)
  | .partitionCreate _ => true
  | .powerOn _ => true
  | .softError _ => true
  | .heartbeat t => tileOk t
  | .deadDeclaration t => tileOk t
  | .collectiveComplete g _ => decide (g < 16)
  | .hostCxlMemAccess _ _ _ => true
  | .sqtailDoorbell ctx _ => decide (ctx < 256)
  | .csrWrite _ _ => true
  | .remoteCommandArrival t => tileOk t
  | .wakeAdmit f => fieldOk f
  | .powerGate t => tileOk t
  | .engstFaultClear t => tileOk t
  | .savebaseWrite ctx _ => decide (ctx < 256)
  | .redctlWrite ctx _ => decide (ctx < 256)
  | .cqheadWrite ctx _ => decide (ctx < 256)
  | .tmtailWrite _ => true
  | .stageTimeout _ => true
  | .digestVerdict _ _ => true
  | .verdictTimeout _ => true
  | .reservedTag t q => tileOk t && decide (q < 16)
  | .chainConfirmation t => tileOk t
  | .chainCancellation t => tileOk t
  | .chgap slice ch => decide (slice < 256) && decide (ch < 16)
  | .shootDown ctx _ => decide (ctx < 256)
  | .pageMigration _ => true
  | .sensorSample t _ => tileOk t
  | .throttleStep f => fieldOk f
  | .networkGovernor f _ => fieldOk f
  | .stopwatchRecord f => fieldOk f
  | .powerKill f => fieldOk f
  | .deadReturn t _ => tileOk t
  | .dueErrorReply t _ => tileOk t
  | .rejectReply t _ => tileOk t
  | .rebalanceWindow _ => true
  | .rebalanceMove _ => true
  | .drainTimeout t => tileOk t
  | .escapeEntry f _ => fieldOk f
  | .redundantCompare _ => true
  | .linkTagFailure p => decide (p.port < 4)
  | .linkRekey p => decide (p < 4)
  | .sessionNonce _ _ => true
  | .sessionCiphertext _ _ => true
  | .unfreeze _ _ => true
  | .alarm _ _ => true
  | .partitionDestroy _ => true
  | .mgmtAssignGroup _ _ => true
  | .tileStateRequest t _ => tileOk t
  | .stagedReleaseOrCancel _ _ => true
  | .rebalanceSample f => fieldOk f
  | .lostClockOrSupply t => tileOk t
  | .linkTraining p _ => decide (p < 4)
  | .debugUnlock _ _ _ => true
  | .powerLoss _ => true
  | .wfeTimeout t => tileOk t
  | .sequencedMessage => true
  | .quoteComplete => true
  | .mgmtReadStopwatch => true
  | .mgmtReadSecurityLog => true
  | .mgmtReadLinkst => true
  | .migrationCancel => true
  | .ideKeyExchange => true

end Sys2Proof
end

