-- ==== Sys2Proof/Decode.lean ====
section
/-! DEFINITION. The decoder (R43-R56), total on every 64-bit word, the checks that each instruction's own entry makes on
its fields (`legal`, R44, R93, R96, R103, R104, R114, R116, R122-R124, R160, R217-R232, R239, R285, R291, R299, R309,
R361, R365, R401), and the encoder. -/

namespace Sys2Proof

/-! Fields of a word (R43). -/

/-- Bits [lo+n-1:lo] of a word. -/
def fld (w : Word) (lo n : Nat) : BitVec n := w.extractLsb' lo n

/-- One bit of a word. -/
def bitAt (w : Word) (i : Nat) : Bool := w.extractLsb' i 1 == 1#1

/-- A source field of 11 bits: kind [10:9], wait [8], index [7:0] (R46); a wait bit on a constant or a literal is illegal. -/
def decodeSrc (x : BitVec 11) : Option Src :=
  let i : BitVec 8 := x.extractLsb' 0 8
  let w : Bool := x.extractLsb' 8 1 == 1#1
  match (x.extractLsb' 9 2).toNat with
  | 0 => some (.v i w)
  | 1 => some (.g i w)
  | 2 => if w then none else some (.c i)
  | _ => if w then none else some (.lit i)

/-- The 11 bits of a source (R46). -/
def encodeSrc : Src → BitVec 11
  | .v i w => (0#2 ++ BitVec.ofBool w ++ i : BitVec 11)
  | .g i w => (1#2 ++ BitVec.ofBool w ++ i : BitVec 11)
  | .c i => (2#2 ++ 0#1 ++ i : BitVec 11)
  | .lit i => (3#2 ++ 0#1 ++ i : BitVec 11)

def decodePred (w : Word) : Pred := ⟨fld w 50 4, bitAt w 49⟩

def decodeFA (w : Word) : Option FA :=
  match decodeSrc (fld w 29 11), decodeSrc (fld w 18 11), decodeSrc (fld w 7 11) with
  | some a, some b, some c =>
    some ⟨decodePred w, bitAt w 48, fld w 40 8, a, b, c, fld w 3 4, bitAt w 2, fld w 0 2⟩
  | _, _, _ => none

def decodeFI (w : Word) : Option FI :=
  match decodeSrc (fld w 29 11) with
  | some a => some ⟨decodePred w, bitAt w 48, fld w 40 8, a, fld w 0 29⟩
  | none => none

def decodeFM (w : Word) : FM :=
  ⟨decodePred w, bitAt w 48, fld w 40 8, fld w 32 8, bitAt w 31, fld w 28 3, fld w 25 3, fld w 5 20, fld w 0 5⟩

def decodeFC (w : Word) : FC := ⟨decodePred w, fld w 41 8, fld w 32 9, fld w 0 32⟩

def decodeFE (w : Word) : FE :=
  ⟨decodePred w, fld w 44 5, fld w 36 8, fld w 28 8, fld w 20 8, fld w 0 20⟩

def encFA (op : BitVec 10) (f : FA) : Word :=
  op ++ f.p.pk ++ BitVec.ofBool f.p.pn ++ BitVec.ofBool f.dk ++ f.dst ++ encodeSrc f.a ++ encodeSrc f.b ++
    encodeSrc f.c ++ f.ty ++ BitVec.ofBool f.sat ++ f.m

def encFI (op : BitVec 10) (f : FI) : Word :=
  op ++ f.p.pk ++ BitVec.ofBool f.p.pn ++ BitVec.ofBool f.dk ++ f.dst ++ encodeSrc f.a ++ f.imm

def encFM (op : BitVec 10) (f : FM) : Word :=
  op ++ f.p.pk ++ BitVec.ofBool f.p.pn ++ BitVec.ofBool f.dk ++ f.dst ++ f.base ++ BitVec.ofBool f.bw ++ f.size ++
    f.ord ++ f.off ++ f.aux

def encFC (op : BitVec 10) (f : FC) : Word :=
  op ++ f.p.pk ++ BitVec.ofBool f.p.pn ++ f.g ++ f.aux ++ f.off

def encFE (op : BitVec 10) (f : FE) : Word :=
  op ++ f.p.pk ++ BitVec.ofBool f.p.pn ++ f.ix ++ f.ga ++ f.gb ++ f.gc ++ f.cmd

/-! Checks that several entries share. -/

/-- An unused source field is all zeros (R44). -/
def Src.isZero (s : Src) : Bool := s == .v 0 false
/-- A source of kind 0b00 (R46). -/
def Src.isV : Src → Bool
  | .v _ _ => true
  | _ => false
/-- A scalar register, constant or literal. -/
def Src.isScalar (s : Src) : Bool := !s.isV
def Src.isLit : Src → Bool
  | .lit _ => true
  | _ => false
/-- A predicate source (R122): kind 0b01 with index 0 to 15 and wait 0, a constant slot or a literal. -/
def Src.isPred : Src → Bool
  | .g i w => decide (i.toNat < 16) && !w
  | .c _ => true
  | .lit _ => true
  | .v _ _ => false
/-- A queue number as an inline literal, 0 to 15 (R291). -/
def Src.isQueue : Src → Bool
  | .lit i => decide (i.toNat < 16)
  | _ => false

/-- Sets of type codes (R51, R96, R104, R116). -/
def tyAny (t : BitVec 4) : Bool := decide (t.toNat < 8)
def tySigned (t : BitVec 4) : Bool := decide (t.toNat < 8) && t.toNat % 2 == 0
def tyUnsigned (t : BitVec 4) : Bool := decide (t.toNat < 8) && t.toNat % 2 == 1
def tyFloat (t : BitVec 4) : Bool := t == 8 || t == 9 || t == 10
def tyWidthOnly (t : BitVec 4) : Bool := decide (t.toNat < 6) || (decide (8 ≤ t.toNat) && decide (t.toNat < 14))
def tyRed (t : BitVec 4) : Bool := decide (t.toNat < 4) || tyFloat t
def tyLane (t : BitVec 4) : Bool := t == 0 || t == 1 || t == 8
def tyPack (t : BitVec 4) : Bool := decide (2 ≤ t.toNat) && decide (t.toNat < 6)
def tyMx (t : BitVec 4) : Bool := t == 14 || t == 11 || t == 12
def tyDot (t : BitVec 4) : Bool := (decide (9 ≤ t.toNat) && decide (t.toNat ≤ 14)) || tyPack t
def tyZero (t : BitVec 4) : Bool := t == 0

/-- Width in bits of a type code (R51). -/
def tyWidth (t : BitVec 4) : Nat :=
  match t.toNat with
  | 0 => 32 | 1 => 32 | 2 => 16 | 3 => 16 | 4 => 8 | 5 => 8 | 6 => 64 | 7 => 64
  | 8 => 32 | 9 => 16 | 10 => 16 | 11 => 8 | 12 => 8 | 13 => 8 | 14 => 4 | _ => 64

/-- The entry of an element-wise instruction of groups 0 and 1 (R96, R104): how many sources, which types, whether
`.sat` is honoured, which mod[1:0]; a scalar execution takes no vector source (R45), a vector one no 64-bit type (R47). -/
def legalAlu (f : FA) (n : Nat) (tys : BitVec 4 → Bool) (sat : Bool) (ms : Nat) : Bool :=
  tys f.ty && (!f.sat || sat) && decide (f.m.toNat < ms) &&
  (decide (2 ≤ n) || f.b.isZero) && (decide (3 ≤ n) || f.c.isZero) &&
  (if f.dk then f.a.isScalar && (decide (n < 2) || f.b.isScalar) && (decide (n < 3) || f.c.isScalar)
   else f.ty != 6 && f.ty != 7)

/-- Source width M of sext and zext, below the type's width (R100). -/
def legalExt (f : FA) : Bool :=
  legalAlu f 1 tyAny false 3 && decide (8 * 2 ^ f.m.toNat < tyWidth f.ty)

/-- The source type S of cvt: the low four bits of the C index field (R114). -/
def cvtS (f : FA) : BitVec 4 :=
  match f.c with
  | .v i _ => i.extractLsb' 0 4
  | _ => 15

/-- F of cvt: the wider width over the narrower (R114). -/
def cvtF (f : FA) : Nat :=
  let d := tyWidth f.ty
  let s := tyWidth (cvtS f)
  if d < s then s / d else d / s

/-- cvt (R114). -/
def legalCvt (f : FA) : Bool :=
  let s := cvtS f
  (match f.c with
   | .v i w => decide (i.toNat < 15) && !w
   | _ => false) &&
  f.b.isZero && f.ty != s && decide (cvtF f < 8) && decide (f.m.toNat < cvtF f) &&
  (match f.a with
   | .lit x => s != 14 || decide (x.toNat < 16)
   | _ => true) &&
  (if f.dk then f.m == 0 && f.a.isScalar
   else f.ty != 6 && f.ty != 7 && s != 6 && s != 7)

/-- Unused second and third sources. -/
def onlyA (f : FA) : Bool := f.b.isZero && f.c.isZero
/-- A destination k0 to k15 (R45). -/
def kDst (f : FA) : Bool := f.dk && decide (f.dst.toNat < 16)
/-- Group 2 predicates: type code 0, no modifiers (R116, R122). -/
def plain0 (f : FA) : Bool := f.ty == 0 && !f.sat && f.m == 0

/-- kmov, four forms (R123). -/
def legalKmov (f : FA) : Bool :=
  f.dk && onlyA f && f.ty == 0 && !f.sat &&
  (match f.m.toNat with
   | 0 => f.a.isPred && decide (f.dst.toNat < 16)
   | 1 => (match f.a with | .g _ _ => true | _ => false) && decide (f.dst.toNat < 16)
   | 2 => f.a.isV && decide (f.dst.toNat < 16)
   | _ => (match f.a with | .g i w => decide (i.toNat < 16) && !w | _ => false))

/-- The zero data register fields of a form that uses none. -/
def noData (f : FM) : Bool := !f.dk && f.dst == 0
/-- ld and st sizes b, h, w, d with dk = 1; ldv and stv size v with dk = 0 (R217). -/
def scalarSize (f : FM) : Bool := f.dk && decide (f.size.toNat < 4)
def vectorSize (f : FM) : Bool := !f.dk && f.size == 4

/-- lds and stf sizes (R221). -/
def feSize (f : FM) : Bool := (f.dk && (f.size == 2 || f.size == 3)) || vectorSize f

/-- Unused register fields of format E. -/
def noGa (f : FE) : Bool := f.ga == 0
def noGb (f : FE) : Bool := f.gb == 0
def noGc (f : FE) : Bool := f.gc == 0
/-- cmd20 below a bound. -/
def cmdLt (f : FE) (n : Nat) : Bool := decide (f.cmd.toNat < n)
def ixLt (f : FE) (n : Nat) : Bool := decide (f.ix.toNat < n)

/-- Type sets of the patch (R132, R139), by type code. -/
def tyAct (t : Nat) : Bool := t == 9 || t == 10 || t == 11 || t == 12 || t == 13 || t == 4 || t == 5
def tyWgt (t : Nat) : Bool := t == 9 || t == 10 || t == 11 || t == 12 || t == 13 || t == 14 || t == 4
def tyDrain (t : Nat) : Bool := (decide (8 ≤ t) && decide (t ≤ 13)) || t == 0 || t == 2 || t == 4

/-- mxwld: SC only with 8-bit and 4-bit floating types, I4 only with i8 (R161). -/
def legalMxwld (f : FE) : Bool :=
  let t := f.cmd.toNat % 16
  let sc := f.cmd.toNat / 16 % 2 == 1
  let i4 := f.cmd.toNat / 32 % 2 == 1
  cmdLt f 64 && tyWgt t && ixLt f 5 && (f.ix == 4 || noGa f) && noGb f && noGc f &&
  (!sc || (decide (11 ≤ t) && decide (t ≤ 14))) && (!i4 || t == 4)

/-- TYPE, OP, DG, HD and HDX of a collective (R309): HDX is zero without HD. -/
def legalColl (f : FE) : Bool :=
  let c := f.cmd.toNat
  let ty := c % 16
  cmdLt f (2 ^ 13) && ixLt f 16 && (ty == 0 || ty == 8 || ty == 9) && decide (c / 16 % 4 < 3) &&
  (c / 128 % 2 == 1 || c / 256 == 0)

/-- A CSR access (R401): imm29[28:12] zero. -/
def csrImm (f : FI) : Bool := decide (f.imm.toNat < 4096)
def csrWriteForm (f : FI) : Bool := csrImm f && f.a.isScalar && (f.dk || f.dst == 0)

/-- hgrp op with only the bits [2:0], [4] and [5] of cmd20 (R401): what only other operations of hgrp use may be set. DESIGN CHOICE: notes/assumptions/111.md. -/
def hgrpOp (f : FE) (op : Nat) : Bool :=
  f.ix == 0 && f.cmd.toNat % 8 == op && f.cmd.toNat / 8 % 2 == 0 && cmdLt f 64

/-- The checks that the entry of each instruction makes on its own fields; a word that fails one raises ILLOP (R44, R56). DEDUCED: notes/assumptions/29.md;
the unused fields of one operation of hgrp and premp: DESIGN CHOICE: notes/assumptions/111.md. -/
def Instr.legal : Instr → Bool
  | .nop f => f.a.isZero && onlyA f && plain0 f && !f.dk && f.dst == 0
  | .add f => legalAlu f 2 tyAny true 1
  | .sub f => legalAlu f 2 tyAny true 1
  | .mul f => legalAlu f 2 tyAny true 1
  | .mulh f => legalAlu f 2 tySigned false 1
  | .mulhn f => legalAlu f 2 tyUnsigned false 1
  | .div f => legalAlu f 2 tySigned true 1
  | .divn f => legalAlu f 2 tyUnsigned false 1
  | .rem f => legalAlu f 2 tySigned false 1
  | .remn f => legalAlu f 2 tyUnsigned false 1
  | .neg f => legalAlu f 1 tySigned true 1
  | .abs f => legalAlu f 1 tySigned true 1
  | .min f => legalAlu f 2 tySigned false 1
  | .max f => legalAlu f 2 tySigned false 1
  | .minn f => legalAlu f 2 tyUnsigned false 1
  | .maxn f => legalAlu f 2 tyUnsigned false 1
  | .and f => legalAlu f 2 tyAny false 1
  | .or f => legalAlu f 2 tyAny false 1
  | .xor f => legalAlu f 2 tyAny false 1
  | .andn f => legalAlu f 2 tyAny false 1
  | .orn f => legalAlu f 2 tyAny false 1
  | .not f => legalAlu f 1 tyAny false 1
  | .shl f => legalAlu f 2 tyAny true 1
  | .shr f => legalAlu f 2 tyAny false 1
  | .sra f => legalAlu f 2 tyAny false 1
  | .rol f => legalAlu f 2 tyAny false 1
  | .clz f => legalAlu f 1 tyAny false 1
  | .ctz f => legalAlu f 1 tyAny false 1
  | .popc f => legalAlu f 1 tyAny false 1
  | .brev f => legalAlu f 1 tyAny false 1
  | .bext f => legalAlu f 2 tyAny false 1
  | .bins f => legalAlu f 3 tyAny false 1
  | .sext f => legalExt f
  | .zext f => legalExt f
  | .cmp f => legalAlu f 2 tyAny false 4
  | .sel f => legalAlu f 3 tyAny false 1
  | .mov f => legalAlu f 1 tyAny false 1
  | .movi f => f.a.isZero
  | .movhi f => f.dk && f.a.isScalar
  | .addi f => !f.dk || f.a.isScalar
  | .lea f => f.dk && f.size == 0 && f.ord == 0 && f.aux == 0
  | .sadd f => legalAlu f 2 tyAny false 3
  | .ssub f => legalAlu f 2 tyAny false 3
  | .fadd f => legalAlu f 2 tyFloat true 1
  | .fsub f => legalAlu f 2 tyFloat true 1
  | .fmul f => legalAlu f 2 tyFloat true 1
  | .fma f => legalAlu f 3 tyFloat true 1
  | .fms f => legalAlu f 3 tyFloat true 1
  | .fnma f => legalAlu f 3 tyFloat true 1
  | .fmin f => legalAlu f 2 tyFloat false 1
  | .fmax f => legalAlu f 2 tyFloat false 1
  | .fminp f => legalAlu f 2 tyFloat false 1
  | .fmaxp f => legalAlu f 2 tyFloat false 1
  | .fabs f => legalAlu f 1 tyFloat false 1
  | .fneg f => legalAlu f 1 tyFloat false 1
  | .fsgn f => legalAlu f 2 tyFloat false 1
  | .fcmp f => legalAlu f 2 tyFloat false 4
  | .fclass f => legalAlu f 1 tyFloat false 1
  | .frcp f => legalAlu f 1 tyFloat true 1
  | .frsq f => legalAlu f 1 tyFloat false 1
  | .fsqrt f => legalAlu f 1 tyFloat false 1
  | .fdiv f => legalAlu f 2 tyFloat true 1
  | .fexp2 f => legalAlu f 1 tyFloat true 1
  | .flog2 f => legalAlu f 1 tyFloat false 1
  | .fsin f => legalAlu f 1 tyFloat false 1
  | .fcos f => legalAlu f 1 tyFloat false 1
  | .fsinpi f => legalAlu f 1 tyFloat false 1
  | .fcospi f => legalAlu f 1 tyFloat false 1
  | .ftanh f => legalAlu f 1 tyFloat false 1
  | .fsigm f => legalAlu f 1 tyFloat false 1
  | .frnd f => legalAlu f 1 tyFloat false 2
  | .cvt f => legalCvt f
  | .fscale f => legalAlu f 2 tyFloat true 1
  | .fgetexp f => legalAlu f 1 tyFloat false 1
  | .vperm f => !f.dk && f.a.isV && f.c.isZero && tyWidthOnly f.ty && !f.sat && f.m == 0
  | .vbcast f => !f.dk && f.a.isV && f.b.isScalar && f.c.isZero && tyWidthOnly f.ty && !f.sat && f.m == 0
  | .vrot f => !f.dk && f.a.isV && f.b.isScalar && f.c.isZero && tyWidthOnly f.ty && !f.sat && f.m == 0
  | .vslide f => !f.dk && f.a.isV && f.b.isScalar && tyWidthOnly f.ty && !f.sat && f.m == 0
  | .vred f => f.a.isV && onlyA f && tyRed f.ty && decide (f.m.toNat < 3) && (!f.sat || (tyAny f.ty && f.m == 0))
  | .vredx f => f.a.isV && onlyA f && tyFloat f.ty && !f.sat && f.m == 0
  | .vscan f => !f.dk && f.a.isV && onlyA f && tyRed f.ty && (!f.sat || (tyAny f.ty && decide (f.m.toNat < 2)))
  | .vcmpr f => !f.dk && f.a.isV && f.b.isScalar && f.c.isZero && tyLane f.ty && !f.sat && f.m == 0
  | .vxpd f => !f.dk && f.a.isV && f.b.isScalar && f.c.isZero && tyLane f.ty && !f.sat && f.m == 0
  | .vlane f => f.a.isV && f.b.isScalar && tyLane f.ty && !f.sat && f.m == 0 && (if f.dk then f.c.isZero else f.c.isScalar)
  | .kand f => kDst f && f.a.isPred && f.b.isPred && f.c.isZero && plain0 f
  | .kor f => kDst f && f.a.isPred && f.b.isPred && f.c.isZero && plain0 f
  | .kxor f => kDst f && f.a.isPred && f.b.isPred && f.c.isZero && plain0 f
  | .knot f => kDst f && f.a.isPred && onlyA f && plain0 f
  | .kpop f => f.dk && f.a.isPred && onlyA f && plain0 f
  | .kfirst f => f.dk && f.a.isPred && onlyA f && plain0 f
  | .kmov f => legalKmov f
  | .vpack f => !f.dk && f.a.isV && f.b.isV && f.c.isZero && tyPack f.ty && (f.m == 0 || (f.m == 1 && f.ty == 4))
  | .vunpk f => !f.dk && f.a.isV && onlyA f && tyPack f.ty && !f.sat && (decide (f.m.toNat < 2) || f.ty == 4)
  | .vmxq f => !f.dk && f.a.isV && f.b.isV && f.c.isZero && tyMx f.ty && f.m == 0
  | .vmxd f => !f.dk && f.a.isV && onlyA f && tyMx f.ty && !f.sat && decide (f.m.toNat < 2)
  | .vdot f => !f.dk && f.a.isV && f.b.isV && tyDot f.ty && f.m == 0
  | .wadd f => !f.dk && f.dst == 0 && onlyA f && (tyFloat f.ty || f.ty == 0) && !f.sat
  | .wrnd f => f.a.isZero && onlyA f && tyFloat f.ty
  | .wclr f => !f.dk && f.dst == 0 && f.a.isZero && onlyA f && f.ty == 0 && !f.sat
  | .wmov f => !f.dk && onlyA f && f.ty == 0 && (if f.sat then f.dst == 0 && f.a.isV else f.a.isZero)
  | .ld f => scalarSize f && decide (f.ord.toNat < 2) && decide (f.aux.toNat < 2) && (f.aux == 0 || f.size != 3)
  | .st f => scalarSize f && (f.ord == 0 || f.ord == 2) && f.aux == 0
  | .ldv f => vectorSize f && decide (f.ord.toNat < 2) && f.aux == 0
  | .stv f => vectorSize f && (f.ord == 0 || f.ord == 2) && f.aux == 0
  | .ldg f => !f.dk && f.size == 2 && f.ord == 0 && decide (f.aux.toNat < 4) && f.dst.toNat % 2 == 0
  | .stg f => !f.dk && f.size == 2 && f.ord == 0 && decide (f.aux.toNat < 4) && f.dst.toNat % 2 == 0
  | .lds f => feSize f && f.ord == 0 && decide (f.aux.toNat < 2)
  | .stf f => feSize f && f.ord == 0 && f.aux == 0
  | .feclr f => f.dk && f.size == 0 && f.ord == 0 && f.aux == 0
  | .fetst f => f.dk && f.size == 4 && f.ord == 0 && f.aux == 0
  | .ldc f => (scalarSize f || vectorSize f) && f.ord == 0 && decide (f.aux.toNat ≤ 27)
  | .stc f => (scalarSize f || vectorSize f) && f.ord == 0 && decide (f.aux.toNat ≤ 27)
  | .chbind f => ixLt f 16 && noGc f && f.cmd == 0
  | .amo f => f.dk && f.ord == 0 && decide (f.aux.toNat < 16) && decide (f.aux.toNat % 4 < 2) && (f.aux.toNat / 4 % 2 == 0 || f.size == 4 || f.size == 5) && (f.size != 7 || (f.aux.toNat / 8 % 2 == 1 && decide (f.dst.toNat ≤ 54)))
  | .red f => decide (f.size.toNat < 5) && f.ord == 0 && f.aux == 0 && (f.dk || f.size != 2)
  | .fence f => decide (f.ord.toNat < 4) && noData f && f.base == 0 && !f.bw && f.size == 0 && f.off == 0 && f.aux == 0
  | .spbind f => ixLt f 4 && noGb f && noGc f && f.cmd == 0
  | .spgo f => ixLt f 4 && noGa f && noGb f && noGc f && cmdLt f 2
  | .sphalt f => ixLt f 4 && noGa f && noGb f && noGc f && f.cmd == 0
  | .sppos f => ixLt f 4 && noGb f && noGc f && f.cmd == 0
  | .cpa f => cmdLt f 8 && (f.cmd.toNat % 2 == 1 || f.ix == 0)
  | .cp2d f => cmdLt f 8 && (f.cmd.toNat % 2 == 1 || f.ix == 0) && noGb f && noGc f
  | .hdinit f => cmdLt f 2
  | .hdarr f => noGb f && noGc f && f.cmd == 0
  | .hdwait f => noGb f && noGc f && f.cmd == 0
  | .hdtest f => noGb f && noGc f && f.cmd == 0
  | .hdkill f => noGa f && noGb f && noGc f && f.cmd == 0
  | .dreq f => (f.cmd == 0 || f.cmd == 1 || f.cmd == 2) && (f.cmd == 1 || (ixLt f 16 && noGc f))
  | .mxcfg f => ixLt f 5 && noGa f && noGb f && noGc f && tyAct f.cmd.toNat
  | .mxwld f => legalMxwld f
  | .mxwsw f => f.ix == 0 && noGa f && noGb f && noGc f && f.cmd == 0
  | .mxsc f => ixLt f 5 && (f.ix == 4 || noGa f) && noGc f && f.cmd == 0
  | .mxrun f => ixLt f 6 && (f.ix == 4 || noGa f) && cmdLt f 8
  | .mxdrn f => ixLt f 17 && (f.ix == 16 || noGa f) && cmdLt f 128 && tyDrain (f.cmd.toNat % 16)
  | .mxclr f => f.ix == 0 && noGa f && noGb f && noGc f && cmdLt f 4
  | .mxrgn f => f.ix == 0 && noGb f && noGc f && cmdLt f 2
  | .mxring f => f.ix == 0 && noGb f && noGc f && cmdLt f 2
  | .mxlap f => f.ix == 0 && noGa f && noGb f && noGc f && f.cmd == 0
  | .mxrec f => f.ix == 0 && noGb f && noGc f && cmdLt f 2 && (f.cmd == 1 || noGa f)
  | .mxcmd f => ixLt f 16 && cmdLt f 4
  | .mxst f => f.ix == 0 && noGb f && noGc f && cmdLt f 2
  | .br f => f.g == 0 && f.aux == 0
  | .bc f => decide (f.aux.toNat < 6)
  | .jal f => f.aux == 0
  | .jr f => f.aux == 0 && f.off == 0
  | .loop f => decide (f.aux.toNat < 3) && decide (1 ≤ f.off.toNat) && decide (f.off.toNat ≤ 256)
  | .lbrk f => f.g == 0 && decide (f.aux.toNat < 3) && f.off == 0
  | .snd f => f.ty == 0 && !f.sat && onlyA f && f.m == 0 && decide (f.dst.toNat < 16) && (f.dk != f.a.isV)
  | .rcv f => f.ty == 0 && !f.sat && onlyA f && f.a.isQueue && decide (f.m.toNat < 2)
  | .qpk f => f.ty == 0 && !f.sat && onlyA f && f.dk && f.a.isQueue && decide (f.m.toNat < 2)
  | .qcnt f => f.ty == 0 && !f.sat && onlyA f && f.dk && f.a.isQueue && decide (f.m.toNat < 2)
  | .eod f => f.ty == 0 && !f.sat && onlyA f && !f.dk && f.a.isZero && f.m != 0 && decide (f.dst.toNat < 16)
  | .qpsn f => f.ty == 0 && !f.sat && onlyA f && !f.dk && f.a.isScalar && decide (f.m.toNat < 2) && decide (f.dst.toNat < 16) && (f.m == 0 || f.dst == 0)
  | .spawn f => f.ix == 0 && noGc f && f.cmd == 0
  | .tdec f => f.ix == 0 && f.cmd == 0
  | .tend f => f.g == 0 && f.aux == 0 && f.off == 0
  | .gform f => f.aux == 0 && f.off == 0
  | .gend f => f.g == 0 && f.aux == 0 && f.off == 0
  | .gsync f => f.g == 0 && f.aux == 0 && f.off == 0
  | .car f => legalColl f && noGc f
  | .cbc f => legalColl f && f.cmd.toNat % 128 == 0
  | .crd f => legalColl f && f.cmd.toNat / 64 % 2 == 0
  | .cbar f => ixLt f 16 && noGa f && noGb f && noGc f && f.cmd == 0
  | .csrr f => f.dk && f.a.isZero && csrImm f
  | .csrw f => csrWriteForm f
  | .csrs f => csrWriteForm f
  | .csrc f => csrWriteForm f
  | .trap f => !f.dk && f.dst == 0 && f.a.isZero && decide (f.imm.toNat < 2 ^ 28)
  | .eret f => f.g == 0 && f.off == 0 && decide (f.aux.toNat < 2)
  | .brk f => f.g == 0 && f.off == 0
  | .hgrpSet f => hgrpOp f 0
  | .hgrpHalt f => hgrpOp f 1
  | .hgrpRes f => hgrpOp f 2
  | .hgrpStep f => hgrpOp f 3
  | .hgrpRestile f => hgrpOp f 4
  | .hgrpStat f => hgrpOp f 5
  | .hgrpRead f => hgrpOp f 6
  | .wfe f => f.aux == 0 && f.off == 0
  | .rdtime f => f.dk && f.a.isZero && f.imm == 0
  | .rdperf f => f.dk && f.a.isZero && decide (f.imm.toNat < 8)
  | .attq f => f.cmd == 0
  | .seal f => f.ix == 0 && cmdLt f 2048 && f.cmd.toNat / 64 % 4 == 0
  | .unseal f => f.ix == 0 && cmdLt f 64
  | .capset f => ixLt f 16 && f.cmd == 0
  | .capclr f => ixLt f 16 && noGb f && noGc f && cmdLt f 2 && (f.cmd == 0 || f.ix == 0)
  | .dgopen f => f.cmd == 0
  | .dgclose f => noGa f && noGb f && noGc f && f.cmd == 0
  | .dgsnap f => noGc f && f.cmd == 0
  | .dgver f => f.ix == 0 && noGb f && noGc f && f.cmd == 0
  | .fnrect f => f.ix == 0 && noGb f && noGc f && f.cmd == 0
  | .fnrectRel f => f.ix == 0 && noGb f && noGc f && f.cmd == 1
  | .tkillTask f => f.ix == 0 && noGb f && noGc f && f.cmd == 0
  | .tkillConfig f => f.ix == 0 && noGb f && noGc f && f.cmd == 1
  | .tkillContext f => f.ix == 0 && noGb f && noGc f && f.cmd == 2
  | .prempSave f => f.ix == 0 && f.cmd == 0
  | .prempRestore f => f.ix == 0 && f.cmd == 1
  | .prempRemap f => f.ix == 0 && f.cmd == 2
  | .unassignedOpcode _ => true
  | .longLatencyFill _ _ => true
  | .ldsWake _ _ => true
  | .performAtHome _ _ => true
  | .atomicAtHome _ _ => true
  | .redArrival _ _ => true
  | .chainArrival _ _ => true
  | .chainRetry _ _ => true
  | .engineGranuleWrite _ => true
  | .dreqReply _ _ => true
  | .streamElement _ _ => true
  | .patchCommand _ => true
  | .pacerGrant _ => true
  | .pacerStop _ => true
  | .runComplete _ => true
  | .firing _ => true
  | .taskStart _ => true
  | .actorClose _ => true
  | .tokenArrival _ _ => true
  | .recordArrival _ => true
  | .tdecArrival _ => true
  | .configStart _ => true
  | .endNotice _ => true
  | .launchPacket _ => true
  | .launchRecord _ => true
  | .engfault _ => true
  | .engineFault _ _ => true
  | .digestScan _ _ => true
  | .partitionCreate _ => true
  | .powerOn _ => true
  | .softError _ => true
  | .heartbeat _ => true
  | .deadDeclaration _ => true
  | .collectiveComplete _ _ => true
  | .hostCxlMemAccess _ _ _ => true
  | .sqtailDoorbell _ _ => true
  | .csrWrite _ _ => true
  | .remoteCommandArrival _ => true
  | .wakeAdmit _ => true
  | .powerGate _ => true
  | .engstFaultClear _ => true
  | .savebaseWrite _ _ => true
  | .redctlWrite _ _ => true
  | .cqheadWrite _ _ => true
  | .tmtailWrite _ => true
  | .stageTimeout _ => true
  | .digestVerdict _ _ => true
  | .verdictTimeout _ => true
  | .reservedTag _ _ => true
  | .chainConfirmation _ => true
  | .chainCancellation _ => true
  | .chgap _ _ => true
  | .shootDown _ _ => true
  | .pageMigration _ => true
  | .sensorSample _ _ => true
  | .throttleStep _ => true
  | .networkGovernor _ _ => true
  | .stopwatchRecord _ => true
  | .powerKill _ => true
  | .deadReturn _ _ => true
  | .dueErrorReply _ _ => true
  | .rejectReply _ _ => true
  | .rebalanceWindow _ => true
  | .rebalanceMove _ => true
  | .drainTimeout _ => true
  | .escapeEntry _ _ => true
  | .redundantCompare _ => true
  | .linkTagFailure _ => true
  | .linkRekey _ => true
  | .sessionNonce _ _ => true
  | .sessionCiphertext _ _ => true
  | .unfreeze _ _ => true
  | .alarm _ _ => true
  | .partitionDestroy _ => true
  | .mgmtAssignGroup _ _ => true
  | .tileStateRequest _ _ => true
  | .stagedReleaseOrCancel _ _ => true
  | .rebalanceSample _ => true
  | .lostClockOrSupply _ => true
  | .linkTraining _ _ => true
  | .debugUnlock _ _ _ => true
  | .powerLoss _ => true
  | .wfeTimeout _ => true
  | .sequencedMessage => true
  | .quoteComplete => true
  | .mgmtReadStopwatch => true
  | .mgmtReadSecurityLog => true
  | .mgmtReadLinkst => true
  | .migrationCancel => true
  | .ideKeyExchange => true

/-- The format A instructions by opcode (R55). -/
def ctorA (op : Nat) : Option (FA → Instr) :=
  match op with
  | 0x000 => some .nop
  | 0x001 => some .add
  | 0x002 => some .sub
  | 0x003 => some .mul
  | 0x004 => some .mulh
  | 0x005 => some .mulhn
  | 0x006 => some .div
  | 0x007 => some .divn
  | 0x008 => some .rem
  | 0x009 => some .remn
  | 0x00A => some .neg
  | 0x00B => some .abs
  | 0x00C => some .min
  | 0x00D => some .max
  | 0x00E => some .minn
  | 0x00F => some .maxn
  | 0x010 => some .and
  | 0x011 => some .or
  | 0x012 => some .xor
  | 0x013 => some .andn
  | 0x014 => some .orn
  | 0x015 => some .not
  | 0x016 => some .shl
  | 0x017 => some .shr
  | 0x018 => some .sra
  | 0x019 => some .rol
  | 0x01A => some .clz
  | 0x01B => some .ctz
  | 0x01C => some .popc
  | 0x01D => some .brev
  | 0x01E => some .bext
  | 0x01F => some .bins
  | 0x020 => some .sext
  | 0x021 => some .zext
  | 0x022 => some .cmp
  | 0x023 => some .sel
  | 0x024 => some .mov
  | 0x029 => some .sadd
  | 0x02A => some .ssub
  | 0x080 => some .fadd
  | 0x081 => some .fsub
  | 0x082 => some .fmul
  | 0x083 => some .fma
  | 0x084 => some .fms
  | 0x085 => some .fnma
  | 0x086 => some .fmin
  | 0x087 => some .fmax
  | 0x088 => some .fminp
  | 0x089 => some .fmaxp
  | 0x08A => some .fabs
  | 0x08B => some .fneg
  | 0x08C => some .fsgn
  | 0x08D => some .fcmp
  | 0x08E => some .fclass
  | 0x08F => some .frcp
  | 0x090 => some .frsq
  | 0x091 => some .fsqrt
  | 0x092 => some .fdiv
  | 0x093 => some .fexp2
  | 0x094 => some .flog2
  | 0x095 => some .fsin
  | 0x096 => some .fcos
  | 0x097 => some .fsinpi
  | 0x098 => some .fcospi
  | 0x099 => some .ftanh
  | 0x09A => some .fsigm
  | 0x09B => some .frnd
  | 0x09C => some .cvt
  | 0x09D => some .fscale
  | 0x09E => some .fgetexp
  | 0x100 => some .vperm
  | 0x101 => some .vbcast
  | 0x102 => some .vrot
  | 0x103 => some .vslide
  | 0x104 => some .vred
  | 0x105 => some .vredx
  | 0x106 => some .vscan
  | 0x107 => some .vcmpr
  | 0x108 => some .vxpd
  | 0x109 => some .vlane
  | 0x10A => some .kand
  | 0x10B => some .kor
  | 0x10C => some .kxor
  | 0x10D => some .knot
  | 0x10E => some .kpop
  | 0x10F => some .kfirst
  | 0x110 => some .kmov
  | 0x111 => some .vpack
  | 0x112 => some .vunpk
  | 0x113 => some .vmxq
  | 0x114 => some .vmxd
  | 0x115 => some .vdot
  | 0x116 => some .wadd
  | 0x117 => some .wrnd
  | 0x118 => some .wclr
  | 0x119 => some .wmov
  | 0x306 => some .snd
  | 0x307 => some .rcv
  | 0x308 => some .qpk
  | 0x309 => some .qcnt
  | 0x30A => some .eod
  | 0x30B => some .qpsn
  | _ => none

/-- The format I instructions by opcode (R55). -/
def ctorI (op : Nat) : Option (FI → Instr) :=
  match op with
  | 0x025 => some .movi
  | 0x026 => some .movhi
  | 0x027 => some .addi
  | 0x380 => some .csrr
  | 0x381 => some .csrw
  | 0x382 => some .csrs
  | 0x383 => some .csrc
  | 0x384 => some .trap
  | 0x389 => some .rdtime
  | 0x38A => some .rdperf
  | _ => none

/-- The format M instructions by opcode (R55). -/
def ctorM (op : Nat) : Option (FM → Instr) :=
  match op with
  | 0x028 => some .lea
  | 0x180 => some .ld
  | 0x181 => some .st
  | 0x182 => some .ldv
  | 0x183 => some .stv
  | 0x184 => some .ldg
  | 0x185 => some .stg
  | 0x186 => some .lds
  | 0x187 => some .stf
  | 0x188 => some .feclr
  | 0x189 => some .fetst
  | 0x18A => some .ldc
  | 0x18B => some .stc
  | 0x18D => some .amo
  | 0x18E => some .red
  | 0x18F => some .fence
  | _ => none

/-- The format C instructions by opcode (R55). -/
def ctorC (op : Nat) : Option (FC → Instr) :=
  match op with
  | 0x300 => some .br
  | 0x301 => some .bc
  | 0x302 => some .jal
  | 0x303 => some .jr
  | 0x304 => some .loop
  | 0x305 => some .lbrk
  | 0x30E => some .tend
  | 0x30F => some .gform
  | 0x310 => some .gend
  | 0x311 => some .gsync
  | 0x385 => some .eret
  | 0x386 => some .brk
  | 0x388 => some .wfe
  | _ => none

/-- The format E instructions by opcode and, where one opcode holds several rows, by the operation in cmd20 (R55, R401). -/
def ctorE (op sub : Nat) : Option (FE → Instr) :=
  match op with
  | 0x18C => some .chbind
  | 0x200 => some .spbind
  | 0x201 => some .spgo
  | 0x202 => some .sphalt
  | 0x203 => some .sppos
  | 0x204 => some .cpa
  | 0x205 => some .cp2d
  | 0x206 => some .hdinit
  | 0x207 => some .hdarr
  | 0x208 => some .hdwait
  | 0x209 => some .hdtest
  | 0x20A => some .hdkill
  | 0x20B => some .dreq
  | 0x280 => some .mxcfg
  | 0x281 => some .mxwld
  | 0x282 => some .mxwsw
  | 0x283 => some .mxsc
  | 0x284 => some .mxrun
  | 0x285 => some .mxdrn
  | 0x286 => some .mxclr
  | 0x287 => some .mxrgn
  | 0x288 => some .mxring
  | 0x289 => some .mxlap
  | 0x28A => some .mxrec
  | 0x28B => some .mxcmd
  | 0x28C => some .mxst
  | 0x30C => some .spawn
  | 0x30D => some .tdec
  | 0x312 => some .car
  | 0x313 => some .cbc
  | 0x314 => some .crd
  | 0x315 => some .cbar
  | 0x387 => match sub with
    | 0 => some .hgrpSet
    | 1 => some .hgrpHalt
    | 2 => some .hgrpRes
    | 3 => some .hgrpStep
    | 4 => some .hgrpRestile
    | 5 => some .hgrpStat
    | 6 => some .hgrpRead
    | _ => none
  | 0x38B => some .attq
  | 0x38C => some .seal
  | 0x38D => some .unseal
  | 0x38E => some .capset
  | 0x38F => some .capclr
  | 0x390 => some .dgopen
  | 0x391 => some .dgclose
  | 0x392 => some .dgsnap
  | 0x393 => some .dgver
  | 0x394 => match sub with
    | 0 => some .fnrect
    | 1 => some .fnrectRel
    | _ => none
  | 0x395 => match sub with
    | 0 => some .tkillTask
    | 1 => some .tkillConfig
    | 2 => some .tkillContext
    | _ => none
  | 0x396 => match sub with
    | 0 => some .prempSave
    | 1 => some .prempRestore
    | 2 => some .prempRemap
    | _ => none
  | _ => none

/-- The operation field that picks among the rows of one opcode: cmd20[2:0] of hgrp, cmd20[1:0] of tkill and premp, all
of cmd20 of fnrect. -/
def subOf (op : Nat) (w : Word) : Nat :=
  if op = 0x387 then (fld w 0 3).toNat else (fld w 0 20).toNat

/-- What a word's fields spell, before the checks of `legal`. -/
def decodeFields (w : Word) : Option Instr :=
  let op := (fld w 54 10).toNat
  if unassignedOp op then some (.unassignedOpcode w)
  else match ctorA op with
    | some k => (decodeFA w).map k
    | none => match ctorI op with
      | some k => (decodeFI w).map k
      | none => match ctorM op with
        | some k => some (k (decodeFM w))
        | none => match ctorC op with
          | some k => some (k (decodeFC w))
          | none => match ctorE op (subOf op w) with
            | some k => some (k (decodeFE w))
            | none => none

/-- The instruction a word holds (R56): `none` is a word of an assigned opcode that breaks a check, which raises ILLOP. -/
def decode (w : Word) : Option Instr :=
  match decodeFields w with
  | some i => if i.wellFormed && i.legal then some i else none
  | none => none

/-- The word of an instruction; an event has none. -/
def encode : Instr → Option Word
  | .nop f => some (encFA 0x000 f)
  | .add f => some (encFA 0x001 f)
  | .sub f => some (encFA 0x002 f)
  | .mul f => some (encFA 0x003 f)
  | .mulh f => some (encFA 0x004 f)
  | .mulhn f => some (encFA 0x005 f)
  | .div f => some (encFA 0x006 f)
  | .divn f => some (encFA 0x007 f)
  | .rem f => some (encFA 0x008 f)
  | .remn f => some (encFA 0x009 f)
  | .neg f => some (encFA 0x00A f)
  | .abs f => some (encFA 0x00B f)
  | .min f => some (encFA 0x00C f)
  | .max f => some (encFA 0x00D f)
  | .minn f => some (encFA 0x00E f)
  | .maxn f => some (encFA 0x00F f)
  | .and f => some (encFA 0x010 f)
  | .or f => some (encFA 0x011 f)
  | .xor f => some (encFA 0x012 f)
  | .andn f => some (encFA 0x013 f)
  | .orn f => some (encFA 0x014 f)
  | .not f => some (encFA 0x015 f)
  | .shl f => some (encFA 0x016 f)
  | .shr f => some (encFA 0x017 f)
  | .sra f => some (encFA 0x018 f)
  | .rol f => some (encFA 0x019 f)
  | .clz f => some (encFA 0x01A f)
  | .ctz f => some (encFA 0x01B f)
  | .popc f => some (encFA 0x01C f)
  | .brev f => some (encFA 0x01D f)
  | .bext f => some (encFA 0x01E f)
  | .bins f => some (encFA 0x01F f)
  | .sext f => some (encFA 0x020 f)
  | .zext f => some (encFA 0x021 f)
  | .cmp f => some (encFA 0x022 f)
  | .sel f => some (encFA 0x023 f)
  | .mov f => some (encFA 0x024 f)
  | .movi f => some (encFI 0x025 f)
  | .movhi f => some (encFI 0x026 f)
  | .addi f => some (encFI 0x027 f)
  | .lea f => some (encFM 0x028 f)
  | .sadd f => some (encFA 0x029 f)
  | .ssub f => some (encFA 0x02A f)
  | .fadd f => some (encFA 0x080 f)
  | .fsub f => some (encFA 0x081 f)
  | .fmul f => some (encFA 0x082 f)
  | .fma f => some (encFA 0x083 f)
  | .fms f => some (encFA 0x084 f)
  | .fnma f => some (encFA 0x085 f)
  | .fmin f => some (encFA 0x086 f)
  | .fmax f => some (encFA 0x087 f)
  | .fminp f => some (encFA 0x088 f)
  | .fmaxp f => some (encFA 0x089 f)
  | .fabs f => some (encFA 0x08A f)
  | .fneg f => some (encFA 0x08B f)
  | .fsgn f => some (encFA 0x08C f)
  | .fcmp f => some (encFA 0x08D f)
  | .fclass f => some (encFA 0x08E f)
  | .frcp f => some (encFA 0x08F f)
  | .frsq f => some (encFA 0x090 f)
  | .fsqrt f => some (encFA 0x091 f)
  | .fdiv f => some (encFA 0x092 f)
  | .fexp2 f => some (encFA 0x093 f)
  | .flog2 f => some (encFA 0x094 f)
  | .fsin f => some (encFA 0x095 f)
  | .fcos f => some (encFA 0x096 f)
  | .fsinpi f => some (encFA 0x097 f)
  | .fcospi f => some (encFA 0x098 f)
  | .ftanh f => some (encFA 0x099 f)
  | .fsigm f => some (encFA 0x09A f)
  | .frnd f => some (encFA 0x09B f)
  | .cvt f => some (encFA 0x09C f)
  | .fscale f => some (encFA 0x09D f)
  | .fgetexp f => some (encFA 0x09E f)
  | .vperm f => some (encFA 0x100 f)
  | .vbcast f => some (encFA 0x101 f)
  | .vrot f => some (encFA 0x102 f)
  | .vslide f => some (encFA 0x103 f)
  | .vred f => some (encFA 0x104 f)
  | .vredx f => some (encFA 0x105 f)
  | .vscan f => some (encFA 0x106 f)
  | .vcmpr f => some (encFA 0x107 f)
  | .vxpd f => some (encFA 0x108 f)
  | .vlane f => some (encFA 0x109 f)
  | .kand f => some (encFA 0x10A f)
  | .kor f => some (encFA 0x10B f)
  | .kxor f => some (encFA 0x10C f)
  | .knot f => some (encFA 0x10D f)
  | .kpop f => some (encFA 0x10E f)
  | .kfirst f => some (encFA 0x10F f)
  | .kmov f => some (encFA 0x110 f)
  | .vpack f => some (encFA 0x111 f)
  | .vunpk f => some (encFA 0x112 f)
  | .vmxq f => some (encFA 0x113 f)
  | .vmxd f => some (encFA 0x114 f)
  | .vdot f => some (encFA 0x115 f)
  | .wadd f => some (encFA 0x116 f)
  | .wrnd f => some (encFA 0x117 f)
  | .wclr f => some (encFA 0x118 f)
  | .wmov f => some (encFA 0x119 f)
  | .ld f => some (encFM 0x180 f)
  | .st f => some (encFM 0x181 f)
  | .ldv f => some (encFM 0x182 f)
  | .stv f => some (encFM 0x183 f)
  | .ldg f => some (encFM 0x184 f)
  | .stg f => some (encFM 0x185 f)
  | .lds f => some (encFM 0x186 f)
  | .stf f => some (encFM 0x187 f)
  | .feclr f => some (encFM 0x188 f)
  | .fetst f => some (encFM 0x189 f)
  | .ldc f => some (encFM 0x18A f)
  | .stc f => some (encFM 0x18B f)
  | .chbind f => some (encFE 0x18C f)
  | .amo f => some (encFM 0x18D f)
  | .red f => some (encFM 0x18E f)
  | .fence f => some (encFM 0x18F f)
  | .spbind f => some (encFE 0x200 f)
  | .spgo f => some (encFE 0x201 f)
  | .sphalt f => some (encFE 0x202 f)
  | .sppos f => some (encFE 0x203 f)
  | .cpa f => some (encFE 0x204 f)
  | .cp2d f => some (encFE 0x205 f)
  | .hdinit f => some (encFE 0x206 f)
  | .hdarr f => some (encFE 0x207 f)
  | .hdwait f => some (encFE 0x208 f)
  | .hdtest f => some (encFE 0x209 f)
  | .hdkill f => some (encFE 0x20A f)
  | .dreq f => some (encFE 0x20B f)
  | .mxcfg f => some (encFE 0x280 f)
  | .mxwld f => some (encFE 0x281 f)
  | .mxwsw f => some (encFE 0x282 f)
  | .mxsc f => some (encFE 0x283 f)
  | .mxrun f => some (encFE 0x284 f)
  | .mxdrn f => some (encFE 0x285 f)
  | .mxclr f => some (encFE 0x286 f)
  | .mxrgn f => some (encFE 0x287 f)
  | .mxring f => some (encFE 0x288 f)
  | .mxlap f => some (encFE 0x289 f)
  | .mxrec f => some (encFE 0x28A f)
  | .mxcmd f => some (encFE 0x28B f)
  | .mxst f => some (encFE 0x28C f)
  | .br f => some (encFC 0x300 f)
  | .bc f => some (encFC 0x301 f)
  | .jal f => some (encFC 0x302 f)
  | .jr f => some (encFC 0x303 f)
  | .loop f => some (encFC 0x304 f)
  | .lbrk f => some (encFC 0x305 f)
  | .snd f => some (encFA 0x306 f)
  | .rcv f => some (encFA 0x307 f)
  | .qpk f => some (encFA 0x308 f)
  | .qcnt f => some (encFA 0x309 f)
  | .eod f => some (encFA 0x30A f)
  | .qpsn f => some (encFA 0x30B f)
  | .spawn f => some (encFE 0x30C f)
  | .tdec f => some (encFE 0x30D f)
  | .tend f => some (encFC 0x30E f)
  | .gform f => some (encFC 0x30F f)
  | .gend f => some (encFC 0x310 f)
  | .gsync f => some (encFC 0x311 f)
  | .car f => some (encFE 0x312 f)
  | .cbc f => some (encFE 0x313 f)
  | .crd f => some (encFE 0x314 f)
  | .cbar f => some (encFE 0x315 f)
  | .csrr f => some (encFI 0x380 f)
  | .csrw f => some (encFI 0x381 f)
  | .csrs f => some (encFI 0x382 f)
  | .csrc f => some (encFI 0x383 f)
  | .trap f => some (encFI 0x384 f)
  | .eret f => some (encFC 0x385 f)
  | .brk f => some (encFC 0x386 f)
  | .hgrpSet f => some (encFE 0x387 f)
  | .hgrpHalt f => some (encFE 0x387 f)
  | .hgrpRes f => some (encFE 0x387 f)
  | .hgrpStep f => some (encFE 0x387 f)
  | .hgrpRestile f => some (encFE 0x387 f)
  | .hgrpStat f => some (encFE 0x387 f)
  | .hgrpRead f => some (encFE 0x387 f)
  | .wfe f => some (encFC 0x388 f)
  | .rdtime f => some (encFI 0x389 f)
  | .rdperf f => some (encFI 0x38A f)
  | .attq f => some (encFE 0x38B f)
  | .seal f => some (encFE 0x38C f)
  | .unseal f => some (encFE 0x38D f)
  | .capset f => some (encFE 0x38E f)
  | .capclr f => some (encFE 0x38F f)
  | .dgopen f => some (encFE 0x390 f)
  | .dgclose f => some (encFE 0x391 f)
  | .dgsnap f => some (encFE 0x392 f)
  | .dgver f => some (encFE 0x393 f)
  | .fnrect f => some (encFE 0x394 f)
  | .fnrectRel f => some (encFE 0x394 f)
  | .tkillTask f => some (encFE 0x395 f)
  | .tkillConfig f => some (encFE 0x395 f)
  | .tkillContext f => some (encFE 0x395 f)
  | .prempSave f => some (encFE 0x396 f)
  | .prempRestore f => some (encFE 0x396 f)
  | .prempRemap f => some (encFE 0x396 f)
  | .unassignedOpcode w => some w
  | .longLatencyFill _ _ => none
  | .ldsWake _ _ => none
  | .performAtHome _ _ => none
  | .atomicAtHome _ _ => none
  | .redArrival _ _ => none
  | .chainArrival _ _ => none
  | .chainRetry _ _ => none
  | .engineGranuleWrite _ => none
  | .dreqReply _ _ => none
  | .streamElement _ _ => none
  | .patchCommand _ => none
  | .pacerGrant _ => none
  | .pacerStop _ => none
  | .runComplete _ => none
  | .firing _ => none
  | .taskStart _ => none
  | .actorClose _ => none
  | .tokenArrival _ _ => none
  | .recordArrival _ => none
  | .tdecArrival _ => none
  | .configStart _ => none
  | .endNotice _ => none
  | .launchPacket _ => none
  | .launchRecord _ => none
  | .engfault _ => none
  | .engineFault _ _ => none
  | .digestScan _ _ => none
  | .partitionCreate _ => none
  | .powerOn _ => none
  | .softError _ => none
  | .heartbeat _ => none
  | .deadDeclaration _ => none
  | .collectiveComplete _ _ => none
  | .hostCxlMemAccess _ _ _ => none
  | .sqtailDoorbell _ _ => none
  | .csrWrite _ _ => none
  | .remoteCommandArrival _ => none
  | .wakeAdmit _ => none
  | .powerGate _ => none
  | .engstFaultClear _ => none
  | .savebaseWrite _ _ => none
  | .redctlWrite _ _ => none
  | .cqheadWrite _ _ => none
  | .tmtailWrite _ => none
  | .stageTimeout _ => none
  | .digestVerdict _ _ => none
  | .verdictTimeout _ => none
  | .reservedTag _ _ => none
  | .chainConfirmation _ => none
  | .chainCancellation _ => none
  | .chgap _ _ => none
  | .shootDown _ _ => none
  | .pageMigration _ => none
  | .sensorSample _ _ => none
  | .throttleStep _ => none
  | .networkGovernor _ _ => none
  | .stopwatchRecord _ => none
  | .powerKill _ => none
  | .deadReturn _ _ => none
  | .dueErrorReply _ _ => none
  | .rejectReply _ _ => none
  | .rebalanceWindow _ => none
  | .rebalanceMove _ => none
  | .drainTimeout _ => none
  | .escapeEntry _ _ => none
  | .redundantCompare _ => none
  | .linkTagFailure _ => none
  | .linkRekey _ => none
  | .sessionNonce _ _ => none
  | .sessionCiphertext _ _ => none
  | .unfreeze _ _ => none
  | .alarm _ _ => none
  | .partitionDestroy _ => none
  | .mgmtAssignGroup _ _ => none
  | .tileStateRequest _ _ => none
  | .stagedReleaseOrCancel _ _ => none
  | .rebalanceSample _ => none
  | .lostClockOrSupply _ => none
  | .linkTraining _ _ => none
  | .debugUnlock _ _ _ => none
  | .powerLoss _ => none
  | .wfeTimeout _ => none
  | .sequencedMessage => none
  | .quoteComplete => none
  | .mgmtReadStopwatch => none
  | .mgmtReadSecurityLog => none
  | .mgmtReadLinkst => none
  | .migrationCancel => none
  | .ideKeyExchange => none

/-- The decoder on an instruction given as a number with bit 0 the least significant bit of its one word (R3). -/
def decodeTableWord (_nbits w : Nat) : Option Instr := decode (BitVec.ofNat 64 w)

end Sys2Proof
end

