-- ==== Sys2Proof/Machine/State.lean ====
section
/-! DEFINITION. The state of the module as plain data, everything the spec gives it, with its reset (R4 tables, R36-R42,
R130, R234, R240, R246, R259, R264, R272, R277, R280, R308, R322-R332, R343, R354, R360, R368, R371-R376, R382, R387,
R416, R421, R422). Where a spec states no reset value, notes/assumptions/4.md and 5.md name the one taken. -/

namespace Sys2Proof.Machine

/-- A table: keys strictly rising, an absent key stands for the table's default. -/
abbrev Tbl (α : Type) := List (Nat × α)

/-- A store: bytes by address, strictly rising, none equal to zero, which is what an unlisted address reads as (DESIGN CHOICE:
notes/assumptions/5.md). -/
abbrev Memory := List Host.Cell

/-! ## Registers -/

/-- Full/empty bit of a register, with the error mark that a late fault leaves in an empty one (R37, R38). -/
inductive Fe where
  | full
  | empty
  | mark (cause : Byte) (taddr : Word)
deriving DecidableEq, Repr

/-- Tokens (R17). -/
inductive Token where
  | vec (d : Vec)
  | scalar (d : Word)
  | eod (n : BitVec 2)
  | poison (cause : Byte)
  | close
deriving DecidableEq, Repr

/-- A wide accumulator: V weighs 2^-149 in its lowest bit, W the tag, Q the NaN code (R127). -/
structure Wide where
  V : BitVec 320 := 0
  W : BitVec 2 := 0
  Q : BitVec 32 := 0
deriving DecidableEq, Repr

/-- The register files of a tile core (R36), the program counter (R14), and of the loop counters the start and end indexes and those
that are ACTIVE, latest started first (R287). DESIGN CHOICE: notes/assumptions/4.md. -/
structure Regs where
  g : Tbl Word := []
  gFe : Tbl Fe := []
  v : Tbl Vec := []
  vFe : Tbl Fe := []
  k : Tbl (BitVec 16) := []
  c : Tbl Word := []
  wa : Tbl Wide := []
  lc : Tbl (BitVec 32) := []
  lp : Tbl (Nat × Nat) := []
  loops : List Nat := []
  pc : Nat := 0
  /-- registers whose parity is bad (R15) -/
  parity : List (RegKind × Nat) := []
deriving DecidableEq, Repr

/-- The user-level CSRs that hold their own bits (R25, R39, R66, R70, R76, R82, R83, R171, R371, R373, R399). DESIGN CHOICE: notes/assumptions/4.md. -/
structure Csrs where
  rmode : Word := 0
  fflags : Word := 0
  ftrap : Word := 0
  fmt8 : Word := 4
  srseed : Word := 0
  qmap : Word := 0xFEDCBA9876543210
  pgsz : Word := 0
  stkbase : Word := 0x170000
  tcause : Word := 0
  tepc : Word := 0
  taddr : Word := 0
  tvec : Word := 0
  tact : Word := 0x712
  aborts : Byte := 0
  inTrap : Bool := false
  enghold : Bool := false
deriving DecidableEq, Repr

/-- What an operation carries from the instruction that started it (R71, R437). -/
structure Carried where
  rmode : Word := 0
  fmt8 : Word := 4
  srseed : Word := 0
  stkbase : Word := 0x170000
deriving DecidableEq, Repr

/-! ## Memory and accesses -/

/-- A store with its full/empty bits (a word of a tile store, a line of DRAM) and the units that hold soft errors. DESIGN CHOICE: notes/assumptions/5.md. -/
structure Store where
  bytes : Memory := []
  /-- full/empty bits by word or line number; an absent one is full (R28, R344) -/
  fe : Tbl Bool := []
  /-- units (address / 8) with one flipped bit, and with two (R15) -/
  bad1 : List Nat := []
  bad2 : List Nat := []
deriving DecidableEq, Repr

/-- Where an access performs (R162). -/
inductive Home where
  | tile (t off : Nat)
  | dram (pa : Nat)
  | host (pa : Nat)
deriving DecidableEq, Repr

/-- A register destination of a result in flight; `win` is a queue window (R40). -/
inductive RegRef where
  | g (i : Nat)
  | v (i : Nat)
  | win (q : Nat) (vector : Bool)
deriving DecidableEq, Repr

/-- One contiguous piece of an access, which performs at one moment: its home, its virtual address, its length and its place in the
register's bytes. -/
structure Part where
  home : Home
  va : Word
  len : Nat
  pos : Nat
  /-- the slice that holds it, and the page-table entry it was translated by, 0 for none (R27, R169) -/
  slice : Nat
  pteAt : Nat
deriving DecidableEq, Repr

/-- The links of a chained access (R226). -/
structure ChainTag where
  slice : Nat
  ch : Nat
  sn : BitVec 24
  pn : BitVec 24
  nn : BitVec 24
deriving DecidableEq, Repr

/-- What an access does at its home (R187, R190, R218, R222-R224, R228). -/
inductive AccOp where
  /-- `over`: the bytes, by place, that the store buffer gave at issue (R164) -/
  | load (dst : RegRef) (old : Vec) (size : Nat) (sx : Bool) (covers : List (Nat × Byte))
  | store (data : Vec)
  | stf (data : Vec)
  | feclr
  /-- `over`: the words whose bits the store buffer gave at issue (R216) -/
  | fetst (dst : RegRef) (covers : List (Nat × Bool))
  | lds (dst : RegRef) (take : Bool) (covers : List (Nat × Byte))
  | amo (op : BitVec 3) (w64 uns : Bool) (x y : Word) (dst : Option RegRef)
  | red (ty : BitVec 3) (data : Vec) (mode : BitVec 3) (seed : BitVec 32)
  | chLoad (tag : ChainTag) (dst : RegRef) (size : Nat)
  | chStore (tag : ChainTag) (data : Vec)
deriving DecidableEq, Repr

/-- An access that has been issued (R162, R163). DEDUCED: notes/assumptions/9.md. -/
structure Acc where
  id : Nat
  parts : List Part
  op : AccOp
  /-- each part is an access of its own, issued in order (R220) -/
  lanes : Bool := false
  /-- its number when the instruction issued it; a commit that sends it numbers it afresh (R176) -/
  issued : Nat := 0
  /-- retries made of a refused chained access, and when the last refusal came (R183) -/
  retries : Nat := 0
  refusedAt : Nat := 0
deriving DecidableEq, Repr

/-- An access of an engine to one granule or element that is under way (R163, R233): its aligned 8-byte units that have not performed,
those that have, and its bytes by place. -/
structure EngAcc where
  parts : List Part
  done : List Part := []
  data : Vec := 0
deriving DecidableEq, Repr

/-- An entry of the store buffer (R164, R216). -/
inductive BufItem where
  | acc (a : Acc)
  /-- with the number of the next access at its issue -/
  | hdarr (h n issued : Nat)
deriving DecidableEq, Repr

/-- Why a result is still on its way (R37, R38, R222, R295). -/
inductive PendWhat where
  | value (v : Vec) (flags : BitVec 7)
  | mark (cause : Byte) (taddr : Word)
  /-- with the lanes of a vector destination that it fills -/
  | claim (q : Nat) (any : Bool) (word : Word) (lanes : BitVec 16)
  | lds (a : Acc) (take : Bool)
  /-- an LDS that a checkpoint has withdrawn and that has not issued again (R222, R389) -/
  | again (a : Acc) (take : Bool)
  /-- patch status, which an MXST in the command queue will give (R161) -/
  | status
deriving DecidableEq, Repr

/-- A long-latency result that has not filled its destination (R57). -/
structure Pend where
  dst : RegRef
  what : PendWhat
  /-- a claim whose task has ended (R295) -/
  ended : Bool := false
  /-- the number of the first access issued after it (R176) -/
  stamp : Nat := 0
deriving DecidableEq, Repr

/-! ## Queues, records, tasks -/

/-- An input queue (R19): depth 0 is undeclared. -/
structure InQ where
  depth : Nat := 0
  toks : List Token := []
  /-- tokens a running I task has popped, still resident (R257) -/
  popped : Nat := 0
  /-- places in `toks` that DREQs of the running I task have filled (R237) -/
  mark : List Nat := []
  /-- slots reserved by DREQ (R250) -/
  resv : Nat := 0
  /-- at or above THR at every sample of this window, and of the previous one (R273) -/
  hot : Bool := false
  hotPrev : Bool := false
deriving DecidableEq, Repr

/-- A token released by a task, with the number of accesses issued before it, which must perform first (R166). -/
structure Rel where
  tok : Token
  stamp : Nat
deriving DecidableEq, Repr

/-- An output queue with its circuit (R19, R30, R240, R409). -/
structure OutQ where
  depth : Nat := 0
  toks : List Rel := []
  /-- target slot and input queue of the circuit; none feeds write ports only -/
  dest : Option (Nat × Nat) := none
  /-- links the circuit crosses, each with one latch -/
  links : Nat := 1
  latch : List Token := []
  /-- tokens delivered on the circuit, and pushes a replacement discards (R385) -/
  delivered : Nat := 0
  discard : Nat := 0
deriving DecidableEq, Repr

/-- A task record (R259). -/
structure Record where
  est : BitVec 32
  launch : Bool
  policy : BitVec 2
  pri : BitVec 3
  handler : BitVec 6
  cv : Bool
  ctr : BitVec 21
  a0 : Word
  a1 : Word
deriving DecidableEq, Repr

/-- A message to an actor slot (R300, R301), with the accesses that must perform first. -/
inductive Msg where
  | spawn (slot : Nat) (r : Record) (stamp : Nat)
  | tdec (slot off amt : Nat) (stamp : Nat)
deriving DecidableEq, Repr

/-- An entry of the run list; no record is a firing (R262, R265). -/
structure RunEnt where
  rcd : Option Record
  pri : Nat
  readyAt : Nat
  order : Nat
deriving DecidableEq, Repr

/-- The running task (R256, R258). -/
structure Task where
  immediate : Bool
  handler : Nat := 0
  pri : Nat := 0
  est : Nat := 0
  policy : Nat := 0
  rcd : Option Record := none
  readyAt : Nat := 0
  order : Nat := 0
  startCyc : Nat := 0
  ctx : Nat := 0
  /-- a pre-emption decision lets this task drain, until the tile's cycle count reaches this limit (R278) -/
  drainAt : Option Nat := none
deriving DecidableEq, Repr

/-- One hurdle table entry (R246); the hurdle word is in the tile store. -/
structure Hurdle where
  bound : Option Nat := none
  pend : Nat := 0
deriving DecidableEq, Repr

/-- What hurdles would hold without the running I task (R237). -/
structure HdSnap where
  tbl : Tbl Hurdle
  words : Tbl Word
deriving DecidableEq, Repr

/-! ## Engines -/

/-- A stream port (R240-R242, R437). -/
structure Port where
  desc : Tbl Word := []
  pos : Nat := 0
  /-- 0 IDLE, 1 RUNNING, 2 HALTED, 3 FAULTED (R243) -/
  st : BitVec 2 := 0
  car : Carried := {}
  ctx : Nat := 0
  /-- the token being packed and the elements in it (R241) -/
  pack : Vec := 0
  packN : Nat := 0
  /-- a control token still to be pushed (R241) -/
  eodDue : Option (BitVec 2) := none
  /-- hurdle in which this run counts as pending (R248) -/
  pendHd : Option Nat := none
  /-- the patch's input buffer of this port, at most 8 tokens (R241) -/
  buf : List Token := []
  /-- halted by a checkpoint or a move while RUNNING (R274, R389) -/
  resume : Bool := false
  /-- the element in progress, of which some units have been read or written (R163, R241) -/
  acc : Option EngAcc := none
  /-- SPHALT has met an element in progress, after which the port halts (R242) -/
  halting : Bool := false
deriving DecidableEq, Repr

/-- A copy (R244, R245): row and destination byte of the next granule. -/
structure CopyOp where
  dst : Word
  src : Word
  rb : Nat
  rows : Nat
  sstr : Int
  dstr : Int
  cvt : BitVec 2
  hd : Option Nat
  car : Carried
  pgsz : BitVec 2
  ctx : Nat
  byTask : Bool
  row : Nat := 0
  off : Nat := 0
  /-- aligned 8-byte units of the source that have been read and are still wanted, by unit number (R245) -/
  seen : Tbl (List Byte) := []
  /-- the granule that is being written (R233) -/
  acc : Option EngAcc := none
deriving DecidableEq, Repr

/-- A DREQ (R250): mode 1 writes the tile store, mode 0 an input queue. -/
structure DreqOp where
  id : Nat
  mode1 : Bool
  q : Nat
  va : Word
  bytes : Nat
  dst : Word
  eod : Bool
  pgsz : BitVec 2
  ctx : Nat
  car : Carried
  byTask : Bool
  /-- physical address of the range, and the 64-byte pieces that have arrived (R250, R251) -/
  pa : Nat
  got : Nat := 0
  /-- the slice that holds it (R27) -/
  slice : Nat := 0
  /-- 8-byte units of the range that have been read and not delivered, by number from its start (R251), and the granule being written (R233) -/
  seen : Tbl (List Byte) := []
  acc : Option EngAcc := none
deriving DecidableEq, Repr

/-- ENGST and ENGPOS (R234). -/
structure EngStat where
  orph : BitVec 16 := 0
  fcause : Byte := 0
  feng : BitVec 3 := 0
  fault : Bool := false
  flags : BitVec 7 := 0
  pos : Word := 0
  /-- an engine fault whose ENGFAULT has not been taken (R380) -/
  due : Bool := false
deriving DecidableEq, Repr

/-- The tile's engines and hurdles. -/
structure Engines where
  ports : Tbl Port := []
  copies : List CopyOp := []
  dreqs : List DreqOp := []
  hds : Tbl Hurdle := []
  handles : Tbl (Option (Nat × Nat)) := []
  caps : Tbl Word := []
  stat : EngStat := {}
  /-- the copy engine, and the DRAM reply port, stopped on a fault (R235) -/
  copyFault : Bool := false
  dreqFault : Bool := false
deriving DecidableEq, Repr

/-! ## Patch -/

/-- A weight set (R130): type code, i4 flag, FMT8 sampled, W[k][n] at key 64k+n, scales of block b and column n at 64b+n. -/
structure WSet where
  ty : BitVec 4 := 11
  i4 : Bool := false
  fmt8 : Word := 4
  w : Tbl (BitVec 16) := []
  scaled : Bool := false
  sc : Tbl Byte := []
deriving DecidableEq, Repr

/-- An accumulator set (R130): row r, column n at key 64r+n. -/
structure Pa where
  isInt : Bool := false
  w : Tbl (BitVec 32) := []
  /-- words whose parity is bad (R15) -/
  bad : List Nat := []
deriving DecidableEq, Repr

/-- The activation format of a source (R130). -/
structure ActFmt where
  ty : BitVec 4 := 11
  fmt8 : Word := 4
deriving DecidableEq, Repr

/-- The architectural state of a patch (R130, R131, R159). -/
structure Patch where
  act : WSet := {}
  sh : WSet := {}
  /-- 0 EMPTY, 1 FILLING, 2 LOADED -/
  shSt : BitVec 2 := 0
  pa0 : Pa := {}
  pa1 : Pa := {}
  scq : List (List Byte) := []
  fmts : Tbl ActFmt := []
  rgn : Option Nat := none
  ring : Option Nat := none
  recu : Option (Nat × Carried) := none
  flags : BitVec 7 := 0
  nosh : Bool := false
deriving DecidableEq, Repr

/-- A patch command with its operands as read at issue (R144, R160). -/
inductive PCmd where
  | cfg (src : Nat) (ty : BitVec 4)
  | wld (src : Nat) (addr : Word) (ty : BitVec 4) (i4 sc : Bool)
  | wsw
  | sc (src : Nat) (addr : Word) (n : Nat)
  | run (src : Nat) (addr : Word) (rows r0 : Nat) (set zero sat : Bool)
  | drn (toQueue : Bool) (q : Nat) (addr : Word) (ty : BitVec 4) (set sat clr : Bool) (first rows : Nat)
  | clr (set all : Bool)
  | rgn (on : Bool) (n : Nat)
  | ring (on : Bool) (n : Nat)
  | lap
  | recur (on : Bool) (d : Nat)
  /-- MXST, with CLR: its result goes to the first register that waits for one (R161) -/
  | st (clr : Bool)
deriving DecidableEq, Repr

/-- A queued patch command (R143, R146). -/
structure PEntry where
  cmd : PCmd
  car : Carried
  pri : Nat
  remote : Bool := false
  asked : Bool := false
  granted : Bool := false
  /-- issued by the task that runs, whose store buffer it reads through (R142) -/
  byTask : Bool := false
  /-- pieces done: rows of a run, 64-byte pieces of a drain, tokens of a load or of scales -/
  done : Nat := 0
  /-- 8-byte units of a tile-store source that have been read, by number from its address (R142), and the granule that a drain is writing
  (R140) -/
  seen : Tbl (List Byte) := []
  acc : Option EngAcc := none
deriving DecidableEq, Repr

/-- Power state of the patch's cells (R328): awake and idle since a time, or awake from a time on. -/
inductive Gate where
  | awake (since : Nat)
  | gating (ends : Nat) (wake : Bool)
  | gated (wake : Bool)
deriving DecidableEq, Repr

/-- The patch, its command queue, the power of its cells and the shadow position of its spare cells (R144, R324, R328, R392). -/
structure PatchUnit where
  st : Patch := {}
  q : List PEntry := []
  /-- a run has finished and RUN_COMPLETE has not come; a stop is waiting or being asked for (R324) -/
  ranAt : Option Nat := none
  gate : Gate := .awake 0
  chunks : Nat := 0
  /-- the cells, by patch row and column, whose sums the row's spare cell does not reproduce: a defect of the part (R392; DESIGN CHOICE: notes/assumptions/25.md) -/
  spareBad : List (Nat × Nat) := []
deriving DecidableEq, Repr

/-! ## Tile -/

/-- Why a tile is halted (R374, R399). -/
inductive HaltWhy where
  | referee | stall | abortHalt | brk | step | group | frozen
deriving DecidableEq, Repr

/-- The actor a tile holds (R252-R256, R273). -/
structure ActorRef where
  cfg : Nat
  slot : Nat
  firings : Nat := 0
  done : Bool := false
  stopped : Bool := false
  /-- the reserve tile to which the rebalancer moves it (R274, R275) -/
  moveTo : Option Nat := none
  movedNow : Bool := false
  movedPrev : Bool := false
  fresh : Bool := true
deriving DecidableEq, Repr

/-- What a task has done that has not left the tile (R164, R257, R258) and the rollback copies (R145, R237). -/
structure TaskFx where
  sb : List BufItem := []
  held : List (Nat × Token) := []
  heldMsg : List Msg := []
  patch0 : Option Patch := none
  hd0 : Option HdSnap := none
  /-- the commit: 0 not begun, 1 its chained stores are tentative, 2 the slices accept their confirmation one by one, 3 the other
  stores perform, 4 the STF stores (R164, R186) -/
  phase : Nat := 0
deriving DecidableEq, Repr

/-- A remote patch command whose reply the core waits for (R155, R156). -/
structure RCmd where
  target : Nat
  cap : Nat
  nonce : BitVec 32
  op : Nat
  param : Word
  car : Carried
  pri : Nat
  /-- the reply: accepted, refused, or returned DEAD -/
  reply : Option (BitVec 2) := none
deriving DecidableEq, Repr

/-- One tile's sensor record (R330). -/
structure Sensors where
  hist : List SensorReading := []
  vBad : Bool := false
  tBad : Bool := false
  iBad : Bool := false
  vGood : Nat := 0
  tGood : Nat := 0
  iGood : Nat := 0
deriving DecidableEq, Repr

/-- Scheduling state of a tile: the running task, what it holds back, the run list and task queue (R252-R265). -/
structure Sched where
  task : Option Task := none
  fx : TaskFx := {}
  actor : Option ActorRef := none
  runl : List RunEnt := []
  ready : List RunEnt := []
  links : List (Nat × Record) := []
  sent : List Msg := []
  retBuf : List Msg := []
  /-- messages delivered to each slot, and those a replacement discards (R385) -/
  msgOut : Tbl Nat := []
  msgDiscard : Tbl Nat := []
  order : Nat := 0
  halted : Option HaltWhy := none
  haltGrp : Option Nat := none
  hrec : Tbl Word := []
  perf : Tbl Word := []
  cycles : Nat := 0
  wfe : Option Nat := none
  cmdOut : Option RCmd := none
  /-- core accesses refused at a distance: cause and TADDR, taken one at each boundary (R347, R438) -/
  late : List (Byte × Word) := []
  /-- a collective barrier the core has issued and not passed (R310) -/
  bar : Option (Nat × Nat) := none
  /-- a request to the starters that holds the core, with their reply (R407) -/
  starter : Option (Option Nat) := none
  /-- exactly one instruction is to be issued before the tile halts again (R400) -/
  stepping : Bool := false
  /-- fences, by scope and number: an access of that number or above waits for those in scope below it (R219, R232) -/
  fences : List (Nat × Nat) := []
  /-- the number of the first access of the running task -/
  accBase : Nat := 0
  /-- the chained access that the core has sent and holds for (R183) -/
  chOut : Option Nat := none
deriving DecidableEq, Repr

/-- Gang membership of a tile while a gang is formed (R267, R304). -/
structure Gang where
  anchor : Nat
  ord : Nat
  size : Nat
deriving DecidableEq, Repr

/-- One tile (R13). DESIGN CHOICE: notes/assumptions/4.md. -/
structure Tile where
  regs : Regs := {}
  csr : Csrs := {}
  code : Tbl Word := []
  codeBad : List Nat := []
  store : Store := {}
  inq : Tbl InQ := []
  outq : Tbl OutQ := []
  eng : Engines := {}
  pu : PatchUnit := {}
  sch : Sched := {}
  pend : List Pend := []
  net : List Acc := []
  nextAcc : Nat := 0
  gang : Option Gang := none
  sens : Sensors := {}
  failStop : Bool := false
  noClock : Bool := false
  fenced : Bool := false
  /-- declared dead: its routers fence it before the starters handle the declaration (R33, R34) -/
  dead : Bool := false
  lastBeat : Nat := 0
  missed : Nat := 0
deriving DecidableEq, Repr

/-- A tile after BIST (R344, R386). -/
def Tile.reset : Tile := {}

/-! ## Configurations -/

/-- The operators of an integer expression (R427). -/
inductive ArgBin where
  | mul | div | mod | add | sub | shl | shr | and | xor | or
deriving DecidableEq, Repr

/-- An integer expression that a frame leaves to the load, with the launch's arguments in it (R427, R433). -/
inductive ArgExpr where
  | num (v : Int)
  | arg (n : Nat)
  | neg (e : ArgExpr)
  | not (e : ArgExpr)
  | bin (o : ArgBin) (a b : ArgExpr)
deriving DecidableEq, Repr

/-- Where the value of an expression goes at load (R433): a field of a port's descriptor word or of a handler's constant. -/
structure ArgSite where
  port : Bool
  /-- the port or the handler, the word or the constant, and the field's low bit and width -/
  ix : Nat
  word : Nat
  lo : Nat
  width : Nat
  expr : ArgExpr
deriving DecidableEq, Repr

/-- A handler as its compute frames declare it (R42, R434). DESIGN CHOICE: notes/assumptions/7.md. -/
structure HandlerDecl where
  entry : Nat
  immediate : Bool
  consts : Tbl Word
  csr : Csrs
deriving DecidableEq, Repr

/-- An actor as its frames declare it (R19, R20, R131, R240, R252, R432). DESIGN CHOICE: notes/assumptions/7.md. -/
structure ActorDecl where
  cls : Nat := 0
  pri : Nat := 0
  est : Nat := 0
  policy : Nat := 0
  pin : Bool := false
  replay : Bool := false
  gang : Nat := 1
  /-- region number, h, w, i, j -/
  region : Option (Nat × Nat × Nat × Nat × Nat) := none
  /-- ring number and successor slot -/
  ring : Option (Nat × Nat) := none
  /-- queue, depth, NEED -/
  inQ : List (Nat × Nat × Nat) := []
  /-- queue, depth, target slot and queue -/
  outQ : List (Nat × Nat × Option (Nat × Nat)) := []
  /-- offset and length of each RANGE -/
  ranges : List (Nat × Nat) := []
  records : Nat := 0
  handlers : List HandlerDecl := []
  code : Tbl Word := []
  /-- port and descriptor words -/
  sps : List (Nat × Tbl Word) := []
  seeds : List (Nat × List Word) := []
  /-- where arguments go (R433) -/
  argAt : List ArgSite := []
  /-- address and words of the frames whose words the manual does not lay out: all but the compute frames that hold handlers (R20) -/
  frames : List (Nat × List Word) := []
  /-- a non-zero reserved field or another breach of a frame's layout (R269) -/
  badFrame : Bool := false
deriving DecidableEq, Repr

/-- A configuration image (R20, R432). DESIGN CHOICE: notes/assumptions/7.md. -/
structure Image where
  actors : List ActorDecl
  reserve : Nat := 0
deriving DecidableEq, Repr

/-- Where a configuration stands (R268-R271, R315, R389). -/
inductive CfgSt where
  | waiting | staged | placed | running | saving | ending | ended
deriving DecidableEq, Repr

/-- A run of a redundant configuration (R394): its tiles by slot, the pages copied (page, pool page), its state. -/
structure RedRun where
  place : Tbl Nat
  pages : List (Nat × Nat)
  /-- the 2 MiB pages of the pool that its copies have taken, by number -/
  used : List Nat := []
  done : Bool := false
  sig : Nat × Nat := (0, 0)
deriving DecidableEq, Repr

/-- A configuration of a context (R175, R255, R268-R271, R419). -/
structure Cfg where
  sq : Nat
  ctx : Nat
  owner : Nat
  stream : Nat
  image : Image
  counter : Word := 0
  args : List Word := []
  stage : Bool := false
  stageId : Nat := 0
  stageEnd : Option Nat := none
  st : CfgSt := .waiting
  place : Tbl Nat := []
  reserves : List Nat := []
  status : Nat := 0
  rflags : BitVec 7 := 0
  replayed : Bool := false
  mchk : Bool := false
  suspect : Bool := false
  verdict : Word := 0
  /-- group and ordinal of the CAR.DG that armed the photo finish, with the group's entry as it was issued, and the time of the
  snapshot (R314, R315) -/
  dg : Option (Nat × Nat × Word) := none
  snapAt : Option Nat := none
  /-- the snapshot: region and its two digests, in increasing region number (R196, R396) -/
  snap : List (Nat × Nat × Nat) := []
  /-- where the argument block stands and its words (R418) -/
  argsVa : Word := 0
  argn : Nat := 0
  /-- a saved configuration that comes back (R391) -/
  resume : Bool := false
  redundant : Bool := false
  runs : List RedRun := []
  placedAt : Nat := 0
  /-- its place in the order of placements (R276) -/
  placeNo : Nat := 0
  /-- slots whose save block is written, and slots whose save a fault has abandoned (R389, R390) -/
  saveDone : List Nat := []
  saveBad : List Nat := []
  /-- runs that have been tested to fit since it reached the head of the placement order (R269) -/
  fitted : Nat := 0
  /-- the referee tile whose PREMP.SAVE waits for this save (R407) -/
  saver : Option Nat := none
deriving DecidableEq, Repr

/-- A saved configuration: its record and the tiles' architectural state, by save block · 8 + member (R388, R389). DESIGN CHOICE: notes/assumptions/8.md. -/
structure Saved where
  cfg : Cfg
  tiles : List (Nat × Tile)
deriving DecidableEq, Repr

/-! ## Partitions, contexts, fields, slices -/

/-- A partition (R342-R345) with the registers that each partition has one of. -/
structure Partition where
  owner : Nat
  x0 : Nat
  y0 : Nat
  x1 : Nat
  y1 : Nat
  refs : List Nat := []
  pmeas : List Byte := []
  /-- its DRAM key: two AES-256 keys (R351, R354) -/
  dramKey : List Byte := []
  agectl : Word := 0x000A
  rbctl : Word := 0x0064C001
  /-- RBCTL as the window in progress has it (R272, R273) -/
  rbNow : Word := 0x0064C001
  drainmax : Word := 0x00010000
  chgapt : Word := 0x0064
  chretry : Word := 0x0310
  chgaptNext : Word := 0x0064
  chretryNext : Word := 0x0310
  evbase : Word := 0
  evhead : Word := 0
  evtail : Word := 0
  ctxsel : Word := 0
  sess : Option (List Byte) := none
  /-- nonce and encapsulation key number of the handshake in progress (R357) -/
  hs : Option (List Byte × Nat) := none
  frozen : Bool := false
  rejects : Nat := 0
  rejMs : Nat := 0
  /-- the REJ source fired, level by level, in this millisecond (R348, R369) -/
  rejFired : Bool := false
  fences : List (Nat × Nat × Nat × Nat) := []
  order : List Nat := []
  winStart : Nat := 0
deriving DecidableEq, Repr

/-- A digest region (R193): its words in order by home, its keys a0 b0 c0 d0 a1 b1 c1 d1, its digests and the scan. -/
structure Region where
  len : Nat
  /-- first word of each stretch and its home address -/
  homes : List (Nat × Home)
  keys : List Nat
  d0 : Nat := 0
  d1 : Nat := 0
  scanned : Nat := 0
  /-- the slices that hold it (R28) -/
  slices : List Nat := []
deriving DecidableEq, Repr

/-- A context (R167, R276, R355, R387, R393, R396, R416). DESIGN CHOICE: notes/assumptions/4.md. -/
structure Ctx where
  owner : Nat := 0
  root : Nat := 0
  prio : Nat := 0
  savebase : Word := 0
  redctl : Word := 0
  sqbase : Word := 0
  sqlog : Word := 0
  sqtail : Word := 0
  sqhead : Word := 0
  cqbase : Word := 0
  cqlog : Word := 0
  cqhead : Word := 0
  cqWritten : Nat := 0
  cqWait : List (List Byte) := []
  lastCounter : Word := 0
  regions : Tbl Region := []
  verdicts : Tbl Word := []
  /-- streams whose last verdict holds back their next configuration (R315) -/
  gate : List Nat := []
  saved : List Saved := []
deriving DecidableEq, Repr

/-- A waiting start or stop request of a pacer (R323). -/
structure Req where
  tile : Nat
  pri : Nat
  at_ : Nat
deriving DecidableEq, Repr

/-- A field pacer (R323): when the last event was served and at which RATE, the waiting requests, the running starts. -/
structure Pacer where
  lastAt : Option Nat := none
  lastRate : Nat := 0x0BE0
  starts : List Req := []
  stops : List Req := []
  running : Nat := 0
deriving DecidableEq, Repr

/-- A gateway's translation entry (R167). -/
structure TlbEnt where
  ctx : Nat
  size : BitVec 2
  vpn : Nat
  pte : Word
  pteAt : Nat
deriving DecidableEq, Repr

/-- What the stopwatch accumulates for a field within a millisecond, counted from the first one without wrapping (R331). -/
structure SwAcc where
  ms : Nat := 0
  kill : Bool := false
  overI : Bool := false
  floor : Bool := false
  samples : Nat := 0
  vcomp : Nat := 0
  vnet : Nat := 0
  /-- twice the samples of current, and the products of rail voltage and twice the current -/
  cur : Nat := 0
  power : Nat := 0
  throt : Nat := 0
  grant : Nat := 0
  defer : Nat := 0
  /-- twice the highest sample of current, and twice the highest temperature -/
  ipeak : Nat := 0
  tmax : Option Int := none
  /-- sensors marked invalid when this millisecond's latest sample came -/
  invalid : Nat := 0
deriving DecidableEq, Repr

/-- A field (R280, R319-R332, R382, R392). -/
structure FieldSt where
  didt : Word := 0x01000BE0
  pgctl : Word := 0x000407D0
  icrit : Word := 0x00322328
  hbctl : Word := 0x0004000A
  shdint : Word := 0x0100
  meshctl : Word := 0x20
  pacer : Pacer := {}
  overSince : Option Nat := none
  /-- queued wakes, with the time each was queued (R328) -/
  wakes : List (Nat × Nat) := []
  /-- the slot boundary, in units of 64 ns, at which wakes were last admitted (R328) -/
  wakeSlot : Nat := 0
  setMv : Nat := 750
  compMv : Nat := 750
  netMv : Nat := 600
  throttled : Bool := false
  /-- when the throttle and the network governor last stepped (R320, R321) -/
  throtAt : Nat := 0
  govAt : Nat := 0
  hotSince : Option Nat := none
  sw : SwAcc := {}
  /-- milliseconds that have ended and whose records are still to be written; the next record's millisecond; a record was dropped (R331) -/
  swDone : List SwAcc := []
  swNext : Nat := 0
  swLost : Bool := false
  /-- the rebalancer's next sample, in units of 64 ns (R273) -/
  sampN : Nat := 0
  /-- the field's latest stopwatch record, which management reads (R424) -/
  swLast : List Byte := []
  tlb : List TlbEnt := []
  locked : List TlbEnt := []
  /-- the field is in a group that a redundant configuration has marked (R395) -/
  suspect : Bool := false
  /-- packets in the escape channel: sending tile and access number (R279) -/
  mesh : List (Nat × Nat) := []
deriving DecidableEq, Repr

/-- A chain of a finish-line buffer (R180, R182). -/
structure Chain where
  cfg : Nat
  L : BitVec 24
  E : BitVec 24
  gapAt : Option Nat := none
  gapSent : Bool := false
  /-- arrival number of the 64-byte access that is being performed unit by unit (R163, R180) -/
  cur : Option Nat := none
deriving DecidableEq, Repr

/-- An access held in a finish-line buffer (R180, R186). -/
structure ChEnt where
  tile : Nat
  acc : Acc
  tag : ChainTag
  arr : Nat
  tentative : Bool
  bypass : Bool
  /-- its commit's confirmation has acknowledged it (R185, R229) -/
  acked : Bool := false
  /-- a cancellation of its commit is on its way to it (R186) -/
  cancelled : Bool := false
  /-- what the units of a load that have performed gave -/
  got : Vec := 0
deriving DecidableEq, Repr

/-- A reduce window (R190). -/
structure Window where
  pa : Nat
  val : Wide
  mode : BitVec 3
  seed : BitVec 32
  /-- the word's address as the RED that opened the window issued it -/
  va : Word
  cfg : Nat
deriving DecidableEq, Repr

/-- A DRAM slice (R28). -/
structure Slice where
  chains : Tbl Chain := []
  ents : List ChEnt := []
  nextArr : Nat := 0
  wins : List Window := []
deriving DecidableEq, Repr

/-! ## Sequencer, collectives, security, links -/

/-- A message of the broadcast sequencer (R268). -/
inductive SMsg where
  | launch (c : Cfg) (start : Bool)
  | endNotice (sq : Nat)
  | dead (t : Nat)
  /-- with the referee tile that waits for the reply -/
  | remap (sq slot t : Nat)
  | tileState (t : Nat) (spare : Bool)
deriving DecidableEq, Repr

/-- An outstanding collective of this module (R309-R312). -/
structure Coll where
  g : Nat
  n : Nat
  /-- the group's entry as it was issued (R312) -/
  grp : Word := 0
  kind : BitVec 2
  ty : BitVec 4
  op : BitVec 2
  dg : Bool
  va : Word
  count : Nat
  root : Nat
  car : Carried
  pgsz : BitVec 2
  hd : Option Nat
  tile : Nat
  cfg : Nat
  ctx : Nat
  /-- accesses of the tile that must perform before the buffer is read (R310) -/
  stamp : Nat
  /-- the buffer page by page, as translated and pinned at issue (R309) -/
  pages : List Part := []
deriving DecidableEq, Repr

/-- Collective groups (R308, R312, R397). -/
structure CollSt where
  grp : Tbl Word := []
  grpNext : Tbl Word := []
  ord : Tbl Nat := []
  out : List Coll := []
  stopped : List Nat := []
  /-- barriers passed, by group: ordinal of the last one every rank has issued -/
  barDone : Tbl Nat := []
  /-- GID and rank that management has assigned, by group (R422; DEDUCED: notes/assumptions/59.md) -/
  assigned : Tbl Word := []
deriving DecidableEq, Repr

/-- A violation record (R349). -/
structure VRec where
  ms : Nat
  kind : Nat
  cls : Nat
  sown : Nat
  down : Nat
  stile : Nat
  dtile : Nat
  addr : Word
  count : Nat
deriving DecidableEq, Repr

/-- A pending quote (R362). -/
structure Quote where
  tile : Nat
  hd : Nat
  dst : Nat
  report : List Byte
  ctx : Nat
  owner : Nat
  cfg : Nat
deriving DecidableEq, Repr

/-- The security island (R354-R369, R423). -/
structure Sec where
  meas : Tbl (List Byte) := []
  alarmpol : Word := 0x0000000000400910
  xidx : Nat := 0
  flashF : Nat := 0
  sealCtr : Nat := 0
  sealF : Nat := 0
  flashOk : Bool := true
  idOk : Bool := false
  erased : Bool := false
  held : Bool := false
  log : List VRec := []
  quotes : List Quote := []
  /-- alarm sources that have met their condition, with the field or owner concerned, and fire next (R348, R367) -/
  due : List (AlarmSource × Nat) := []
  boot : Nat := 0
  ide : Bool := false
  /-- the CXL IDE key (R352), the identity public key and the device certificate (R358), the key of the granules in no partition -/
  ideKey : List Byte := []
  pubKey : List Byte := []
  cert : List Byte := []
  hostKey : List Byte := []
  debug : Bool := false
  serial : Word := 0
  /-- retention SRAM has lost its contents since the island last ran (R359) -/
  cold : Bool := true
deriving DecidableEq, Repr

/-- A replica link port (R353, R422). -/
structure LinkPort where
  st : BitVec 2 := 0
  fails : Nat := 0
  /-- frames sent, and frames received, under the keys there are (R353) -/
  frames : Nat := 0
  framesIn : Nat := 0
  /-- the identity quote last sent to the module at the other end (R353, R363) -/
  quote : List Byte := []
  /-- key exchanges so far, and the key of each direction (R353) -/
  keys : Nat := 0
  keyOut : List Byte := []
  keyIn : List Byte := []
deriving DecidableEq, Repr

/-- The telemetry ring registers (R421). DESIGN CHOICE: notes/assumptions/4.md. -/
structure Telemetry where
  base : Word := 0
  log : Word := 0
  tail : Word := 0
  head : Word := 0
deriving DecidableEq, Repr

/-- What the management interface has been given (R424). -/
inductive MgmtMsg where
  | stopwatch (r : List Byte)
  | seclog (l : List (List Byte))
  | linkst (up : Byte) (boot : Nat)
  | alert (src : AlarmSource)
  /-- bring-up failed at this step (R423) -/
  | bringUp (step : Nat)
deriving DecidableEq, Repr

/-- What the host has been given over its link: the answer to a read of its window (R350), and to a tenant's nonce through the SPDM
mailbox (R357). -/
inductive HostMsg where
  | session (owner : Nat) (ek : List Byte) (quote : List Byte)
  | cxl (data : List Byte) (poison : Bool)
deriving DecidableEq, Repr

/-- A migration under way (R197): old home of the page, the step reached, and the accesses, by tile and number, that were in flight
to the page as its stalls began. -/
structure Migr where
  spec : MigrSpec
  oldPa : Nat
  pteAt : Nat
  step : Nat
  flight : List (Nat × Nat) := []
deriving DecidableEq, Repr

/-- Bytes of a destination that an engine operation has emptied while no translation of their page stood (R178, R213): they are
empty when one comes. -/
structure Owed where
  ctx : Nat
  /-- the redundant run whose copy of the page is meant: its configuration and number (R394) -/
  run : Option (Nat × Nat) := none
  pg : BitVec 2
  va : Nat
  len : Nat
deriving DecidableEq, Repr

/-- Who moves: a tile core, or an event of the table. -/
inductive Turn where
  | tile (t : Nat)
  | ev (i : Instr)
deriving DecidableEq, Repr

/-- The module. DESIGN CHOICE: notes/assumptions/4.md. -/
structure State where
  /-- wall time in ns since the security island left reset (R404) -/
  now : Nat := 0
  /-- the model's own counter that picks the free values of time, one a step (notes/assumptions/6.md) -/
  tick : Nat := 0
  /-- the model's own counter of the other free values (notes/assumptions/6.md) -/
  free : Nat := 0
  /-- the model's own: the turns to come, first first; and the tile whose turn it is (DESIGN CHOICE: notes/assumptions/1.md) -/
  agenda : List Turn := []
  cur : Nat := 0
  tiles : Tbl Tile := []
  tileMap : Tbl Byte := []
  /-- tiles whose free bit is clear (R268) -/
  taken : List Nat := []
  dram : Store := {}
  granOwner : Tbl (BitVec 16) := []
  hostMem : Memory := []
  parts : List Partition := []
  ctxs : Tbl Ctx := []
  fields : Tbl FieldSt := []
  slices : Tbl Slice := []
  cfgs : List Cfg := []
  images : List (Nat × Word × Image) := []
  seqNext : Nat := 1
  /-- placements made so far (R276) -/
  placeNext : Nat := 0
  seqQ : List SMsg := []
  /-- tiles that move to spare (true) or to usable at the next configuration boundary (R33; DEDUCED: notes/assumptions/43.md) -/
  tileReq : List (Nat × Bool) := []
  coll : CollSt := {}
  migr : Option Migr := none
  owed : List Owed := []
  sec : Sec := {}
  /-- setpoints of the eight edge I/O rails and of the security island's, in mV (R319; DESIGN CHOICE: notes/assumptions/82.md) -/
  edgeMv : Tbl Nat := []
  secMv : Nat := 0
  links : Tbl LinkPort := []
  tm : Telemetry := {}
  mgmt : List MgmtMsg := []
  hostOut : List HostMsg := []
deriving DecidableEq, Repr

/-- The module right after power-on reset: every register at the value its map gives, memory with nothing listed. DEDUCED: notes/assumptions/3.md. -/
def State.reset : State := {}

/-- Why the machine stops. Safe: nothing is claimed of what follows. -/
inductive Fault where
  /-- Raised by `step` while the security island holds the module in reset or it has no power (R354, R369, R423): it accepts
  only power-on. Safe. -/
  | heldInReset
deriving DecidableEq, Repr

/-- Why an instruction has no meaning here. -/
inductive Refusal where
  /-- Raised by an arm of `exec` whose meaning is not written, with the row's mnemonic. Safe. -/
  | notModelled (mnemonic : String)
deriving DecidableEq, Repr

end Sys2Proof.Machine
end

