-- ==== Sys2Proof/Machine/Table.lean ====
section
/-! DEFINITION. Tables and bit helpers: reading and writing a table in its canonical form, bytes of a word, fields,
sign extension. -/

namespace Sys2Proof.Machine

/-- The value at key k, the default d where the key is absent. -/
def tget (d : α) : List (Nat × α) → Nat → α
  | [], _ => d
  | (j, x) :: r, k => if k = j then x else if k < j then d else tget d r k

/-- Insert or replace the value at key k, keeping the keys rising. -/
def tput : List (Nat × α) → Nat → α → List (Nat × α)
  | [], k, x => [(k, x)]
  | (j, y) :: r, k, x =>
    if k = j then (k, x) :: r else if k < j then (k, x) :: (j, y) :: r else (j, y) :: tput r k x

/-- Remove key k. -/
def tdel : List (Nat × α) → Nat → List (Nat × α)
  | [], _ => []
  | (j, y) :: r, k => if k = j then r else if k < j then (j, y) :: r else (j, y) :: tdel r k

/-- Write x at key k; writing the default removes the entry, so equal tables are equal lists. -/
def tset [DecidableEq α] (d : α) (t : List (Nat × α)) (k : Nat) (x : α) : List (Nat × α) :=
  if x = d then tdel t k else tput t k x

/-- Keys rise strictly, every one at least lo. -/
def trises : Nat → List (Nat × α) → Bool
  | _, [] => true
  | lo, (j, _) :: r => decide (lo ≤ j) && trises (j + 1) r

/-- The canonical form: keys rise strictly and no entry holds the default. -/
def twf [DecidableEq α] (d : α) (t : List (Nat × α)) : Bool :=
  trises 0 t && t.all (fun e => decide (e.2 ≠ d))

/-- The canonical form of a store's bytes. -/
def Memory.wf (m : Memory) : Bool := twf 0 m

/-- Bit i of a number. -/
def nbit (x i : Nat) : Bool := x / 2 ^ i % 2 == 1

/-- Bits [lo+n-1:lo] of a number. -/
def nfld (x lo n : Nat) : Nat := x / 2 ^ lo % 2 ^ n

/-- A w-bit number read as two's complement. -/
def toSigned (w x : Nat) : Int :=
  let y := x % 2 ^ w
  if 2 * y < 2 ^ w then (y : Int) else (y : Int) - 2 ^ w

/-- An integer wrapped to w bits. -/
def wrapN (w : Nat) (x : Int) : Nat := (x % (2 ^ w : Int)).toNat

/-- Byte i of a number, lowest first (R3). -/
def byteOf (x i : Nat) : Byte := BitVec.ofNat 8 (x / 2 ^ (8 * i))

/-- The number whose bytes are given, lowest first (R3). -/
def ofBytes : List Byte → Nat
  | [] => 0
  | b :: r => b.toNat + 256 * ofBytes r

/-- The n bytes of a number, lowest first. -/
def toBytes (n x : Nat) : List Byte := (List.range n).map (byteOf x)

/-- Read n bytes of a table of bytes from address a. DESIGN CHOICE: notes/assumptions/5.md. -/
def readBytes (m : Memory) (a n : Nat) : List Byte := (List.range n).map fun i => tget 0 m (a + i)

/-- Write bytes to a table of bytes from address a up. -/
def writeBytes (m : Memory) (a : Nat) : List Byte → Memory
  | [] => m
  | b :: r => writeBytes (tset 0 m a b) (a + 1) r

/-- The word at an address of a table of bytes, little-endian (R3). -/
def readWord64 (m : Memory) (a : Nat) : Word := BitVec.ofNat 64 (ofBytes (readBytes m a 8))

/-- Element j of width w in a number (R69, R92). -/
def elemOf (x w j : Nat) : Nat := x / 2 ^ (w * j) % 2 ^ w

/-- The number whose elements of width w are given, lowest first. -/
def ofElems (w : Nat) : List Nat → Nat
  | [] => 0
  | a :: r => a % 2 ^ w + 2 ^ w * ofElems w r

/-- The n elements of width w of a number. -/
def toElems (n w x : Nat) : List Nat := (List.range n).map (elemOf x w)

/-- Replace the entry at place n of a list. -/
def lset (l : List α) (n : Nat) (x : α) : List α := l.set n x

/-- The first entry that satisfies p, with its place. -/
def findIx (p : α → Bool) : List α → Option (Nat × α)
  | [] => none
  | a :: r => if p a then some (0, a) else (findIx p r).map fun q => (q.1 + 1, q.2)

/-- All the words of 64 bits as one number of 512 (a descriptor, R240). -/
def words8 (l : List Word) : Vec := BitVec.ofNat 512 (ofElems 64 (l.map (·.toNat)))

end Sys2Proof.Machine
end

