-- ==== Sys2Proof/Machine/Num.lean ====
section
/-! DEFINITION. Number formats and rounding (R60-R90): codes and values, RoundTo, stochastic rounding, overflow, underflow,
NaNs, conversions. Arithmetic is exact on dyadic numbers (R6) and narrows once, in `roundTo`. -/

namespace Sys2Proof.Machine

/-- Flags in the bit positions of FFLAGS (R82). -/
abbrev Flags := BitVec 7
def NX : Flags := 1
def UF : Flags := 2
def OF : Flags := 4
def DZ : Flags := 8
def NV : Flags := 16
def RG : Flags := 32
def SA : Flags := 64

/-- How a format spells NaN (R62, R65). -/
inductive NanKind where
  | ieee | e4m3 | none | b8s | b8u
deriving DecidableEq, Repr

/-- A floating-point format (R60, R61): width, fraction bits, bias, sign bit, the largest finite magnitude code, the
magnitude code of infinity if there is one, and its NaNs. -/
structure Fmt where
  w : Nat
  mb : Nat
  bias : Nat
  signed : Bool
  maxc : Nat
  inf : Option Nat
  nan : NanKind
deriving DecidableEq, Repr

def f32 : Fmt := ⟨32, 23, 127, true, 0x7F7FFFFF, some 0x7F800000, .ieee⟩
def bf16 : Fmt := ⟨16, 7, 127, true, 0x7F7F, some 0x7F80, .ieee⟩
def f16 : Fmt := ⟨16, 10, 15, true, 0x7BFF, some 0x7C00, .ieee⟩
def e5m2 : Fmt := ⟨8, 2, 15, true, 0x7B, some 0x7C, .ieee⟩
def e4m3 : Fmt := ⟨8, 3, 7, true, 0x7E, none, .e4m3⟩
def e2m1 : Fmt := ⟨4, 1, 1, true, 0x7, none, .none⟩

/-- The b8 layout that FMT8 selects (R65, R66). -/
def b8 (fmt8 : Word) : Fmt :=
  let p := fmt8.toNat % 8
  let uns := nbit fmt8.toNat 3
  let ext := nbit fmt8.toNat 4
  if uns then ⟨8, p - 1, 2 ^ (8 - p), false, if ext then 0xFD else 0xFE, if ext then some 0xFE else none, .b8u⟩
  else ⟨8, p - 1, 2 ^ (7 - p), true, if ext then 0x7E else 0x7F, if ext then some 0x7F else none, .b8s⟩

/-- The format of a floating-point type code (R51); an integer code has none. -/
def fmtOf (ty : BitVec 4) (fmt8 : Word) : Option Fmt :=
  match ty.toNat with
  | 8 => some f32
  | 9 => some bf16
  | 10 => some f16
  | 11 => some e4m3
  | 12 => some e5m2
  | 13 => some (b8 fmt8)
  | 14 => some e2m1
  | _ => none

/-- A dyadic number (−1)^s · m · 2^e; m = 0 is a zero with a sign. -/
structure Dy where
  s : Bool
  m : Nat
  e : Int
deriving DecidableEq, Repr

/-- What a code stands for. A NaN keeps its sign, the fraction bits below its quiet bit with their number, and whether it
is quiet (R62, R65). -/
inductive Val where
  | nan (s : Bool) (pay pw : Nat) (quiet : Bool)
  | inf (s : Bool)
  | fin (d : Dy)
deriving DecidableEq, Repr

/-- The exponent of the least subnormal step. -/
def Fmt.qmin (f : Fmt) : Int := 1 - (f.bias : Int) - (f.mb : Int)

/-- Whether a format has −0 (R60, R65). -/
def Fmt.negZero (f : Fmt) : Bool :=
  match f.nan with
  | .b8s => false
  | .b8u => false
  | _ => true

/-- The value of a code (R60-R63, R65). -/
def decodeVal (f : Fmt) (code : Nat) : Val :=
  let c := code % 2 ^ f.w
  let s := f.signed && decide (2 ^ (f.w - 1) ≤ c)
  let mag := if f.signed then c % 2 ^ (f.w - 1) else c
  let number : Val :=
    if f.inf = some mag then .inf s
    else if mag / 2 ^ f.mb = 0 then .fin ⟨s, mag, f.qmin⟩
    else .fin ⟨s, 2 ^ f.mb + mag % 2 ^ f.mb, (mag / 2 ^ f.mb : Nat) - (f.bias : Int) - (f.mb : Int)⟩
  match f.nan with
  | .ieee =>
    if (f.inf.getD 0) < mag then
      let fr := mag % 2 ^ f.mb
      .nan s (fr % 2 ^ (f.mb - 1)) (f.mb - 1) (decide (2 ^ (f.mb - 1) ≤ fr))
    else number
  | .e4m3 => if mag = 0x7F then .nan s 3 2 true else number
  | .b8s => if c = 0x80 then .nan false 0 0 true else number
  | .b8u => if c = 0xFF then .nan false 0 0 true else number
  | .none => number

/-- The code with a sign and a magnitude. -/
def withSign (f : Fmt) (s : Bool) (mag : Nat) : Nat := if s && f.signed then mag + 2 ^ (f.w - 1) else mag

/-- The code of zero with the sign where the format has −0 (R74). -/
def zeroCode (f : Fmt) (s : Bool) : Nat := if f.negZero then withSign f s 0 else 0

/-- The quiet NaN of a format with a sign and the top bits of a payload (R62, R87); e2m1 receives +0. -/
def nanCode (f : Fmt) (s : Bool) (pay pw : Nat) : Nat :=
  match f.nan with
  | .ieee =>
    let n := f.mb - 1
    let p := if pw ≤ n then pay * 2 ^ (n - pw) else pay / 2 ^ (pw - n)
    withSign f s (f.inf.getD 0 + 2 ^ n + (if f.mb ≤ 2 then 0 else p))
  | .e4m3 => withSign f s 0x7F
  | .b8s => 0x80
  | .b8u => 0xFF
  | .none => 0

/-- The canonical quiet NaN (R62). -/
def canonNan (f : Fmt) : Nat := nanCode f false 0 0

/-- The rounding state of one element: mode, and the number rnd of R77 that SR compares with. -/
structure Rm where
  mode : Nat
  rnd : Nat := 0
deriving DecidableEq, Repr

/-- A code with the flags raised in making it. -/
structure Res where
  code : Nat
  fl : Flags := 0
deriving DecidableEq, Repr

/-- Whether the mode takes the upper of two bracketing values: r / den is the part above the lower one, `odd` says the
lower code is odd, `neg` the sign (R74, R75, R78). -/
def roundsUp (rm : Rm) (neg odd : Bool) (r den : Nat) : Bool :=
  match rm.mode with
  | 0 => decide (den < 2 * r) || (decide (2 * r = den) && odd)
  | 1 => false
  | 2 => neg && decide (r ≠ 0)
  | 3 => !neg && decide (r ≠ 0)
  | 4 => decide (den ≤ 2 * r)
  | _ => decide (rm.rnd < r * 2 ^ 32 / den)

/-- Position of the leading one. -/
def ilog2 (d : Dy) : Int := (d.m.log2 : Int) + d.e

/-- m · 2^e in units of 2^q, rounded: the count of units, and whether the rounding was inexact. `par` is the parity that
the code of zero units would have. -/
def roundUnits (rm : Rm) (d : Dy) (q : Int) (par : Bool) : Nat × Bool :=
  if q ≤ d.e then (d.m * 2 ^ (d.e - q).toNat, false)
  else
    let den := 2 ^ (q - d.e).toNat
    let n := d.m / den
    let r := d.m % den
    let odd := (n % 2 == 1) != par
    (if roundsUp rm d.s odd r den then n + 1 else n, decide (r ≠ 0))

/-- The result of an overflow (R80). -/
def overflowCode (f : Fmt) (mode : Nat) (sat s : Bool) : Res :=
  let mx := withSign f s f.maxc
  if f.nan = .none then ⟨mx, OF ||| NX ||| SA⟩
  else if sat then ⟨mx, OF ||| NX ||| SA⟩
  else match f.inf with
    | some i =>
      let toMax := match mode with
        | 1 => true
        | 2 => !s
        | 3 => s
        | _ => false
      ⟨if toMax then mx else withSign f s i, OF ||| NX⟩
    | none => ⟨nanCode f s 0 0, OF ||| NX⟩

/-- RoundTo(fmt, x, mode) for finite x, with its flags (R74, R75, R80, R81, R88). -/
def roundTo (f : Fmt) (rm : Rm) (sat : Bool) (x : Dy) : Res :=
  if x.m = 0 then ⟨zeroCode f x.s, 0⟩
  else if x.s && !f.signed then ⟨0, if sat then SA else NV⟩
  else
    let E := ilog2 x
    let q := max (E - (f.mb : Int)) f.qmin
    let off := (q - f.qmin).toNat * 2 ^ f.mb
    let (n, inex) := roundUnits rm x q (off % 2 == 1)
    let magc := off + n
    if f.maxc < magc then overflowCode f rm.mode sat x.s
    else
      let q2 := E - (f.mb : Int)
      let (n2, _) := roundUnits rm x q2 ((q2 - f.qmin) % 2 == 1 && f.mb == 0)
      let tiny := decide (E < 1 - (f.bias : Int)) &&
        !(decide (n2 = 2 ^ (f.mb + 1)) && decide (E = -(f.bias : Int)))
      let fl := if inex then (if tiny then NX ||| UF else NX) else 0
      ⟨if magc = 0 then zeroCode f x.s else withSign f x.s magc, fl⟩

/-- Round an exact number to an integer, and whether it was none (R89, R112). -/
def roundInt (rm : Rm) (x : Dy) : Int × Bool :=
  let (n, inex) := roundUnits rm x 0 false
  (if x.s then -(n : Int) else (n : Int), inex)

/-! Stochastic rounding (R77): all on unsigned 32-bit values. -/

def mix (h : BitVec 32) : BitVec 32 :=
  let h := h ^^^ (h >>> 16)
  let h := h * 0x85EBCA6B#32
  let h := h ^^^ (h >>> 13)
  let h := h * 0xC2B2AE35#32
  h ^^^ (h >>> 16)

/-- rnd of an element: its index and its address (R77). -/
def srRnd (seed addr : BitVec 32) (idx : Nat) : Nat := (mix (mix (seed ^^^ addr) ^^^ BitVec.ofNat 32 idx)).toNat

/-! Exact arithmetic on finite numbers (R105). -/

def Dy.toInt (d : Dy) (q : Int) : Int :=
  let n : Int := d.m * 2 ^ (d.e - q).toNat
  if d.s then -n else n

def Dy.mul (a b : Dy) : Dy := ⟨a.s != b.s, a.m * b.m, a.e + b.e⟩
def Dy.neg (a : Dy) : Dy := ⟨!a.s, a.m, a.e⟩

/-- An integer times 2^q, zero with the sign given. -/
def ofIntAt (zs : Bool) (n q : Int) : Dy := if n = 0 then ⟨zs, 0, q⟩ else ⟨decide (n < 0), n.natAbs, q⟩

/-- The exact sum with the sign rules of a zero sum (R105): +0 from opposite signs, −0 under RDN. -/
def Dy.add (mode : Nat) (a b : Dy) : Dy :=
  let q := min a.e b.e
  let zs := if a.m = 0 && b.m = 0 && a.s == b.s then a.s else mode == 2
  ofIntAt zs (a.toInt q + b.toInt q) q

/-- The order of finite numbers, −0 below +0 when `zeros` (R106, R108). -/
def Dy.lt (zeros : Bool) (a b : Dy) : Bool :=
  let q := min a.e b.e
  let x := a.toInt q
  let y := b.toInt q
  decide (x < y) || (zeros && decide (x = 0) && decide (y = 0) && a.s && !b.s)

/-! NaN rules (R86). -/

def Val.isNan : Val → Bool
  | .nan _ _ _ _ => true
  | _ => false
def Val.isSnan : Val → Bool
  | .nan _ _ _ q => !q
  | _ => false
def Val.isInf : Val → Bool
  | .inf _ => true
  | _ => false
def Val.isZero : Val → Bool
  | .fin d => d.m == 0
  | _ => false
def Val.sign : Val → Bool
  | .nan s _ _ _ => s
  | .inf s => s
  | .fin d => d.s

/-- A value of a format encoded exactly: a NaN quieted. -/
def encodeVal (f : Fmt) (rm : Rm) (sat : Bool) : Val → Res
  | .nan s p pw _ => ⟨nanCode f s p pw, 0⟩
  | .inf s => match f.inf with
    | some i => ⟨withSign f s i, 0⟩
    | none => overflowCode f rm.mode sat s
  | .fin d => roundTo f rm sat d

/-- NV when any operand signals. -/
def snanFlag (l : List Val) : Flags := if l.any Val.isSnan then NV else 0

/-- The first NaN of the operands, quieted, in the format, with NV if any signals (R86). -/
def nanResult (f : Fmt) (l : List Val) : Option Res :=
  match l.find? Val.isNan with
  | some v => some { encodeVal f ⟨0, 0⟩ false v with fl := snanFlag l }
  | none => none

/-- An invalid operation without a NaN operand (R86). -/
def invalid (f : Fmt) : Res := ⟨canonNan f, NV⟩

/-- a × b + c as one exact computation and one rounding; `nc` is the order of NaN operands, the fused order when the
operation is a fused multiply-add (R86, R105). Signs of the formula are in na (product) and ns (addend). -/
def fmaVal (f : Fmt) (rm : Rm) (sat na ns : Bool) (a b c : Val) : Res :=
  let zeroInf := (a.isZero && b.isInf) || (a.isInf && b.isZero)
  match nanResult f [c, a, b] with
  | some r => { r with fl := r.fl ||| (if zeroInf then NV else 0) }
  | none =>
    if zeroInf then invalid f
    else
      let ps := (a.sign != b.sign) != na
      let cs := c.sign != ns
      let pinf := a.isInf || b.isInf
      if pinf && c.isInf then (if ps == cs then encodeVal f rm sat (.inf ps) else invalid f)
      else if pinf then encodeVal f rm sat (.inf ps)
      else match a, b, c with
        | .fin x, .fin y, .fin z =>
          let p := x.mul y
          let p := if na then p.neg else p
          roundTo f rm sat (p.add rm.mode (if ns then z.neg else z))
        | _, _, .inf _ => encodeVal f rm sat (.inf cs)
        | _, _, _ => invalid f

/-- a + b, or a − b, rounded once (R105). -/
def addVal (f : Fmt) (rm : Rm) (sat sub : Bool) (a b : Val) : Res :=
  match nanResult f [a, b] with
  | some r => r
  | none =>
    let bs := b.sign != sub
    match a, b with
    | .fin x, .fin y => roundTo f rm sat (x.add rm.mode (if sub then y.neg else y))
    | .inf s, .inf _ => if s == bs then encodeVal f rm sat (.inf s) else invalid f
    | .inf s, _ => encodeVal f rm sat (.inf s)
    | _, _ => encodeVal f rm sat (.inf bs)

/-- a × b rounded once (R105). -/
def mulVal (f : Fmt) (rm : Rm) (sat : Bool) (a b : Val) : Res :=
  match nanResult f [a, b] with
  | some r => r
  | none =>
    if (a.isZero && b.isInf) || (a.isInf && b.isZero) then invalid f
    else match a, b with
      | .fin x, .fin y => roundTo f rm sat (x.mul y)
      | _, _ => encodeVal f rm sat (.inf (a.sign != b.sign))

/-- An exact quotient n / d · 2^e as a dyadic: `prec` bits, a last bit set when anything was cut off, which rounds as the
exact quotient does, stochastic rounding included. -/
def quotient (s : Bool) (n d : Nat) (e : Int) (prec : Nat) : Dy :=
  let k := prec + d.log2
  let q := n * 2 ^ k / d
  ⟨s, 2 * q + (if n * 2 ^ k % d = 0 then 0 else 1), e - k - 1⟩

/-- a / b rounded once (R105). -/
def divVal (f : Fmt) (rm : Rm) (sat : Bool) (a b : Val) : Res :=
  match nanResult f [a, b] with
  | some r => r
  | none =>
    let s := a.sign != b.sign
    match a, b with
    | .fin x, .fin y =>
      if y.m = 0 then (if x.m = 0 then invalid f else { encodeVal f rm false (.inf s) with fl := DZ })
      else if x.m = 0 then ⟨zeroCode f s, 0⟩
      else roundTo f rm sat (quotient s x.m y.m (x.e - y.e) 128)
    | .inf _, .inf _ => invalid f
    | .inf _, _ => encodeVal f rm sat (.inf s)
    | _, _ => ⟨zeroCode f s, 0⟩

/-- minimum (lo) or maximum; `num` returns the operand that is no NaN (R106). -/
def minmaxVal (f : Fmt) (lo num : Bool) (a b : Val) (ca cb : Nat) : Res :=
  let pick : Res :=
    let aLtB : Bool := match a, b with
      | .fin x, .fin y => x.lt true y
      | .inf s, .fin _ => s
      | .inf s, .inf t => s && !t
      | .fin _, .inf t => !t
      | _, _ => false
    ⟨if aLtB == lo then ca else cb, 0⟩
  if num && a.isNan && !b.isNan then ⟨cb, snanFlag [a]⟩
  else if num && b.isNan && !a.isNan then ⟨ca, snanFlag [b]⟩
  else match nanResult f [a, b] with
    | some r => r
    | none => pick

/-- Equality and order of two values that are no NaN (R108). -/
def eqVal (a b : Val) : Bool :=
  match a, b with
  | .fin x, .fin y => !x.lt false y && !y.lt false x
  | .inf s, .inf t => s == t
  | _, _ => false

def ltVal (a b : Val) : Bool :=
  match a, b with
  | .fin x, .fin y => x.lt false y
  | .inf s, .fin _ => s
  | .inf s, .inf t => s && !t
  | .fin _, .inf t => !t
  | _, _ => false

/-- fcmp by condition 0 eq, 1 lt, 2 le, 3 un (R108). -/
def fcmpVal (cc : Nat) (a b : Val) : Bool × Flags :=
  let un := a.isNan || b.isNan
  let nv := if cc = 1 || cc = 2 then (if un then NV else 0) else snanFlag [a, b]
  (match cc with
   | 0 => !un && eqVal a b
   | 1 => !un && ltVal a b
   | 2 => !un && (ltVal a b || eqVal a b)
   | _ => un, nv)

/-- fclass (R109): the number of the one bit set. -/
def fclassBit (f : Fmt) (v : Val) : Nat :=
  match v with
  | .nan _ _ _ q => if q then 9 else 8
  | .inf s => if s then 0 else 7
  | .fin d =>
    if d.m = 0 then (if d.s then 3 else 4)
    else if d.m < 2 ^ f.mb then (if d.s then 2 else 5)
    else (if d.s then 1 else 6)

/-! Conversions (R87-R90). -/

/-- A value of another format rounded into f (R87, R88). -/
def convVal (f : Fmt) (rm : Rm) (sat : Bool) (v : Val) : Res :=
  match v with
  | .nan s p pw q => ⟨nanCode f s p pw, (if q then 0 else NV) ||| (if f.nan = .none then NV else 0)⟩
  | .inf s =>
    if s && !f.signed then ⟨0, if sat then SA else NV⟩
    else match f.inf with
      | some i => ⟨withSign f s i, 0⟩
      | none =>
        if f.nan = .none then ⟨withSign f s f.maxc, SA⟩
        else if sat then ⟨withSign f s f.maxc, SA⟩
        else ⟨nanCode f s 0 0, NV⟩
  | .fin d => roundTo f rm sat d

/-- Range of an integer type (R68). -/
def intLo (w : Nat) (sgn : Bool) : Int := if sgn then -(2 ^ (w - 1) : Int) else 0
def intHi (w : Nat) (sgn : Bool) : Int := if sgn then (2 ^ (w - 1) : Int) - 1 else (2 ^ w : Int) - 1

/-- An exact integer wrapped, or clamped with SA (R69). -/
def fitInt (w : Nat) (sgn sat : Bool) (x : Int) : Res :=
  if sat then
    if x < intLo w sgn then ⟨wrapN w (intLo w sgn), SA⟩
    else if intHi w sgn < x then ⟨wrapN w (intHi w sgn), SA⟩
    else ⟨wrapN w x, 0⟩
  else ⟨wrapN w x, 0⟩

/-- A floating-point value converted to an integer type (R89). -/
def floatToInt (w : Nat) (sgn sat : Bool) (rm : Rm) (v : Val) : Res :=
  let clampFl := if sat then SA else NV
  match v with
  | .nan _ _ _ _ => ⟨0, NV⟩
  | .inf s => ⟨wrapN w (if s then intLo w sgn else intHi w sgn), clampFl⟩
  | .fin d =>
    let (n, inex) := roundInt rm d
    if n < intLo w sgn then ⟨wrapN w (intLo w sgn), clampFl⟩
    else if intHi w sgn < n then ⟨wrapN w (intHi w sgn), clampFl⟩
    else ⟨wrapN w n, if inex then NX else 0⟩

/-- An integer as an exact number. -/
def dyOfInt (x : Int) : Dy := ⟨decide (x < 0), x.natAbs, 0⟩

/-- An integer converted to a floating-point format (R90). -/
def intToFloat (f : Fmt) (rm : Rm) (sat : Bool) (x : Int) : Res := roundTo f rm sat (dyOfInt x)

/-- frnd (R112): an integral value of the same format; NX only in the `.x` form. -/
def frndVal (f : Fmt) (rm : Rm) (x : Bool) (v : Val) (code : Nat) : Res :=
  match v with
  | .nan _ _ _ _ => (nanResult f [v]).getD ⟨code, 0⟩
  | .inf _ => ⟨code, 0⟩
  | .fin d =>
    if d.m = 0 then ⟨code, 0⟩
    else
      let (n, inex) := roundInt rm d
      ⟨(roundTo f ⟨0, 0⟩ false ⟨d.s, n.natAbs, 0⟩).code, if x && inex then NX else 0⟩

/-- fgetexp (R113). -/
def fgetexpVal (f : Fmt) (v : Val) (code : Nat) : Res :=
  match v with
  | .nan _ _ _ _ => (nanResult f [v]).getD ⟨code, 0⟩
  | .inf _ => ⟨withSign f false (f.inf.getD 0), 0⟩
  | .fin d =>
    if d.m = 0 then ⟨withSign f true (f.inf.getD 0), DZ⟩
    else roundTo f ⟨0, 0⟩ false (dyOfInt (ilog2 d))

/-- fscale (R113): a × 2^n rounded. -/
def fscaleVal (f : Fmt) (rm : Rm) (sat : Bool) (v : Val) (n : Int) : Res :=
  match v with
  | .nan _ _ _ _ => (nanResult f [v]).getD ⟨0, 0⟩
  | .inf s => encodeVal f rm sat (.inf s)
  | .fin d => roundTo f rm sat { d with e := d.e + n }

end Sys2Proof.Machine
end

