-- ==== Sys2Proof/Machine/Wide.lean ====
section
/-! DEFINITION. Wide accumulators (R127), which the reduce windows and the collectives use too (R190, R311). -/

namespace Sys2Proof.Machine

/-- V as an integer, in units of 2^-149. -/
def Wide.val (w : Wide) : Int := w.V.toInt

/-- Whether an integer fits in V. -/
def wideFits (x : Int) : Bool := decide (-(2 ^ 319 : Int) ≤ x) && decide (x < (2 ^ 319 : Int))

/-- The state NaN with code q. -/
def Wide.toNan (w : Wide) (q : Nat) : Wide := { w with W := 3, Q := BitVec.ofNat 32 q }

/-- Add one value exactly (R127). On a sum that V cannot hold, V stays. DEDUCED: notes/assumptions/17.md. -/
def Wide.add (w : Wide) (v : Val) : Wide × Flags :=
  if w.W = 3 then (w, snanFlag [v])
  else match v with
    | .nan s p pw _ => (w.toNan (nanCode f32 s p pw), snanFlag [v])
    | .inf s =>
      let k : BitVec 2 := if s then 2 else 1
      if w.W = 0 || w.W = k then ({ w with W := k }, 0) else (w.toNan 0x7FC00000, NV)
    | .fin d =>
      let x := w.val + d.toInt (-149)
      if wideFits x then ({ w with V := BitVec.ofInt 320 x }, 0) else (w.toNan 0x7FC00000, NV)

/-- Add the values of a list in order, with the flags raised. -/
def Wide.addAll (w : Wide) : List Val → Wide × Flags
  | [] => (w, 0)
  | v :: r =>
    let (w1, f1) := w.add v
    let (w2, f2) := w1.addAll r
    (w2, f1 ||| f2)

/-- Add a sum that another accumulator holds, with its tags (R158, R190). -/
def Wide.join (w u : Wide) : Wide × Flags :=
  if w.W = 3 then (w, 0)
  else if u.W = 3 then ({ w with W := 3, Q := u.Q }, 0)
  else
    let (x, f) := if u.W = 0 then (w, 0) else w.add (.inf (u.W == 2))
    if x.W = 3 then (x, f)
    else if wideFits (x.val + u.val) then ({ x with V := x.V + u.V }, f) else (x.toNan 0x7FC00000, f ||| NV)

/-- wrnd: the accumulator rounded into a format (R127); a Q that is no NaN code is converted as the number it encodes. DEDUCED:
notes/assumptions/91.md. -/
def Wide.round (w : Wide) (f : Fmt) (rm : Rm) (sat : Bool) : Res :=
  match w.W.toNat with
  | 0 => if w.val = 0 then ⟨0, 0⟩ else roundTo f rm sat ⟨decide (w.val < 0), w.val.natAbs, -149⟩
  | 1 => encodeVal f rm sat (.inf false)
  | 2 => encodeVal f rm sat (.inf true)
  | _ => convVal f rm sat (decodeVal f32 w.Q.toNat)

/-- The 512-bit layout of wmov: V in lanes 0 to 9, W in lane 10, Q in lane 11 (R127). -/
def Wide.toVec (w : Wide) : Vec := BitVec.ofNat 512 (w.V.toNat + w.W.toNat * 2 ^ 320 + w.Q.toNat * 2 ^ 352)

/-- Read the layout back; none when a bit that must be zero is set (R127). -/
def Wide.ofVec (v : Vec) : Option Wide :=
  let n := v.toNat
  if nfld n 322 30 = 0 && nfld n 384 128 = 0 then
    some ⟨BitVec.ofNat 320 n, BitVec.ofNat 2 (nfld n 320 2), BitVec.ofNat 32 (nfld n 352 32)⟩
  else none

end Sys2Proof.Machine
end

