-- ==== Sys2Proof/Machine/Mem.lean ====
section
/-! DEFINITION. Access to the parts of State, and the stores at the homes: reads and writes with their SECDED units (R15,
R28), full/empty bits (R178), reduce windows (R190), digests (R193-R195), page walks and permissions (R167-R174). -/

namespace Sys2Proof.Machine

/-! ## Parts of the state -/

def State.tile (s : State) (t : Nat) : Tile := tget {} s.tiles t
def State.setTile (s : State) (t : Nat) (x : Tile) : State := { s with tiles := tput s.tiles t x }
def State.modTile (s : State) (t : Nat) (f : Tile → Tile) : State := s.setTile t (f (s.tile t))
def State.ctx (s : State) (c : Nat) : Ctx := tget {} s.ctxs c
def State.modCtx (s : State) (c : Nat) (f : Ctx → Ctx) : State := { s with ctxs := tput s.ctxs c (f (s.ctx c)) }
def State.field (s : State) (f : Nat) : FieldSt := tget {} s.fields f
def State.modField (s : State) (n : Nat) (f : FieldSt → FieldSt) : State :=
  { s with fields := tput s.fields n (f (s.field n)) }
def State.slice (s : State) (n : Nat) : Slice := tget {} s.slices n
def State.modSlice (s : State) (n : Nat) (f : Slice → Slice) : State :=
  { s with slices := tput s.slices n (f (s.slice n)) }

/-- Coordinates and field of a tile (R11). -/
def tileX (t : Nat) : Nat := t % 96
def tileY (t : Nat) : Nat := t / 96
def fieldOf (t : Nat) : Nat := 8 * (tileY t / 12) + tileX t / 12

/-- Whether a tile lies in a partition's rectangle (R342). -/
def Partition.has (p : Partition) (t : Nat) : Bool :=
  decide (t < Config.numTiles) && decide (p.x0 ≤ tileX t) && decide (tileX t ≤ p.x1) &&
    decide (p.y0 ≤ tileY t) && decide (tileY t ≤ p.y1)

/-- The partition that holds a tile. -/
def State.partOf (s : State) (t : Nat) : Option Partition := s.parts.find? (·.has t)
/-- Owner ID of a tile, 0 when in no partition (R342). DEDUCED: notes/assumptions/24.md. -/
def State.ownerOf (s : State) (t : Nat) : Nat := ((s.partOf t).map (·.owner)).getD 0
/-- The partition of an owner. -/
def State.part (s : State) (o : Nat) : Option Partition := s.parts.find? (·.owner == o)
def State.modPart (s : State) (o : Nat) (f : Partition → Partition) : State :=
  { s with parts := s.parts.map fun p => if p.owner == o then f p else p }
/-- Referee level belongs to the referee tiles of the partition (R345). -/
def State.refLevel (s : State) (t : Nat) : Bool := s.parts.any fun p => p.has t && p.refs.contains t
/-- The configuration with a sequence number. -/
def State.cfg (s : State) (sq : Nat) : Option Cfg := s.cfgs.find? (·.sq == sq)
def State.modCfg (s : State) (sq : Nat) (f : Cfg → Cfg) : State :=
  { s with cfgs := s.cfgs.map fun c => if c.sq == sq then f c else c }
/-- The millisecond count (R331). -/
def State.ms (s : State) : Nat := s.now / 1000000 % 2 ^ 32
/-- Change what a field's stopwatch accumulates in the millisecond of now; one that has ended waits for its record (R331). -/
def State.count (s : State) (n : Nat) (g : SwAcc → SwAcc) : State := s.modField n fun f =>
  let ms := s.now / 1000000
  if f.sw.ms = ms then { f with sw := g f.sw }
  else { f with sw := g { ms := ms, invalid := f.sw.invalid }, swDone := f.swDone ++ [f.sw] }
/-- The next free value's number, and the state that has used it. DESIGN CHOICE: notes/assumptions/6.md. -/
def State.takeFree (s : State) : Nat × State := (s.free, { s with free := s.free + 1 })
/-- The actor a tile holds, as its image declares it. -/
def State.actorDecl (s : State) (t : Nat) : Option ActorDecl :=
  match (s.tile t).sch.actor with
  | none => none
  | some a => (s.cfg a.cfg).bind fun c => c.image.actors[a.slot]?
/-- The context a tile works for: the running task's, else its configuration's (R425). -/
def State.ctxOf (s : State) (t : Nat) : Nat :=
  match (s.tile t).sch.task with
  | some k => k.ctx
  | none => match (s.tile t).sch.actor with
    | some a => ((s.cfg a.cfg).map (·.ctx)).getD 0
    | none => 0
/-- STATE of a tile in the tile map (R32). -/
def State.tileState (s : State) (t : Nat) : Nat := nfld (tget 0 s.tileMap t).toNat 6 2
def State.tileClass (s : State) (t : Nat) : Nat := nfld (tget 0 s.tileMap t).toNat 4 2
def State.setTileState (s : State) (t v : Nat) : State :=
  { s with tileMap := tset 0 s.tileMap t (BitVec.ofNat 8 (v * 64 + (tget 0 s.tileMap t).toNat % 64)) }
/-- A tile to which nothing is delivered: fenced, or declared dead, from which moment its routers fence it (R34, R386). -/
def State.unreachable (s : State) (t : Nat) : Bool := s.tileState t == 3 || (s.tile t).fenced || (s.tile t).dead

/-! ## Stores (R15, R28) -/

/-- The units that bytes [a, a+n) touch: 8 aligned bytes, in a tile store and, since the size of a DRAM line's protected unit is not
stated (R28), in DRAM. DESIGN CHOICE: notes/assumptions/72.md. -/
def unitsOf (a n : Nat) : List Nat := (List.range ((a + n - 1) / 8 + 1 - a / 8)).map (a / 8 + ·)
/-- A unit that [a, a+n) covers whole. -/
def coversUnit (a n u : Nat) : Bool := decide (a ≤ 8 * u) && decide (8 * u + 8 ≤ a + n)

/-- The first uncorrectable unit that a read of n bytes meets. -/
def Store.badRead (st : Store) (a n : Nat) : Option Nat :=
  if st.bad2.isEmpty || n == 0 then none else (unitsOf a n).find? st.bad2.contains
/-- The first uncorrectable unit that a write of n bytes has to merge into. -/
def Store.badWrite (st : Store) (a n : Nat) : Option Nat :=
  if st.bad2.isEmpty || n == 0 then none
  else (unitsOf a n).find? fun u => st.bad2.contains u && !coversUnit a n u
/-- The state of a store after a read of n bytes: single-bit errors corrected and written back. -/
def Store.scrub (st : Store) (a n : Nat) : Store :=
  if st.bad1.isEmpty || n == 0 then st else { st with bad1 := st.bad1.filter fun u => !(unitsOf a n).contains u }
/-- Bytes written, errors of the units touched gone. -/
def Store.put (st : Store) (a : Nat) (bs : List Byte) : Store :=
  let n := bs.length
  { st with
    bytes := writeBytes st.bytes a bs
    bad1 := if st.bad1.isEmpty then [] else st.bad1.filter fun u => !(unitsOf a n).contains u
    bad2 := if st.bad2.isEmpty then [] else st.bad2.filter fun u => !coversUnit a n u }

/-- DESIGN CHOICE: notes/assumptions/5.md. -/
def Store.full (st : Store) (k : Nat) : Bool := tget true st.fe k
def Store.setFe (st : Store) (k : Nat) (b : Bool) : Store := { st with fe := tset true st.fe k b }
/-- Set n full/empty bits from number k. -/
def Store.setFes (st : Store) (k : Nat) (b : Bool) : Nat → Store
  | 0 => st
  | n + 1 => (st.setFe k b).setFes (k + 1) b n
def Store.allFull (st : Store) (k n : Nat) : Bool := (List.range n).all fun i => st.full (k + i)

/-! ## Homes -/

/-- The store of a home and the address in it. Host memory holds bytes only. -/
def State.homeStore (s : State) : Home → Store × Nat
  | .tile t off => ((s.tile t).store, off)
  | .dram pa => (s.dram, pa)
  | .host pa => ({ bytes := s.hostMem }, pa)
def State.putHome (s : State) (h : Home) (st : Store) : State :=
  match h with
  | .tile t _ => s.modTile t fun x => { x with store := st }
  | .dram _ => { s with dram := st }
  | .host _ => { s with hostMem := st.bytes }
/-- The home k bytes on. -/
def Home.add (h : Home) (k : Nat) : Home :=
  match h with
  | .tile t off => .tile t (off + k)
  | .dram pa => .dram (pa + k)
  | .host pa => .host (pa + k)
/-- The 64-byte line of a home. -/
def Home.line : Home → Home
  | .tile t off => .tile t (off / 64 * 64)
  | .dram pa => .dram (pa / 64 * 64)
  | .host pa => .host (pa / 64 * 64)
/-- The home of a unit of the same store. -/
def Home.unit (h : Home) (u : Nat) : Home :=
  match h with
  | .tile t _ => .tile t (8 * u)
  | .dram _ => .dram (8 * u)
  | .host _ => .host (8 * u)
/-- First full/empty bit and how many n bytes cover: words of a tile store, lines of DRAM (R178). -/
def Home.feRange (h : Home) (n : Nat) : Nat × Nat :=
  match h with
  | .tile _ off => (off / 4, (off + n + 3) / 4 - off / 4)
  | .dram pa => (pa / 64, (pa + n + 63) / 64 - pa / 64)
  | .host _ => (0, 0)
/-- Owner of a DRAM granule (R350). DEDUCED: notes/assumptions/24.md. -/
def granOwnerOf (s : State) (pa : Nat) : Nat := (tget 0 s.granOwner (pa / 2 ^ 21)).toNat
/-- The slice of a physical address (R27). -/
def sliceOfPa (pa : Nat) : Nat := pa / 4096 % 256
/-- The stack that a slice belongs to, its number within the stack (R26). -/
def stackOf (slice : Nat) : Nat := slice / 8
def sliceInStack (slice : Nat) : Nat := slice % 8
/-- The edge field to which a stack attaches: eight stacks each on the north, east, south and west edge (R26). -/
def stackField (stack : Nat) : Nat :=
  match stack / 8 with
  | 0 => stack
  | 1 => 8 * (stack - 8) + 7
  | 2 => 56 + (stack - 16)
  | _ => 8 * (stack - 24)
/-- The field through whose gateway a slice enters the fabric (R26). -/
def sliceField (slice : Nat) : Nat := stackField (stackOf slice)

/-! ## Digests (R193-R195) -/

def digestP : Nat := 2 ^ 61 - 1
/-- H_j(o, v) under keys a b c d (R194). -/
def digestH (a b c d o v : Nat) : Nat := (a * o + b) % digestP * ((c * v + d) % digestP) % digestP

/-- The places within a region of the word at a home: one for each mapping of its page. -/
def regionOffs (homes : List (Nat × Home)) (len : Nat) (h : Home) : List Nat :=
  match homes with
  | [] => []
  | (first, base) :: r =>
    let next := match r with
      | (k, _) :: _ => k
      | [] => len
    let hit : List Nat := match base, h with
      | .tile t off, .tile u o => if t == u && decide (off ≤ o) && decide (o - off < 4 * (next - first)) then [first + (o - off) / 4] else []
      | .dram pa, .dram o => if decide (pa ≤ o) && decide (o - pa < 4 * (next - first)) then [first + (o - pa) / 4] else []
      | _, _ => []
    hit ++ regionOffs r len h
/-- The home of a region's word k. -/
def regionHome (homes : List (Nat × Home)) (k : Nat) : Option Home :=
  ((homes.filter fun e => decide (e.1 ≤ k)).getLast?).map fun e => e.2.add (4 * (k - e.1))

/-- Key n of a region. -/
def Region.key (r : Region) (n : Nat) : Nat := r.keys[n]?.getD 0
/-- The two hashes of word o holding v. -/
def Region.hash (r : Region) (o v : Nat) : Nat × Nat :=
  (digestH (r.key 0) (r.key 1) (r.key 2) (r.key 3) o v, digestH (r.key 4) (r.key 5) (r.key 6) (r.key 7) o v)
/-- D_j after word o changed (R194): only words the scan has read count (R195). -/
def Region.update (r : Region) (o old new : Nat) : Region :=
  if decide (r.scanned ≤ o) then r
  else
    let (x0, x1) := r.hash o old
    let (y0, y1) := r.hash o new
    { r with d0 := (r.d0 + y0 + (digestP - x0)) % digestP, d1 := (r.d1 + y1 + (digestP - x1)) % digestP }

/-- The word that a home's store holds at an address aligned to 4. -/
def Store.word (st : Store) (a : Nat) : Nat := ofBytes (readBytes st.bytes (a / 4 * 4) 4)

/-- Update every region for the words of n bytes at a home whose store was `old` and is `new`. -/
def digestWrite (s : State) (h : Home) (n : Nat) (old new : Store) : State :=
  if s.ctxs.all fun c => c.2.regions.isEmpty then s
  else
    let (base, at0) : (Nat → Home) × Nat := match h with
      | .tile t off => (fun a => Home.tile t a, off)
      | .dram pa => (fun a => Home.dram a, pa)
      | .host pa => (fun a => Home.host a, pa)
    let words := (List.range ((at0 + n + 3) / 4 - at0 / 4)).map fun i => 4 * (at0 / 4 + i)
    let upd (r : Region) : Region := words.foldl (fun r a =>
      (regionOffs r.homes r.len (base a)).foldl (fun r o => r.update o (old.word a) (new.word a)) r) r
    { s with ctxs := s.ctxs.map fun c => (c.1, { c.2 with regions := c.2.regions.map fun e => (e.1, upd e.2) }) }

/-- Write bytes at a home, unconditionally: units, digests (R15, R194). -/
def rawWrite (s : State) (h : Home) (bs : List Byte) : State :=
  let (st, a) := s.homeStore h
  let st' := st.put a bs
  digestWrite (s.putHome h st') h bs.length st st'

/-! ## Hurdle words (R246, R247) -/

/-- ARMED of a hurdle word. -/
def hwArmed (w : Word) : Bool := nbit w.toNat 33
/-- The armed hurdle word that n bytes at offset off of a tile store meet. -/
def armedAt (x : Tile) (off n : Nat) : Option Nat :=
  ((x.eng.hds.filterMap fun e => e.2.bound).filter fun o =>
    decide (o < off + n) && decide (off < o + 8) && hwArmed (readWord64 x.store.bytes o)).head?

/-! ## Referee events (R376, R377) -/

/-- One event of a partition: written whole into the ring of its primary referee tile, or counted in LOST. A record that would
fall on an armed hurdle word of that tile is discarded (R247). -/
def event (s : State) (owner typ cause tile ctx slot : Nat) (d0 d1 : Word) : State :=
  match s.part owner with
  | none => s
  | some p =>
    let hd := nfld p.evhead.toNat 0 8
    let lost := nfld p.evhead.toNat 16 16
    let full := (hd + 1) % 256 == nfld p.evtail.toNat 0 8
    if full || !nbit p.evbase.toNat 0 || p.refs.isEmpty then
      s.modPart owner fun p => { p with evhead := BitVec.ofNat 64 (hd + 65536 * Nat.min (lost + 1) 65535) }
    else
      let at_ := Nat.min (nfld p.evbase.toNat 13 8) 0xBF * 8192 + 32 * hd
      let rec_ := toBytes 1 typ ++ toBytes 1 cause ++ toBytes 2 tile ++ toBytes 4 s.ms ++ toBytes 1 ctx ++ toBytes 1 0 ++
        toBytes 2 slot ++ toBytes 4 0 ++ toBytes 8 d0.toNat ++ toBytes 8 d1.toNat
      let s := if (armedAt (s.tile (p.refs.headD 0)) at_ 32).isSome then s else rawWrite s (.tile (p.refs.headD 0) at_) rec_
      s.modPart owner fun p => { p with evhead := BitVec.ofNat 64 ((hd + 1) % 256 + 65536 * lost) }

def State.slotOf (s : State) (t : Nat) : Nat := ((s.tile t).sch.actor.map (·.slot)).getD 0xFFFF
/-- An event about a tile. -/
def tileEvent (s : State) (t typ cause : Nat) (d0 d1 : Word) : State :=
  event s (s.ownerOf t) typ cause t (s.ctxOf t) (s.slotOf t) d0 d1

/-! ## Reduce windows (R190) -/

/-- Close one window: write the rounded value once, with its flags to the configuration (R190). A unit that has become
uncorrectable is left as it was, and the write meets DUE as an access whose task has ended (R28, R438). DEDUCED:
notes/assumptions/16.md; DEDUCED: notes/assumptions/73.md. -/
def closeWindow (s : State) (w : Window) : State :=
  match s.dram.badWrite w.pa 4 with
  | some _ =>
    let (o, c) := ((s.cfg w.cfg).map fun c => (c.owner, c.ctx)).getD (0, 0)
    event s o 0x02 0x10 0xFFFF c 0xFFFF 4 w.va
  | none =>
    let r := w.val.round f32 ⟨w.mode.toNat, srRnd w.seed (w.va.setWidth 32) 0⟩ false
    let s := rawWrite s (.dram w.pa) (toBytes 4 r.code)
    s.modCfg w.cfg fun c => { c with rflags := c.rflags ||| r.fl }

/-- Close every open window that a test selects. -/
def closeWindows (s : State) (p : Window → Bool) : State :=
  let hits := (s.slices.map fun e => e.2.wins.filter p).flatten
  if hits.isEmpty then s
  else
    let s := { s with slices := s.slices.map fun e => (e.1, { e.2 with wins := e.2.wins.filter fun w => !p w }) }
    hits.foldl closeWindow s

/-- A non-RED access of n bytes at a home closes the windows it meets (R188, R190). -/
def touchWindows (s : State) (h : Home) (n : Nat) : State :=
  match h with
  | .dram pa => closeWindows s fun w => decide (w.pa < pa + n) && decide (pa < w.pa + 4)
  | _ => s

/-! ## Reading and writing at a home -/

/-- Bytes at a home, the error unit that stops the access, and the state after it. -/
def homeRead (s : State) (h : Home) (n : Nat) : Except Nat (List Byte × State) :=
  let s := touchWindows s h n
  let (st, a) := s.homeStore h
  match st.badRead a n with
  | some u => .error u
  | none =>
    let s := if st.bad1.isEmpty then s else s.putHome h (st.scrub a n)
    .ok (readBytes st.bytes a n, s)

/-- Whether an M task runs; a tile without a task counts as one (R216). -/
def Tile.isM (x : Tile) : Bool := (x.sch.task.map (·.immediate)).getD true
/-- A word whose bytes from offset o meet bytes written at offset off. -/
def mergeWord (w : Word) (o off : Nat) (bs : List Byte) : Word :=
  BitVec.ofNat 64 (ofBytes ((toBytes 8 w.toNat).zipIdx.map fun e =>
    if off ≤ o + e.2 then bs[o + e.2 - off]?.getD e.1 else e.1))
/-- A write to a word that the running I task has armed and that was no hurdle before stays, whatever becomes of the task (R237). -/
def keepWrite (s : State) (h : Home) (bs : List Byte) : State :=
  match h with
  | .tile t off =>
    if (s.tile t).isM then s
    else s.modTile t fun x => { x with sch := { x.sch with fx := { x.sch.fx with hd0 := x.sch.fx.hd0.map fun d =>
      { d with words := d.words.map fun e =>
        if hwArmed e.2 && d.tbl.any (·.2.bound == some e.1) then e else (e.1, mergeWord e.2 e.1 off bs) } } } }
  | _ => s
/-- Write bytes at a home as an access performs; a merge with an uncorrectable unit stops it (R15, R28). -/
def homeWrite (s : State) (h : Home) (bs : List Byte) : Except Nat State :=
  let s := touchWindows s h bs.length
  let (st, a) := s.homeStore h
  match st.badWrite a bs.length with
  | some u => .error u
  | none => .ok (keepWrite (rawWrite s h bs) h bs)

/-- Set the full/empty bits that n bytes at a home cover. -/
def setFull (s : State) (h : Home) (n : Nat) (b : Bool) : State :=
  let (st, _) := s.homeStore h
  let (k, m) := h.feRange n
  match h with
  | .host _ => s
  | _ => s.putHome h (st.setFes k b m)
/-- Whether all the bits that n bytes cover are full. -/
def isFull (s : State) (h : Home) (n : Nat) : Bool :=
  let (st, _) := s.homeStore h
  let (k, m) := h.feRange n
  st.allFull k m

/-! ## Apertures (R22-R25) -/

/-- Where a generic address leads: an offset of a tile store, or the global window. -/
inductive Place where
  | tile (t off : Nat)
  | glob (va : Word)
deriving DecidableEq, Repr

/-- Steer n bytes at an address for a tile with a STKBASE; none is an ADDRFAULT (R22, R23, R25). -/
def steer (t : Nat) (stk a : Word) (n : Nat) : Option Place :=
  let x := a.toNat
  if x + n ≤ 0x180000 then some (.tile t x)
  else if 0x1000000 ≤ x && decide (x + n ≤ 0x1010000) then
    if nfld stk.toNat 16 5 ≤ 0x17 then some (.tile t (nfld stk.toNat 16 5 * 65536 + (x - 0x1000000))) else none
  else if 0x10000000000 ≤ x && decide (x < 0x10480000000) then
    let id := (x - 0x10000000000) / 2 ^ 21
    let off := (x - 0x10000000000) % 2 ^ 21
    if id < Config.numTiles && decide (off + n ≤ 0x180000) then some (.tile id off) else none
  else if 0x1000000000000 ≤ x && decide (x + n ≤ 0x100000000000000) then some (.glob a)
  else none

/-! ## Translation (R167-R174) -/

/-- Bytes of a page by size code (R171). -/
def pageBytes (pg : BitVec 2) : Nat :=
  match pg.toNat with
  | 0 => 2 ^ 16
  | 1 => 2 ^ 21
  | _ => 2 ^ 29

/-- Reserved fields of a page-table entry are zero, and it is valid (R169). -/
def pteOk (p : Nat) : Bool :=
  nbit p 0 && nfld p 52 4 == 0 && nfld p 12 4 == 0 && nfld p 6 2 == 0 && !nbit p 2
/-- PA of an entry. -/
def ptePa (p : Nat) : Nat := nfld p 16 36 * 65536

/-- Walk the levels left, from the table at `tbl`: the place and content of the leaf, none is a PAGEFAULT (R168, R170). -/
def walk (m : Memory) (va tbl : Nat) (leafLow : Nat) : List (Nat × Nat) → Option (Nat × Nat)
  | [] => none
  | (lo, w) :: rest =>
    let at_ := tbl + 8 * nfld va lo w
    let p := (readWord64 m at_).toNat
    if !pteOk p then none
    else if nbit p 1 then
      if lo = leafLow && ptePa p % 2 ^ lo = 0 then some (at_, p) else none
    else if lo = leafLow then none
    else walk m va (ptePa p) leafLow rest

/-- The places of the entries that a walk reads. -/
def walkPath (m : Memory) (va tbl : Nat) (leafLow : Nat) : List (Nat × Nat) → List Nat
  | [] => []
  | (lo, w) :: rest =>
    let at_ := tbl + 8 * nfld va lo w
    let p := (readWord64 m at_).toNat
    at_ :: if pteOk p && !nbit p 1 && lo != leafLow then walkPath m va (ptePa p) leafLow rest else []

/-- The four levels: low bit and width of the index (R168). -/
def levels : List (Nat × Nat) := [(38, 18), (29, 9), (21, 8), (16, 5)]
def leafLowOf (pg : BitVec 2) : Nat :=
  match pg.toNat with
  | 0 => 16
  | 1 => 21
  | _ => 29

/-- Every granule that n bytes of DRAM meet belongs to an owner (R345, R350). -/
def ownedRange (s : State) (owner pa n : Nat) : Bool :=
  (List.range ((pa + n - 1) / 2 ^ 21 + 1 - pa / 2 ^ 21)).all fun i => granOwnerOf s (pa + i * 2 ^ 21) == owner
/-- The reads of a walk: each closes the windows it meets (R190), and an uncorrectable entry is a DUE (R15, R381). DEDUCED:
notes/assumptions/73.md. -/
def walkReads : List Nat → State → Except Nat State
  | [], s => .ok s
  | a :: r, s => match homeRead s (.dram a) 8 with
    | .error _ => .error 0x10
    | .ok (_, s) => walkReads r s
/-- A walk by a context's tables as the slices serve it: PAGEFAULT 4, PROTECT 5 where a table lies in a granule that another
owner holds (R345, R350), or DUE 0x10. DEDUCED: notes/assumptions/24.md. -/
def walkCtx (s : State) (c : Nat) (va leafLow : Nat) : Except Nat (Nat × Nat × State) :=
  let k := s.ctx c
  let path := walkPath s.dram.bytes va k.root leafLow levels
  if path.any fun a => granOwnerOf s a != k.owner then .error 5
  else match walkReads path s with
    | .error e => .error e
    | .ok s => match walk s.dram.bytes va k.root leafLow levels with
      | none => .error 4
      | some (at_, p) => .ok (at_, p, s)

/-- Empty the owed ranges that a test selects, in a page of the context that has come to stand at pa (R178); of another owner's
granules nothing is touched (R350). DEDUCED: notes/assumptions/75.md. -/
def settleOwed (s : State) (c pa size : Nat) (hit : Owed → Bool) : State :=
  if s.owed.isEmpty then s
  else
    let (hits, rest) := s.owed.partition hit
    hits.foldl (fun s o =>
      let at_ := pa + o.va % size
      if ownedRange s (s.ctx c).owner at_ o.len then setFull s (.dram at_) o.len false else s) { s with owed := rest }
/-- Whether a range is owed in a page of a context: the page itself, or the copy of a redundant run. -/
def Owed.inPage (o : Owed) (c : Nat) (run : Option (Nat × Nat)) (pg : BitVec 2) (vpn : Nat) : Bool :=
  o.ctx == c && o.run == run && o.pg == pg && o.va / pageBytes pg == vpn
/-- The entry the gateway of a field uses: its own, or one that a walk brings in (R167). The new entry evicts the oldest
beyond 4,096. -/
def tlbFind (s : State) (fl c : Nat) (pg : BitVec 2) (va : Word) : Except Nat (TlbEnt × State) :=
  let f := s.field fl
  let vpn := va.toNat / pageBytes pg
  let hit (e : TlbEnt) : Bool := e.ctx == c && e.size == pg && e.vpn == vpn
  match f.locked.find? hit, f.tlb.find? hit with
  | some e, _ => .ok (e, s)
  | none, some e => .ok (e, s)
  | none, none =>
    match walkCtx s c va.toNat (leafLowOf pg) with
    | .error e => .error e
    | .ok (at_, p, s) =>
      let s := if nbit p 10 then s else settleOwed s c (ptePa p) (pageBytes pg) (·.inPage c none pg vpn)
      let e : TlbEnt := ⟨c, pg, vpn, BitVec.ofNat 64 p, at_⟩
      .ok (e, s.modField fl fun f => { f with tlb := (e :: f.tlb).take 4096 })

/-- A write to a page-table entry that has become uncorrectable: it is left as it was, and the write meets DUE as an access whose task has
ended (R28, R438). DEDUCED: notes/assumptions/73.md. -/
def pteDue (s : State) (at_ : Nat) : State := event s (granOwnerOf s at_) 0x02 0x10 0xFFFF 0 0xFFFF 4 (BitVec.ofNat 64 at_)
/-- Set a bit of a page-table entry in DRAM, as the gateway does (R169). -/
def setPteBit (s : State) (at_ bit : Nat) : State :=
  let p := (readWord64 s.dram.bytes at_).toNat
  if (s.dram.badRead at_ 8).isSome then pteDue s at_
  else if nbit p bit then s else rawWrite s (.dram at_) (toBytes 8 (p + 2 ^ bit))

/-- What a translated access reaches: its home, the slice, whether the page is a SLICE page, the entry's place (R27, R169, R174). -/
structure Phys where
  home : Home
  slice : Nat
  sl : Bool
  pteAt : Nat
deriving DecidableEq, Repr
/-- The piece of an access at a home: n bytes from a place of the register's bytes. -/
def Phys.part (ph : Phys) (va : Word) (n pos : Nat) : Part := ⟨ph.home, va, n, pos, ph.slice, ph.pteAt⟩
/-- The same, k bytes on. -/
def Phys.partAt (ph : Phys) (va : Word) (k n : Nat) : Part :=
  ⟨ph.home.add k, va + BitVec.ofNat 64 k, n, k, ph.slice, ph.pteAt⟩

/-- Failures of a walk by TCAUSE: PAGEFAULT 0x04, PROTECT 0x05 (R170). DEDUCED: notes/assumptions/15.md. -/
def translate1 (s : State) (t c : Nat) (ref : Bool) (pg : BitVec 2) (va : Word) (store hostOk : Bool) :
    Except Nat (Phys × State) :=
  match tlbFind s (fieldOf t) c pg va with
  | .error e => .error e
  | .ok (e, s) =>
    let p := e.pte.toNat
    let host := nbit p 10
    if !(if store then nbit p 5 else nbit p 4) then .error 5
    else if !nbit p 3 && !ref then .error 5
    else if host && !hostOk then .error 5
    else
      let pa := ptePa p + va.toNat % pageBytes pg
      let s := setPteBit s e.pteAt 8
      let sl := nbit p 11
      .ok (⟨if host then .host pa else .dram pa, if sl then nfld p 56 8 else sliceOfPa pa, sl, e.pteAt⟩, s)

/-- Bytes [src, src+n) of a memory put at dst. -/
def copyRange (m : Memory) (src dst n : Nat) : Memory :=
  let keep := m.filter fun e => !(decide (dst ≤ e.1) && decide (e.1 < dst + n))
  let moved := m.filter fun e => decide (src ≤ e.1) && decide (e.1 < src + n)
  moved.foldl (fun k e => tset 0 k (e.1 - src + dst) e.2) keep

/-- A tile holds a slot of a run of a configuration, a gang's members with its anchor (R267, R394). -/
def Cfg.runHas (c : Cfg) (t : Nat) (r : RedRun) : Bool :=
  r.place.any fun e => decide (e.2 ≤ t) && decide (t < e.2 + Nat.max 1 (((c.image.actors[e.1]?).map (·.gang)).getD 1))
/-- The configuration a tile belongs to, with the number of its redundant run (R394). -/
def runOf (s : State) (t : Nat) : Option (Cfg × Nat) :=
  match s.cfgs.find? fun c => c.redundant && c.runs.any (c.runHas t) with
  | none => none
  | some c => (findIx (c.runHas t) c.runs).map fun q => (c, q.1)

/-- Where the slots of a tile's configuration stand, in the tile's own run of it. -/
def placeOf (s : State) (t : Nat) : Tbl Nat :=
  match runOf s t with
  | some (c, k) => ((c.runs[k]?).map (·.place)).getD []
  | none => match (s.tile t).sch.actor with
    | none => []
    | some a => ((s.cfg a.cfg).map (·.place)).getD []
/-- The tile that holds a slot of the configuration of tile t; a gang's is its anchor. DEDUCED: notes/assumptions/26.md. -/
def slotTile (s : State) (t slot : Nat) : Option Nat := ((placeOf s t).find? fun e => e.1 == slot).map (·.2)
/-- The tiles of the actor that tile t belongs to: every member of a gang, the anchor first (R267). DEDUCED: notes/assumptions/26.md. -/
def team (s : State) (t : Nat) : List Nat :=
  let n := ((s.actorDecl t).map (·.gang)).getD 1
  if n ≤ 1 then [t]
  else match (s.tile t).sch.actor.bind fun a => slotTile s t a.slot with
    | some b => (List.range n).map (b + ·)
    | none => [t]

/-- Numbers of units or lines in a range, moved with it. -/
def movedKeys (l : List Nat) (a b n : Nat) : List Nat :=
  (l.filter fun k => !(decide (b ≤ k) && decide (k < b + n))) ++
    (l.filter fun k => decide (a ≤ k) && decide (k < a + n)).map fun k => k - a + b
/-- Copy n bytes of DRAM with their full/empty bits and errors (R197 step 4). -/
def Store.copyPage (st : Store) (a b n : Nat) : Store :=
  let fe := st.fe.filter fun e => !(decide (b / 64 ≤ e.1) && decide (e.1 < b / 64 + n / 64))
  let fe := (st.fe.filter fun e => decide (a / 64 ≤ e.1) && decide (e.1 < a / 64 + n / 64)).foldl
    (fun k e => tset true k (e.1 - a / 64 + b / 64) e.2) fe
  { bytes := copyRange st.bytes a b n, fe := fe
    bad1 := movedKeys st.bad1 (a / 8) (b / 8) (n / 8), bad2 := movedKeys st.bad2 (a / 8) (b / 8) (n / 8) }
/-- Copy n bytes of DRAM onto others: windows open on either range close first, and digests follow the words that it overwrites (R190,
R194). -/
def copyDram (s : State) (a b n : Nat) : State :=
  let s := closeWindows s fun w => (decide (a ≤ w.pa) && decide (w.pa < a + n)) || (decide (b ≤ w.pa) && decide (w.pa < b + n))
  let st := s.dram.copyPage a b n
  digestWrite { s with dram := st } (.dram b) n s.dram st
/-- The 2 MiB pages of a context's shadow pool that copies have taken, by number, those of saved configurations with them. -/
def poolTaken (s : State) (c : Nat) : List Nat :=
  let of (k : Cfg) : List Nat := (k.runs.map (·.used)).flatten
  ((s.cfgs.filter (·.ctx == c)).map of ++ (s.ctx c).saved.map fun v => of v.cfg).flatten
/-- Pages i to i + n - 1 of a pool lie one behind another in DRAM, aligned as a page of their joint size. -/
def poolWhole (s : State) (c pool i n : Nat) : Bool :=
  let at_ (j : Nat) : Option Nat := (walk s.dram.bytes (pool + (i + j) * 2 ^ 21) (s.ctx c).root 21 levels).map fun e => ptePa e.2
  n == 1 || (match at_ 0 with
    | none => false
    | some q => q % (n * 2 ^ 21) == 0 && (List.range n).all fun j => at_ j == some (q + j * 2 ^ 21))
/-- The first place in a context's pool for a copy of n pages (R393, R394). -/
def poolPlace (s : State) (c n : Nat) : Option Nat :=
  let red := (s.ctx c).redctl.toNat
  let taken := poolTaken s c
  (List.range (nfld red 8 8 * 16 + 1 - n)).find? fun i =>
    (List.range n).all (fun j => !taken.contains (i + j)) && poolWhole s c (nfld red 16 48 * 65536) i n
/-- The shadow page of a redundant run (R394): a run's first store to a page, or an access to one in which it owes an emptying
(R178), copies it into the first free place of the pool, both in granules of the owner (R350). The failure 0 is a wait for room in the
pool. DEDUCED: notes/assumptions/23.md. -/
def shadowPage (s : State) (t c : Nat) (pg : BitVec 2) (va : Word) (store : Bool) (ph : Phys) :
    Except Nat (Phys × State) :=
  match ph.home, runOf s t with
  | .dram pa, some (cf, k) =>
    let size := pageBytes pg
    let page := va.toNat / size * size
    let run := cf.runs[k]?.getD { place := [], pages := [] }
    let owes (o : Owed) : Bool := o.inPage c (some (cf.sq, k)) pg (va.toNat / size)
    match run.pages.find? fun e => e.1 == page with
    | some e => .ok ({ ph with home := .dram (e.2 + va.toNat % size) }, settleOwed s c e.2 size owes)
    | none =>
      if !store && !s.owed.any owes then .ok (ph, s)
      else
        let each := (size + 2 ^ 21 - 1) / 2 ^ 21
        match poolPlace s c each with
        | none => .error 0
        | some i =>
          match walkCtx s c (nfld (s.ctx c).redctl.toNat 16 48 * 65536 + i * 2 ^ 21) 21 with
          | .error e => .error e
          | .ok (_, p, s) =>
            let q := ptePa p
            let old := pa - va.toNat % size
            let o := (s.ctx c).owner
            if !ownedRange s o old size || !ownedRange s o q size then .error 5
            else
              let s := (copyDram s old q size).modCfg cf.sq fun x =>
                { x with runs := lset x.runs k { run with pages := run.pages ++ [(page, q)], used := run.used ++ (List.range each).map (i + ·) } }
              .ok ({ ph with home := .dram (q + va.toNat % size) }, settleOwed s c q size owes)
  | .host _, some _ => if store then .error 5 else .ok (ph, s)
  | _, _ => .ok (ph, s)

/-- Translate an access of a tile (R167-R174, R394). DEDUCED: notes/assumptions/14.md. -/
def translate (s : State) (t c : Nat) (ref : Bool) (pg : BitVec 2) (va : Word) (store hostOk : Bool) :
    Except Nat (Phys × State) :=
  match translate1 s t c ref pg va store hostOk with
  | .error e => .error e
  | .ok (ph, s) => shadowPage s t c pg va store ph

/-- D of the entry through which a store performs first (R169); 0 is no entry. -/
def setDirty (s : State) (pteAt : Nat) : State := if pteAt = 0 then s else setPteBit s pteAt 9

/-! ## Units of an engine's write (R163, R233) -/

/-- A vector's bytes with some replaced from place pos. -/
def putBytes (v : Vec) (pos : Nat) (bs : List Byte) : Vec :=
  let n := v.toNat
  let lo := n % 2 ^ (8 * pos)
  let hi := n / 2 ^ (8 * (pos + bs.length))
  BitVec.ofNat 512 (lo + 2 ^ (8 * pos) * (ofBytes bs + 2 ^ (8 * bs.length) * hi))
/-- n bytes of a vector from place pos. -/
def takeBytes (v : Vec) (pos n : Nat) : List Byte := (List.range n).map fun i => byteOf v.toNat (pos + i)

/-- What a unit of an engine's write comes to. -/
inductive UnitEnd where
  /-- performed, or discarded at another tile's armed hurdle word (R247) -/
  | ok (s : State) (wrote : Bool)
  /-- an armed hurdle word of the own tile (R247) -/
  | clob
  /-- a merge with an uncorrectable unit (R15) -/
  | due (unit : Nat)
/-- Write one unit of an engine of tile t. -/
def writeUnit (s : State) (t : Nat) (p : Part) (bs : List Byte) : UnitEnd :=
  let clob : Option (Nat × Nat) := match p.home with
    | .tile u off => (armedAt (s.tile u) off bs.length).map fun o => (u, o)
    | _ => none
  match clob with
  | some (u, o) => if u = t then .clob else .ok (tileEvent s u 0x06 0x0C (BitVec.ofNat 64 o) (BitVec.ofNat 64 t)) false
  | none => match homeWrite s p.home bs with
    | .error k => .due k
    | .ok s => .ok (setDirty s p.pteAt) true
def EngAcc.bytes (g : EngAcc) (p : Part) : List Byte := takeBytes g.data p.pos p.len
/-- A unit has performed. -/
def EngAcc.did (g : EngAcc) (p : Part) (wrote : Bool) : EngAcc :=
  { g with parts := g.parts.erase p, done := if wrote then g.done ++ [p] else g.done }
/-- The words of units that have been written become full (R178). -/
def setFulls (s : State) (ps : List Part) : State := ps.foldl (fun s p => setFull s p.home p.len true) s
/-- Complete a granule whose write had begun when its operation was cancelled (R237): one that cannot be completed stays empty. -/
def finishGranule (t : Nat) : List Part → EngAcc → State → State
  | [], g, s => setFulls s g.done
  | p :: r, g, s => match writeUnit s t p (g.bytes p) with
    | .ok s w => finishGranule t r (g.did p w) s
    | _ => s

end Sys2Proof.Machine
end

