-- ==== Sys2Proof/Machine/Chain.lean ====
section
/-! DEFINITION. The finish-line buffers as plain predicates (R180-R182), and the cancellation of a commit's tentative entries
(R185, R186). -/

namespace Sys2Proof.Machine

/-- The wildcard of a successor (R180). -/
def chWild : BitVec 24 := 0xFFFFFF
def Slice.chain (y : Slice) (ch : Nat) : Option Chain := (y.chains.find? fun e => e.1 == ch).map (·.2)
/-- Eligible (R180). DEDUCED: notes/assumptions/41.md. -/
def Chain.eligible (c : Chain) (g : ChainTag) : Bool := g.pn == c.L && (c.E == g.sn || c.E == chWild)
/-- A shared entry is free (R181). -/
def Slice.sharedFree (y : Slice) : Bool := decide ((y.ents.filter (!·.bypass)).length + y.chains.length < 64)
/-- The bypass slot of a chain is free. -/
def Slice.bypassFree (y : Slice) (ch : Nat) : Bool := !(y.ents.any fun e => e.tag.ch == ch && e.bypass)
/-- The 64-byte access of a chain that is being performed, one at a time (R180). -/
def Slice.curEnt (y : Slice) (ch : Nat) : Option ChEnt :=
  ((y.chain ch).bind (·.cur)).bind fun n => y.ents.find? fun e => e.arr == n && e.tag.ch == ch
/-- A chain is in a gap (R182): entries wait and none, tentative ones counted, is eligible. -/
def Slice.inGap (y : Slice) (ch : Nat) (c : Chain) : Bool :=
  (y.ents.any fun e => e.tag.ch == ch && !e.tentative) && !(y.ents.any fun e => e.tag.ch == ch && c.eligible e.tag)
/-- The gap timer after something happened to a chain: a perform ends a gap (R182). DEDUCED: notes/assumptions/41.md. -/
def settleGap (s : State) (sl ch : Nat) (performed : Bool) : State :=
  s.modSlice sl fun y => match y.chain ch with
    | none => y
    | some c =>
      let c := if y.inGap ch c then
          if performed || c.gapAt.isNone then { c with gapAt := some s.now, gapSent := false } else c
        else { c with gapAt := none, gapSent := false }
      { y with chains := tput y.chains ch c }
/-- Chains with entries that a test selects. -/
def chainsOf (s : State) (p : ChEnt → Bool) : List (Nat × Nat) :=
  ((s.slices.map fun e => (e.2.ents.filter p).map fun c => (e.1, c.tag.ch)).flatten).eraseDups
/-- Change the entries of every slice. -/
def mapEnts (s : State) (f : List ChEnt → List ChEnt) : State :=
  { s with slices := s.slices.map fun (e : Nat × Slice) => (e.1, { e.2 with ents := f e.2.ents }) }
/-- Send a cancellation to every slice that holds a tentative entry of some tiles (R185, R186). -/
def cancelTentative (s : State) (ts : List Nat) : State :=
  if (chainsOf s fun c => ts.contains c.tile && c.tentative).isEmpty then s
  else mapEnts s fun l => l.map fun c => if ts.contains c.tile && c.tentative then { c with cancelled := true } else c
/-- A cancellation of a tile's has not reached its entries. -/
def cancelling (s : State) (t : Nat) : Bool := s.slices.any fun e => e.2.ents.any fun c => c.tile == t && c.cancelled

end Sys2Proof.Machine
end

