-- ==== Sys2Proof/Machine/Ops.lean ====
section
/-! DEFINITION. The shared operations of the tile core: registers and their full/empty bits (R36-R38), predicates (R50),
queue windows (R39-R41, R292-R293), pushes (R257, R166), aborts (R375, R237, R258), taking a
trap (R370-R375, R378, R381) and returning from one (R403), retiring an instruction (R14, R289), and `issue`, which turns
a meaning into an outcome, in lockstep over a formed gang (R267, R305). -/

namespace Sys2Proof.Machine

/-! ## Meanings -/

/-- Why an instruction does not complete in this step. -/
inductive Stop where
  /-- held at issue: nothing has happened, it issues again (R37, R389) -/
  | hold
  /-- held at issue on an empty register (R37, R404) -/
  | empty
  /-- its request is sent and it holds for the reply (R389) -/
  | sent (s : State)
  /-- a trap with its cause and TADDR, before any effect (R370) -/
  | trap (cause : Byte) (taddr : Word)
  /-- ILLOP and PRIV, whose TADDR is the instruction's word (R56) -/
  | illop
  | priv
  /-- FPTRAP: the flags raised go to FFLAGS all the same (R83) -/
  | fptrap (fl : Flags) (taddr : Word)
  /-- a failure found at commit: what has performed stays, and the referee takes it whatever TACT holds (R347, R438) -/
  | late (s : State) (cause : Byte) (taddr : Word)

/-- Where control goes after an instruction. -/
inductive Go where
  /-- on to the next index, with loop end processing (R289) -/
  | on
  /-- a transfer (R14) -/
  | jump (pc : Nat)
  /-- nowhere: the task is over, or the pc is set -/
  | finish
deriving DecidableEq, Repr

/-- A meaning: the state it leaves with its result, or why it stops. -/
abbrev M := StateT State (Except Stop)

def stop (e : Stop) : M α := fun _ => .error e
def hold : M α := stop .hold
def illop : M α := stop .illop
def trap (cause : Byte) (taddr : Word) : M α := stop (.trap cause taddr)
/-- Hold with a request sent: what has been done so far stays. -/
def sentHold : M α := fun s => .error (.sent s)
/-- The tile that executes. -/
def me : M Nat := fun s => .ok (s.cur, s)
def getT : M Tile := fun s => .ok (s.tile s.cur, s)
def modT (f : Tile → Tile) : M Unit := fun s => .ok ((), s.modTile s.cur f)
def modS (f : State → State) : M Unit := fun s => .ok ((), f s)
def getS : M State := fun s => .ok (s, s)
/-- ILLOP unless a condition holds. -/
def need (b : Bool) : M Unit := if b then pure () else illop
/-- Hold unless a condition holds. -/
def await (b : Bool) : M Unit := if b then pure () else hold

/-! ## Registers (R36-R38) -/

def Regs.getG (r : Regs) (i : Nat) : Word := tget 0 r.g i
def Regs.getV (r : Regs) (i : Nat) : Vec := tget 0 r.v i
def Regs.putG (r : Regs) (i : Nat) (x : Word) : Regs :=
  { r with g := tset 0 r.g i x, gFe := tdel r.gFe i, parity := r.parity.filter fun e => e != (.g, i) }
def Regs.putV (r : Regs) (i : Nat) (x : Vec) : Regs :=
  { r with v := tset 0 r.v i x, vFe := tdel r.vFe i, parity := r.parity.filter fun e => e != (.v, i) }
def Regs.emptyG (r : Regs) (i : Nat) : Regs := { r with gFe := tput r.gFe i .empty }
def Regs.emptyV (r : Regs) (i : Nat) : Regs := { r with vFe := tput r.vFe i .empty }
/-- A predicate: k0 reads all ones (R42). -/
def Regs.getK (r : Regs) (i : Nat) : BitVec 16 := if i = 0 then 0xFFFF else tget 0 r.k i
/-- Writes to k0 are ignored (R36). -/
def Regs.putK (r : Regs) (i : Nat) (x : BitVec 16) : Regs := if i = 0 then r
  else { r with k := tset 0 r.k i x, parity := r.parity.filter fun e => e != (.k, i) }
def Regs.putLc (r : Regs) (i : Nat) (x : BitVec 32) : Regs :=
  { r with lc := tset 0 r.lc i x, parity := r.parity.filter fun e => e != (.lc, i) }
def Regs.getLc (r : Regs) (i : Nat) : BitVec 32 := tget 0 r.lc i
/-- Start and end index of a loop counter (R287). -/
def Regs.span (r : Regs) (k : Nat) : Nat × Nat := tget (0, 0) r.lp k

def modR (f : Regs → Regs) : M Unit := modT fun x => { x with regs := f x.regs }
/-- Add to a performance counter (R404). -/
def Tile.perfAdd (x : Tile) (k n : Nat) : Tile :=
  { x with sch := { x.sch with perf := tput x.sch.perf k (tget 0 x.sch.perf k + BitVec.ofNat 64 n) } }

/-- The source tag of REGEMPTY and of a register's DUE: kind in [9:8], index in [7:0] (R37). -/
def regTaddr (scalar : Bool) (i : Nat) : Word := BitVec.ofNat 64 ((if scalar then 256 else 0) + i)

/-- TADDR of a register's DUE: its kind and index as in R37; R46 codes a constant's kind, and the other files have no code (R381). DESIGN
CHOICE: notes/assumptions/108.md. -/
def regDue : RegKind → Nat → Word
  | .g, i => regTaddr true i
  | .v, i => regTaddr false i
  | .c, i => BitVec.ofNat 64 (512 + i)
  | .k, i => (Config.parityTaddr 0 i).setWidth 64
  | .lc, i => (Config.parityTaddr 1 i).setWidth 64
  | .wa, i => (Config.parityTaddr 2 i).setWidth 64
  | .pa, i => (Config.parityTaddr 3 i).setWidth 64
/-- The parity of a register that is read; bad parity is a DUE (R15, R381). -/
def parityGood (f : RegKind) (i : Nat) : M Unit := do
  if (← getT).regs.parity.contains (f, i) then trap 0x10 (regDue f i) else pure ()
/-- A predicate register; k0 is hard-wired (R36). -/
def readK (i : Nat) : M (BitVec 16) := do
  if i ≠ 0 then parityGood .k i
  return (← getT).regs.getK i
/-- A constant. -/
def readC (i : Nat) : M Word := do
  parityGood .c i
  return tget 0 (← getT).regs.c i

/-- A register read by its full/empty bit: empty holds, or traps with the wait bit 1; a mark traps (R37, R38); bad
parity is a DUE (R15). -/
def readReg (scalar : Bool) (i : Nat) (wait : Bool) (fe : Fe) (v : α) : M α := do
  let x ← getT
  match fe with
  | .full =>
    parityGood (if scalar then .g else .v) i
    pure v
  | .empty => if wait then trap 0x02 (regTaddr scalar i) else stop .empty
  | .mark c a => trap c a

/-! ## Queues (R19, R39, R292, R293) -/

def Tile.inQ (x : Tile) (q : Nat) : InQ := tget {} x.inq q
def Tile.outQ (x : Tile) (q : Nat) : OutQ := tget {} x.outq q
def Tile.setInQ (x : Tile) (q : Nat) (y : InQ) : Tile := { x with inq := tput x.inq q y }
def Tile.setOutQ (x : Tile) (q : Nat) (y : OutQ) : Tile := { x with outq := tput x.outq q y }

/-- RCV claims of a queue that wait for their token (R295). -/
def Tile.claims (x : Tile) (q : Nat) : Nat :=
  (x.pend.filter fun p => match p.what with | .claim k _ _ _ => k == q | _ => false).length
/-- Results in flight toward the window of an output queue. -/
def Tile.winPend (x : Tile) (q : Nat) : Nat :=
  (x.pend.filter fun p => match p.dst with | .win k _ => k == q | _ => false).length
/-- The head: the first token the task has not popped (R292). -/
def Tile.head (x : Tile) (q : Nat) : Option Token := (x.inQ q).toks[(x.inQ q).popped + x.claims q]?
/-- Resident tokens the task has not popped (R297). -/
def Tile.resident (x : Tile) (q : Nat) : Nat := (x.inQ q).toks.length - (x.inQ q).popped - x.claims q
/-- Free slots of an output queue, less those that held pushes reserve (R257, R297). -/
def Tile.outFree (x : Tile) (q : Nat) : Nat :=
  let o := x.outQ q
  o.depth - o.toks.length - (x.sch.fx.held.filter (·.1 == q)).length - x.winPend q
/-- Free slots of an input queue. -/
def Tile.inFree (x : Tile) (q : Nat) : Nat := (x.inQ q).depth - (x.inQ q).toks.length - (x.inQ q).resv

/-- Take the next token: an I task's pop is tentative (R257). -/
def Tile.pop (x : Tile) (q : Nat) : Tile :=
  let i := x.inQ q
  let i := if x.isM then { i with toks := i.toks.eraseIdx i.popped } else { i with popped := i.popped + 1 }
  (x.setInQ q i).perfAdd 3 1
/-- Put a token on an output queue: released after the accesses numbered below the stamp; a replacement's discards (R385). -/
def Tile.emit (x : Tile) (q stamp : Nat) (tok : Token) : Tile :=
  let o := x.outQ q
  if o.discard = 0 then x.setOutQ q { o with toks := o.toks ++ [⟨tok, stamp⟩] }
  else x.setOutQ q { o with discard := o.discard - 1, delivered := o.delivered + 1 }
/-- A push: held in an I task until commit, a release in an M task (R257, R166). -/
def Tile.push (x : Tile) (q : Nat) (tok : Token) : Tile :=
  let x := x.perfAdd 4 1
  if x.isM then x.emit q x.nextAcc tok
  else { x with sch := { x.sch with fx := { x.sch.fx with held := x.sch.fx.held ++ [(q, tok)] } } }

/-- Push a token on output queue q, waiting for a slot (R40, R294, R298). -/
def pushTok (q : Nat) (tok : Token) : M Unit := do
  let x ← getT
  need (decide (0 < (x.outQ q).depth))
  await (decide (0 < x.outFree q) && x.winPend q == 0)
  modT fun x => x.push q tok

/-- The tag of a token (R17). -/
def Token.tag : Token → Nat
  | .vec _ => 0
  | .scalar _ => 1
  | .eod n => 1 + n.toNat
  | .poison _ => 5
  | .close => 6
/-- TADDR of POISONED (R372). -/
def poisonTaddr (c : Byte) (q : Nat) : Word := BitVec.ofNat 64 (c.toNat + 256 * q)

/-- QMAP: the queue number of scalar window n, or of vector window n (R39). -/
def queueOf (x : Tile) (vector : Bool) (n : Nat) : Nat := nfld x.csr.qmap.toNat (4 * (n + if vector then 8 else 0)) 4

/-- A window read pops the head (R40, R293). -/
def readWindow (vector : Bool) (n : Nat) (wait : Bool) : M Vec := do
  let x ← getT
  let q := queueOf x vector n
  need (decide (0 < (x.inQ q).depth))
  match x.head q with
  | none => if wait then trap 0x02 (regTaddr (!vector) (n + if vector then 248 else 56)) else hold
  | some tok =>
    await (x.claims q == 0)
    match tok with
    | .vec d => modT (·.pop q); pure d
    | .scalar d => modT (·.pop q); pure (d.setWidth 512)
    | .poison c => trap 0x09 (poisonTaddr c q)
    | _ => illop

def readG (i : Nat) (wait : Bool) : M Word := do
  let x ← getT
  if i < 56 then readReg true i wait (tget .full x.regs.gFe i) (x.regs.getG i)
  else return (← readWindow false (i - 56) wait).setWidth 64
def readV (i : Nat) (wait : Bool) : M Vec := do
  let x ← getT
  if i < 248 then readReg false i wait (tget .full x.regs.vFe i) (x.regs.getV i)
  else readWindow true (i - 248) wait

/-- Hold while the destination is empty (R37) or its output queue has no slot (R40). DEDUCED: notes/assumptions/13.md. A write under a
mask that does not enable every lane merges with what the register holds, which it reads (R15, R50). DEDUCED: notes/assumptions/108.md. -/
def dstReady (scalar : Bool) (i : Nat) (m : BitVec 16 := 0xFFFF) : M Unit := do
  let x ← getT
  if (if scalar then 56 else 248) ≤ i then
    let q := queueOf x (!scalar) (i - if scalar then 56 else 248)
    need (decide (0 < (x.outQ q).depth))
    await (decide (0 < x.outFree q) && x.winPend q == 0)
  else if (if scalar then tget .full x.regs.gFe i else tget .full x.regs.vFe i) != .empty then
    if m = 0xFFFF then pure () else parityGood (if scalar then .g else .v) i
  else stop .empty

def writeG (i : Nat) (d : Word) : M Unit := do
  if i < 56 then modR (·.putG i d)
  else
    let x ← getT
    modT (·.push (queueOf x false (i - 56)) (.scalar d))

/-- The bits of the lanes that a mask enables. -/
def maskBits (m : BitVec 16) : Vec := BitVec.ofNat 512 (ofElems 32 ((List.range 16).map fun i => if nbit m.toNat i then 2 ^ 32 - 1 else 0))
/-- New lanes where enabled, old ones elsewhere (R50). -/
def mergeLanes (m : BitVec 16) (old new : Vec) : Vec :=
  if m = 0xFFFF then new else (new &&& maskBits m) ||| (old &&& ~~~ maskBits m)

/-- A vector write: a disabled lane keeps its value; in a token it carries zero (R40, R50). -/
def writeV (i : Nat) (m : BitVec 16) (d : Vec) : M Unit := do
  let x ← getT
  if i < 248 then modR fun r => r.putV i (mergeLanes m (r.getV i) d)
  else modT (·.push (queueOf x true (i - 248)) (.vec (mergeLanes m 0 d)))

def writeK (i : Nat) (d : BitVec 16) : M Unit := modR (·.putK i d)

/-- The register reference of a destination of format A or I. -/
def dstRef (scalar : Bool) (i : Nat) : M RegRef := do
  let x ← getT
  if scalar then return if i < 56 then .g i else .win (queueOf x false (i - 56)) false
  else return if i < 248 then .v i else .win (queueOf x true (i - 248)) true

/-- Empty the destination and put a result on its way (R37, R57). -/
def sendResult (d : RegRef) (w : PendWhat) : M Unit := modT fun x =>
  let r := match d with
    | .g i => x.regs.emptyG i
    | .v i => x.regs.emptyV i
    | .win _ _ => x.regs
  { x with regs := r, pend := x.pend ++ [{ dst := d, what := w, stamp := x.nextAcc }] }

/-! ## Predicates (R50) -/

def Pred.mask (p : Pred) (r : Regs) : BitVec 16 :=
  let k := r.getK p.pk.toNat
  if p.pn then ~~~ k else k
def getMask (p : Pred) : M (BitVec 16) := do
  if p.pk ≠ 0 then parityGood .k p.pk.toNat
  return Pred.mask p (← getT).regs
/-- A meaning governed by bit 0: when it is clear the instruction retires with no effect, reading nothing. -/
def whenBit0 (p : Pred) (m : M Go) : M Go := do
  let k ← getMask p
  if nbit k.toNat 0 then m else pure .on
/-- A meaning governed by all lanes. -/
def whenLanes (p : Pred) (m : BitVec 16 → M Go) : M Go := do
  let k ← getMask p
  if k = 0 then pure .on else m k

/-! ## CSRs that instructions sample -/

def Csrs.mode (c : Csrs) : Nat := nfld c.rmode.toNat 0 3
def Csrs.carry (c : Csrs) : Carried := ⟨c.rmode, c.fmt8, c.srseed, c.stkbase⟩
def Carried.mode (c : Carried) : Nat := nfld c.rmode.toNat 0 3
def Carried.sat (c : Carried) : Bool := nbit c.rmode.toNat 3
def Carried.seed (c : Carried) : BitVec 32 := BitVec.ofNat 32 c.srseed.toNat
/-- RMODEBAD when the sampled MODE is 6 or 7 (R72). -/
def needMode : M Unit := do
  let x ← getT
  if 6 ≤ x.csr.mode then trap 0x14 (BitVec.ofNat 64 (nfld x.csr.rmode.toNat 0 4)) else pure ()
/-- Add flags to FFLAGS (R82). -/
def Tile.raise (x : Tile) (fl : Flags) : Tile :=
  { x with csr := { x.csr with fflags := x.csr.fflags ||| fl.setWidth 64 } }
/-- Take FPTRAP when a raised flag is enabled (R83): `lanes` raised them. -/
def checkFp (fl : Flags) (lanes : BitVec 16) : M Unit := do
  let x ← getT
  let en := fl &&& x.csr.ftrap.setWidth 7
  if en = 0 then pure () else stop (.fptrap fl (BitVec.ofNat 64 (en.toNat + 65536 * lanes.toNat)))
/-- Only M tasks (R216). -/
def needM : M Unit := do need (← getT).isM
/-- ILLOP in an actor with REPLAY (R384). -/
def notReplay : M Unit := do
  let s ← getS
  need !(((s.actorDecl s.cur).map (·.replay)).getD false)
/-- ILLOP in a redundant configuration (R394). -/
def notRedundant : M Unit := do
  let s ← getS
  need !((runOf s s.cur).isSome)
/-- Privileged: PRIV at user level (R56, R345). -/
def needReferee : M Unit := do
  let s ← getS
  if s.refLevel s.cur then pure () else stop .priv

/-! ## Halting (R399) -/

/-- The four words of a halt record: cycles, retired instructions, messages sent and received. -/
def Sched.haltRec (k : Sched) : Tbl Word :=
  [(0, BitVec.ofNat 64 k.cycles), (1, tget 0 k.perf 1), (2, tget 0 k.perf 5), (3, tget 0 k.perf 6)]
/-- A trap has halted the tile: what it does goes on at a resume (R374). -/
def Sched.trapped (k : Sched) : Bool := k.halted == some .referee || k.halted == some .stall || k.halted == some .abortHalt
/-- Halt one tile with its halt record. A tile already halted stays as it is; one whose last request still had to be answered when its
group halted may yet take the trap that the answer brings. -/
def haltTile (s : State) (t : Nat) (why : HaltWhy) : State :=
  s.modTile t fun x =>
    if x.sch.halted.isSome && (x.sch.halted != some .group || why == .group) then x
    else { x with sch := { x.sch with halted := some why, stepping := false, hrec := x.sch.haltRec } }

/-- Halt a tile on BRK or STEP and, with it, its halt group (R399). -/
def haltGroupOf (s : State) (t : Nat) (why : HaltWhy) : State :=
  let s1 := haltTile s t why
  match (s.tile t).sch.haltGrp with
  | none => tileEvent s1 t 0x0D 0 0xFF (BitVec.ofNat 64 t)
  | some g =>
    let s2 := s.tiles.foldl (fun a e => if e.2.sch.haltGrp == some g then haltTile a e.1 .group else a) s1
    tileEvent s2 t 0x0D 0 (BitVec.ofNat 64 g) (BitVec.ofNat 64 t)

/-! ## Aborts (R375, R237, R257, R258, R145) -/

/-- Drop the places in a list. -/
def dropPlaces (l : List α) (ps : List Nat) : List α :=
  ((l.zipIdx).filter fun e => !ps.contains e.2).map (·.1)

/-- Slots of the input queue that a DREQ has reserved and not filled. -/
def DreqOp.left (d : DreqOp) : Nat := d.bytes / 64 - d.got + if d.eod then 1 else 0

/-- A tile without what its running I task has done: buffer, pops, pushes, messages, engine operations, hurdle table, patch,
loops, results in flight but for the claims of tasks that have ended (R295). An engine whose stopped operation is cancelled is no longer stopped (R234, R237). DEDUCED:
notes/assumptions/28.md. -/
def Tile.undo (x : Tile) : Tile :=
  let gone := x.eng.dreqs.filter (·.byTask)
  let copyFault := x.eng.copyFault && !((x.eng.copies.head?.map (·.byTask)).getD false)
  let dreqFault := x.eng.dreqFault && !((x.eng.dreqs.head?.map (·.byTask)).getD false)
  let fault := x.eng.stat.fault && (copyFault || dreqFault || x.eng.ports.any fun p => p.2.st == 3)
  let inq := x.inq.map fun (q, i) => (q, { i with
    popped := 0
    toks := dropPlaces i.toks i.mark
    mark := []
    resv := i.resv - ((gone.filter fun d => !d.mode1 && d.q == q).map (·.left)).sum })
  { x with
    inq := inq
    eng := { x.eng with
      copyFault := copyFault
      dreqFault := dreqFault
      stat := { x.eng.stat with fault := fault, due := x.eng.stat.due && fault }
      copies := x.eng.copies.filter (!·.byTask)
      dreqs := x.eng.dreqs.filter (!·.byTask)
      hds := (x.sch.fx.hd0.map (·.tbl)).getD x.eng.hds }
    pu := { x.pu with st := x.sch.fx.patch0.getD x.pu.st, q := x.pu.q.filter (!·.byTask) }
    regs := { x.regs with loops := [] }
    csr := { x.csr with inTrap := false }
    pend := x.pend.filter (·.ended)
    net := []
    sch := { x.sch with fx := {}, late := [], wfe := none, cmdOut := none, chOut := none, fences := [], bar := none } }
/-- Put back what the hurdle words held without the running I task (R237), as writes that digests follow (R194). -/
def undoHurdles (s : State) (t : Nat) : State :=
  match (s.tile t).sch.fx.hd0 with
  | none => s
  | some h => h.words.foldl (fun s e =>
      if readWord64 (s.tile t).store.bytes e.1 = e.2 then s else rawWrite s (.tile t e.1) (toBytes 8 e.2.toNat)) s

/-- The members of the formed gang that a tile belongs to, itself otherwise. -/
def gangTiles (s : State) (t : Nat) : List Nat :=
  match (s.tile t).gang with
  | some g => (List.range g.size).map (g.anchor + ·)
  | none => [t]
/-- Disband the formed gang of a tile (R267): its followers run nothing of their own. -/
def disband (s : State) (t : Nat) : State :=
  (gangTiles s t).foldl (fun a m => a.modTile m fun x => match x.gang with
    | none => x
    | some g => { x with gang := none, sch := { x.sch with task := if g.anchor = m then x.sch.task else none } }) s

/-- Commands that begin with a grant of the pacer (R146). -/
def PCmd.starts : PCmd → Bool
  | .run _ _ _ _ _ _ _ => true
  | .lap => true
  | _ => false
/-- The command at the head of a patch asks its field's pacer for a start (R323); a stop of the same patch that still waits
is withdrawn and the start granted at once (R324). -/
def askStart (s : State) (t : Nat) : State :=
  let x := s.tile t
  match x.pu.q with
  | [] => s
  | e :: r =>
    if !e.cmd.starts || e.asked then s
    else if x.pu.ranAt.isSome then
      let s := s.modTile t fun x => { x with pu := { x.pu with ranAt := none, q := { e with asked := true, granted := true } :: r } }
      let s := s.modField (fieldOf t) fun f => { f with pacer := { f.pacer with stops := f.pacer.stops.filter (·.tile != t) } }
      s.count (fieldOf t) fun w => { w with grant := w.grant + 1 }
    else
      let s := s.modTile t fun x => { x with pu := { x.pu with q := { e with asked := true } :: r } }
      s.modField (fieldOf t) fun f => { f with pacer := { f.pacer with starts := f.pacer.starts ++ [⟨t, e.pri, s.now⟩] } }

/-- A command needs a patch's cells: gated ones ask to wake, first in first out; those being gated ask when gating ends (R328). -/
def askWake (s : State) (t : Nat) : State :=
  let s := s.modTile t fun x => { x with pu := { x.pu with gate := match x.pu.gate with
    | .gating n _ => .gating n true
    | .gated _ => .gated true
    | g => g } }
  match (s.tile t).pu.gate with
  | .gated _ => s.modField (fieldOf t) fun f => if f.wakes.any (·.1 == t) then f else { f with wakes := f.wakes ++ [(t, s.now)] }
  | _ => s
/-- A patch whose queue has just been emptied begins its idle time (R328), one admitted to wake once it is awake. -/
def PatchUnit.rest (p : PatchUnit) (now : Nat) : PatchUnit :=
  match p.gate, p.q with
  | .awake n, [] => { p with gate := .awake (Nat.max n now) }
  | _, _ => p
/-- The granules that operations of the running task are writing. -/
def Tile.begun (x : Tile) : List EngAcc :=
  ((x.eng.copies.filter (·.byTask)).filterMap (·.acc)) ++ ((x.eng.dreqs.filter (·.byTask)).filterMap (·.acc)) ++
    ((x.pu.q.filter (·.byTask)).filterMap (·.acc))
/-- The granules and elements that the engines and the patch of a tile are reading or writing. -/
def Tile.engAccs (x : Tile) : List EngAcc :=
  x.eng.ports.filterMap (·.2.acc) ++ x.eng.copies.filterMap (·.acc) ++ x.eng.dreqs.filterMap (·.acc) ++ x.pu.q.filterMap (·.acc)
/-- Engines act at all (R34, R381). -/
def enginesOn (s : State) (t : Nat) : Bool :=
  let x := s.tile t
  !(x.failStop || x.noClock || s.unreachable t)
/-- Complete the granules whose write has begun, as the operations that write them are cancelled (R145, R237). -/
def finishBegun (s : State) (t : Nat) : State :=
  if enginesOn s t then (s.tile t).begun.foldl (fun s g => finishGranule t g.parts g s) s else s
/-- Undo what a tile's running task has done; a start of its own that waits is dropped, a run of its own ends. -/
def undoTile (s : State) (t : Nat) : State :=
  let cut : Option PEntry := match (s.tile t).pu.q with
    | e :: _ => if e.byTask then some e else none
    | [] => none
  let s := (undoHurdles (finishBegun s t) t).modTile t Tile.undo
  let s := if cut.isSome then s.modTile t fun x => { x with pu := x.pu.rest s.now } else s
  match cut with
  | none => s
  | some e =>
    let s := if e.granted then s.modTile t fun x => { x with pu := { x.pu with ranAt := some s.now } } else s
    let s := if e.asked && !e.granted then
        s.modField (fieldOf t) fun f => { f with pacer := { f.pacer with starts := f.pacer.starts.filter (·.tile != t) } }
      else s
    askStart s t

/-- Undo the running task of a tile and requeue it at the head of the run list, as it became ready (R258, R375), which a full run
list holds as a 65th entry (DESIGN CHOICE: notes/assumptions/96.md); every member of a gang is undone with its anchor (R305); no
tentative entry of a commit that has begun stays (R185). -/
def requeue (s : State) (t : Nat) : State :=
  let ts := team s t
  let s := disband (ts.foldl undoTile (cancelTentative s ts)) t
  s.modTile (ts.headD t) fun x =>
    match x.sch.task with
    | none => x
    | some k => { x with sch := { x.sch with task := none, runl := ⟨k.rcd, k.pri, k.readyAt, k.order⟩ :: x.sch.runl } }

/-- A TRAP event (R377). -/
def trapEvent (s : State) (t : Nat) (cause : Byte) (taddr : Word) : State :=
  tileEvent s t 0x01 cause.toNat taddr (s.tile t).csr.tepc

/-- An abort by R375: undone, requeued, TSTAT.ABORTS up by one in every member; the field stays at 255. DESIGN CHOICE:
notes/assumptions/74.md. -/
def abort (s : State) (t : Nat) : State :=
  let ts := team s t
  ts.foldl (fun a m => a.modTile m fun x => { x with csr := { x.csr with
    aborts := BitVec.ofNat 8 (Nat.min 255 (x.csr.aborts.toNat + 1)) } }) (requeue s t)

/-- ABORT, then halt before any entry (R374). -/
def abortHalt (s : State) (t : Nat) (cause : Byte) (taddr : Word) : State :=
  trapEvent (haltTile (abort s t) t .abortHalt) t cause taddr

/-- ABORT (R375): the 17th in a row takes abort-and-halt. -/
def abortTask (s : State) (t : Nat) (cause : Byte) (taddr : Word) : State :=
  if 16 ≤ (s.tile t).csr.aborts.toNat then abortHalt s t cause taddr else abort s t

/-! ## Retiring (R14, R289) -/

/-- Loop end processing at index e over the active loops, latest first: the pc stands at e + 1 unless a loop goes on. -/
def loopEnd (r : Regs) (e : Nat) : List Nat → Regs
  | [] => r
  | k :: rest =>
    if (r.span k).2 = e then
      let c := r.getLc k
      if 1 < c.toNat then { r.putLc k (c - 1) with pc := (r.span k).1 }
      else loopEnd { r.putLc k 0 with loops := r.loops.filter (· != k) } e rest
    else loopEnd r e rest

/-- The counter with bad parity that loop end processing at index e reads, if it reads one (R15). -/
def Regs.badLoop (r : Regs) (e : Nat) : List Nat → Option Nat
  | [] => none
  | k :: rest =>
    if (r.span k).2 = e then
      if r.parity.contains (.lc, k) then some k
      else if 1 < (r.getLc k).toNat then none
      else r.badLoop e rest
    else r.badLoop e rest
/-- The DUE that the loop end processing after an instruction at `pc` leaves for the next boundary, if it leaves one (R15). -/
def Regs.dueLoop (r : Regs) : List (Byte × Word) :=
  match r.badLoop r.pc r.loops with
  | some k => [(0x10, regDue .lc k)]
  | none => []
/-- The registers after an instruction that went on at `pc`. -/
def Regs.advance (r : Regs) : Regs := loopEnd { r with pc := r.pc + 1 } r.pc r.loops

/-- The running task of a tile takes a cause at its next boundary (R347, R438). -/
def Tile.takeLate (x : Tile) (cause : Byte) (taddr : Word) : Tile := { x with sch := { x.sch with late := x.sch.late ++ [(cause, taddr)] } }
/-- A tile after its instruction retired; a loop counter of bad parity that its end processing read is a DUE at the next boundary (R15). -/
def Tile.retire (x : Tile) (g : Go) : Tile :=
  let x := x.perfAdd 1 1
  match g with
  | .on =>
    { x with regs := x.regs.advance, sch := { x.sch with late := x.sch.late ++ x.regs.dueLoop } }
  | .jump p => { x with regs := { x.regs with pc := p } }
  | .finish => x

/-! ## Traps (R370-R374, R378, R381) -/

/-- What a trap does (R374). -/
inductive Act where
  | poison | deliver | referee | abortHalt | stall | halt | failStop
deriving DecidableEq, Repr

/-- The action a TACT field selects (R373). -/
def actOf (v : Nat) : Act :=
  match v with
  | 2 => .poison
  | 3 => .deliver
  | _ => .referee

/-- The action of a cause on a tile (R372, R380, R381). -/
def trapAct (x : Tile) (cause : Byte) (taddr : Word) : Act :=
  let tact := x.csr.tact.toNat
  match cause.toNat with
  | 0x02 => actOf (nfld tact 3 3)
  | 0x09 => actOf (nfld tact 3 3)
  | 0x07 => actOf (nfld tact 0 3)
  | 0x08 => actOf (nfld tact 0 3)
  | 0x1A => actOf (nfld tact 9 3)
  | 0x04 => if x.isM then .stall else .abortHalt
  | 0x05 => if x.isM then .referee else .abortHalt
  | 0x10 => if nfld taddr.toNat 62 2 = 0 then .failStop else .referee
  | 0x12 => .referee
  | 0x16 => .halt
  | 0x17 => .halt
  | 0x18 =>
    let fc := x.eng.stat.fcause.toNat
    if !x.isM && (fc == 4 || fc == 5) then .abortHalt else .referee
  | _ => actOf (nfld tact 6 3)

/-- Declared output queues in increasing number. -/
def Tile.declOut (x : Tile) : List Nat := (x.outq.filter fun e => decide (0 < e.2.depth)).map (·.1)
def Tile.declIn (x : Tile) : List Nat := (x.inq.filter fun e => decide (0 < e.2.depth)).map (·.1)

/-- Stop the task with POISON on every declared output queue (R378). DEDUCED: notes/assumptions/20.md. -/
def poisonTile (s : State) (t : Nat) (cause : Byte) : State :=
  s.modTile t fun x =>
    let x := x.declOut.foldl (fun y q => y.emit q 0 (.poison cause)) x
    { x with sch := { x.sch with actor := x.sch.actor.map fun a => { a with stopped := true } } }

/-- A local uncorrectable error: the tile fail-stops with one MCHK event, source 3 (R381). -/
def failStopTile (s : State) (t : Nat) (taddr : Word) : State :=
  let s := tileEvent s t 0x02 0x10 3 (BitVec.ofNat 64 (taddr.toNat % 2 ^ 62))
  s.modTile t fun x => { x with failStop := true }

/-- Record a trap in TCAUSE, TEPC and TADDR (R371); what the instruction at the pc had sent is answered or withdrawn. -/
def recordTrap (s : State) (t : Nat) (cause : Byte) (taddr : Word) : State :=
  s.modTile t fun x => { x with
    csr := { x.csr with tcause := cause.setWidth 64, tepc := BitVec.ofNat 64 x.regs.pc, taddr := taddr }
    sch := { x.sch with cmdOut := none, chOut := none, starter := none, wfe := none } }

/-- The cause that a POISON carries (R378): for POISONED the one that the token carried. -/
def poisonCause (cause : Byte) (taddr : Word) : Byte := if cause = 9 then taddr.setWidth 8 else cause
/-- TAKE A TRAP on a tile with an action (R370, R374): the saved registers are written, then the action. TEPC is the pc,
which stands at the trapping instruction, or at the first instruction not issued; `origin` is the cause that a POISON names. A
vector at or above 6,144 is entered, and its fetch traps ADDRFAULT. DESIGN CHOICE: notes/assumptions/97.md. -/
def takeTrapFor (s : State) (t : Nat) (cause : Byte) (taddr : Word) (act : Act) (origin : Byte) : State :=
  let s := recordTrap s t cause taddr
  match act with
  | .deliver =>
    let x := s.tile t
    if x.csr.inTrap || !nbit x.csr.tvec.toNat 15 then trapEvent (haltTile s t .referee) t cause taddr
    else s.modTile t fun x => { x with
      csr := { x.csr with inTrap := true }, regs := { x.regs with pc := nfld x.csr.tvec.toNat 0 13 } }
  | .referee => trapEvent (haltTile s t .referee) t cause taddr
  | .poison => trapEvent (poisonTile s t origin) t cause taddr
  | .abortHalt => abortHalt s t cause taddr
  | .stall => trapEvent (haltTile s t .stall) t cause taddr
  | .halt => haltGroupOf s t (if cause = 0x17 then .step else .brk)
  | .failStop => failStopTile s t taddr

/-- A trap that is itself the origin of what it poisons. -/
def takeTrapAct (s : State) (t : Nat) (cause : Byte) (taddr : Word) (act : Act) : State :=
  takeTrapFor s t cause taddr act (poisonCause cause taddr)

/-- A trap in every member it concerns: in a formed gang the member takes its cause and every other member GANGTRAP (R267). DEDUCED: notes/assumptions/21.md. -/
def trapMembers (s : State) (t : Nat) (cause : Byte) (taddr : Word) : State :=
  let act := trapAct (s.tile t) cause taddr
  match (s.tile t).gang with
  | none => takeTrapAct s t cause taddr act
  | some _ =>
    let others := (gangTiles s t).filter (· != t)
    if act = .abortHalt then
      let s := others.foldl (fun a m => recordTrap a m 0x19 (BitVec.ofNat 64 t)) (recordTrap s t cause taddr)
      let anchor := ((s.tile t).gang.map (·.anchor)).getD t
      (gangTiles s t).foldl (fun a m => haltTile a m .abortHalt) (trapEvent (abort s anchor) t cause taddr)
    else
      let s := disband s t
      let s := takeTrapAct s t cause taddr act
      let act := if act = .failStop then .referee else act
      others.foldl (fun a m => takeTrapFor a m 0x19 (BitVec.ofNat 64 t) act (poisonCause cause taddr)) s

/-- A tile that halts after its BRK: the instruction has retired, and its halt record says so (R374, R399). -/
def Tile.retireBrk (x : Tile) : Tile :=
  let x := x.retire .on
  { x with sch := { x.sch with hrec := x.sch.haltRec } }
/-- Take a trap on a tile. A tile halts after its BRK (R374). DEDUCED: notes/assumptions/21.md; DEDUCED: notes/assumptions/63.md. -/
def takeTrap (s : State) (t : Nat) (cause : Byte) (taddr : Word) : State :=
  let s' := trapMembers s t cause taddr
  if cause = 0x16 then (gangTiles s t).foldl (fun a m => a.modTile m Tile.retireBrk) s' else s'

/-- RETURN FROM A TRAP: where ERET goes, INTRAP cleared; ILLOP outside a handler (R403). -/
def returnFromTrap (skip : Bool) : M Nat := do
  let x ← getT
  need x.csr.inTrap
  modT fun x => { x with csr := { x.csr with inTrap := false } }
  pure (nfld x.csr.tepc.toNat 0 13 + if skip then 1 else 0)

/-! ## Issuing -/

/-- A transfer: ADDRFAULT with the target at or above 6,144 (R14). -/
def jumpTo (p : Nat) : M Go :=
  if p < Config.codeWords then pure (.jump p) else trap 0x03 (BitVec.ofNat 64 p)

/-- The instruction's word, for TADDR. -/
def wordOf (i : Instr) : Word := (encode i).getD 0

/-- The trap that a stop takes, if it is one. -/
def Stop.trapOf (i : Instr) : Stop → Option (Flags × Byte × Word)
  | .trap c a => some (0, c, a)
  | .illop => some (0, 0x01, wordOf i)
  | .priv => some (0, 0x15, wordOf i)
  | .fptrap fl a => some (fl, 0x07, a)
  | .hold => none
  | .empty => none
  | .sent _ => none
  | .late _ _ _ => none

/-- A trap with REFEREE for its action whatever TACT holds, GANGTRAP in the other members (R267, R347); an uncorrectable
unit of the own store fail-stops the tile (R381). -/
def takeForced (s : State) (t : Nat) (cause : Byte) (taddr : Word) : State :=
  let others := (gangTiles s t).filter (· != t)
  let s := takeTrapAct (disband s t) t cause taddr (if cause = 0x10 && nfld taddr.toNat 62 2 == 0 then .failStop else .referee)
  others.foldl (fun a m => takeTrapAct a m 0x19 (BitVec.ofNat 64 t) .referee) s

/-- Count the cycles of a turn in which a tile is held on an empty register (R404). DEDUCED: notes/assumptions/46.md. -/
def countHeld (s : State) (t : Nat) : State := s.modTile t fun x => x.perfAdd 2 (Config.stepCycles s.tick)
/-- A tile after a stop that is no trap. -/
def heldState (s : State) (t : Nat) (e : Stop) : State :=
  match e with
  | .sent s' => s'
  | .late s' c a => takeForced s' t c a
  | .empty => countHeld s t
  | _ => s

/-- The tile that is to halt again after the instruction that a tile and its gang issue, if one is (R400). -/
def stepper (s : State) (t : Nat) : Option Nat := (gangTiles s t).find? fun u => (s.tile u).sch.stepping
/-- After the one instruction of a step, and the action of a trap that it took, the stepped tile halts again with STEP (R400). -/
def stepDone (s : State) (u : Option Nat) : State :=
  match u with
  | none => s
  | some t =>
    if (s.tile t).failStop then s
    else (takeTrap s t 0x17 0).modTile t fun x => { x with sch := { x.sch with stepping := false } }
/-- A tile that was to halt, before the instruction it issued from, records its halt once that instruction has retired (R399). -/
def haltLast (before s : State) : State :=
  if (before.tile before.cur).sch.halted.isNone then s
  else (gangTiles before before.cur).foldl (fun a t => a.modTile t fun x => { x with sch := { x.sch with hrec := x.sch.haltRec } }) s

/-- Run a meaning on the current tile and take what follows. -/
def issueOne (i : Instr) (m : M Go) (s : State) : State :=
  let step := stepper s s.cur
  match m s with
  | .ok (g, s') => stepDone (s'.modTile s.cur (·.retire g)) step
  | .error e =>
    match e.trapOf i with
    | some (fl, c, a) => stepDone (takeTrap (if fl = 0 then s else s.modTile s.cur (·.raise fl)) s.cur c a) step
    | none => heldState s s.cur e

/-- What a gang's members make of one instruction. -/
inductive GangRun where
  | done (s : State) (anchor : Go)
  | held (s : State)
  | trapped (s : State) (t : Nat) (fl : Flags) (cause : Byte) (taddr : Word)

/-- A member of a gang that does not go on with one instruction: `s` holds what the members before it have sent, and what this one
sends is kept, its CBAR issued and counted as its own (R312); a trap is precise on `s0`, the state before the instruction. -/
def heldMember (i : Instr) (m : M Go) (s0 s : State) (t : Nat) : GangRun :=
  match m { s with cur := t } with
  | .ok _ => .held s
  | .error e => match e.trapOf i with
    | some (fl, c, a) => .trapped s0 t fl c a
    | none => .held (heldState s t e)
/-- Run a meaning member by member; `s0` is the state before. A member that holds makes all hold, what each has sent kept; a
trap is precise on the instruction for every member (R267); a failure of the commit ends it for all. DEDUCED: notes/assumptions/26.md. -/
def runMembers (i : Instr) (m : M Go) (s0 : State) : List Nat → GangRun → GangRun
  | [], r => r
  | t :: ts, r =>
    match r with
    | .trapped _ _ _ _ _ => r
    | .done s g =>
      match m { s with cur := t } with
      | .ok (g', s') => runMembers i m s0 ts (.done s' (if t = s0.cur then g' else g))
      | .error e => match e.trapOf i with
        | some (fl, c, a) => .trapped s0 t fl c a
        | none => runMembers i m s0 ts (heldMember i m s0 s0 t)
    | .held s => if (s.tile t).gang.isNone then r else runMembers i m s0 ts (heldMember i m s0 s t)

/-- Followers at the anchor's place in the stream. -/
def syncGang (s : State) (t : Nat) (ts : List Nat) : State :=
  let r := (s.tile t).regs
  (ts.filter (· != t)).foldl (fun a k => a.modTile k fun x =>
    { x with regs := { x.regs with pc := r.pc, lc := r.lc, lp := r.lp, loops := r.loops } }) s
/-- One instruction of a formed gang: every transfer, loop count and end decision is the anchor's (R305). DEDUCED: notes/assumptions/26.md. -/
def issueGang (i : Instr) (m : M Go) (s : State) : State :=
  let t := s.cur
  let ts := gangTiles s t
  let step := stepper s t
  let s := syncGang s t ts
  match runMembers i m s ts (.done s .on) with
  | .done s' g =>
    let s' := { s' with cur := t }
    let s' := syncGang (s'.modTile t (·.retire g)) t ts
    stepDone ((ts.filter (· != t)).foldl (fun a k => a.modTile k (·.perfAdd 1 1)) s') step
  | .held s' => { s' with cur := t }
  | .trapped s' u fl c a =>
    stepDone { takeTrap (if fl = 0 then s' else s'.modTile u (·.raise fl)) u c a with cur := t } step

/-- An instruction issues: its outcome is always a next state. -/
def issue (i : Instr) (m : M Go) (s : State) : Host.Outcome State Fault Refusal :=
  .next (haltLast s (match (s.tile s.cur).gang with
    | none => issueOne i m s
    | some _ => issueGang i m s))

/-- An event acts: its outcome is always a next state; where it is not enabled the state stays. DEDUCED: notes/assumptions/66.md. -/
def occur (f : State → Option State) (s : State) : Host.Outcome State Fault Refusal := .next ((f s).getD s)

end Sys2Proof.Machine
end

