-- ==== Sys2Proof/Machine/Access.lean ====
section
/-! DEFINITION. Accesses of the tile core port: the checks of R215 in order, the store buffer (R164, R165), what is
outstanding (R163, R166, R232), and performing an access at its home (R162, R178, R187, R190, R247). -/

namespace Sys2Proof.Machine

/-! ## Outstanding accesses -/

/-- Chained accesses of a tile that a slice has accepted: acknowledged by their commit's confirmation (R185), or not until they
perform (R228). -/
def chainedOf (s : State) (t : Nat) (acked : Bool) : List Acc :=
  (s.slices.map fun e => (e.2.ents.filter fun c => c.tile == t && c.acked == acked).map (·.acc)).flatten
/-- LDS accesses of a tile that wait (R222). -/
def Tile.ldsAccs (x : Tile) : List Acc := x.pend.filterMap fun p => match p.what with | .lds a _ => some a | _ => none
/-- LDS accesses of a tile that a checkpoint has withdrawn and that are to issue again (R222, R389). -/
def Tile.withdrawn (x : Tile) : List Acc := x.pend.filterMap fun p => match p.what with | .again a _ => some a | _ => none
/-- Accesses of a tile's core that have been issued and are not acknowledged. -/
def outstanding (s : State) (t : Nat) : List Acc := (s.tile t).net ++ (s.tile t).ldsAccs ++ (s.tile t).withdrawn ++ chainedOf s t false

/-- Those of the running task. -/
def ownOutstanding (s : State) (t : Nat) : List Acc :=
  (outstanding s t).filter fun a => decide ((s.tile t).sch.accBase ≤ a.id)

/-- Two ranges of one store share a 64-byte line (R163). -/
def linesMeet (a n b m : Nat) : Bool := decide (a / 64 ≤ (b + m - 1) / 64) && decide (b / 64 ≤ (a + n - 1) / 64)
def Part.meets (p q : Part) : Bool :=
  match p.home, q.home with
  | .tile t a, .tile u b => t == u && linesMeet a p.len b q.len
  | .dram a, .dram b => linesMeet a p.len b q.len
  | .host a, .host b => linesMeet a p.len b q.len
  | _, _ => false

/-- Two parts share a byte. -/
def Part.shares (p q : Part) : Bool :=
  match p.home, q.home with
  | .tile t a, .tile u b => t == u && decide (a < b + q.len) && decide (b < a + p.len)
  | .dram a, .dram b => decide (a < b + q.len) && decide (b < a + p.len)
  | .host a, .host b => decide (a < b + q.len) && decide (b < a + p.len)
  | _, _ => false

/-- Whether a home lies in a fence's scope for a tile: 0 tile, 1 field, 2 wafer, 3 system (R176). -/
def inScope (t scope : Nat) (h : Home) : Bool :=
  match h with
  | .tile u _ => if scope = 0 then u == t else if scope = 1 then fieldOf u == fieldOf t else true
  | .dram _ => decide (2 ≤ scope)
  | .host _ => decide (3 ≤ scope)
/-- Nothing is outstanding in the scope, below an access number; a chained store that its commit's confirmation has acknowledged is,
until it performs (R176). -/
def scopeClear (s : State) (t scope below : Nat) : Bool :=
  (outstanding s t ++ chainedOf s t true).all fun a => decide (below ≤ a.id) || a.parts.all fun p => !inScope t scope p.home
/-- No fence before an access number still waits (R219, R232). -/
def fenceOk (s : State) (t id : Nat) : Bool :=
  (s.tile t).sch.fences.all fun e => decide (id < e.2) || scopeClear s t e.1 e.2
/-- An earlier access of the core port to a line of this part is not acknowledged, or an acknowledged chained store has not performed:
one of the same commit to a line of it, or one of an earlier task that shares a byte (R163, R229). -/
def portBusy (s : State) (t id : Nat) (p : Part) : Bool :=
  (outstanding s t).any (fun b => decide (b.id < id) && b.parts.any p.meets) ||
    (chainedOf s t true).any fun b => decide (b.id < id) &&
      b.parts.any (if (s.tile t).sch.accBase ≤ b.id then p.meets else p.shares)
/-- An LDS that has not read (R222). -/
def AccOp.isLds : AccOp → Bool
  | .lds _ _ _ => true
  | _ => false
/-- No claim of the running task that was issued before an access still waits for its token, and no LDS issued before it for its words
(R176, the token and full/empty edges). DEDUCED: notes/assumptions/78.md. -/
def Tile.acquired (x : Tile) (issued : Nat) : Bool :=
  x.pend.all (fun p => match p.what with
    | .claim _ _ _ _ => p.ended || decide (issued < p.stamp)
    | _ => true) &&
  (x.net ++ x.ldsAccs ++ x.withdrawn).all fun a => !a.op.isLds || decide (issued ≤ a.issued)
/-- A migration holds back a part of an access to its page, unless the access was in flight as the migration began (R197). -/
def pageHolds (s : State) (t id : Nat) (p : Part) : Bool :=
  match s.migr, p.home with
  | some m, .dram x => decide (x < m.oldPa + pageBytes m.spec.size) && decide (m.oldPa < x + p.len) && !m.flight.contains (t, id)
  | _, _ => false
/-- Part p of an access, behind the parts `before` of the same access, may be sent (R163, R176, R197, R219, R220, R232). DEDUCED:
notes/assumptions/9.md. -/
def partFree (s : State) (t : Nat) (a : Acc) (before : List Part) (p : Part) : Bool :=
  !portBusy s t a.id p && fenceOk s t a.id && (s.tile t).acquired a.issued && !pageHolds s t a.id p && !(a.lanes && before.any p.meets)
/-- Every part of an access may be sent. -/
def accFree (s : State) (t : Nat) (a : Acc) : Bool := a.parts.all fun p => partFree s t a [] p

/-- An access of a tile's core port to n bytes at a home, with its number and the one it had at issue, has its turn (R163, R176, R219,
R232). -/
def hasTurn (s : State) (t : Nat) (h : Home) (n id issued : Nat) : Bool :=
  !portBusy s t id ⟨h, 0, n, 0, 0, 0⟩ && fenceOk s t id && (s.tile t).acquired issued
/-- A core-port access of n bytes at a home that performs as it issues has its turn. -/
def portTurn (h : Home) (n : Nat) : M Unit := do
  let s ← getS
  let id := (s.tile s.cur).nextAcc
  await (hasTurn s s.cur h n id id)

/-! ## Refusals at a home -/

/-- What stands in the way of an access (R347, R350, R34, R381). -/
inductive Miss where
  | ok
  /-- its home is a tile that has fail-stopped and is not yet declared dead -/
  | wait
  | dead
  /-- another owner's tile or granule: cause of the refusal, destination owner and tile or slice -/
  | reject (cause : Byte) (down dtile : Nat)
deriving DecidableEq, Repr

/-- What a tile's access meets at a home, served by a slice (R347, R350). DEDUCED: notes/assumptions/24.md. -/
def homeMiss (s : State) (t : Nat) (h : Home) (slice : Nat) : Miss :=
  match h with
  | .tile u _ =>
    if u = t then .ok
    else if s.ownerOf u != s.ownerOf t then .reject 0x0F (s.ownerOf u) u
    else if s.unreachable u then .dead
    else if (s.tile u).failStop then .wait
    else .ok
  | .dram pa =>
    if granOwnerOf s pa = s.ownerOf t then .ok else .reject 0x05 (granOwnerOf s pa) (0x8000 + slice)
  | .host _ => .ok
def partMiss (s : State) (t : Nat) (p : Part) : Miss := homeMiss s t p.home p.slice

/-- Keep a violation record: the latest 1,024 (R349). -/
def logViolation (s : State) (r : VRec) : State :=
  let l := s.sec.log ++ [r]
  { s with sec := { s.sec with log := l.drop (l.length - 1024) } }
/-- REJECTs of an owner's partition in this millisecond (R348, R349). -/
def State.rejectsNow (s : State) (o : Nat) : Nat := ((s.part o).map fun p => if p.rejMs = s.ms then p.rejects else 0).getD 0
/-- An alarm source has met its condition and fires next (R367). -/
def State.alarmNext (s : State) (a : AlarmSource) (at_ : Nat) : State :=
  if s.sec.due.contains (a, at_) then s else { s with sec := { s.sec with due := s.sec.due ++ [(a, at_)] } }
/-- A REJECT of what tile t has sent: counted in the millisecond, where the count above OWNMAX fires the alarm's source once,
recorded, reported to its referee (R347-R349). -/
def recordReject (s : State) (t kind cls down dtile : Nat) (addr : Word) : State :=
  let o := s.ownerOf t
  let s := s.modPart o fun p =>
    if p.rejMs = s.ms then { p with rejects := p.rejects + 1 } else { p with rejects := 1, rejMs := s.ms, rejFired := false }
  let n := s.rejectsNow o
  let fired := ((s.part o).map (·.rejFired)).getD true
  let s := if !fired && decide (nfld s.sec.alarmpol.toNat 16 16 < n) then s.alarmNext .rej o else s
  let s := logViolation s ⟨s.ms, kind, cls, o, down, t, dtile, addr, n⟩
  tileEvent s t 0x08 0 addr (BitVec.ofNat 64 (down + dtile * 2 ^ 16 + kind * 2 ^ 32))

/-! ## The checks of R215 -/

/-- TADDR of a DUE met at a home that is not the own tile's: source in [63:62] (R381). -/
def dueTaddr (h : Home) (va : Word) : Word :=
  BitVec.ofNat 64 ((match h with | .tile _ _ => 3 | _ => 1) * 2 ^ 62 + va.toNat % 2 ^ 62)
/-- TADDR of a translation that fails: the virtual address, for a DUE with its source (R170, R381). -/
def walkTaddr (e : Nat) (va : Word) : Word := if e = 0x10 then dueTaddr (.dram 0) va else va

/-- Whether a migration holds back new accesses to a page (R197). -/
def migrating (s : State) (c : Nat) (va : Word) : Bool :=
  match s.migr with
  | some m => decide (1 ≤ m.step) && m.spec.ctx == c &&
      m.spec.va.toNat / pageBytes m.spec.size == va.toNat / pageBytes m.spec.size
  | none => false

/-- Check n bytes at an address and reach their home: aperture, alignment, owner, translation and permission (R215, R346). DEDUCED: notes/assumptions/14.md. -/
def resolve (a : Word) (n align : Nat) (store hostOk : Bool) : M Phys := do
  let s ← getS
  let t := s.cur
  let x := s.tile t
  match steer t x.csr.stkbase a n with
  | none => trap 0x03 a
  | some p =>
    if a.toNat % align ≠ 0 then trap 0x06 a
    else match p with
      | .tile u off =>
        if u != t && s.ownerOf u != s.ownerOf t then trap 0x0F a else pure ⟨.tile u off, 0, false, 0⟩
      | .glob va =>
        let c := s.ctxOf t
        await !(migrating s c va)
        match translate s t c (s.refLevel t) (BitVec.ofNat 2 (nfld x.csr.pgsz.toNat 0 2)) va store hostOk with
        | .error e => if e = 0 then hold else trap (BitVec.ofNat 8 e) (walkTaddr e va)
        | .ok (ph, s') => modS (fun _ => s'); pure ph

/-- A store of the own core to an armed hurdle word raises HDCLOB (R247). -/
def notArmed (h : Home) (n : Nat) : M Unit := do
  let s ← getS
  match h with
  | .tile u off =>
    if u = s.cur then
      match armedAt (s.tile u) off n with
      | some o => trap 0x0C (BitVec.ofNat 64 o)
      | none => pure ()
    else pure ()
  | _ => pure ()
/-! ## The store buffer (R164, R165) -/

/-- Where a byte's home lies in a part, if it does. -/
def Part.offOf (p : Part) (h : Home) : Option Nat :=
  match p.home, h with
  | .tile t o, .tile u k => if t == u && decide (o ≤ k) && decide (k < o + p.len) then some (k - o) else none
  | .dram o, .dram k => if decide (o ≤ k) && decide (k < o + p.len) then some (k - o) else none
  | .host o, .host k => if decide (o ≤ k) && decide (k < o + p.len) then some (k - o) else none
  | _, _ => none
/-- The byte that a buffered store gives a home, if it covers it. -/
def BufItem.byteAt (b : BufItem) (h : Home) : Option Byte :=
  match b with
  | .hdarr _ _ _ => none
  | .acc a =>
    let data : Option Vec := match a.op with
      | .store d => some d
      | .stf d => some d
      | .chStore _ d => some d
      | _ => none
    match data with
    | none => none
    | some d => a.parts.findSome? fun p => (p.offOf h).map fun k => byteOf d.toNat (p.pos + k)
/-- The latest buffered byte of a home (R164). -/
def sbByte (sb : List BufItem) (h : Home) : Option Byte := sb.reverse.findSome? (·.byteAt h)

/-- Bytes that a buffered access occupies (R165, R216). DEDUCED: notes/assumptions/22.md. -/
def BufItem.size : BufItem → Nat
  | .hdarr _ _ _ => 16
  | .acc a => match a.op with
    | .feclr => 16
    | .amo _ _ _ _ _ _ => 16
    | _ => ((a.parts.map (·.len)).sum + 7) / 8 * 8 + 8
def sbSize (sb : List BufItem) : Nat := (sb.map (·.size)).sum

/-- Enter the store buffer, or SBFULL (R165). -/
def buffer (b : BufItem) : M Unit := do
  let x ← getT
  let occ := sbSize x.sch.fx.sb
  if Config.storeBufferBytes < occ + b.size then trap 0x0D (BitVec.ofNat 64 occ)
  else modT fun x => { x with sch := { x.sch with fx := { x.sch.fx with sb := x.sch.fx.sb ++ [b] } } }

/-- Bytes at a home as a load of the tile's task sees them: its buffered stores over the home's bytes (R164). -/
def throughSb (sb : List BufItem) (h : Home) (bs : List Byte) : List Byte :=
  if sb.isEmpty then bs else bs.zipIdx.map fun (b, i) => (sbByte sb (h.add i)).getD b

/-! ## Performing (R162) -/

/-- A loaded value in its register: the size's bytes, sign-extended on demand (R218). -/
def extendLoad (v : Vec) (size : Nat) (sx : Bool) : Vec :=
  if 8 < size then v
  else
    let n := v.toNat % 2 ^ (8 * size)
    if sx then BitVec.ofNat 512 (wrapN 64 (toSigned (8 * size) n)) else BitVec.ofNat 512 n

/-- The new value of an atomic (R230). -/
def amoNew (op : BitVec 3) (w64 uns : Bool) (x y : Word) (old : Nat) : Nat :=
  let w := if w64 then 64 else 32
  let a := x.toNat % 2 ^ w
  let lt := if uns then decide (old < a) else decide (toSigned w old < toSigned w a)
  match op.toNat with
  | 0 => (old + a) % 2 ^ w
  | 1 => Nat.land old a
  | 2 => Nat.lor old a
  | 3 => Nat.xor old a
  | 4 => if lt then old else a
  | 5 => if lt then a else old
  | 6 => a
  | _ => if old = a then y.toNat % 2 ^ w else old

/-- The configuration of a tile's actor. -/
def State.sqOf (s : State) (t : Nat) : Nat := ((s.tile t).sch.actor.map (·.cfg)).getD 0

/-- Deliver the value of a load to the register that waits for it. -/
def arriveResult (s : State) (t : Nat) (d : RegRef) (v : Vec) : State :=
  s.modTile t fun x => { x with pend := x.pend ++ [{ dst := d, what := .value v 0 }] }

/-- What performing comes to. -/
inductive Perf where
  | ok (s : State)
  /-- the home meets an uncorrectable unit: its home (R381, R438) -/
  | due (h : Home)
  /-- it waits at the slice (R192) -/
  | wait (s : State)

/-- Write one part at its home: an armed hurdle word of another tile discards the write with an event (R247). -/
def performWrite (s : State) (t : Nat) (p : Part) (bs : List Byte) (full : Bool) : Except Home State :=
  let clob : Option (Nat × Nat) := match p.home with
    | .tile u off => (armedAt (s.tile u) off bs.length).map fun o => (u, o)
    | _ => none
  match clob with
  | some (u, o) => .ok (tileEvent s u 0x06 0x0C (BitVec.ofNat 64 o) (BitVec.ofNat 64 t))
  | none =>
    match homeWrite s p.home bs with
    | .error u => .error (p.home.unit u)
    | .ok s =>
      let s := if full then setFull s p.home bs.length true else s
      .ok (setDirty s p.pteAt)

/-- Write every part of an access from a register's bytes. -/
def performWrites (s : State) (t : Nat) (data : Vec) (full : Bool) : List Part → Except Home State
  | [] => .ok s
  | p :: r => match performWrite s t p (takeBytes data p.pos p.len) full with
    | .error h => .error h
    | .ok s => performWrites s t data full r
/-- Read every part of an access into a register's bytes. -/
def performReads (s : State) (v : Vec) : List Part → Except Home (Vec × State)
  | [] => .ok (v, s)
  | p :: r => match homeRead s p.home p.len with
    | .error u => .error (p.home.unit u)
    | .ok (bs, s) => performReads s (putBytes v p.pos bs) r
/-- Bytes that the store buffer gave at issue, over those read (R164). -/
def overlay (v : Vec) (covers : List (Nat × Byte)) : Vec := covers.foldl (fun v e => putBytes v e.1 [e.2]) v

/-- Windows a slice may hold: 512 open and 16,384 spilled (R192). -/
def windowLimit : Nat := 512 + 16384
/-- The open window of a word, with its slice and its place there. -/
def openWindow (s : State) (pa : Nat) : Option (Nat × Nat × Window) :=
  s.slices.findSome? fun e => (findIx (fun w : Window => w.pa == pa) e.2.wins).map fun q => (e.1, q.1, q.2)

/-- A reduce-add arrives: it adds to the open window of its word or opens one at its slice, in either case through its own entry's D
(R169, R190). A signalling NaN in memory raises NV as it is loaded. DEDUCED: notes/assumptions/16.md. -/
def performRed (s : State) (t : Nat) (p : Part) (add : Wide → Wide × Flags) (mode : BitVec 3) (seed : BitVec 32) (first : Bool) : Perf :=
  match p.home with
  | .dram pa =>
    let sq := s.sqOf t
    let flag (s : State) (fl : Flags) : State := s.modCfg sq fun c => { c with rflags := c.rflags ||| fl }
    match openWindow s pa with
    | some (sl, i, w) =>
      let (x, fl) := add w.val
      .ok (flag (setDirty (s.modSlice sl fun y => { y with wins := lset y.wins i { w with val := x } }) p.pteAt) fl)
    | none =>
      if windowLimit ≤ (s.slice p.slice).wins.length then
        .wait (if first then event s (s.ownerOf t) 0x04 0 (0x8000 + p.slice) (s.ctxOf t) 0xFFFF p.va 0 else s)
      else match s.dram.badRead pa 4 with
        | some u => .due (.dram (8 * u))
        | none =>
          let (x, f1) := ({} : Wide).add (decodeVal f32 (s.dram.word pa))
          let (x, f2) := add x
          let w : Window := ⟨pa, x, mode, seed, p.va, sq⟩
          .ok (flag (setDirty (s.modSlice p.slice fun y => { y with wins := y.wins ++ [w] }) p.pteAt) (f1 ||| f2))
  | _ => .ok s

/-- The atomic that a RED form performs (R231): op and width. -/
def redAmo (ty : BitVec 3) : BitVec 3 × Bool :=
  match ty.toNat with
  | 1 => (0, false)
  | 2 => (0, true)
  | 3 => (5, false)
  | _ => (4, false)

/-- One atomic at its home (R187). -/
def performAmo (s : State) (t : Nat) (p : Part) (op : BitVec 3) (w64 uns : Bool) (x y : Word) (dst : Option RegRef) : Perf :=
  match homeRead s p.home p.len with
  | .error u => .due (p.home.unit u)
  | .ok (bs, s) =>
    let old := ofBytes bs
    match performWrite s t p (toBytes p.len (amoNew op w64 uns x y old)) false with
    | .error h => .due h
    | .ok s => .ok (match dst with | some d => arriveResult s t d (BitVec.ofNat 512 old) | none => s)

/-- The mask of full bits at a home's line (R225): its words in a tile store, the line in DRAM. -/
def fullMask (s : State) (h : Home) (covers : List (Nat × Bool)) : Nat :=
  let (st, a) := s.homeStore h.line
  let bit (k : Nat) (b : Bool) : Nat := if (covers.find? (·.1 == k)).elim b (·.2) then 1 else 0
  match h with
  | .tile _ _ => ofElems 1 ((List.range 16).map fun i => bit i (st.full (a / 4 + i)))
  | _ => bit 0 (st.full (a / 64))

/-- Loads, stores and FECLR perform part by part (R163, R220). -/
def AccOp.byParts : AccOp → Bool
  | .load _ _ _ _ _ => true
  | .store _ => true
  | .feclr => true
  | _ => false
/-- Perform one part of a load, a store or a FECLR at its home. -/
def performPart (s : State) (t : Nat) (a : Acc) (p : Part) : Except Home (Acc × State) :=
  match a.op with
  | .load dst old size sx covers => match homeRead s p.home p.len with
    | .error u => .error (p.home.unit u)
    | .ok (bs, s) => .ok ({ a with op := .load dst (putBytes old p.pos bs) size sx covers }, s)
  | .store data => (performWrite s t p (takeBytes data p.pos p.len) false).map fun s => (a, s)
  | .feclr => .ok (a, setFull (touchWindows s p.home p.len) p.home p.len false)
  | _ => .ok (a, s)
/-- An access of which every part has performed: a load's value goes to its register. -/
def finishAcc (s : State) (t : Nat) (a : Acc) : State :=
  match a.op with
  | .load dst old size sx covers => arriveResult s t dst (extendLoad (overlay old covers) size sx)
  | _ => s

/-- Perform at its home an access that is not performed part by part. -/
def performAcc (s : State) (t : Nat) (a : Acc) : Perf :=
  match a.op with
  | .lds dst take covers => match performReads s 0 a.parts with
    | .error h => .due h
    | .ok (v, s) =>
      let s := if take then a.parts.foldl (fun s p => setFull s p.home p.len false) s else s
      .ok (arriveResult s t dst (overlay v covers))
  | .stf data => match performWrites s t data true a.parts with
    | .error h => .due h
    | .ok s => .ok s
  | .fetst dst covers => match a.parts with
    | p :: _ => .ok (let s := touchWindows s p.home.line 64; arriveResult s t dst (BitVec.ofNat 512 (fullMask s p.home covers)))
    | [] => .ok s
  | .amo op w64 uns x y dst => match a.parts with
    | p :: _ => performAmo s t p op w64 uns x y dst
    | [] => .ok s
  | .red ty data mode seed => match a.parts with
    | p :: _ =>
      if ty = 0 then performRed s t p (·.add (decodeVal f32 (data.toNat % 2 ^ 32))) mode seed (a.retries == 0)
      else performAmo s t p (redAmo ty).1 (redAmo ty).2 false (data.setWidth 64) 0 none
    | [] => .ok s
  | .chLoad _ dst size => match performReads s 0 a.parts with
    | .error h => .due h
    | .ok (v, s) => .ok (arriveResult s t dst (extendLoad v size false))
  | .chStore _ data => match performWrites s t data false a.parts with
    | .error h => .due h
    | .ok s => .ok s
  | _ => .ok s

/-! ## Issuing an access -/

/-- A part in the tile's own store. -/
def Part.own (t : Nat) (p : Part) : Bool := match p.home with | .tile u _ => u == t | _ => false
/-- Every part lies in the tile's own store. -/
def allOwn (t : Nat) (ps : List Part) : Bool := ps.all (·.own t)

/-- A fresh access number. -/
def newAcc (parts : List Part) (op : AccOp) : M Acc := do
  let x ← getT
  modT fun x => { x with nextAcc := x.nextAcc + 1 }
  pure { id := x.nextAcc, parts := parts, op := op, issued := x.nextAcc }

/-- DUE of source 0b00: the unit that the tile's own port meets (R381). -/
def ownDue (h : Home) : Word :=
  match h with
  | .tile _ off => BitVec.ofNat 64 (off / 8 * 8)
  | _ => 0

/-- The parts of an access in the own store that may be sent perform as they issue (R166, R216); the others are left. -/
def partsNow (s : State) (t : Nat) (a : Acc) (left : List Part) : List Part → Except Home (Acc × List Part × State)
  | [] => .ok (a, left, s)
  | p :: r =>
    if p.own t && partFree s t a left p then
      match performPart s t a p with
      | .error h => .error h
      | .ok (a, s) => partsNow s t a left r
    else partsNow s t a (left ++ [p]) r
/-- An access joins those on their way; each part for another home is a message (R404). -/
def Tile.sendNet (x : Tile) (t : Nat) (a : Acc) : Tile :=
  ({ x with net := x.net ++ [a] } : Tile).perfAdd 5
    (if a.op.byParts then (a.parts.filter (!·.own t)).length else if allOwn t a.parts then 0 else 1)
/-- Send an access to its home: what it does in the own store it does at once where nothing stands before it (R163, R166). The
error is an uncorrectable unit of the own store. DEDUCED: notes/assumptions/9.md. -/
def sendFrom (s : State) (t : Nat) (a : Acc) : Except Home State :=
  if a.op.byParts then
    match partsNow s t a [] a.parts with
    | .error h => .error h
    | .ok (a, [], s) => .ok (finishAcc s t a)
    | .ok (a, left, s) => .ok (s.modTile t (·.sendNet t { a with parts := left }))
  else if allOwn t a.parts && accFree s t a then
    match performAcc s t a with
    | .ok s => .ok s
    | .wait s => .ok (s.modTile t (·.sendNet t a))
    | .due h => .error h
  else .ok (s.modTile t (·.sendNet t a))
/-- Send an access of the current tile. -/
def sendAcc (a : Acc) : M Unit := do
  let s ← getS
  match sendFrom s s.cur a with
  | .ok s' => modS fun _ => s'
  | .error h => trap 0x10 (ownDue h)

/-- Empty the destination of a load (R37). -/
def emptyDst (d : RegRef) : M Unit := modR fun r => match d with
  | .g i => r.emptyG i
  | .v i => r.emptyV i
  | .win _ _ => r

/-- The bytes of some parts, by place, that the store buffer gives (R164). -/
def sbOver (sb : List BufItem) (ps : List Part) : List (Nat × Byte) :=
  if sb.isEmpty then []
  else (ps.map fun p => (List.range p.len).filterMap fun i => (sbByte sb (p.home.add i)).map fun b => (p.pos + i, b)).flatten
/-- Parts of which the store buffer does not give every byte. -/
def uncovered (covers : List (Nat × Byte)) (ps : List Part) : List Part :=
  if covers.isEmpty then ps
  else ps.filter fun p => !(List.range p.len).all fun i => covers.any fun e => e.1 == p.pos + i

/-- A load into a register: the store buffer's bytes over the home's (R164); the destination empties (R57). -/
def issueLoad (dst : RegRef) (old : Vec) (size : Nat) (sx lanes : Bool) (ps : List Part) : M Unit := do
  let covers := sbOver (← getT).sch.fx.sb ps
  let a ← newAcc (uncovered covers ps) (.load dst old size sx covers)
  emptyDst dst
  sendAcc { a with lanes := lanes }

/-- A store-like access: buffered in an I task, sent in an M task (R216). -/
def issueStore (op : AccOp) (ps : List Part) : M Unit := do
  for p in ps do notArmed p.home p.len
  let a ← newAcc ps op
  if (← getT).isM then sendAcc a else buffer (.acc a)

end Sys2Proof.Machine
end

