-- ==== Sys2Proof/Machine/Real.lean ====
section
/-! DEFINITION. The real functions of R110 and R111. Square root, reciprocal and their combination are exact floors with a
sticky bit. The transcendental ones are fixed-point numbers of 576 fraction bits with a last bit set, so `roundTo` rounds
the exact value unless it lies within the error of a rounding boundary. UNVERIFIED: notes/assumptions/10.md. -/

namespace Sys2Proof.Machine

/-- Fraction bits of the fixed-point numbers. -/
def realP : Nat := 576
def realOne : Nat := 2 ^ realP
def fxMul (a b : Nat) : Nat := a * b / realOne

/-- Σ (-1)^j p / (n2^j (2k+2j+1)): the arctangent series. -/
def atanSum (n2 : Nat) : Nat → Nat → Nat → Int
  | 0, _, _ => 0
  | f + 1, p, k => (p / (2 * k + 1) : Nat) - atanSum n2 f (p / n2) (k + 1)
/-- Σ p / (n2^j (2k+2j+1)): the inverse hyperbolic tangent series. -/
def atanhSum (n2 : Nat) : Nat → Nat → Nat → Nat
  | 0, _, _ => 0
  | f + 1, p, k => p / (2 * k + 1) + atanhSum n2 f (p / n2) (k + 1)

/-- π by Machin's formula. -/
def piFx : Nat := (16 * atanSum 25 130 (realOne / 5) 0 - 4 * atanSum 57121 42 (realOne / 239) 0).toNat
/-- ln 2 = 2 artanh(1/3). -/
def ln2Fx : Nat := 2 * atanhSum 9 190 (realOne / 3) 0

/-- Σ t y^j / ((k+1)...(k+j)): e^y from t = 1, k = 0. -/
def expSum (y : Nat) : Nat → Nat → Nat → Nat
  | 0, t, _ => t
  | f + 1, t, k => t + expSum y f (fxMul t y / (k + 1)) (k + 1)
/-- The alternating series of sine (k = 1) and cosine (k = 0) in y². -/
def trigSum (y2 : Nat) : Nat → Nat → Nat → Int
  | 0, _, _ => 0
  | f + 1, t, k => (t : Int) - trigSum y2 f (fxMul t y2 / ((k + 1) * (k + 2))) (k + 2)

/-- e^t for fixed-point t ≥ 0. -/
def expFx (t : Nat) : Nat :=
  let k := t / ln2Fx
  let r := t - k * ln2Fx
  expSum r 120 realOne 0 * 2 ^ k

/-- Σ z^(2j+1)/(2j+1) for z of fixed point, by powers of z². -/
def artanhSum (z2 : Nat) : Nat → Nat → Nat → Nat
  | 0, _, _ => 0
  | f + 1, p, k => p / (2 * k + 1) + artanhSum z2 f (fxMul p z2) (k + 1)

/-- sin(π r) for fixed-point r from 0 to 1/2. -/
def sinPiSmall (r : Nat) : Nat :=
  if r ≤ realOne / 4 then
    let y := fxMul piFx r
    (trigSum (fxMul y y) 60 y 1).toNat
  else
    let y := fxMul piFx (realOne / 2 - r)
    (trigSum (fxMul y y) 60 realOne 0).toNat

/-- A dyadic m · 2^e as fixed point, cut below. -/
def dyFx (d : Dy) : Nat :=
  let k := d.e + realP
  if 0 ≤ k then d.m * 2 ^ k.toNat else d.m / 2 ^ (-k).toNat
/-- A fixed-point result with its last bit set: it stands for an irrational number just above. -/
def stickyFx (s : Bool) (v : Nat) : Dy := ⟨s, 2 * v + 1, -(realP + 1 : Int)⟩
/-- One, with a sign. -/
def dyOne (s : Bool) : Dy := ⟨s, 1, 0⟩

/-- sin(π u) for fixed-point u ≥ 0: exact at the multiples of 1/2 when u is exact. -/
def sinPiFx (exact s : Bool) (u : Nat) : Dy :=
  let s := s != (u / realOne % 2 == 1)
  let v := u % realOne
  let r := Nat.min v (realOne - v)
  if exact && r == 0 then ⟨s, 0, 0⟩
  else if exact && r == realOne / 2 then dyOne s
  else stickyFx s (sinPiSmall r)

/-- Just below one, with a sign: where a function has saturated. -/
def belowOne (s : Bool) : Dy := ⟨s, 2 ^ 400 - 1, -400⟩
/-- Beyond 2^10 in magnitude. -/
def Dy.huge (d : Dy) : Bool := decide (10 ≤ ilog2 d)

/-- 2^a (R110). UNVERIFIED: notes/assumptions/10.md. -/
def exp2Dy (a : Dy) : Dy :=
  if a.m = 0 then dyOne false
  else if 13 ≤ ilog2 a then ⟨false, 1, if a.s then -8192 else 8192⟩
  else
    let x := dyFx a
    let k : Int := if a.s then -((x + realOne - 1) / realOne : Nat) else (x / realOne : Nat)
    let f : Nat := if a.s then ((x + realOne - 1) / realOne) * realOne - x else x % realOne
    if f = 0 then ⟨false, 1, k⟩
    else ⟨false, 2 * expSum (fxMul f ln2Fx) 120 realOne 0 + 1, k - (realP + 1 : Int)⟩

/-- log₂ a for a > 0 (R110). UNVERIFIED: notes/assumptions/10.md. -/
def log2Dy (a : Dy) : Dy :=
  let k0 := ilog2 a
  let f0 := dyFx { a with e := a.e - k0 }
  if f0 = realOne then (if k0 = 0 then ⟨false, 0, 0⟩ else ⟨decide (k0 < 0), k0.natAbs, 0⟩)
  else
    let up := decide (3 * realOne / 2 < f0)
    let k := if up then k0 + 1 else k0
    let f := if up then f0 / 2 else f0
    let neg := decide (f < realOne)
    let z := (if neg then realOne - f else f - realOne) * realOne / (f + realOne)
    let l := 2 * artanhSum (fxMul z z) 200 z 0 * realOne / ln2Fx
    let v : Int := k * realOne + (if neg then -(l : Int) else (l : Int))
    ⟨decide (v < 0), 2 * v.natAbs + 1, -(realP + 1 : Int)⟩

/-- tanh a (R110). UNVERIFIED: notes/assumptions/10.md. -/
def tanhDy (a : Dy) : Dy :=
  if a.m = 0 then a
  else if a.huge then belowOne a.s
  else
    let e := expFx (2 * dyFx a)
    stickyFx a.s ((e - realOne) * realOne / (e + realOne))

/-- 1 / (1 + e^-a) (R110). UNVERIFIED: notes/assumptions/10.md. -/
def sigmDy (a : Dy) : Dy :=
  if a.m = 0 then ⟨false, 1, -1⟩
  else if a.huge then (if a.s then ⟨false, 1, -8192⟩ else belowOne false)
  else
    let e := expFx (dyFx a)
    if a.s then ⟨false, 2 * (realOne * 2 ^ 2048 / (e + realOne)) + 1, -2049⟩
    else stickyFx false (e * realOne / (e + realOne))

/-- π with a significand of 128 bits, in units of 2^-126 (R111). -/
def pHat : Nat := (piFx / 2 ^ (realP - 127) + 1) / 2

/-- a / P̂ in fixed point: the angle in half turns (R111). UNVERIFIED: notes/assumptions/10.md. -/
def turnsFx (a : Dy) : Nat := dyFx { a with e := a.e + 126 } / pHat

/-- The dyadics of the functions by name. -/
inductive RealFn where
  | exp2 | log2 | sin | cos | sinpi | cospi | tanh | sigm
deriving DecidableEq, Repr

/-- UNVERIFIED: notes/assumptions/10.md. -/
def RealFn.eval (fn : RealFn) (a : Dy) : Dy :=
  match fn with
  | .exp2 => exp2Dy a
  | .log2 => log2Dy a
  | .tanh => tanhDy a
  | .sigm => sigmDy a
  | .sinpi => if a.m = 0 then a else sinPiFx true a.s (dyFx a)
  | .cospi => sinPiFx true false (dyFx a + realOne / 2)
  | .sin => if a.m = 0 then a else sinPiFx false a.s (turnsFx a)
  | .cos => if a.m = 0 then dyOne false else sinPiFx false false (turnsFx a + realOne / 2)

/-- A real function rounded, with the special inputs of R110 and R111. UNVERIFIED: notes/assumptions/10.md. -/
def realVal (f : Fmt) (rm : Rm) (fn : RealFn) (sat : Bool) (v : Val) : Res :=
  match v with
  | .nan _ _ _ _ => (nanResult f [v]).getD (invalid f)
  | .inf s => match fn with
    | .exp2 => if s then ⟨0, 0⟩ else encodeVal f rm sat (.inf false)
    | .log2 => if s then invalid f else encodeVal f rm sat (.inf false)
    | .tanh => roundTo f rm sat (dyOne s)
    | .sigm => if s then ⟨0, 0⟩ else roundTo f rm sat (dyOne false)
    | _ => invalid f
  | .fin d => match fn with
    | .log2 =>
      if d.m = 0 then { encodeVal f rm false (.inf true) with fl := DZ }
      else if d.s then invalid f
      else roundTo f rm sat (log2Dy d)
    | .sin => if 16 ≤ ilog2 d && d.m != 0 then ⟨nanCode f false 0x517 22, RG⟩ else roundTo f rm sat (fn.eval d)
    | .cos => if 16 ≤ ilog2 d && d.m != 0 then ⟨nanCode f false 0x517 22, RG⟩ else roundTo f rm sat (fn.eval d)
    | .sinpi =>
      let r := fn.eval d
      -- an integer gives a zero with the sign of a (R110)
      roundTo f rm sat (if r.m = 0 then { r with s := d.s } else r)
    | .cospi =>
      let r := fn.eval d
      roundTo f rm sat (if r.m = 0 then { r with s := false } else r)
    | _ => roundTo f rm sat (fn.eval d)

/-- Integer square root by halving steps on a fuel of bits. -/
def isqrtStep (n : Nat) : Nat → Nat → Nat
  | 0, r => r
  | b + 1, r =>
    let c := r + 2 ^ b
    isqrtStep n b (if c * c ≤ n then c else r)
/-- floor(√n). -/
def isqrt (n : Nat) : Nat := isqrtStep n (n.log2 / 2 + 1) 0

/-- √a for a > 0 with a sticky bit, exact where it is exact. -/
def sqrtDy (a : Dy) : Dy :=
  let e := if a.e % 2 = 0 then a.e - 256 else a.e - 257
  let n := a.m * 2 ^ (a.e - e).toNat
  let r := isqrt n
  ⟨false, 2 * r + (if r * r = n then 0 else 1), e / 2 - 1⟩
/-- 1/√a for a > 0. -/
def rsqrtDy (a : Dy) : Dy :=
  -- 1/√(m·2^e) = √(2^-e / m); the quotient 2^k / m with k even enough, then its root
  let e2 := if a.e % 2 = 0 then a.e else a.e - 1
  let m2 := if a.e % 2 = 0 then a.m else 2 * a.m
  let k := 2 * (200 + m2.log2)
  let q := 2 ^ k / m2
  let r := isqrt q
  ⟨false, 2 * r + (if r * r * m2 = 2 ^ k then 0 else 1), -(e2 / 2) - (k / 2 : Nat) - 1⟩

/-- fsqrt (R110). -/
def sqrtVal (f : Fmt) (rm : Rm) (v : Val) : Res :=
  match v with
  | .nan _ _ _ _ => (nanResult f [v]).getD (invalid f)
  | .inf s => if s then invalid f else encodeVal f rm false (.inf false)
  | .fin d =>
    if d.m = 0 then ⟨zeroCode f d.s, 0⟩
    else if d.s then invalid f
    else roundTo f rm false (sqrtDy d)
/-- frsq (R110). -/
def rsqrtVal (f : Fmt) (rm : Rm) (v : Val) : Res :=
  match v with
  | .nan _ _ _ _ => (nanResult f [v]).getD (invalid f)
  | .inf s => if s then invalid f else ⟨0, 0⟩
  | .fin d =>
    if d.m = 0 then { encodeVal f rm false (.inf d.s) with fl := DZ }
    else if d.s then invalid f
    else roundTo f rm false (rsqrtDy d)
/-- frcp (R110). -/
def rcpVal (f : Fmt) (rm : Rm) (sat : Bool) (v : Val) : Res :=
  divVal f rm sat (.fin (dyOne false)) v

end Sys2Proof.Machine
end

