-- ==== Sys2Proof/Machine/Flags.lean ====
section
/-! DEFINITION. Flags of an execution (R82-R85) and the write of its result with them: element by element for a vector,
once for a scalar (R48, R92). -/

namespace Sys2Proof.Machine

/-- The rounding of element idx into a register destination under the sampled CSRs (R77). -/
def rmOf (c : Csrs) (dk : Bool) (dst : BitVec 8) (idx : Nat) : Rm :=
  let addr : BitVec 32 := BitVec.ofNat 32 ((if dk then 256 else 0) + dst.toNat)
  ⟨c.mode, if c.mode = 5 then srRnd (BitVec.ofNat 32 c.srseed.toNat) addr idx else 0⟩

/-- Elements with their flags. -/
structure Elems where
  codes : List Nat := []
  fl : Flags := 0
  lanes : BitVec 16 := 0
deriving DecidableEq, Repr

/-- Compute n elements of width w from element j0 up: a disabled lane's element is 0 and raises nothing (R84). `lanes` are
those that raised a flag enabled in `en` (R83). -/
def mapElems (en : Flags) (m : BitVec 16) (w : Nat) (g : Nat → Res) : Nat → Nat → Elems
  | 0, _ => {}
  | n + 1, j =>
    let lane := w * j / 32
    let rest := mapElems en m w g n (j + 1)
    if nbit m.toNat lane then
      let r := g j
      { codes := r.code :: rest.codes, fl := r.fl ||| rest.fl,
        lanes := if r.fl &&& en = 0 then rest.lanes else rest.lanes ||| (1#16 <<< lane) }
    else { rest with codes := 0 :: rest.codes }

/-- The flags FTRAP enables (R83). -/
def Csrs.enabled (c : Csrs) : Flags := c.ftrap.setWidth 7
/-- FTRAP as sampled is zero. -/
def ftrapZero : M Bool := do return (← getT).csr.ftrap.setWidth 7 == (0 : Flags)

/-- Write a vector result (R83, R85): a long-latency producer under FTRAP = 0 fills its destination later, its flags with
it; any other writes now. -/
def finishV (ll : Bool) (dst : BitVec 8) (m : BitVec 16) (d : Vec) (fl : Flags) (lanes : BitVec 16) : M Go := do
  checkFp fl lanes
  if ll && (← ftrapZero) then
    let r ← dstRef false dst.toNat
    let x ← getT
    let old := if dst.toNat < 248 then x.regs.getV dst.toNat else 0
    sendResult r (.value (mergeLanes m old d) fl)
  else
    modT (·.raise fl)
    writeV dst.toNat m d
  pure .on

/-- Write a scalar result likewise. -/
def finishG (ll : Bool) (dst : BitVec 8) (d : Word) (fl : Flags) : M Go := do
  checkFp fl 1
  if ll && (← ftrapZero) then
    sendResult (← dstRef true dst.toNat) (.value (d.setWidth 512) fl)
  else
    modT (·.raise fl)
    writeG dst.toNat d
  pure .on

/-- A scalar result of a type in 64 bits: i8, i16 and i32 sign-extended, the others zero-extended (R48). -/
def widen (ty : BitVec 4) (code : Nat) : Word :=
  if tySigned ty then BitVec.ofInt 64 (toSigned (tyWidth ty) code) else BitVec.ofNat 64 (code % 2 ^ tyWidth ty)

end Sys2Proof.Machine
end

