-- ==== Sys2Proof/Machine/Operands.lean ====
section
/-! DEFINITION. Operand forms of formats A and I (R46, R47): literals, scalars, constants and vectors as elements of a
type, and the element-wise execution that groups 0 and 1 share (R45, R92). -/

namespace Sys2Proof.Machine

/-- The value of an inline literal under a type (R47). -/
def litVal (ty : BitVec 4) (c : BitVec 8) : Nat :=
  let w := tyWidth ty
  if ty.toNat < 8 then wrapN w c.toInt
  else match ty.toNat with
    | 8 => (convVal f32 ⟨0, 0⟩ false (decodeVal e4m3 c.toNat)).code
    | 9 => (convVal bf16 ⟨0, 0⟩ false (decodeVal e4m3 c.toNat)).code
    | 10 => (convVal f16 ⟨0, 0⟩ false (decodeVal e4m3 c.toNat)).code
    | 14 => c.toNat % 16
    | _ => c.toNat
/-- A literal of a floating-point type whose code is NaN stands for the canonical quiet NaN with its sign (R47). -/
def litElem (ty : BitVec 4) (c : BitVec 8) : Nat :=
  if c.toNat % 128 = 0x7F then
    match ty.toNat with
    | 8 => nanCode f32 (nbit c.toNat 7) 0 0
    | 9 => nanCode bf16 (nbit c.toNat 7) 0 0
    | 10 => nanCode f16 (nbit c.toNat 7) 0 0
    | _ => litVal ty c
  else litVal ty c

/-- A scalar-valued source as 64 bits, a literal as an integer of 64 bits (R46, R402). -/
def readScalar (a : Src) : M Word := do
  match a with
  | .g i w => readG i.toNat w
  | .c i => readC i.toNat
  | .lit c => return c.signExtend 64
  | .v i w => return (← readV i.toNat w).setWidth 64

/-- A source as one element of a type (R47). -/
def readElem (ty : BitVec 4) (a : Src) : M Nat := do
  match a with
  | .lit c => return litElem ty c
  | _ => return (← readScalar a).toNat % 2 ^ tyWidth ty

/-- A source as n elements of a type, a scalar one replicated (R47, R92). -/
def readElems (ty : BitVec 4) (n : Nat) (a : Src) : M (List Nat) := do
  match a with
  | .v i w => return toElems n (tyWidth ty) (← readV i.toNat w).toNat
  | _ => return List.replicate n (← readElem ty a)

/-- Element j of a list. -/
def el (l : List Nat) (j : Nat) : Nat := l[j]?.getD 0

/-- A function of up to three elements, with the element's index for its rounding. -/
abbrev ElemOp := Csrs → Nat → Nat → Nat → Nat → Res

/-- The checks that follow the reading of the sources (R56): `bad` is an entry's own trap on the operands. -/
abbrev Check := BitVec 16 → List Nat → List Nat → M Unit
def noCheck : Check := fun _ _ _ => pure ()

/-- Element-wise execution (R45, R92): all lanes with dk = 0, once with dk = 1. `n` sources, `rounds` samples RMODE, `ll`
is a long-latency producer; `late` is one whose flags come with its result (R85). DEDUCED: notes/assumptions/13.md. -/
def alu (f : FA) (n : Nat) (rounds ll late : Bool) (chk : Check) (op : ElemOp) : M Go :=
  if f.dk then whenBit0 f.p do
    dstReady true f.dst.toNat
    let a ← readElem f.ty f.a
    let b ← if 2 ≤ n then readElem f.ty f.b else pure 0
    let c ← if 3 ≤ n then readElem f.ty f.c else pure 0
    if rounds then needMode
    chk 1 [a] [b]
    let r := op (← getT).csr 0 a b c
    if ll && !late then
      checkFp r.fl 1
      modT (·.raise r.fl)
      sendResult (← dstRef true f.dst.toNat) (.value ((widen f.ty r.code).setWidth 512) 0)
      pure .on
    else finishG ll f.dst (widen f.ty r.code) r.fl
  else whenLanes f.p fun m => do
    dstReady false f.dst.toNat m
    let w := tyWidth f.ty
    let k := 512 / w
    let a ← readElems f.ty k f.a
    let b ← if 2 ≤ n then readElems f.ty k f.b else pure []
    let c ← if 3 ≤ n then readElems f.ty k f.c else pure []
    if rounds then needMode
    chk m a b
    let t ← getT
    let e := mapElems t.csr.enabled m w (fun j => op t.csr j (el a j) (el b j) (el c j)) k 0
    let d : Vec := BitVec.ofNat 512 (ofElems w e.codes)
    if ll && !late then
      checkFp e.fl e.lanes
      modT (·.raise e.fl)
      let old := if f.dst.toNat < 248 then t.regs.getV f.dst.toNat else 0
      sendResult (← dstRef false f.dst.toNat) (.value (mergeLanes m old d) 0)
      pure .on
    else finishV ll f.dst m d e.fl e.lanes

end Sys2Proof.Machine
end

