-- ==== Sys2Proof/Machine/IntOps.lean ====
section
/-! DEFINITION. The meanings of group 0: integer arithmetic, shifts, fields, comparisons, moves (R96-R103). -/

namespace Sys2Proof.Machine

/-- An integer operation on the values of two elements of a type, wrapped or clamped with `.sat` (R69, R96). -/
def intOp (f : FA) (g : Int → Int → Int) : ElemOp := fun _ _ a b _ =>
  let w := tyWidth f.ty
  let v (x : Nat) : Int := if tySigned f.ty then toSigned w x else (x % 2 ^ w : Nat)
  fitInt w (tySigned f.ty) f.sat (g (v a) (v b))
/-- An operation on the bits of two elements. -/
def bitOp (f : FA) (g : Nat → Nat → Nat → Nat) : ElemOp := fun _ _ a b _ => ⟨g (tyWidth f.ty) a b % 2 ^ tyWidth f.ty, 0⟩
def notN (w a : Nat) : Nat := 2 ^ w - 1 - a % 2 ^ w

def intAlu (f : FA) (n : Nat) (g : Int → Int → Int) : M Go := alu f n false false false noCheck (intOp f g)
def bitAlu (f : FA) (n : Nat) (g : Nat → Nat → Nat → Nat) : M Go := alu f n false false false noCheck (bitOp f g)

/-- DIVZERO when an enabled element of b is zero (R97). -/
def divZero (f : FA) : Check := fun m _ b =>
  let lanes := (b.zipIdx.filter fun e => e.1 == 0 && nbit m.toNat (if f.dk then 0 else tyWidth f.ty * e.2 / 32)).map fun e =>
    2 ^ (if f.dk then 0 else tyWidth f.ty * e.2 / 32)
  if lanes.isEmpty then pure () else trap 0x08 (BitVec.ofNat 64 (lanes.foldl Nat.lor 0 * 65536))
/-- The division family: long-latency, its only trap at issue (R97). -/
def divAlu (f : FA) (g : Int → Int → Int) : M Go := alu f 2 false true false (divZero f) (intOp f g)

/-- A shift count: element b as an unsigned w-bit value (R98). -/
def shlOp (f : FA) : ElemOp := fun _ _ a s _ =>
  let w := tyWidth f.ty
  if !f.sat then ⟨if s < w then a * 2 ^ s % 2 ^ w else 0, 0⟩
  else
    let v : Int := if tySigned f.ty then toSigned w a else (a : Int)
    fitInt w (tySigned f.ty) true (v * 2 ^ Nat.min s w)
def sraN (w a s : Nat) : Nat :=
  let k := if s < w then s else w - 1
  wrapN w (toSigned w a / 2 ^ k)
def rolN (w a s : Nat) : Nat :=
  let k := s % w
  a * 2 ^ k % 2 ^ w + a / 2 ^ (w - k)
/-- Leading zeros of a w-bit value. -/
def clzN (w a : Nat) : Nat := if a = 0 then w else w - 1 - a.log2
def ctzN (w a : Nat) : Nat := ((List.range w).find? (nbit a)).getD w
def popN (w a : Nat) : Nat := ((List.range w).filter (nbit a)).length
def brevN (w a : Nat) : Nat := ofElems 1 ((List.range w).map fun i => if nbit a (w - 1 - i) then 1 else 0)

/-- The field [pos, e) that a descriptor names in w bits (R99). -/
def fieldOfDesc (w d : Nat) : Nat × Nat :=
  let pos := d % 256
  let len := d / 256 % 256
  (pos, Nat.min (pos + len) w)
def bextN (sgn : Bool) (w a d : Nat) : Nat :=
  let (pos, e) := fieldOfDesc w d
  if e ≤ pos then 0
  else
    let v := nfld a pos (e - pos)
    if sgn then wrapN w (toSigned (e - pos) v) else v
def binsN (w a b d : Nat) : Nat :=
  let (pos, e) := fieldOfDesc w d
  if e ≤ pos then a
  else a % 2 ^ pos + b % 2 ^ (e - pos) * 2 ^ pos + a / 2 ^ e * 2 ^ e
/-- M of sext and zext (R100). -/
def extWidth (f : FA) : Nat := 8 * 2 ^ f.m.toNat

/-- A condition as an element: all ones in a vector, 1 in a scalar (R101). -/
def condElem (f : FA) (b : Bool) : Nat := if b then (if f.dk then 1 else 2 ^ tyWidth f.ty - 1) else 0
/-- cmp (R101). -/
def cmpOp (f : FA) : ElemOp := fun _ _ a b _ =>
  let w := tyWidth f.ty
  let v (x : Nat) : Int := if tySigned f.ty then toSigned w x else (x : Int)
  ⟨condElem f (match f.m.toNat with
    | 0 => a == b
    | 1 => a != b
    | 2 => decide (v a < v b)
    | _ => decide (v a ≤ v b)), 0⟩
/-- The element-wise execution whose scalar result is a number of no type (cmp, fcmp, fclass): zero-extended. -/
def condAlu (f : FA) (op : ElemOp) : M Go :=
  if f.dk then whenBit0 f.p do
    dstReady true f.dst.toNat
    let a ← readElem f.ty f.a
    let b ← readElem f.ty f.b
    let r := op (← getT).csr 0 a b 0
    finishG false f.dst (BitVec.ofNat 64 r.code) r.fl
  else alu f 2 false false false noCheck op

/-- sadd and ssub (R102). A halved difference outside the type's range wraps (R69). DEDUCED: notes/assumptions/88.md. -/
def haddOp (f : FA) (sub : Bool) : ElemOp := fun _ _ a b _ =>
  let w := tyWidth f.ty
  let v (x : Nat) : Int := if tySigned f.ty then toSigned w x else (x : Int)
  let x := if sub then v a - v b else v a + v b
  match f.m.toNat with
  | 0 => fitInt w (tySigned f.ty) true x
  | 1 => ⟨wrapN w (x / 2), 0⟩
  | _ => ⟨wrapN w ((x + 1) / 2), 0⟩

/-- The immediate of format I, sign-extended (R103). -/
def imm64 (f : FI) : Word := f.imm.signExtend 64
/-- The vector whose 32-bit lanes all hold x. -/
def splat32 (x : Nat) : Vec := BitVec.ofNat 512 (ofElems 32 (List.replicate 16 x))

/-- movi (R103). -/
def moviM (f : FI) : M Go :=
  if f.dk then whenBit0 f.p do
    dstReady true f.dst.toNat
    writeG f.dst.toNat (imm64 f)
    pure .on
  else whenLanes f.p fun m => do
    dstReady false f.dst.toNat m
    writeV f.dst.toNat m (splat32 ((imm64 f).toNat % 2 ^ 32))
    pure .on
/-- movhi (R103). -/
def movhiM (f : FI) : M Go := whenBit0 f.p do
  dstReady true f.dst.toNat
  let a ← readScalar f.a
  writeG f.dst.toNat (imm64 f * 2 ^ 29 + BitVec.ofNat 64 (a.toNat % 2 ^ 29))
  pure .on
/-- addi (R103). -/
def addiM (f : FI) : M Go :=
  if f.dk then whenBit0 f.p do
    dstReady true f.dst.toNat
    let a ← readScalar f.a
    writeG f.dst.toNat (a + imm64 f)
    pure .on
  else whenLanes f.p fun m => do
    dstReady false f.dst.toNat m
    let a ← readElems 0 16 f.a
    let d := a.map fun x => (x + (imm64 f).toNat) % 2 ^ 32
    writeV f.dst.toNat m (BitVec.ofNat 512 (ofElems 32 d))
    pure .on
/-- lea (R103): no access and no check. -/
def leaM (f : FM) : M Go := whenBit0 f.p do
  dstReady true f.dst.toNat
  let b ← readG f.base.toNat f.bw
  writeG f.dst.toNat (b + f.off.signExtend 64)
  pure .on

/-- NOP (R59). -/
def execNop (f : FA) (s : State) := issue (.nop f) (pure .on) s
/-- ADD (R96). -/
def execAdd (f : FA) (s : State) := issue (.add f) (intAlu f 2 (· + ·)) s
/-- SUB (R96). -/
def execSub (f : FA) (s : State) := issue (.sub f) (intAlu f 2 (· - ·)) s
/-- MUL (R96). -/
def execMul (f : FA) (s : State) := issue (.mul f) (intAlu f 2 (· * ·)) s
/-- MULH (R96). -/
def execMulh (f : FA) (s : State) := issue (.mulh f) (intAlu f 2 fun a b => a * b / 2 ^ tyWidth f.ty) s
/-- MULHN (R96). -/
def execMulhn (f : FA) (s : State) := issue (.mulhn f) (intAlu f 2 fun a b => a * b / 2 ^ tyWidth f.ty) s
/-- DIV (R97). -/
def execDiv (f : FA) (s : State) := issue (.div f) (divAlu f Int.tdiv) s
/-- DIVN (R97). -/
def execDivn (f : FA) (s : State) := issue (.divn f) (divAlu f Int.tdiv) s
/-- REM (R97). -/
def execRem (f : FA) (s : State) := issue (.rem f) (divAlu f Int.tmod) s
/-- REMN (R97). -/
def execRemn (f : FA) (s : State) := issue (.remn f) (divAlu f Int.tmod) s
/-- NEG (R96). -/
def execNeg (f : FA) (s : State) := issue (.neg f) (intAlu f 1 fun a _ => -a) s
/-- ABS (R96). -/
def execAbs (f : FA) (s : State) := issue (.abs f) (intAlu f 1 fun a _ => (a.natAbs : Int)) s
/-- MIN (R96). -/
def execMin (f : FA) (s : State) := issue (.min f) (intAlu f 2 fun a b => if a < b then a else b) s
/-- MAX (R96). -/
def execMax (f : FA) (s : State) := issue (.max f) (intAlu f 2 fun a b => if a < b then b else a) s
/-- MINN (R96). -/
def execMinn (f : FA) (s : State) := issue (.minn f) (intAlu f 2 fun a b => if a < b then a else b) s
/-- MAXN (R96). -/
def execMaxn (f : FA) (s : State) := issue (.maxn f) (intAlu f 2 fun a b => if a < b then b else a) s
/-- AND (R96). -/
def execAnd (f : FA) (s : State) := issue (.and f) (bitAlu f 2 fun _ a b => Nat.land a b) s
/-- OR (R96). -/
def execOr (f : FA) (s : State) := issue (.or f) (bitAlu f 2 fun _ a b => Nat.lor a b) s
/-- XOR (R96). -/
def execXor (f : FA) (s : State) := issue (.xor f) (bitAlu f 2 fun _ a b => Nat.xor a b) s
/-- ANDN (R96). -/
def execAndn (f : FA) (s : State) := issue (.andn f) (bitAlu f 2 fun w a b => Nat.land a (notN w b)) s
/-- ORN (R96). -/
def execOrn (f : FA) (s : State) := issue (.orn f) (bitAlu f 2 fun w a b => Nat.lor a (notN w b)) s
/-- NOT (R96). -/
def execNot (f : FA) (s : State) := issue (.not f) (bitAlu f 1 fun w a _ => notN w a) s
/-- SHL (R98). -/
def execShl (f : FA) (s : State) := issue (.shl f) (alu f 2 false false false noCheck (shlOp f)) s
/-- SHR (R98). -/
def execShr (f : FA) (s : State) := issue (.shr f) (bitAlu f 2 fun w a b => if b < w then a / 2 ^ b else 0) s
/-- SRA (R98). -/
def execSra (f : FA) (s : State) := issue (.sra f) (bitAlu f 2 sraN) s
/-- ROL (R98). -/
def execRol (f : FA) (s : State) := issue (.rol f) (bitAlu f 2 rolN) s
/-- CLZ (R96). -/
def execClz (f : FA) (s : State) := issue (.clz f) (bitAlu f 1 fun w a _ => clzN w a) s
/-- CTZ (R96). -/
def execCtz (f : FA) (s : State) := issue (.ctz f) (bitAlu f 1 fun w a _ => ctzN w a) s
/-- POPC (R96). -/
def execPopc (f : FA) (s : State) := issue (.popc f) (bitAlu f 1 fun w a _ => popN w a) s
/-- BREV (R96). -/
def execBrev (f : FA) (s : State) := issue (.brev f) (bitAlu f 1 fun w a _ => brevN w a) s
/-- BEXT (R99). -/
def execBext (f : FA) (s : State) := issue (.bext f) (bitAlu f 2 (bextN (tySigned f.ty))) s
/-- BINS (R99). -/
def execBins (f : FA) (s : State) :=
  issue (.bins f) (alu f 3 false false false noCheck fun _ _ a b c => ⟨binsN (tyWidth f.ty) a b c, 0⟩) s
/-- SEXT (R100). -/
def execSext (f : FA) (s : State) :=
  issue (.sext f) (bitAlu f 1 fun w a _ => wrapN w (toSigned (extWidth f) a)) s
/-- ZEXT (R100). -/
def execZext (f : FA) (s : State) := issue (.zext f) (bitAlu f 1 fun _ a _ => a % 2 ^ extWidth f) s
/-- CMP (R101). -/
def execCmp (f : FA) (s : State) := issue (.cmp f) (condAlu f (cmpOp f)) s
/-- SEL (R96). -/
def execSel (f : FA) (s : State) :=
  issue (.sel f) (alu f 3 false false false noCheck fun _ _ a b c => ⟨if c ≠ 0 then a else b, 0⟩) s
/-- MOV (R96). -/
def execMov (f : FA) (s : State) := issue (.mov f) (bitAlu f 1 fun _ a _ => a) s
/-- MOVI (R103). -/
def execMovi (f : FI) (s : State) := issue (.movi f) (moviM f) s
/-- MOVHI (R103). -/
def execMovhi (f : FI) (s : State) := issue (.movhi f) (movhiM f) s
/-- ADDI (R103). -/
def execAddi (f : FI) (s : State) := issue (.addi f) (addiM f) s
/-- LEA (R103). -/
def execLea (f : FM) (s : State) := issue (.lea f) (leaM f) s
/-- SADD (R102). -/
def execSadd (f : FA) (s : State) := issue (.sadd f) (alu f 2 false false false noCheck (haddOp f false)) s
/-- SSUB (R102). -/
def execSsub (f : FA) (s : State) := issue (.ssub f) (alu f 2 false false false noCheck (haddOp f true)) s

end Sys2Proof.Machine
end

