-- ==== Sys2Proof/Machine/FloatOps.lean ====
section
/-! DEFINITION. The meanings of group 1: floating point (R104-R115). -/

namespace Sys2Proof.Machine

/-- The format of a float instruction's type. -/
def fOf (f : FA) : Fmt := (fmtOf f.ty 0).getD f32

/-- The element-wise execution of a float function of up to three values. -/
def floatAlu (f : FA) (n : Nat) (rounds ll : Bool) (g : Rm → Val → Val → Val → Res) : M Go :=
  alu f n rounds ll true noCheck fun c j x y z =>
    g (rmOf c f.dk f.dst j) (decodeVal (fOf f) x) (decodeVal (fOf f) y) (decodeVal (fOf f) z)
/-- One of the functions of R110 and R111: rounds, long-latency. -/
def realAlu (f : FA) (fn : RealFn) : M Go := floatAlu f 1 true true fun rm x _ _ => realVal (fOf f) rm fn f.sat x
/-- An operation on the bits that raises nothing (R107). -/
def signAlu (f : FA) (n : Nat) (g : Bool → Bool → Bool) : M Go :=
  bitAlu f n fun w a b =>
    let mag := a % 2 ^ (w - 1)
    if g (nbit a (w - 1)) (nbit b (w - 1)) then mag + 2 ^ (w - 1) else mag
/-- Minimum and maximum keep the operand's code (R106). -/
def minmaxAlu (f : FA) (lo num : Bool) : M Go :=
  alu f 2 false false true noCheck fun _ _ x y _ =>
    minmaxVal (fOf f) lo num (decodeVal (fOf f) x) (decodeVal (fOf f) y) x y

/-- frnd (R112). -/
def frndM (f : FA) : M Go :=
  alu f 1 true false true noCheck fun c j x _ _ => frndVal (fOf f) (rmOf c f.dk f.dst j) (f.m == 1) (decodeVal (fOf f) x) x
/-- fgetexp (R113). -/
def fgetexpM (f : FA) : M Go :=
  alu f 1 false false true noCheck fun _ _ x _ _ => fgetexpVal (fOf f) (decodeVal (fOf f) x) x
/-- The integer type of a float type's width, for B of fscale and the index operands (R113, R117). -/
def intTy (ty : BitVec 4) : BitVec 4 :=
  match tyWidth ty with
  | 32 => 0
  | 16 => 2
  | 8 => 4
  | _ => 6
/-- fscale (R113): B is an integer operand. -/
def fscaleM (f : FA) : M Go :=
  let w := tyWidth f.ty
  let op (c : Csrs) (j x n : Nat) : Res := fscaleVal (fOf f) (rmOf c f.dk f.dst j) f.sat (decodeVal (fOf f) x) (toSigned w n)
  if f.dk then whenBit0 f.p do
    dstReady true f.dst.toNat
    let a ← readElem f.ty f.a
    let b ← readElem (intTy f.ty) f.b
    needMode
    let r := op (← getT).csr 0 a b
    finishG false f.dst (widen f.ty r.code) r.fl
  else whenLanes f.p fun m => do
    dstReady false f.dst.toNat m
    let k := 512 / w
    let a ← readElems f.ty k f.a
    let b ← readElems (intTy f.ty) k f.b
    needMode
    let c := (← getT).csr
    let e := mapElems c.enabled m w (fun j => op c j (el a j) (el b j)) k 0
    finishV false f.dst m (BitVec.ofNat 512 (ofElems w e.codes)) e.fl e.lanes

/-- conv of R115 between two type codes. -/
def convElem (d s : BitVec 4) (fmt8 : Word) (rm : Rm) (sat : Bool) (x : Nat) : Res :=
  match fmtOf s fmt8, fmtOf d fmt8 with
  | some fs, some fd => convVal fd rm sat (decodeVal fs x)
  | some fs, none => floatToInt (tyWidth d) (tySigned d) sat rm (decodeVal fs x)
  | none, some fd => intToFloat fd rm sat (if tySigned s then toSigned (tyWidth s) x else (x : Int))
  | none, none => fitInt (tyWidth d) (tySigned d) sat (if tySigned s then toSigned (tyWidth s) x else (x : Int))

/-- Source A of cvt under S (R114). -/
def readCvtElems (s : BitVec 4) (f : FA) : M (List Nat) := readElems s (512 / tyWidth s) f.a

/-- cvt (R114, R115); in a token the elements outside a narrowing's part are zero. DEDUCED: notes/assumptions/89.md. -/
def cvtM (f : FA) : M Go :=
  let s := cvtS f
  let rounds := decide (8 ≤ s.toNat) || decide (8 ≤ f.ty.toNat)
  if f.dk then whenBit0 f.p do
    dstReady true f.dst.toNat
    let a ← readElem s f.a
    if rounds then needMode
    let c := (← getT).csr
    let r := convElem f.ty s c.fmt8 (rmOf c true f.dst 0) f.sat a
    finishG false f.dst (widen f.ty r.code) r.fl
  else whenLanes f.p fun m => do
    let wd := tyWidth f.ty
    let ws := tyWidth s
    dstReady false f.dst.toNat (if wd < ws then 0 else m)
    let n := 512 / Nat.max wd ws
    let p := f.m.toNat
    let a ← readCvtElems s f
    if rounds then needMode
    let x ← getT
    let c := x.csr
    let src (j : Nat) : Nat := el a (if ws < wd then p * n + j else j)
    let first := if wd < ws then p * n else 0
    let e := mapElems c.enabled m wd (fun k => convElem f.ty s c.fmt8 (rmOf c false f.dst k) f.sat (src (k - first))) n first
    let new : Nat := ofElems wd e.codes * 2 ^ (wd * first)
    let keep : Nat := 2 ^ (wd * first) * (2 ^ (wd * n) - 1)
    let old := if f.dst.toNat < 248 then (x.regs.getV f.dst.toNat).toNat else 0
    -- elements outside the part, and lanes disabled, keep their values
    let bits : Vec := BitVec.ofNat 512 keep &&& maskBits m
    let d : Vec := (BitVec.ofNat 512 new &&& bits) ||| (BitVec.ofNat 512 old &&& ~~~ bits)
    finishV false f.dst 0xFFFF d e.fl e.lanes

/-- FADD (R105). -/
def execFadd (f : FA) (s : State) := issue (.fadd f) (floatAlu f 2 true false fun rm x y _ => addVal (fOf f) rm f.sat false x y) s
/-- FSUB (R105). -/
def execFsub (f : FA) (s : State) := issue (.fsub f) (floatAlu f 2 true false fun rm x y _ => addVal (fOf f) rm f.sat true x y) s
/-- FMUL (R105). -/
def execFmul (f : FA) (s : State) := issue (.fmul f) (floatAlu f 2 true false fun rm x y _ => mulVal (fOf f) rm f.sat x y) s
/-- FMA (R105). -/
def execFma (f : FA) (s : State) := issue (.fma f) (floatAlu f 3 true false fun rm x y z => fmaVal (fOf f) rm f.sat false false x y z) s
/-- FMS (R105). -/
def execFms (f : FA) (s : State) := issue (.fms f) (floatAlu f 3 true false fun rm x y z => fmaVal (fOf f) rm f.sat false true x y z) s
/-- FNMA (R105). -/
def execFnma (f : FA) (s : State) := issue (.fnma f) (floatAlu f 3 true false fun rm x y z => fmaVal (fOf f) rm f.sat true false x y z) s
/-- FMIN (R106). -/
def execFmin (f : FA) (s : State) := issue (.fmin f) (minmaxAlu f true false) s
/-- FMAX (R106). -/
def execFmax (f : FA) (s : State) := issue (.fmax f) (minmaxAlu f false false) s
/-- FMINP (R106). -/
def execFminp (f : FA) (s : State) := issue (.fminp f) (minmaxAlu f true true) s
/-- FMAXP (R106). -/
def execFmaxp (f : FA) (s : State) := issue (.fmaxp f) (minmaxAlu f false true) s
/-- FABS (R107). -/
def execFabs (f : FA) (s : State) := issue (.fabs f) (signAlu f 1 fun _ _ => false) s
/-- FNEG (R107). -/
def execFneg (f : FA) (s : State) := issue (.fneg f) (signAlu f 1 fun x _ => !x) s
/-- FSGN (R107). -/
def execFsgn (f : FA) (s : State) := issue (.fsgn f) (signAlu f 2 fun _ y => y) s
/-- FCMP (R108). -/
def execFcmp (f : FA) (s : State) :=
  issue (.fcmp f) (condAlu f fun _ _ x y _ =>
    let (r, fl) := fcmpVal f.m.toNat (decodeVal (fOf f) x) (decodeVal (fOf f) y)
    ⟨condElem f r, fl⟩) s
/-- FCLASS (R109). -/
def execFclass (f : FA) (s : State) :=
  issue (.fclass f) (bitAlu f 1 fun _ x _ => 2 ^ fclassBit (fOf f) (decodeVal (fOf f) x)) s
/-- FRCP (R110). -/
def execFrcp (f : FA) (s : State) := issue (.frcp f) (floatAlu f 1 true true fun rm x _ _ => rcpVal (fOf f) rm f.sat x) s
/-- FRSQ (R110). -/
def execFrsq (f : FA) (s : State) := issue (.frsq f) (floatAlu f 1 true true fun rm x _ _ => rsqrtVal (fOf f) rm x) s
/-- FSQRT (R110). -/
def execFsqrt (f : FA) (s : State) := issue (.fsqrt f) (floatAlu f 1 true true fun rm x _ _ => sqrtVal (fOf f) rm x) s
/-- FDIV (R105). -/
def execFdiv (f : FA) (s : State) := issue (.fdiv f) (floatAlu f 2 true true fun rm x y _ => divVal (fOf f) rm f.sat x y) s
/-- FEXP2 (R110). -/
def execFexp2 (f : FA) (s : State) := issue (.fexp2 f) (realAlu f .exp2) s
/-- FLOG2 (R110). -/
def execFlog2 (f : FA) (s : State) := issue (.flog2 f) (realAlu f .log2) s
/-- FSIN (R111). -/
def execFsin (f : FA) (s : State) := issue (.fsin f) (realAlu f .sin) s
/-- FCOS (R111). -/
def execFcos (f : FA) (s : State) := issue (.fcos f) (realAlu f .cos) s
/-- FSINPI (R110). -/
def execFsinpi (f : FA) (s : State) := issue (.fsinpi f) (realAlu f .sinpi) s
/-- FCOSPI (R110). -/
def execFcospi (f : FA) (s : State) := issue (.fcospi f) (realAlu f .cospi) s
/-- FTANH (R110). -/
def execFtanh (f : FA) (s : State) := issue (.ftanh f) (realAlu f .tanh) s
/-- FSIGM (R110). -/
def execFsigm (f : FA) (s : State) := issue (.fsigm f) (realAlu f .sigm) s
/-- FRND (R112). -/
def execFrnd (f : FA) (s : State) := issue (.frnd f) (frndM f) s
/-- CVT (R114). -/
def execCvt (f : FA) (s : State) := issue (.cvt f) (cvtM f) s
/-- FSCALE (R113). -/
def execFscale (f : FA) (s : State) := issue (.fscale f) (fscaleM f) s
/-- FGETEXP (R113). -/
def execFgetexp (f : FA) (s : State) := issue (.fgetexp f) (fgetexpM f) s

end Sys2Proof.Machine
end

