-- ==== Sys2Proof/Machine/Engine.lean ====
section
/-! DEFINITION. The engines of a tile (R233-R251): their accesses, hurdles (R246-R248), stream ports (R240-R242), copies
(R244, R245) and the replies of DRAM actors (R250, R251). A granule or an element completes in one step; its aligned 8-byte units may
perform before it, one by one (R163). -/

namespace Sys2Proof.Machine

/-! ## Engine accesses -/

/-- Why an engine does not go on: it waits, meets a fault (R235), or an own uncorrectable unit (R381). -/
inductive EngStop where
  | wait
  | fault (cause : Byte)
  | failStop (taddr : Word)
  /-- dropped at a home of another owner (R347, R350): cause, destination owner, tile or slice, address -/
  | reject (cause : Byte) (down dtile : Nat) (addr : Word)
deriving DecidableEq, Repr

/-- Engines begin granules unless the tile has stopped, is unreachable, or is halted with HOLD (R381, R399). -/
def enginesRun (s : State) (t : Nat) : Bool :=
  let x := s.tile t
  enginesOn s t && !(x.sch.halted.isSome && x.csr.enghold)
/-- An engine goes on: with a granule that it has begun, HOLD lets it (R399). -/
def enginesGo (s : State) (t : Nat) (acc : Option EngAcc) : Bool := enginesRun s t || (acc.isSome && enginesOn s t)

/-- The home of n bytes that an engine of tile t reaches in a context, with the STKBASE it carries (R215, R437). -/
def engReach (s : State) (t c : Nat) (stk : Word) (pg : BitVec 2) (a : Word) (n : Nat) (store hostOk : Bool) :
    Except EngStop (Phys × State) :=
  match steer t stk a n with
  | none => .error (.fault 0x03)
  | some (.tile u off) =>
    if u != t && s.ownerOf u != s.ownerOf t then .error (.fault 0x0F)
    else match homeMiss s t (.tile u off) 0 with
      | .dead => .error (.fault 0x10)
      | .wait => .error .wait
      | _ => .ok (⟨.tile u off, 0, false, 0⟩, s)
  | some (.glob va) =>
    if migrating s c va then .error .wait
    else match translate s t c (s.refLevel t) pg va store hostOk with
      | .error 0 => .error .wait
      | .error e => .error (.fault (BitVec.ofNat 8 e))
      | .ok (ph, s') => match homeMiss s' t ph.home ph.slice with
        | .reject k o d => .error (.reject k o d va)
        | _ => .ok (ph, s')

/-- What an uncorrectable unit at a home means to an engine of tile t. -/
def engDue (t : Nat) (h : Home) (u : Nat) : EngStop :=
  match h with
  | .tile v _ => if v = t then .failStop (BitVec.ofNat 64 (8 * u)) else .fault 0x10
  | _ => .fault 0x10

/-- Bytes an engine of tile t read: those of the own store through its task's store buffer (R142, R245). -/
def engSb (t : Nat) (sb : List BufItem) (h : Home) (bs : List Byte) : List Byte :=
  match h with
  | .tile u _ => if u = t then throughSb sb h bs else bs
  | _ => bs
/-- Read n bytes for an engine, each aligned 8-byte unit at one moment, through a store buffer. -/
def engRead (s : State) (t c : Nat) (stk : Word) (pg : BitVec 2) (sb : List BufItem) : Nat → Word → Nat →
    Except EngStop (List Byte × State)
  | 0, _, _ => .ok ([], s)
  | fuel + 1, a, n =>
    if n = 0 then .ok ([], s)
    else
      let k := Nat.min n (8 - a.toNat % 8)
      match engReach s t c stk pg a k false true with
      | .error e => .error e
      | .ok (ph, s) => match homeRead s ph.home k with
        | .error u => .error (engDue t ph.home u)
        | .ok (bs, s) => match engRead s t c stk pg sb fuel (a + BitVec.ofNat 64 k) (n - k) with
          | .error e => .error e
          | .ok (rest, s) => .ok (engSb t sb ph.home bs ++ rest, s)

/-- The aligned 8-byte units that n bytes at an address meet. -/
def unitPieces (ph : Phys) (va : Word) (n : Nat) : List Part :=
  let lead := va.toNat % 8
  (List.range ((lead + n + 7) / 8)).map fun i =>
    let k := 8 * i - lead
    ph.partAt va k (Nat.min n (8 * (i + 1) - lead) - k)
/-- Begin the write of a granule for an engine: an armed hurdle word of the own tile stops it (R247). -/
def engOpen (s : State) (t c : Nat) (stk : Word) (pg : BitVec 2) (a : Word) (bs : List Byte) : Except EngStop (EngAcc × State) :=
  match engReach s t c stk pg a bs.length true true with
  | .error e => .error e
  | .ok (ph, s) =>
    let clob : Bool := match ph.home with
      | .tile u off => u == t && (armedAt (s.tile u) off bs.length).isSome
      | _ => false
    if clob then .error (.fault 0x0C)
    else .ok ({ parts := unitPieces ph a bs.length, data := BitVec.ofNat 512 (ofBytes bs) }, s)
/-- One unit of a granule: a write to another tile's armed hurdle word is discarded there with an event, and the engine goes on (R247).
DEDUCED: notes/assumptions/28.md. -/
def engUnit (s : State) (t : Nat) (g : EngAcc) (p : Part) : Except EngStop (EngAcc × State) :=
  match writeUnit s t p (g.bytes p) with
  | .ok s w => .ok (g.did p w, s)
  | .clob => .error (.fault 0x0C)
  | .due u => .error (engDue t p.home u)
/-- Units of a granule, one after another. -/
def engUnits (t : Nat) : List Part → EngAcc → State → Except EngStop (EngAcc × State)
  | [], g, s => .ok (g, s)
  | p :: r, g, s => match engUnit s t g p with
    | .error e => .error e
    | .ok (g, s) => engUnits t r g s
/-- The granule that is being written, or one that begins with some bytes. -/
def engBegun (s : State) (t : Nat) (acc : Option EngAcc) (c : Nat) (stk : Word) (pg : BitVec 2) (a : Word) (bs : List Byte) :
    Except EngStop (EngAcc × State) :=
  match acc with
  | some g => .ok (g, s)
  | none => engOpen s t c stk pg a bs
/-- Write the rest of a granule for an engine and set it full (R178, R233): the part of it that has been written stays as it is. -/
def engWrite (s : State) (t : Nat) (acc : Option EngAcc) (c : Nat) (stk : Word) (pg : BitVec 2) (a : Word) (bs : List Byte) :
    Except EngStop State :=
  match engBegun s t acc c stk pg a bs with
  | .error e => .error e
  | .ok (g, s) => match engUnits t g.parts g s with
    | .error e => .error e
    | .ok (g, s) => .ok (setFulls s g.done)
/-- Unit k of those that a granule or an element has still to perform, unless it is the last, with which the granule completes. -/
def EngAcc.next (g : EngAcc) (k : Nat) : Option Part := if g.parts.length < 2 then none else g.parts[k]?
/-- One unit of a granule ahead of the others (R163). -/
def engAhead (s : State) (t : Nat) (acc : Option EngAcc) (c : Nat) (stk : Word) (pg : BitVec 2) (a : Word) (bs : List Byte) (k : Nat) :
    Option (EngAcc × State) :=
  match engBegun s t acc c stk pg a bs with
  | .error _ => none
  | .ok (g, s) => (g.next k).bind fun p => (engUnit s t g p).toOption
/-- Read one unit of an element. -/
def readUnit (s : State) (t : Nat) (g : EngAcc) (p : Part) : Except EngStop (EngAcc × State) :=
  match homeRead s p.home p.len with
  | .error u => .error (engDue t p.home u)
  | .ok (bs, s) => .ok ({ g with parts := g.parts.erase p, data := putBytes g.data p.pos bs }, s)
/-- Read units of an element, one after another. -/
def readUnits (t : Nat) : List Part → EngAcc → State → Except EngStop (EngAcc × State)
  | [], g, s => .ok (g, s)
  | p :: r, g, s => match readUnit s t g p with
    | .error e => .error e
    | .ok (g, s) => readUnits t r g s

/-- Record an engine's stop (R234, R235): the granule it stopped at is the first not written, and begins again as it resumes. -/
def recordFault (s : State) (t feng : Nat) (cause : Byte) (pos : Word) : State := s.modTile t fun x =>
  let e := x.eng
  let e := { e with stat := { e.stat with fcause := cause, feng := BitVec.ofNat 3 feng, fault := true, pos := pos, due := true } }
  let e := if feng = 0 then { e with copyFault := true, copies := e.copies.map fun o => { o with acc := none } }
    else if feng = 5 then { e with dreqFault := true, dreqs := match e.dreqs with
        | [] => []
        | d :: r => { d with acc := none } :: r }
    else
      let y : Port := tget {} e.ports (feng - 1)
      { e with ports := tput e.ports (feng - 1) { y with st := 3, acc := none } }
  { x with eng := e }
/-- Clear FAULT: every engine that stopped on a fault goes on (R234, R242). -/
def Tile.clearFault (x : Tile) : Tile :=
  { x with eng := { x.eng with
    stat := { x.eng.stat with fault := false, due := false }
    copyFault := false
    dreqFault := false
    ports := x.eng.ports.map fun e => (e.1, if e.2.st = 3 then { e.2 with st := 1 } else e.2) } }
/-- Flags of conversions go to ENGST (R234). -/
def engFlags (s : State) (t : Nat) (fl : Flags) : State :=
  if fl = 0 then s
  else s.modTile t fun x => { x with eng := { x.eng with stat := { x.eng.stat with flags := x.eng.stat.flags ||| fl } } }

/-! ## Hurdles (R246-R248) -/

def hwTarget (w : Nat) : Nat := w / 2 ^ 35
def hwBytes (w : Nat) : Bool := nbit w 34
def hwPhase (w : Nat) : Nat := nfld w 32 1
/-- A hurdle word after an arrival of count c. A count past two targets flips the phase twice in one step, so no waiter sees the phase
in between (R249). DESIGN CHOICE: notes/assumptions/105.md. -/
def hwArrive (w c : Nat) : Nat :=
  let n := w % 2 ^ 32 + c
  let k := n / hwTarget w
  w / 2 ^ 33 * 2 ^ 33 + (hwPhase w + k) % 2 * 2 ^ 32 + n % hwTarget w
/-- A hurdle word as HDINIT writes it. -/
def hwInit (target : Nat) (bytes : Bool) : Nat := target * 2 ^ 35 + (if bytes then 2 ^ 34 else 0) + 2 ^ 33

def Tile.hd (x : Tile) (h : Nat) : Hurdle := tget {} x.eng.hds h
def Tile.setHd (x : Tile) (h : Nat) (y : Hurdle) : Tile := { x with eng := { x.eng with hds := tput x.eng.hds h y } }
/-- The bound offset and word of an armed entry. -/
def Tile.armed (x : Tile) (h : Nat) : Option (Nat × Nat) :=
  match (x.hd h).bound with
  | none => none
  | some o =>
    let w := readWord64 x.store.bytes o
    if hwArmed w then some (o, w.toNat) else none

/-- The count that a granule of n bytes arrives with (R233). -/
def granCount (w n : Nat) (granule : Bool) : Nat := if !granule || hwBytes w then n else 1
/-- An arrival on the rollback copy of the hurdles, of an operation that the running task did not issue (R237). -/
def HdSnap.arrive (d : HdSnap) (h n : Nat) (granule : Bool) : HdSnap :=
  match (tget {} d.tbl h).bound with
  | none => d
  | some o =>
    let w := tget 0 d.words o
    if hwArmed w then { d with words := tput d.words o (BitVec.ofNat 64 (hwArrive w.toNat (granCount w.toNat n granule))) } else d
/-- The offset of an entry's hurdle word, if the word is uncorrectable. -/
def Tile.hdBad (x : Tile) (h : Nat) : Option Nat := (x.hd h).bound.filter fun o => (x.store.badRead o 8).isSome
/-- Arrive (R248): an arrival at an entry that is not armed is an orphan; one that meets an uncorrectable hurdle word fail-stops the
tile (R15, R381). -/
def arrive (s : State) (t h n : Nat) (granule byTask : Bool) : State :=
  let s := match (s.tile t).hdBad h, (s.tile t).armed h with
    | some o, _ => failStopTile s t (BitVec.ofNat 64 o)
    | none, some (o, w) => rawWrite s (.tile t o) (toBytes 8 (hwArrive w (granCount w n granule)))
    | none, none => s.modTile t fun x =>
      let v := Nat.min (x.eng.stat.orph.toNat + 1) 0xFFFF
      { x with eng := { x.eng with stat := { x.eng.stat with orph := BitVec.ofNat 16 v } } }
  if byTask then s
  else s.modTile t fun x =>
    { x with sch := { x.sch with fx := { x.sch.fx with hd0 := x.sch.fx.hd0.map fun d => d.arrive h n granule } } }
/-- PEND of an entry up or down by one, on the rollback copy too for an operation of no running task (R237). -/
def pendBy (s : State) (t h : Nat) (up byTask : Bool) : State :=
  let step (y : Hurdle) : Hurdle := { y with pend := if up then y.pend + 1 else y.pend - 1 }
  s.modTile t fun x =>
    let x := x.setHd h (step (x.hd h))
    if byTask then x
    else { x with sch := { x.sch with fx := { x.sch.fx with
      hd0 := x.sch.fx.hd0.map fun d => { d with tbl := tput d.tbl h (step (tget {} d.tbl h)) } } } }

/-! ## Stream ports (R240-R242) -/

def Tile.port (x : Tile) (p : Nat) : Port := tget {} x.eng.ports p
def Tile.setPort (x : Tile) (p : Nat) (y : Port) : Tile := { x with eng := { x.eng with ports := tput x.eng.ports p y } }
/-- Word i of a port's descriptor. -/
def Port.word (p : Port) (i : Nat) : Nat := (tget 0 p.desc i).toNat
def Port.cnt0 (p : Port) : Nat := nfld (p.word 4) 0 32
def Port.cnt1 (p : Port) : Nat := nfld (p.word 4) 32 32
def Port.cnt2 (p : Port) : Nat := nfld (p.word 5) 0 32
def Port.isWrite (p : Port) : Bool := nbit (p.word 6) 0
def Port.patch (p : Port) : Bool := nbit (p.word 6) 1
def Port.queue (p : Port) : Nat := nfld (p.word 6) 2 4
def Port.pg (p : Port) : BitVec 2 := BitVec.ofNat 2 (nfld (p.word 6) 6 2)
def Port.conv (p : Port) : Nat := nfld (p.word 6) 8 2
def Port.eod (p : Port) : Bool := nbit (p.word 6) 10
def Port.sync (p : Port) : Bool := nbit (p.word 6) 11
def Port.go (p : Port) : Bool := nbit (p.word 6) 12
def Port.hden (p : Port) : Bool := nbit (p.word 6) 13
def Port.hdx (p : Port) : Nat := nfld (p.word 6) 14 5
def Port.total (p : Port) : Nat := p.cnt0 * p.cnt1 * p.cnt2
/-- The packing factor F (R240). -/
def packFactor (conv : Nat) : Nat := if conv = 0 then 1 else if conv = 3 then 4 else 2
/-- Address of element e (R241). -/
def Port.addr (p : Port) (e : Nat) : Word :=
  let w (i : Nat) : Word := tget 0 p.desc i
  w 0 + BitVec.ofNat 64 (e / (p.cnt0 * p.cnt1)) * w 3 + BitVec.ofNat 64 (e / p.cnt0 % p.cnt1) * w 2 + BitVec.ofNat 64 (e % p.cnt0) * w 1
/-- The control token due after element e (R241). -/
def Port.eodAfter (p : Port) (e : Nat) : Option (BitVec 2) :=
  if !p.eod || e % p.cnt0 + 1 != p.cnt0 then none
  else if e / p.cnt0 % p.cnt1 + 1 != p.cnt1 then some 1
  else if e / (p.cnt0 * p.cnt1) + 1 != p.cnt2 then some 2
  else some 3
/-- Whether a descriptor keeps the table of R240 on a tile whose queues are declared. -/
def Port.legal (p : Port) (x : Tile) : Bool :=
  (List.range 4).all (fun i => p.word i % 64 == 0) &&
  decide (1 ≤ p.cnt0) && decide (1 ≤ p.cnt1) && decide (1 ≤ p.cnt2) && p.cnt0 % packFactor p.conv == 0 &&
  nfld (p.word 5) 32 32 == 0 && nfld (p.word 6) 19 45 == 0 && p.word 7 == 0 && p.pg != 3 &&
  (!p.isWrite || (p.conv == 0 && !p.patch)) &&
  (if p.patch then p.queue == 0 && !p.eod
   else if p.isWrite then decide (0 < (x.outQ p.queue).depth) && (x.outQ p.queue).dest.isNone
   else decide (0 < (x.inQ p.queue).depth))

/-- A port whose run has ended (R242, R248): its share of PEND goes. -/
def endRun (s : State) (t p : Nat) : State :=
  let y := (s.tile t).port p
  let s := match y.pendHd with
    | some h => pendBy s t h false false
    | none => s
  s.modTile t fun x => x.setPort p { x.port p with st := 0, pendHd := none, acc := none, halting := false }
/-- A port with no element in progress and nothing to push: one that SPHALT has told to halt is HALTED, one past its last element is
IDLE (R241, R242). DEDUCED: notes/assumptions/28.md. -/
def settlePort (s : State) (t p : Nat) : State :=
  let y := (s.tile t).port p
  if y.st = 1 && y.eodDue.isNone && y.acc.isNone then
    if y.halting then s.modTile t fun x => x.setPort p { x.port p with st := 2, halting := false }
    else if y.total ≤ y.pos then endRun s t p
    else s
  else s

/-- Accesses that hold back a release: stores, reduce-adds, chained accesses and atomics (R166). -/
def AccOp.holdsRelease : AccOp → Bool
  | .store _ => true
  | .stf _ => true
  | .amo _ _ _ _ _ _ => true
  | .red _ _ _ _ => true
  | .chLoad _ _ _ => true
  | .chStore _ _ => true
  | _ => false
/-- A token may leave: every such access of its task issued before it has been acknowledged (R166). -/
def released (s : State) (t : Nat) (r : Rel) : Bool := (ownOutstanding s t).all fun a => !a.op.holdsRelease || decide (r.stamp ≤ a.id)

/-- The type of a read conversion's target (R240). -/
def convTy (conv : Nat) : BitVec 4 :=
  match conv with
  | 1 => 9
  | 2 => 10
  | _ => 11
/-- Add memory element e, 16 f32 values, to the token being packed (R241). -/
def packElem (y : Port) (e : Nat) (a : Word) (bs : List Byte) : Vec × Flags :=
  if y.conv = 0 then (BitVec.ofNat 512 (ofBytes bs), 0)
  else
    let ty := convTy y.conv
    let w := tyWidth ty
    let x := ofBytes bs
    let one (i : Nat) : Res :=
      let ad : BitVec 32 := BitVec.ofNat 32 (a.toNat + 4 * i)
      let rnd := if y.car.mode = 5 then srRnd y.car.seed ad ((16 * e + i) % 2 ^ 32) else 0
      convElem ty 8 y.car.fmt8 ⟨y.car.mode, rnd⟩ y.car.sat (elemOf x 32 i)
    let rs := (List.range 16).map one
    let bits := ofElems w (rs.map (·.code))
    (y.pack ||| BitVec.ofNat 512 (bits * 2 ^ (16 * w * y.packN)), (rs.map (·.fl)).foldl (· ||| ·) 0)

/-- Push a read port's token to its queue or the patch's buffer. -/
def portPush (s : State) (t p : Nat) (tok : Token) : State := s.modTile t fun x =>
  let y := x.port p
  if y.patch then x.setPort p { y with buf := y.buf ++ [tok] }
  else x.setInQ y.queue { x.inQ y.queue with toks := (x.inQ y.queue).toks ++ [tok] }
/-- Room for one more token of a read port (R241). -/
def portRoom (x : Tile) (y : Port) : Bool :=
  if y.patch then decide (y.buf.length < 8) else decide (0 < x.inFree y.queue)

/-- The element that a read port is reading, or the next one begins (R241): with SYNC its words are full. -/
def openElement (s : State) (t : Nat) (y : Port) : Except EngStop (EngAcc × State) :=
  match y.acc with
  | some g => .ok (g, s)
  | none =>
    if y.conv != 0 && decide (6 ≤ y.car.mode) then .error (.fault 0x14)
    else
      let a := y.addr y.pos
      match engReach s t y.ctx y.car.stkbase y.pg a 64 false !y.sync with
      | .error e => .error e
      | .ok (ph, s) => if y.sync && !isFull s ph.home 64 then .error .wait else .ok ({ parts := unitPieces ph a 64 }, s)
/-- One element of a read port, or what is left of it. -/
def readElement (s : State) (t p : Nat) : Except EngStop State :=
  let x := s.tile t
  let y := x.port p
  if !portRoom x y then .error .wait
  else match y.eodDue with
    | some n => .ok (settlePort ((portPush s t p (.eod n)).modTile t fun x => x.setPort p { x.port p with eodDue := none }) t p)
    | none =>
      match openElement s t y with
      | .error e => .error e
      | .ok (g, s) => match readUnits t g.parts g s with
        | .error e => .error e
        | .ok (g, s) =>
          let (v, fl) := packElem y y.pos (y.addr y.pos) (takeBytes g.data 0 64)
          let s := engFlags s t fl
          let whole := y.packN + 1 == packFactor y.conv
          let s := s.modTile t fun x => x.setPort p { x.port p with
            pos := y.pos + 1
            pack := if whole then 0 else v
            packN := if whole then 0 else y.packN + 1
            eodDue := y.eodAfter y.pos
            acc := none }
          let s := if whole then portPush s t p (.vec v) else s
          .ok (settlePort s t p)

/-- One token of a write port (R241). -/
def writeElement (s : State) (t p : Nat) : Except EngStop State :=
  let x := s.tile t
  let y := x.port p
  let o := x.outQ y.queue
  match o.toks with
  | [] => .error .wait
  | r :: rest =>
    let drop (s : State) : State := s.modTile t fun x => x.setOutQ y.queue { x.outQ y.queue with toks := rest }
    let put (d : Vec) : Except EngStop State :=
      match engWrite s t y.acc y.ctx y.car.stkbase y.pg (y.addr y.pos) (takeBytes d 0 64) with
      | .error e => .error e
      | .ok s =>
        let s := drop s
        let s := if y.hden then arrive s t y.hdx 64 true false else s
        let s := s.modTile t fun x => x.setPort p { x.port p with pos := y.pos + 1, acc := none }
        .ok (settlePort s t p)
    if !released s t r then .error .wait
    else match r.tok with
      | .vec d => put d
      | .scalar d => put (d.setWidth 512)
      | .eod _ => if y.eod then .ok (drop s) else .error (.fault 0x01)
      | .poison _ => .error (.fault 0x09)
      | .close => .ok (endRun (drop s) t p)

/-- One element of a running port. DEDUCED: notes/assumptions/28.md. -/
def portTry (s : State) (t p : Nat) : Except EngStop State :=
  let y := (s.tile t).port p
  if y.st != 1 || !enginesGo s t y.acc then .error .wait
  else if y.isWrite then writeElement s t p
  else readElement s t p
/-- One unit of a running port's element ahead of the others (R163). -/
def portAhead (s : State) (t p k : Nat) : Option State :=
  let x := s.tile t
  let y := x.port p
  let put (r : EngAcc × State) : State := r.2.modTile t fun x => x.setPort p { x.port p with acc := some r.1 }
  if y.st != 1 || !enginesGo s t y.acc then none
  else if y.isWrite then match (x.outQ y.queue).toks with
    | [] => none
    | r :: _ =>
      let d : Option Vec := match r.tok with
        | .vec d => some d
        | .scalar d => some (d.setWidth 512)
        | _ => none
      if !released s t r then none
      else d.bind fun d => (engAhead s t y.acc y.ctx y.car.stkbase y.pg (y.addr y.pos) (takeBytes d 0 64) k).map put
  else if !portRoom x y || y.eodDue.isSome then none
  else match openElement s t y with
    | .error _ => none
    | .ok (g, s) => (g.next k).bind fun q => (readUnit s t g q).toOption.map put

/-- Empty n bytes of one tile store or one page at the start of an engine operation (R178). The lookup leaves no trace (R172) and
no permission stops it, only another owner; where no translation stands the range is owed. DEDUCED: notes/assumptions/75.md. -/
def emptyPiece (s : State) (t c : Nat) (stk : Word) (pg : BitVec 2) (a : Word) (n : Nat) : State :=
  match steer t stk a n with
  | none => s
  | some (.tile u off) => if s.ownerOf u != s.ownerOf t then s else setFull s (.tile u off) n false
  | some (.glob va) =>
    let f := s.field (fieldOf t)
    let vpn := va.toNat / pageBytes pg
    let hit (e : TlbEnt) : Bool := e.ctx == c && e.size == pg && e.vpn == vpn
    let pte : Option (Nat × Nat) := match (f.locked ++ f.tlb).find? hit with
      | some e => some (e.pteAt, e.pte.toNat)
      | none => walk s.dram.bytes va.toNat (s.ctx c).root (leafLowOf pg) levels
    let owe : State := { s with owed := s.owed ++ [⟨c, (runOf s t).map fun r => (r.1.sq, r.2), pg, va.toNat, n⟩] }
    match if migrating s c va then none else pte with
    | none => owe
    | some (at_, p) =>
      let pa := ptePa p + va.toNat % pageBytes pg
      if nbit p 10 then s
      else match shadowPage s t c pg va true ⟨.dram pa, 0, false, at_⟩ with
        | .error _ => owe
        | .ok (ph, s) => if granOwnerOf s pa != s.ownerOf t then s else setFull s ph.home n false
/-- Empty the words or lines of a range at the start of an engine operation (R178), page by page and granule by granule. -/
def emptyRange (s : State) (t c : Nat) (stk : Word) (pg : BitVec 2) : Nat → Word → Nat → State
  | 0, _, _ => s
  | fuel + 1, a, n =>
    if n = 0 then s
    else
      let size := Nat.min (pageBytes pg) (2 ^ 21)
      let k := if a.toNat < 0x1000000000000 then n else Nat.min n (size - a.toNat % size)
      emptyRange (emptyPiece s t c stk pg a k) t c stk pg fuel (a + BitVec.ofNat 64 k) (n - k)
/-- Pages that a range of n bytes may meet, as fuel. -/
def pagesOf (n : Nat) : Nat := n / 65536 + 2

/-- Start a port from element 0, or go on from pos with what it had packed and the control token it still owed (R241, R242, R248): a
write port empties what it has yet to write; `counts` is a run that counts in PEND. DEDUCED: notes/assumptions/28.md. A port to which no
descriptor was given runs the descriptor of zeros, which has no element. DESIGN CHOICE: notes/assumptions/104.md. -/
def startPort (s : State) (t p c : Nat) (res : Bool) (car : Carried) (counts : Bool) : State :=
  let s := endRun s t p
  let s := s.modTile t fun x =>
    let y := x.port p
    let y : Port := if res then y else { y with pos := 0, pack := 0, packN := 0, eodDue := none }
    x.setPort p { y with st := 1, car := car, ctx := c }
  let y := (s.tile t).port p
  let s := if y.isWrite && y.hden && counts then
      (pendBy s t y.hdx true false).modTile t fun x => x.setPort p { x.port p with pendHd := some y.hdx }
    else s
  let s := if y.isWrite then
      (List.range (y.total - y.pos)).foldl (fun a i => emptyPiece a t c car.stkbase y.pg (y.addr (y.pos + i)) 64) s
    else s
  settlePort s t p

/-! ## Copies (R244, R245) -/

/-- Destination bytes of a row. -/
def CopyOp.rowBytes (o : CopyOp) : Nat :=
  match o.cvt.toNat with
  | 0 => o.rb
  | 3 => 2 * o.rb
  | _ => o.rb / 2
/-- Source and destination element types of a conversion (R245). -/
def cvtTypes (cvt : BitVec 2) : BitVec 4 × BitVec 4 :=
  match cvt.toNat with
  | 1 => (8, 9)
  | 2 => (8, 10)
  | _ => (9, 8)
def CopyOp.srcRow (o : CopyOp) (r : Nat) : Word := o.src + BitVec.ofInt 64 (r * o.sstr)
def CopyOp.dstRow (o : CopyOp) (r : Nat) : Word := o.dst + BitVec.ofInt 64 (r * o.dstr)
/-- Where the next granule starts and how long it is: to the next multiple of 64 or the end of the row. -/
def CopyOp.granule (o : CopyOp) : Word × Nat :=
  let a := o.dstRow o.row + BitVec.ofNat 64 o.off
  (a, Nat.min (64 - a.toNat % 64) (o.rowBytes - o.off))
/-- Source bytes of n destination bytes. -/
def CopyOp.srcBytes (o : CopyOp) (n : Nat) : Nat :=
  match o.cvt.toNat with
  | 0 => n
  | 3 => n / 2
  | _ => 2 * n
/-- Convert a granule (R245): idx is the element's ordinal within the copy, addr its destination address. -/
def CopyOp.convert (o : CopyOp) (a : Word) (n : Nat) (bs : List Byte) : List Byte × Flags :=
  if o.cvt = 0 then (bs, 0)
  else
    let (st, dt) := cvtTypes o.cvt
    let w := tyWidth dt
    let each := w / 8
    let x := ofBytes bs
    let first := o.row * (o.rowBytes / each) + o.off / each
    let one (i : Nat) : Res :=
      let ad : BitVec 32 := BitVec.ofNat 32 (a.toNat + each * i)
      let rnd := if o.car.mode = 5 then srRnd o.car.seed ad (first + i) else 0
      convElem dt st o.car.fmt8 ⟨o.car.mode, rnd⟩ o.car.sat (elemOf x (tyWidth st) i)
    let rs := (List.range (n / each)).map one
    (toBytes n (ofElems w (rs.map (·.code))), (rs.map (·.fl)).foldl (· ||| ·) 0)

/-- The numbers of the aligned 8-byte units that n bytes at an address meet. -/
def unitNums (a : Word) (n : Nat) : List Nat := unitsOf a.toNat n
/-- Read units of a copy's source that have not been read, each whole at one moment (R245). -/
def copyUnits (s : State) (t : Nat) (o : CopyOp) (sb : List BufItem) : List Nat → Tbl (List Byte) →
    Except EngStop (Tbl (List Byte) × State)
  | [], seen => .ok (seen, s)
  | u :: r, seen =>
    if seen.any (·.1 == u) then copyUnits s t o sb r seen
    else match engRead s t o.ctx o.car.stkbase o.pgsz sb 2 (BitVec.ofNat 64 (8 * u)) 8 with
      | .error e => .error e
      | .ok (bs, s) => copyUnits s t o sb r (tput seen u bs)
/-- The n bytes at an address from units that have been read. -/
def seenBytes (seen : Tbl (List Byte)) (a : Word) (n : Nat) : List Byte :=
  (((unitNums a n).map fun u => tget [] seen u).flatten.drop (a.toNat % 8)).take n
/-- Units that the rest of a copy still reads. -/
def CopyOp.wants (o : CopyOp) (u : Nat) : Bool := (List.range (o.rows - o.row)).any fun k =>
  let first := if k = 0 then o.srcBytes o.off else 0
  let a := (o.srcRow (o.row + k) + BitVec.ofNat 64 first).toNat
  decide (first < o.rb) && decide (a / 8 ≤ u) && decide (u ≤ (a + (o.rb - first) - 1) / 8)
/-- The store buffer through which a copy reads the own store (R245). -/
def CopyOp.sb (o : CopyOp) (x : Tile) : List BufItem := if o.byTask then x.sch.fx.sb else []
/-- The data of a copy's next granule with the source units that it needs: those that have not been read are read now (R245). -/
def copyData (s : State) (t : Nat) (o : CopyOp) : Except EngStop (List Byte × Flags × Tbl (List Byte) × State) :=
  let (a, n) := o.granule
  let m := o.srcBytes n
  let src := o.srcRow o.row + BitVec.ofNat 64 (o.srcBytes o.off)
  match copyUnits s t o (o.sb (s.tile t)) (unitNums src m) o.seen with
  | .error e => .error e
  | .ok (seen, s) =>
    let (out, fl) := o.convert a n (seenBytes seen src m)
    .ok (out, fl, seen, s)
/-- The next granule of the copy at the head, or what is left of it (R233, R245). DEDUCED: notes/assumptions/28.md; DESIGN CHOICE:
notes/assumptions/103.md. -/
def copyTry (s : State) (t : Nat) : Except EngStop State :=
  let x := s.tile t
  match x.eng.copies with
  | [] => .error .wait
  | o :: rest =>
    if x.eng.copyFault || !enginesGo s t o.acc then .error .wait
    else
      let (a, n) := o.granule
      match copyData s t o with
      | .error e => .error e
      | .ok (out, fl, seen, s) =>
        match engWrite s t o.acc o.ctx o.car.stkbase o.pgsz a out with
        | .error e => .error e
        | .ok s =>
          let s := engFlags s t fl
          let s := match o.hd with
            | some h => arrive s t h n true o.byTask
            | none => s
          let rowDone := decide (o.rowBytes ≤ o.off + n)
          let o := if rowDone then { o with row := o.row + 1, off := 0 } else { o with off := o.off + n }
          let o := { o with seen := seen.filter (fun e => o.wants e.1), acc := none }
          let done := decide (o.rows ≤ o.row)
          let s := s.modTile t fun x => { x with eng := { x.eng with copies := if done then rest else o :: rest } }
          .ok (match done, o.hd with
            | true, some h => pendBy s t h false o.byTask
            | _, _ => s)
/-- The copy at the head of a tile's engine, where it may go on. -/
def headCopy (s : State) (t : Nat) : Option CopyOp :=
  let x := s.tile t
  if x.eng.copyFault then none else x.eng.copies.head?.filter fun o => enginesGo s t o.acc
def Tile.setCopy (x : Tile) (o : CopyOp) : Tile := { x with eng := { x.eng with copies := lset x.eng.copies 0 o } }
/-- One unit of a copy's granule ahead of the others (R163): its source has all been read. -/
def copyAhead (s : State) (t k : Nat) : Option State :=
  (headCopy s t).bind fun o => match copyData s t o with
    | .error _ => none
    | .ok (out, _, seen, s) => (engAhead s t o.acc o.ctx o.car.stkbase o.pgsz o.granule.1 out k).map fun r =>
      r.2.modTile t (·.setCopy { o with seen := seen, acc := some r.1 })
/-- Read a unit of a copy's source, by number, before the granule that it supplies (R245). -/
def copyReads (s : State) (t u : Nat) : Option State :=
  (headCopy s t).bind fun o =>
    if !enginesRun s t || !o.wants u || o.seen.any (·.1 == u) then none
    else match copyUnits s t o (o.sb (s.tile t)) [u] o.seen with
      | .error _ => none
      | .ok (seen, s) => some (s.modTile t (·.setCopy { o with seen := seen }))

/-! ## DRAM replies (R250, R251) -/

/-- Read units of a DREQ's range that have not been read, by number from its start (R251). -/
def dreqUnits (d : DreqOp) : List Nat → Tbl (List Byte) → State → Except EngStop (Tbl (List Byte) × State)
  | [], seen, s => .ok (seen, s)
  | u :: r, seen, s =>
    if seen.any (·.1 == u) then dreqUnits d r seen s
    else match homeRead s (.dram (d.pa + 8 * u)) 8 with
      | .error _ => .error (.fault 0x10)
      | .ok (bs, s) => dreqUnits d r (tput seen u bs) s
/-- The next piece of the n-th DREQ, or what is left of it: a token of its queue, behind those of earlier DREQs, or a granule. -/
def dreqTry (s : State) (t n : Nat) : Except EngStop State :=
  let x := s.tile t
  match x.eng.dreqs[n]? with
  | none => .error .wait
  | some d =>
    let blocked := !d.mode1 && (x.eng.dreqs.take n).any fun e => !e.mode1 && e.q == d.q
    let at_ := d.pa + 64 * d.got
    if x.eng.dreqFault || blocked || !enginesGo s t d.acc then .error .wait
    else if granOwnerOf s at_ != s.ownerOf t then
      .error (.reject 0x05 (granOwnerOf s at_) (0x8000 + d.slice) (d.va + BitVec.ofNat 64 (64 * d.got)))
    else
      let mine := (List.range 8).map (8 * d.got + ·)
      match dreqUnits d mine d.seen s with
      | .error e => .error e
      | .ok (seen, s) =>
        let bs := (mine.map fun u => tget [] seen u).flatten
        let last := decide (d.bytes ≤ 64 * (d.got + 1))
        let next (s : State) : State := s.modTile t fun x => { x with eng := { x.eng with
          dreqs := if last then x.eng.dreqs.eraseIdx n
            else lset x.eng.dreqs n { d with got := d.got + 1, seen := seen.filter fun e => !mine.contains e.1, acc := none } } }
        if d.mode1 then
          let a := d.dst + BitVec.ofNat 64 (64 * d.got)
          match engWrite s t d.acc d.ctx d.car.stkbase d.pgsz a bs with
          | .error e => .error e
          | .ok s =>
            let s := next (arrive s t d.q 64 true d.byTask)
            .ok (if last then pendBy s t d.q false d.byTask else s)
        else
          let toks := Token.vec (BitVec.ofNat 512 (ofBytes bs)) :: (if last && d.eod then [.eod 1] else [])
          .ok (next (s.modTile t fun x =>
            let q := x.inQ d.q
            x.setInQ d.q { q with
              toks := q.toks ++ toks
              resv := q.resv - toks.length
              mark := if d.byTask then q.mark ++ (List.range toks.length).map (q.toks.length + ·) else q.mark }))

/-- Read a unit of a DREQ's range, by number from its start, before the piece that it belongs to (R251). -/
def dreqReads (s : State) (t n u : Nat) : Option State :=
  let x := s.tile t
  (x.eng.dreqs[n]?).bind fun d =>
    let at_ := d.pa + 8 * u
    if x.eng.dreqFault || !enginesRun s t || decide (u < 8 * d.got) || decide (d.bytes ≤ 8 * u) || d.seen.any (·.1 == u) ||
        granOwnerOf s at_ != s.ownerOf t then none
    else match dreqUnits d [u] d.seen s with
      | .error _ => none
      | .ok (seen, s) => some (s.modTile t fun x => { x with eng := { x.eng with dreqs := lset x.eng.dreqs n { d with seen := seen } } })
/-- One unit of the granule of a DREQ of mode 1 ahead of the others (R163): the granule's source has been read. -/
def dreqAhead (s : State) (t n k : Nat) : Option State :=
  let x := s.tile t
  (x.eng.dreqs[n]?).bind fun d =>
    let mine := (List.range 8).map (8 * d.got + ·)
    if x.eng.dreqFault || !d.mode1 || !enginesGo s t d.acc || !(mine.all fun u => d.seen.any (·.1 == u)) then none
    else
      let bs := (mine.map fun u => tget [] d.seen u).flatten
      (engAhead s t d.acc d.ctx d.car.stkbase d.pgsz (d.dst + BitVec.ofNat 64 (64 * d.got)) bs k).map fun r =>
        r.2.modTile t fun x => { x with eng := { x.eng with dreqs := lset x.eng.dreqs n { d with acc := some r.1 } } }

/-- The address of the first granule that an engine has not written, for ENGPOS. -/
def engPos (s : State) (t feng : Nat) : Word :=
  let x := s.tile t
  match feng with
  | 0 => match x.eng.copies with
    | o :: _ => o.granule.1
    | [] => 0
  | 5 => match x.eng.dreqs with
    | d :: _ => if d.mode1 then d.dst + BitVec.ofNat 64 (64 * d.got) else d.va + BitVec.ofNat 64 (64 * d.got)
    | [] => 0
  | p => let y := x.port (p - 1); y.addr y.pos

/-- What the engine numbered as FENG makes of its next granule. -/
def engTry (s : State) (t feng : Nat) : Except EngStop State :=
  match feng with
  | 0 => copyTry s t
  | 5 => dreqTry s t 0
  | p => portTry s t (p - 1)

/-- An engine's step as an event: enabled when the granule goes through, or when the own store fail-stops the tile. -/
def engGo (s : State) (t : Nat) (r : Except EngStop State) : Option State :=
  match r with
  | .ok s' => some s'
  | .error (.failStop a) => some (failStopTile s t a)
  | .error _ => none
/-- ENGINE_GRANULE_WRITE (R233). -/
def evEngineGranuleWrite (t : Nat) (s : State) : Option State := engGo s t (copyTry s t)
/-- STREAM_ELEMENT (R241). -/
def evStreamElement (t p : Nat) (s : State) : Option State := engGo s t (portTry s t p)
/-- DREQ_REPLY (R251). -/
def evDreqReply (t n : Nat) (s : State) : Option State := engGo s t (dreqTry s t n)
/-- ENGINE_FAULT (R235). -/
def evEngineFault (t e : Nat) (s : State) : Option State :=
  if 5 < e then none
  else match engTry s t e with
    | .error (.fault c) => some (recordFault s t e c (engPos s t e))
    | .error (.reject c o d a) => some (recordFault (recordReject s t 2 0 o d a) t e c (engPos s t e))
    | _ => none
/-- ENGST_FAULT_CLEAR (R234). -/
def evEngstFaultClear (t : Nat) (s : State) : Option State :=
  if (s.tile t).eng.stat.fault then some (s.modTile t Tile.clearFault) else none

end Sys2Proof.Machine
end

