-- ==== Sys2Proof/Machine/Actor.lean ====
section
/-! DEFINITION. Actors and tasks as shared operations: what refuses an access at its home (R347, R350, R381, R438), run
lists (R262, R265), task records and messages (R259-R261), the start of a task (R42, R256) and its end with the commit
(R164, R257, R258, R303). -/

namespace Sys2Proof.Machine

/-! ## Refusals at a home -/

/-- The parts of an access that may be sent, in order. -/
def Acc.freeParts (s : State) (t : Nat) (a : Acc) : List Part :=
  (a.parts.zipIdx.filter fun e => partFree s t a (a.parts.take e.2) e.1).map (·.1)
/-- The first part of an access that may be sent and is refused, with what refuses it. DEDUCED: notes/assumptions/24.md. -/
def Acc.miss (s : State) (t : Nat) (a : Acc) : Option (Part × Miss) :=
  ((a.freeParts s t).map fun p => (p, partMiss s t p)).find? fun e => e.2 != .ok

/-- TADDR of a trap taken from a REJECT: OWNER's layout, PROTECT's virtual address (R347, R350). DEDUCED: notes/assumptions/24.md. -/
def rejectTaddr (cause : Byte) (down dtile : Nat) (va : Word) : Word :=
  if cause = 0x05 then va else BitVec.ofNat 64 (2 ^ 63 + down * 2 ^ 32 + dtile)
/-- TADDR of a DUE from a dead peer. -/
def deadTaddr (va : Word) : Word := BitVec.ofNat 64 (2 ^ 63 + va.toNat % 2 ^ 62)

/-- The register that an access delivers to. -/
def AccOp.dst : AccOp → Option RegRef
  | .load d _ _ _ _ => some d
  | .lds d _ _ => some d
  | .fetst d _ => some d
  | .amo _ _ _ _ _ d => d
  | .chLoad _ d _ => some d
  | _ => none
/-- The tile on which what a tile has issued runs on: after its gang has been disbanded, its anchor (R267, R305). -/
def State.taskTile (s : State) (t : Nat) : Nat := if (s.tile t).sch.task.isSome then t else (team s t).headD t
/-- Whether the task that issued the access of a number on a tile still runs. -/
def State.running (s : State) (t id : Nat) : Bool :=
  (s.tile (s.taskTile t)).sch.task.isSome && decide ((s.tile t).sch.accBase ≤ id)
/-- The running task of a tile takes a cause at its next boundary (R347, R438). -/
def State.takeLate (s : State) (t : Nat) (cause : Byte) (taddr : Word) : State := s.modTile (s.taskTile t) (·.takeLate cause taddr)
/-- An access that its home refuses after issue (R38, R347, R438): PROTECT aborts an I task; a register receives an error
mark, and with it the running task takes OWNER at its next boundary, as it takes every cause of an access without a register; a DUE
of an ended task is an MCHK of source 4. DEDUCED: notes/assumptions/14.md. -/
def refuseAcc (s : State) (t : Nat) (a : Acc) (cause : Byte) (taddr addr : Word) : State :=
  match a.op.dst with
  | some d =>
    if cause = 0x05 && !(s.tile (s.taskTile t)).isM then takeTrap s (s.taskTile t) cause taddr
    else
      let s := s.modTile t fun x => { x with pend := x.pend ++ [{ dst := d, what := .mark cause taddr }] }
      if cause = 0x0F && s.running t a.id then s.takeLate t cause taddr else s
  | none =>
    if s.running t a.id then s.takeLate t cause taddr
    else if cause = 0x10 then tileEvent s t 0x02 0x10 4 addr
    else s

/-! ## The run list (R253, R262, R265) -/

/-- Ready entries enter the run list while it has room (R262). -/
def Tile.refill (x : Tile) : Tile :=
  let n := 64 - x.sch.runl.length
  { x with sch := { x.sch with runl := x.sch.runl ++ x.sch.ready.take n, ready := x.sch.ready.drop n } }
/-- Make a firing or a record ready (R253, R262). -/
def makeReady (s : State) (t : Nat) (r : Option Record) (pri : Nat) : State := s.modTile t fun x =>
  let e : RunEnt := ⟨r, pri, s.now, x.sch.order⟩
  ({ x with sch := { x.sch with order := x.sch.order + 1, ready := x.sch.ready ++ [e] } } : Tile).refill
/-- Effective priority of an entry (R265). -/
def RunEnt.ep (e : RunEnt) (now quant : Nat) : Nat := Nat.min 7 (e.pri + (now - e.readyAt) / (1000 * Nat.max 1 quant))
/-- Whether entry a starts before entry b: EP, then readiness, then firings before records, then arrival (R265). -/
def RunEnt.before (a b : RunEnt) (now quant : Nat) : Bool :=
  let x := a.ep now quant
  let y := b.ep now quant
  if x != y then decide (y < x)
  else if a.readyAt != b.readyAt then decide (a.readyAt < b.readyAt)
  else if a.rcd.isNone != b.rcd.isNone then a.rcd.isNone
  else decide (a.order < b.order)
/-- The entry of a list that starts first. -/
def firstEnt (now quant : Nat) : List RunEnt → Option RunEnt
  | [] => none
  | a :: r => match firstEnt now quant r with
    | none => some a
    | some b => if b.before a now quant then some b else some a
/-- AGECTL.QUANT of a tile's partition. -/
def quantOf (s : State) (t : Nat) : Nat := ((s.partOf t).map fun p => p.agectl.toNat % 65536).getD 10

/-! ## Records and messages (R259-R261, R300, R301) -/

/-- A 32-byte record, none where it breaks the layout of R259 for an actor with n handlers. -/
def parseRecord (w n : Nat) : Option Record :=
  let a := elemOf w 64 0
  let b := elemOf w 64 1
  let r : Record := {
    est := BitVec.ofNat 32 (nfld a 32 32), launch := nbit a 11, policy := BitVec.ofNat 2 (nfld a 9 2), pri := BitVec.ofNat 3 (nfld a 6 3),
    handler := BitVec.ofNat 6 a, cv := nbit b 24, ctr := BitVec.ofNat 21 b
    a0 := BitVec.ofNat 64 (elemOf w 64 2), a1 := BitVec.ofNat 64 (elemOf w 64 3) }
  if nfld a 12 20 == 0 && nfld b 25 39 == 0 && nfld b 21 3 == 0 && decide (nfld a 9 2 < 2) &&
      r.ctr.toNat % 4 == 0 && decide (r.ctr.toNat < 0x180000) &&
      (if r.launch then r.handler == 0 else decide (r.handler.toNat < n)) then some r
  else none

/-- Whether two tiles belong to one run of one configuration. -/
def sameRun (s : State) (t u : Nat) : Bool :=
  (s.tile t).sch.actor.isSome && s.sqOf t == s.sqOf u && (s.tile u).sch.actor.isSome &&
    (runOf s t).map (·.2) == (runOf s u).map (·.2)
/-- Messages of a tile on their way or held. -/
def Tile.msgs (x : Tile) : List Msg := x.sch.sent ++ x.sch.fx.heldMsg ++ x.sch.retBuf
/-- Room for one more record at a slot of tile t's configuration (R261): linked records, ready ones outside the run list,
and records under way count. -/
def roomAt (s : State) (t slot : Nat) : Bool :=
  match slotTile s t slot with
  | none => false
  | some u =>
    let y := s.tile u
    let area := ((s.actorDecl u).map (·.records)).getD 0
    let flying := (s.tiles.map fun e => if sameRun s t e.1 then
      (e.2.msgs.filter fun m => match m with | .spawn k _ _ => k == slot | _ => false).length else 0).sum
    decide (y.sch.links.length + (y.sch.ready.filter (·.rcd.isSome)).length + flying < 64 + area)
/-- The slot a message goes to. -/
def Msg.slot : Msg → Nat
  | .spawn k _ _ => k
  | .tdec k _ _ _ => k
def Msg.stamp : Msg → Nat
  | .spawn _ _ n => n
  | .tdec _ _ _ n => n
/-- Send a message, unless a replacement discards it (R385). -/
def Tile.send (x : Tile) (m : Msg) : Tile :=
  let n := tget 0 x.sch.msgDiscard m.slot
  if n = 0 then { x with sch := { x.sch with sent := x.sch.sent ++ [m] } }
  else { x with sch := { x.sch with
    msgDiscard := tset 0 x.sch.msgDiscard m.slot (n - 1), msgOut := tset 0 x.sch.msgOut m.slot (tget 0 x.sch.msgOut m.slot + 1) } }
/-- A dependence counter (R260). -/
def counterAt (s : State) (u off : Nat) : Int := toSigned 32 (ofBytes (readBytes (s.tile u).store.bytes off 4))
/-- A record arrives at its tile (R260); a counter that cannot be read fail-stops the tile that reads it (R381). -/
def arriveRecord (s : State) (u : Nat) (r : Record) : State :=
  match if r.cv then homeRead s (.tile u r.ctr.toNat) 4 else .ok ([], s) with
  | .error k => failStopTile s u (BitVec.ofNat 64 (8 * k))
  | .ok (_, s) =>
    if !r.cv || counterAt s u r.ctr.toNat ≤ 0 then makeReady s u (some r) r.pri.toNat
    else s.modTile u fun x => { x with sch := { x.sch with links := x.sch.links ++ [(r.ctr.toNat, r)] } }
/-- The peer address of an offset of a tile (R22). -/
def peerAddr (u off : Nat) : Word := BitVec.ofNat 64 (0x10000000000 + u * 2 ^ 21 + off)
/-- A decrement that tile t sent arrives at its counter (R260): an armed hurdle word discards it (R247); an uncorrectable unit is
left as it is, and the sender meets DUE (R15, R381, R438). DEDUCED: notes/assumptions/73.md. -/
def arriveTdec (s : State) (t u off amt stamp : Nat) : State :=
  match armedAt (s.tile u) off 4, (s.tile u).store.badWrite off 4 with
  | some o, _ => tileEvent s u 0x06 0x0C (BitVec.ofNat 64 o) (BitVec.ofNat 64 t)
  | none, some k =>
    let va := peerAddr u off
    if u = t then failStopTile s u (BitVec.ofNat 64 (8 * k))
    else if s.running t stamp then s.takeLate t 0x10 (dueTaddr (.tile u off) va)
    else tileEvent s t 0x02 0x10 4 va
  | none, none =>
    let old := counterAt s u off
    let new : Int := max (old - amt) (-(2 ^ 31 : Int))
    let s := rawWrite s (.tile u off) (toBytes 4 (wrapN 32 new))
    let s := if 0 < old && new ≤ 0 then
        let hits := (s.tile u).sch.links.filter (·.1 == off)
        let s := s.modTile u fun x => { x with sch := { x.sch with links := x.sch.links.filter (·.1 != off) } }
        hits.foldl (fun a e => makeReady a u (some e.2) e.2.pri.toNat) s
      else s
    if new < 0 then tileEvent s u 0x07 0 (BitVec.ofNat 64 off) (BitVec.ofInt 64 new) else s

/-! ## Task start (R42, R237, R256) -/

/-- The words of the hurdles that are armed, for the rollback (R237). -/
def Tile.hdSnap (x : Tile) : HdSnap :=
  ⟨x.eng.hds, (x.eng.hds.filterMap fun e => e.2.bound).foldl (fun m o =>
    let w := readWord64 x.store.bytes o
    if hwArmed w then tput m o w else m) []⟩
/-- One tile at the start of a task of a handler. DEDUCED: notes/assumptions/27.md. -/
def Tile.begin (x : Tile) (h : HandlerDecl) (g0 g1 : Word) : Tile :=
  let c := h.csr
  { x with
    regs := { g := tset 0 (tset 0 [] 0 g0) 1 g1, c := h.consts, pc := h.entry }
    csr := { c with tcause := x.csr.tcause, tepc := x.csr.tepc, taddr := x.csr.taddr, fflags := 0, inTrap := false,
                    aborts := x.csr.aborts, enghold := x.csr.enghold }
    eng := { x.eng with stat := { x.eng.stat with orph := 0 } }
    sch := { x.sch with
      fx := { hd0 := if h.immediate then none else some x.hdSnap }
      late := [], wfe := none, cmdOut := none, chOut := none, bar := none, fences := [], accBase := x.nextAcc + 1 }
    nextAcc := x.nextAcc + 1
    pend := x.pend.filter (·.ended) }
/-- Start a run-list entry on the anchor tile t of its actor (R265, R256): every member's registers stand as R42 says. -/
def startTask (s : State) (t : Nat) (e : RunEnt) (d : ActorDecl) (a : ActorRef) (h : HandlerDecl) : State :=
  let c := ((s.cfg a.cfg).map (·.ctx)).getD 0
  let (g0, g1) : Word × Word := match e.rcd with
    | none => (BitVec.ofNat 64 a.firings, 0)
    | some r => (r.a0, r.a1)
  let s := (team s t).foldl (fun s u => s.modTile u (·.begin h g0 g1)) s
  s.modTile t fun x =>
    let k : Task := {
      immediate := h.immediate
      handler := (e.rcd.map (·.handler.toNat)).getD 0
      pri := e.pri
      est := (e.rcd.map (·.est.toNat)).getD d.est
      policy := (e.rcd.map (·.policy.toNat)).getD d.policy
      rcd := e.rcd, readyAt := e.readyAt, order := e.order, startCyc := x.sch.cycles, ctx := c }
    ({ x with sch := { x.sch with task := some k, runl := x.sch.runl.filter (· != e) } } : Tile).refill

/-! ## Task end (R164, R257, R258, R303) -/

/-- What is held leaves at commit: tokens and records, then decrements (R164); an M task has nothing held. -/
def Tile.release (x : Tile) : Tile :=
  let fx := x.sch.fx
  let spawns := fx.heldMsg.filter fun m => match m with | .spawn _ _ _ => true | _ => false
  let tdecs := fx.heldMsg.filter fun m => match m with | .spawn _ _ _ => false | _ => true
  let x := fx.held.foldl (fun x e => x.emit e.1 0 e.2) x
  let x := spawns.foldl Tile.send x
  let x := { x with inq := x.inq.map fun e => (e.1, { e.2 with toks := e.2.toks.drop e.2.popped, popped := 0, mark := [] }) }
  tdecs.foldl Tile.send x
/-- A value reaches its register or window, with the flags that it raises (R37, R85). -/
def Tile.fillValue (x : Tile) (d : RegRef) (v : Vec) (fl : Flags) : Tile :=
  let x := x.raise fl
  match d with
  | .g i => { x with regs := x.regs.putG i (v.setWidth 64) }
  | .v i => { x with regs := x.regs.putV i v }
  | .win q vector => x.push q (if vector then .vec v else .scalar (v.setWidth 64))
/-- Results on their way when a task ends: values reach their registers, claims outlive the task (R295), the rest is dropped.
DEDUCED: notes/assumptions/78.md. -/
def Tile.settlePend (x : Tile) : Tile :=
  let vals := x.pend.filterMap fun p => match p.what with
    | .value v fl => some (p.dst, v, fl)
    | _ => none
  let claims := x.pend.filter fun p => match p.what with
    | .claim _ _ _ _ => true
    | _ => false
  vals.foldl (fun x e => x.fillValue e.1 e.2.1 e.2.2) { x with pend := claims.map fun p => { p with ended := true } }
/-- One member after its task has committed: engine operations and patch commands run on (R303). -/
def Tile.endTask (x : Tile) : Tile :=
  let x := x.settlePend.release
  { x with
    eng := { x.eng with
      copies := x.eng.copies.map fun o => { o with byTask := false }
      dreqs := x.eng.dreqs.map fun o => { o with byTask := false } }
    pu := { x.pu with q := x.pu.q.map fun e => { e with byTask := false } }
    regs := { x.regs with loops := [] }
    csr := { x.csr with aborts := 0, inTrap := false }
    sch := { x.sch with task := none, fx := {}, wfe := none, bar := none, fences := [] } }
/-- A once-firing actor (R254): its rule names no queue and no range, or it declares no input queue. -/
def ActorDecl.source (d : ActorDecl) : Bool := d.inQ.all (fun e => e.2.2 == 0) && d.ranges.isEmpty
def ActorDecl.once (d : ActorDecl) : Bool := d.source || d.inQ.all (fun e => e.2.1 == 0)
/-- Push CLOSE on every declared output queue (R254). DEDUCED: notes/assumptions/20.md. -/
def Tile.closeOut (x : Tile) : Tile := x.declOut.foldl (fun y q => y.emit q 0 .close) x
/-- The task of anchor t ends, in every member (R303). DEDUCED: notes/assumptions/19.md. -/
def endTask (s : State) (t : Nat) : State :=
  let ts := team s t
  let d := s.actorDecl t
  let fired := (((s.tile t).sch.task.map (·.rcd)).getD none).isNone
  let s := disband (ts.foldl (fun a u => a.modTile u Tile.endTask) s) t
  let closes := fired && (d.map (·.once)).getD false
  let s := if closes then ts.foldl (fun a u => a.modTile u Tile.closeOut) s else s
  if fired then s.modTile t fun x => { x with sch := { x.sch with
      actor := x.sch.actor.map fun a => { a with firings := a.firings + 1, done := a.done || closes } } }
  else s

/-! ## The commit (R164, R186, R347, R438) -/

def BufItem.isCh : BufItem → Bool
  | .acc a => match a.op with | .chStore _ _ => true | _ => false
  | _ => false
def BufItem.isStf : BufItem → Bool
  | .acc a => match a.op with | .stf _ => true | _ => false
  | _ => false
def Acc.isChStore (a : Acc) : Bool := match a.op with | .chStore _ _ => true | _ => false

/-- Send a chained store of the store buffer as a tentative access, numbered afresh (R186). -/
def Tile.sendTentative (x : Tile) (b : BufItem) : Tile :=
  match b with
  | .acc a => ({ x with net := x.net ++ [{ a with id := x.nextAcc }], nextAcc := x.nextAcc + 1 } : Tile).perfAdd 5 1
  | .hdarr _ _ _ => x
def Tile.setSb (x : Tile) (sb : List BufItem) : Tile := { x with sch := { x.sch with fx := { x.sch.fx with sb := sb } } }
def Tile.setPhase (x : Tile) (n : Nat) : Tile := { x with sch := { x.sch with fx := { x.sch.fx with phase := n } } }
/-- Send the chained stores of a store buffer as tentative accesses (R186), those too that a home has returned. -/
def Tile.sendChained (x : Tile) : Tile :=
  let (ch, rest) := x.sch.fx.sb.partition (·.isCh)
  (ch.foldl Tile.sendTentative (x.setSb rest)).setPhase 1
/-- Put back at the head of a store buffer what could not be sent. -/
def Tile.keepSb (x : Tile) (l : List BufItem) : Tile := x.setSb (l ++ x.sch.fx.sb)
/-- Send buffered accesses in order, numbered afresh. An HDARR waits for its turn at its hurdle word (R163); an uncorrectable unit of
the own store stops it; what is left stays in the buffer. -/
def sendBuffered (t : Nat) : List BufItem → State → State × Option Home
  | [], s => (s, none)
  | .hdarr h n k :: r, s =>
    if ((s.tile t).hd h).bound.all fun o => hasTurn s t (.tile t o) 8 (s.tile t).nextAcc k then
      sendBuffered t r (arrive s t h n false true)
    else (s.modTile t (·.keepSb (.hdarr h n k :: r)), none)
  | .acc a :: r, s =>
    let id := (s.tile t).nextAcc
    match sendFrom (s.modTile t fun x => { x with nextAcc := id + 1 }) t { a with id := id } with
    | .ok s => sendBuffered t r s
    | .error h => (s.modTile t (·.keepSb (.acc a :: r)), some h)
/-- Send what a test selects in the buffers of a gang's members, one member after another. -/
def sendTeam (p : BufItem → Bool) : List Nat → State → State × Option (Nat × Home)
  | [], s => (s, none)
  | u :: us, s =>
    let (go, stay) := (s.tile u).sch.fx.sb.partition p
    match sendBuffered u go (s.modTile u (·.setSb stay)) with
    | (s, none) => sendTeam p us s
    | (s, some h) => (s, some (u, h))

/-- What a commit has come to: it waits, all has performed, or a member's own store has failed. -/
inductive Commit where
  | wait
  | done
  | failed (t : Nat) (h : Home)
deriving DecidableEq, Repr

/-- Nothing of some tiles is on its way. -/
def netQuiet (s : State) (ts : List Nat) : Bool := ts.all fun u => (s.tile u).net.isEmpty
/-- Nothing that a test selects is left in the buffers of some tiles. -/
def sbEmptyOf (s : State) (ts : List Nat) (p : BufItem → Bool) : Bool := ts.all fun u => !((s.tile u).sch.fx.sb.any p)
def setPhases (s : State) (ts : List Nat) (n : Nat) : State := ts.foldl (fun a u => a.modTile u (·.setPhase n)) s
/-- The last stores of a commit, the STF stores (R164). -/
def commitStf (s : State) (ts : List Nat) : State × Commit :=
  match sendTeam (fun _ => true) ts (setPhases s ts 4) with
  | (s, some (u, h)) => (s, .failed u h)
  | (s, none) => (s, if netQuiet s ts && sbEmptyOf s ts (fun _ => true) then .done else .wait)
/-- The stores of a commit that are neither chained nor STF, and once these are acknowledged the STF stores (R164). -/
def commitStores (s : State) (ts : List Nat) : State × Commit :=
  match sendTeam (!·.isStf) ts (setPhases s ts 3) with
  | (s, some (u, h)) => (s, .failed u h)
  | (s, none) => if netQuiet s ts && sbEmptyOf s ts (!·.isStf) then commitStf s ts else (s, .wait)
/-- One look at the commit of the task of some tiles, the anchor first (R164): its phase goes on as far as it can. -/
def commitStep (s : State) (ts : List Nat) : State × Commit :=
  match (s.tile (ts.headD 0)).sch.fx.phase with
  | 0 =>
    if !netQuiet s ts || ts.any (cancelling s) then (s, .wait)
    else if sbEmptyOf s ts (·.isCh) then commitStores s ts
    else (ts.foldl (fun a u => a.modTile u Tile.sendChained) s, .wait)
  | 1 => (if sbEmptyOf s ts (·.isCh) then s else ts.foldl (fun a u => a.modTile u Tile.sendChained) s, .wait)
  | 2 => (s, .wait)
  | 3 => commitStores s ts
  | _ => commitStf s ts
/-- A commit that can no longer be undone is under way on the anchor of a tile (R164, R186): the task is not aborted before its
end, unless it has trapped. DEDUCED: notes/assumptions/79.md. -/
def committing (s : State) (t : Nat) : Bool :=
  let k := (s.tile ((team s t).headD t)).sch
  decide (2 ≤ k.fx.phase) && !k.trapped

end Sys2Proof.Machine
end

