-- ==== Sys2Proof/Machine/EngineOps.lean ====
section
/-! DEFINITION. The meanings of group 4: stream ports, copies, hurdles, DRAM requests (R216, R237-R250). -/

namespace Sys2Proof.Machine

/-- An address that must name the own tile store under any of its spellings (R24): its offset (R215). -/
def needOwn (a : Word) (n align : Nat) : M Nat := do
  let s ← getS
  match steer s.cur (s.tile s.cur).csr.stkbase a n with
  | some (.tile u off) =>
    if u != s.cur then trap 0x03 a
    else if a.toNat % align ≠ 0 then trap 0x06 a
    else pure off
  | _ => trap 0x03 a
/-- Read n bytes of the own tile store in one access of the core port, through the store buffer (R164). -/
def readOwn (a : Word) (n align : Nat) : M (List Byte) := do
  let off ← needOwn a n align
  let t ← me
  portTurn (.tile t off) n
  let x ← getT
  match x.store.badRead off n with
  | some u => trap 0x10 (BitVec.ofNat 64 (8 * u))
  | none =>
    modT fun x => { x with store := x.store.scrub off n }
    pure (throughSb x.sch.fx.sb (.tile t off) (readBytes x.store.bytes off n))

/-- The bound offset and word of an armed entry as the core reads them; an uncorrectable hurdle word is a DUE (R15, R381). -/
def readHurdle (h : Nat) : M (Option (Nat × Nat)) := do
  let x ← getT
  match x.hdBad h with
  | some o => trap 0x10 (BitVec.ofNat 64 o)
  | none =>
    modT fun x => match (x.hd h).bound with
      | some o => { x with store := x.store.scrub o 8 }
      | none => x
    pure (x.armed h)
/-- The same as an access of the core port, which has its turn (R163, R232). -/
def turnHurdle (h : Nat) : M (Option (Nat × Nat)) := do
  match ((← getT).hd h).bound with
  | some o =>
    let t ← me
    portTurn (.tile t o) 8
    readHurdle h
  | none => pure none

/-- The context and carried CSRs of an engine operation that the current tile starts (R437). -/
def carryNow : M (Nat × Carried × BitVec 2) := do
  let s ← getS
  let c := (s.tile s.cur).csr
  pure (s.ctxOf s.cur, c.carry, BitVec.ofNat 2 (nfld c.pgsz.toNat 0 2))

/-- Wait until a port is not RUNNING (R242). -/
def portFree (p : Nat) : M Unit := do
  let x ← getT
  await ((x.port p).st != 1)

/-- spbind (R242). -/
def spbindM (f : FE) : M Go := whenBit0 f.p do
  needM
  let p := f.ix.toNat
  let a ← readG f.ga.toNat false
  portFree p
  let bs ← readOwn a 64 64
  let w := ofBytes bs
  let x ← getT
  let d : Tbl Word := (List.range 8).foldl (fun d i => tset 0 d i (BitVec.ofNat 64 (elemOf w 64 i))) []
  need ({ x.port p with desc := d }.legal x)
  let t ← me
  modS fun s => endRun s t p
  modT fun x => x.setPort p { x.port p with
    desc := d, pos := 0, st := 0, pack := 0, packN := 0, eodDue := none, resume := false, acc := none, halting := false }
  pure .on

/-- spgo (R241, R242, R73, R248): RMODEBAD comes before the ILLOP of a hurdle that is not armed. DESIGN CHOICE: notes/assumptions/114.md. -/
def spgoM (f : FE) : M Go := whenBit0 f.p do
  needM
  let p := f.ix.toNat
  portFree p
  let x ← getT
  let y := x.port p
  if y.conv != 0 then needMode
  if y.isWrite && y.hden then need (← readHurdle y.hdx).isSome
  let (c, car, _) ← carryNow
  let t ← me
  modS fun s => startPort s t p c (nbit f.cmd.toNat 0) car true
  pure .on

/-- sphalt (R242): it does not wait for the element in progress, nor for the control token that the element still has to push. -/
def sphaltM (f : FE) : M Go := whenBit0 f.p do
  needM
  let t ← me
  modS fun s =>
    if ((s.tile t).port f.ix.toNat).st = 1 then
      settlePort (s.modTile t fun x => x.setPort f.ix.toNat { x.port f.ix.toNat with halting := true }) t f.ix.toNat
    else s
  pure .on

/-- sppos (R243): a long-latency producer. -/
def spposM (f : FE) : M Go := whenBit0 f.p do
  dstReady true f.ga.toNat
  let y := (← getT).port f.ix.toNat
  sendResult (.g f.ga.toNat) (.value (BitVec.ofNat 512 (y.pos % 2 ^ 32 + y.st.toNat * 2 ^ 32)) 0)
  pure .on

/-- Whether an address is spelled in the own-tile or the stack aperture (R22, R238). -/
def localSpelling (a : Word) : Bool := decide (a.toNat < 0x180000) || (decide (0x1000000 ≤ a.toNat) && decide (a.toNat < 0x1010000))
/-- A hurdle that an operation names is armed, and counts one more operation (R248). -/
def armedOr (hd : Option Nat) : M Unit := do
  match hd with
  | none => pure ()
  | some h => need (← readHurdle h).isSome

/-- Check one end of a row: aperture, alignment, owner, and whole lines for a global destination (R244). DEDUCED: notes/assumptions/28.md. -/
def checkRow (a : Word) (n : Nat) (dst : Bool) : M Unit := do
  let s ← getS
  match steer s.cur (s.tile s.cur).csr.stkbase a n with
  | none => trap 0x03 a
  | some p =>
    if a.toNat % 4 ≠ 0 then trap 0x06 a
    match p with
    | .tile u _ => if u != s.cur && s.ownerOf u != s.ownerOf s.cur then trap 0x0F a
    | .glob _ => if dst && (a.toNat % 64 != 0 || n % 64 != 0) then trap 0x06 a

/-- Bytes [a, a+n) of two rows meet, in one tile store or at one global virtual address (R244). -/
def rowsMeet (t : Nat) (stk a b : Word) (n m : Nat) : Bool :=
  match steer t stk a n, steer t stk b m with
  | some (.tile u x), some (.tile v y) => u == v && decide (x < y + m) && decide (y < x + n)
  | some (.glob x), some (.glob y) => decide (x.toNat < y.toNat + m) && decide (y.toNat < x.toNat + n)
  | _, _ => false

/-- The checks of a copy, ILLOP, then RMODEBAD, then those of the address, and its start (R238, R244, R248). DESIGN CHOICE: notes/assumptions/114.md. -/
def startCopy (o : CopyOp) : M Go := do
  let x ← getT
  let t ← me
  need (o.rb % 4 == 0 && decide (1 ≤ o.rows) && decide (o.rows ≤ 65535) &&
    decide (4 ≤ o.rb * o.rows) && decide (o.rb * o.rows ≤ 2 ^ 24))
  need (x.isM || (List.range o.rows).all fun r => localSpelling (o.dstRow r))
  armedOr o.hd
  need !((List.range o.rows).any fun r => (List.range o.rows).any fun q =>
    rowsMeet t x.csr.stkbase (o.srcRow r) (o.dstRow q) o.rb o.rowBytes)
  if o.cvt != 0 then needMode
  for r in List.range o.rows do
    checkRow (o.srcRow r) o.rb false
    checkRow (o.dstRow r) o.rowBytes true
  await (decide (x.eng.copies.length < 8))
  modS fun s =>
    let s := match o.hd with
      | some h => pendBy s t h true o.byTask
      | none => s
    let s := (List.range o.rows).foldl (fun a r =>
      emptyRange a t o.ctx o.car.stkbase o.pgsz (pagesOf o.rowBytes) (o.dstRow r) o.rowBytes) s
    s.modTile t fun x => { x with eng := { x.eng with copies := x.eng.copies ++ [o] } }
  pure .on

/-- HD and CVT of a copy (R239). -/
def copyHd (f : FE) : Option Nat := if nbit f.cmd.toNat 0 then some f.ix.toNat else none
def copyCvt (f : FE) : BitVec 2 := BitVec.ofNat 2 (f.cmd.toNat / 2)

/-- cpa (R244). -/
def cpaM (f : FE) : M Go := whenBit0 f.p do
  let d ← readG f.ga.toNat false
  let a ← readG f.gb.toNat false
  let n ← readG f.gc.toNat false
  let (c, car, pg) ← carryNow
  let x ← getT
  startCopy { dst := d, src := a, rb := n.toNat, rows := 1, sstr := 0, dstr := 0, cvt := copyCvt f, hd := copyHd f,
              car := car, pgsz := pg, ctx := c, byTask := !x.isM }

/-- cp2d (R244). -/
def cp2dM (f : FE) : M Go := whenBit0 f.p do
  let a ← readG f.ga.toNat false
  let w := ofBytes (← readOwn a 32 32)
  let (c, car, pg) ← carryNow
  let x ← getT
  startCopy { dst := BitVec.ofNat 64 w, src := BitVec.ofNat 64 (elemOf w 64 1), rb := elemOf w 32 4, rows := elemOf w 32 5,
              dstr := toSigned 32 (elemOf w 32 6), sstr := toSigned 32 (elemOf w 32 7), cvt := copyCvt f, hd := copyHd f,
              car := car, pgsz := pg, ctx := c, byTask := !x.isM }

/-- Keep in the rollback copy what a hurdle word held before the running task wrote it (R237). -/
def Tile.noteHurdle (x : Tile) (off : Nat) : Tile :=
  { x with sch := { x.sch with fx := { x.sch.fx with hd0 := x.sch.fx.hd0.map fun d =>
    if (d.words.any fun e => e.1 == off) then d
    else { d with words := tput d.words off (readWord64 x.store.bytes off) } } } }

/-- A buffered access that writes stores to some of n bytes at a home (R164). -/
def BufItem.covers (b : BufItem) (h : Home) (n : Nat) : Bool :=
  match b with
  | .hdarr _ _ _ => false
  | .acc a => match a.op with
    | .feclr => false
    | _ => a.parts.any (·.shares ⟨h, 0, n, 0, 0, 0⟩)
/-- hdinit (R246, R248): its address is checked before its target. DEDUCED: notes/assumptions/64.md. -/
def hdinitM (f : FE) : M Go := whenBit0 f.p do
  dstReady true f.ga.toNat
  let n := f.ix.toNat
  let a ← readG f.gb.toNat false
  let target := (← readG f.gc.toNat false).toNat
  let off ← needOwn a 8 8
  need (decide (1 ≤ target) && decide (target < 2 ^ 29))
  let t ← me
  portTurn (.tile t off) 8
  let x ← getT
  let taken := x.eng.hds.any fun e => e.1 != n && e.2.bound == some off
  let covered := x.sch.fx.sb.any (·.covers (.tile t off) 8)
  if 0 < (x.hd n).pend then writeG f.ga.toNat 1
  else if taken || covered then writeG f.ga.toNat 2
  else
    modT (·.noteHurdle off)
    modS fun s => rawWrite s (.tile t off) (toBytes 8 (hwInit target (nbit f.cmd.toNat 0)))
    modT fun x => x.setHd n ⟨some off, 0⟩
    writeG f.ga.toNat 0
  pure .on

/-- hdarr (R248): buffered in an I task (R216). -/
def hdarrM (f : FE) : M Go := whenBit0 f.p do
  let c := (← readG f.ga.toNat false).toNat
  need (decide (1 ≤ c) && decide (c < 2 ^ 29))
  let x ← getT
  match ← if x.isM then turnHurdle f.ix.toNat else readHurdle f.ix.toNat with
  | none => illop
  | some (_, w) =>
    need (!hwBytes w)
    let t ← me
    if x.isM then modS fun s => arrive s t f.ix.toNat c false true
    else buffer (.hdarr f.ix.toNat c x.nextAcc)
    pure .on

/-- PHASE of an armed entry differs from the parity in g a (R248). -/
def phaseDone (f : FE) : M Bool := do
  let p := (← readG f.ga.toNat false).toNat % 2
  match ← turnHurdle f.ix.toNat with
  | none => illop
  | some (_, w) => pure (hwPhase w != p)
/-- hdwait (R248). -/
def hdwaitM (f : FE) : M Go := whenBit0 f.p do
  await (← phaseDone f)
  pure .on
/-- hdtest (R248): a long-latency producer. -/
def hdtestM (f : FE) : M Go := whenBit0 f.p do
  let b ← phaseDone f
  sendResult (.g f.ga.toNat) (.value (if b then 1 else 0) 0)
  pure .on
/-- hdkill (R248): the entry keeps its binding and PEND. -/
def hdkillM (f : FE) : M Go := whenBit0 f.p do
  let t ← me
  match ← turnHurdle f.ix.toNat with
  | none => pure .on
  | some (o, w) =>
    modT (·.noteHurdle o)
    modS fun s => rawWrite s (.tile t o) (toBytes 8 (w - 2 ^ 33))
    pure .on

/-- A DREQ's number on its tile. -/
def Tile.dreqId (x : Tile) : Nat := (x.eng.dreqs.map fun d => d.id + 1).foldl Nat.max 0

/-- dreq (R238, R250). DEDUCED: notes/assumptions/28.md. -/
def dreqM (f : FE) : M Go := whenBit0 f.p do
  let mode1 := nbit f.cmd.toNat 0
  let eod := nbit f.cmd.toNat 1
  let a ← readG f.ga.toNat false
  let n := (← readG f.gb.toNat false).toNat
  let d ← if mode1 then readG f.gc.toNat false else pure 0
  let x ← getT
  let t ← me
  let k := n / 64 + if eod then 1 else 0
  need (n % 64 == 0 && decide (64 ≤ n) && decide (n ≤ 4096))
  if mode1 then
    need (x.isM || localSpelling d)
    armedOr (some f.ix.toNat)
  else need (decide (k ≤ (x.inQ f.ix.toNat).depth))
  match steer t x.csr.stkbase a n with
  | some (.glob _) => pure ()
  | _ => trap 0x03 a
  let (c, car, pg) ← carryNow
  if a.toNat % 64 != 0 || a.toNat / pageBytes pg != (a.toNat + n - 1) / pageBytes pg then trap 0x06 a
  let ph ← resolve a n 64 false false
  if mode1 then
    let _ ← needOwn d n 64
  await (decide (x.eng.dreqs.length < 16) && (mode1 || decide (k ≤ x.inFree f.ix.toNat)))
  let pa := match ph.home with
    | .dram pa => pa
    | _ => 0
  let op : DreqOp := { id := x.dreqId, mode1 := mode1, q := f.ix.toNat, va := a, bytes := n, dst := d, eod := eod,
                       pgsz := pg, ctx := c, car := car, byTask := !x.isM, pa := pa, slice := ph.slice }
  modS fun s =>
    let s := if mode1 then emptyRange (pendBy s t f.ix.toNat true op.byTask) t c car.stkbase pg (pagesOf n) d n else s
    s.modTile t fun x =>
      let x := if mode1 then x else
        let q := x.inQ f.ix.toNat
        x.setInQ f.ix.toNat { q with resv := q.resv + k }
      { x with eng := { x.eng with dreqs := x.eng.dreqs ++ [op] } }
  pure .on

/-- SPBIND (R242). -/
def execSpbind (f : FE) (s : State) := issue (.spbind f) (spbindM f) s
/-- SPGO (R242). -/
def execSpgo (f : FE) (s : State) := issue (.spgo f) (spgoM f) s
/-- SPHALT (R242). -/
def execSphalt (f : FE) (s : State) := issue (.sphalt f) (sphaltM f) s
/-- SPPOS (R243). -/
def execSppos (f : FE) (s : State) := issue (.sppos f) (spposM f) s
/-- CPA (R244). -/
def execCpa (f : FE) (s : State) := issue (.cpa f) (cpaM f) s
/-- CP2D (R244). -/
def execCp2d (f : FE) (s : State) := issue (.cp2d f) (cp2dM f) s
/-- HDINIT (R248). -/
def execHdinit (f : FE) (s : State) := issue (.hdinit f) (hdinitM f) s
/-- HDARR (R248). -/
def execHdarr (f : FE) (s : State) := issue (.hdarr f) (hdarrM f) s
/-- HDWAIT (R248). -/
def execHdwait (f : FE) (s : State) := issue (.hdwait f) (hdwaitM f) s
/-- HDTEST (R248). -/
def execHdtest (f : FE) (s : State) := issue (.hdtest f) (hdtestM f) s
/-- HDKILL (R248). -/
def execHdkill (f : FE) (s : State) := issue (.hdkill f) (hdkillM f) s
/-- DREQ (R250). -/
def execDreq (f : FE) (s : State) := issue (.dreq f) (dreqM f) s

/-- ENGINE_GRANULE_WRITE (R233). -/
def execEngineGranuleWrite (t : Nat) (s : State) := occur (evEngineGranuleWrite t) s
/-- STREAM_ELEMENT (R241). -/
def execStreamElement (t p : Nat) (s : State) := occur (evStreamElement t p) s
/-- DREQ_REPLY (R251). -/
def execDreqReply (t n : Nat) (s : State) := occur (evDreqReply t n) s
/-- ENGINE_FAULT (R235). -/
def execEngineFault (t e : Nat) (s : State) := occur (evEngineFault t e) s
/-- ENGST_FAULT_CLEAR (R234). -/
def execEngstFaultClear (t : Nat) (s : State) := occur (evEngstFaultClear t) s

end Sys2Proof.Machine
end

