-- ==== Sys2Proof/Machine/ControlOps.lean ====
section
/-! DEFINITION. The meanings of group 6: branches and loops (R284-R290), queue instructions (R291-R298), task and gang
instructions (R299-R307), collectives (R308-R312). -/

namespace Sys2Proof.Machine

/-- A follower of a formed gang: transfers, loops and ends are its anchor's (R305). -/
def isFollower : M Bool := do
  let t ← me
  match (← getT).gang with
  | some g => pure (g.anchor != t)
  | none => pure false
/-- A meaning that the anchor alone carries out. -/
def anchorOnly (m : M Go) : M Go := do
  if ← isFollower then pure .on else m
/-- The index off32 instructions on (R53). -/
def targetOf (pc : Nat) (off : BitVec 32) : Nat := wrapN 64 (pc + off.toInt)

/-- br (R286). -/
def brM (f : FC) : M Go := anchorOnly <| whenBit0 f.p do
  jumpTo (targetOf (← getT).regs.pc f.off)
/-- The conditions of BC (R286). -/
def bcHolds (c : Nat) (g : Word) : Bool :=
  match c with
  | 0 => g == 0
  | 1 => g != 0
  | 2 => decide (g.toInt < 0)
  | 3 => decide (0 ≤ g.toInt)
  | 4 => decide (g.toInt ≤ 0)
  | _ => decide (0 < g.toInt)
/-- bc (R286). -/
def bcM (f : FC) : M Go := anchorOnly <| whenBit0 f.p do
  let g ← readG f.g.toNat false
  if bcHolds (f.aux.toNat % 8) g then jumpTo (targetOf (← getT).regs.pc f.off) else pure .on
/-- jal (R286): every member of a gang writes its own register. -/
def jalM (f : FC) : M Go := whenBit0 f.p do
  dstReady true f.g.toNat
  let pc := (← getT).regs.pc
  let go ← jumpTo (targetOf pc f.off)
  writeG f.g.toNat (BitVec.ofNat 64 (pc + 1))
  pure go
/-- jr (R286). -/
def jrM (f : FC) : M Go := anchorOnly <| whenBit0 f.p do
  jumpTo (← readG f.g.toNat false).toNat

/-- End loop k and every loop started after it (R288, R290). -/
def endLoops (k : Nat) : List Nat → List Nat
  | [] => []
  | l :: r => if l = k then r else endLoops k r
/-- loop (R288). DEDUCED: notes/assumptions/61.md. -/
def loopM (f : FC) : M Go := anchorOnly <| whenBit0 f.p do
  let k := f.aux.toNat % 4
  let c : BitVec 32 := (← readG f.g.toNat false).setWidth 32
  let x ← getT
  let pc := x.regs.pc
  let e := pc + f.off.toNat
  let active := x.regs.loops.contains k
  let loops := if active then endLoops k x.regs.loops else x.regs.loops
  if c = 0 then
    let go ← jumpTo (e + 1)
    modR fun r => { r.putLc k 0 with loops := loops }
    pure go
  else if Config.codeWords ≤ e then trap 0x03 (BitVec.ofNat 64 e)
  else
    modR fun r => { r.putLc k c with lp := tset (0, 0) r.lp k (pc + 1, e), loops := k :: loops }
    pure .on
/-- lbrk (R290). -/
def lbrkM (f : FC) : M Go := anchorOnly <| whenBit0 f.p do
  let k := f.aux.toNat % 4
  let r := (← getT).regs
  if !r.loops.contains k then illop
  else
    parityGood .lc k
    let go ← jumpTo ((r.span k).2 + 1)
    modR fun r => { r with loops := endLoops k r.loops }
    pure go

/-! ## Queue instructions (R291-R298) -/

/-- The queue number of an inline literal; above 15 there is none (R291). -/
def litQueue (a : Src) : Nat :=
  match a with
  | .lit c => c.toNat
  | _ => 16
def needIn (q : Nat) : M Unit := do need (decide (q < 16) && decide (0 < ((← getT).inQ q).depth))
def needOut (q : Nat) : M Unit := do need (decide (q < 16) && decide (0 < ((← getT).outQ q).depth))

/-- snd (R294). -/
def sndM (f : FA) : M Go :=
  if f.dk then whenBit0 f.p do
    needOut f.dst.toNat
    await (decide (0 < (← getT).outFree f.dst.toNat) && (← getT).winPend f.dst.toNat == 0)
    let d ← readScalar f.a
    pushTok f.dst.toNat (.scalar d)
    pure .on
  else whenLanes f.p fun m => do
    needOut f.dst.toNat
    await (decide (0 < (← getT).outFree f.dst.toNat) && (← getT).winPend f.dst.toNat == 0)
    let d ← match f.a with
      | .v i w => readV i.toNat w
      | _ => illop
    pushTok f.dst.toNat (.vec (mergeLanes m 0 d))
    pure .on
/-- rcv (R295): a claim at issue, filled by LONG_LATENCY_FILL in the order of the queue; the predicate governs a vector
destination lane by lane (R50). -/
def rcvM (f : FA) : M Go :=
  let body (m : BitVec 16) : M Go := do
    let q := litQueue f.a
    dstReady f.dk f.dst.toNat m
    needIn q
    sendResult (← dstRef f.dk f.dst.toNat) (.claim q (nbit f.m.toNat 0) (wordOf (.rcv f)) m)
    pure .on
  if f.dk then whenBit0 f.p (body 0xFFFF) else whenLanes f.p body
/-- qpk (R296). -/
def qpkM (f : FA) : M Go := whenBit0 f.p do
  let q := litQueue f.a
  dstReady true f.dst.toNat
  needIn q
  let x ← getT
  match x.head q with
  | none => if nbit f.m.toNat 0 then writeG f.dst.toNat 0xF; pure .on else hold
  | some tok =>
    let c := match tok with | .poison c => c.toNat | _ => 0
    writeG f.dst.toNat (BitVec.ofNat 64 (tok.tag + 256 * c))
    pure .on
/-- qcnt (R297). -/
def qcntM (f : FA) : M Go := whenBit0 f.p do
  let q := litQueue f.a
  dstReady true f.dst.toNat
  if nbit f.m.toNat 0 then
    needOut q
    writeG f.dst.toNat (BitVec.ofNat 64 ((← getT).outFree q))
  else
    needIn q
    writeG f.dst.toNat (BitVec.ofNat 64 ((← getT).resident q))
  pure .on
/-- eod (R298): bit 0 of the mask decides. DESIGN CHOICE: notes/assumptions/112.md. -/
def eodM (f : FA) : M Go := whenBit0 f.p do
  needOut f.dst.toNat
  pushTok f.dst.toNat (.eod f.m)
  pure .on
/-- qpsn (R298): with ALL on every declared output queue in increasing number; bit 0 of the mask decides. DESIGN CHOICE: notes/assumptions/112.md. -/
def qpsnM (f : FA) : M Go := whenBit0 f.p do
  let all := nbit f.m.toNat 0
  if !all then needOut f.dst.toNat
  let x ← getT
  let qs := if all then x.declOut else [f.dst.toNat]
  await (qs.all fun q => decide (0 < x.outFree q) && x.winPend q == 0)
  let c : Byte := (← readScalar f.a).setWidth 8
  need (decide (1 ≤ c.toNat) && decide (c.toNat ≤ 0x1A))
  for q in qs do pushTok q (.poison c)
  pure .on

/-! ## Task instructions (R299-R303) -/

/-- The actor in a slot of the current tile's configuration. -/
def slotDecl (s : State) (slot : Nat) : Option ActorDecl :=
  (s.cfg (s.sqOf s.cur)).bind fun c => c.image.actors[slot]?
/-- The return buffer has room for what an M task sends (R316, R383). -/
def retRoom : M Unit := do
  let x ← getT
  await (!x.isM || decide (x.sch.retBuf.length < 16))
/-- Send a message: held in an I task, after the earlier accesses in an M task (R300, R301). -/
def sendMsg (mk : Nat → Msg) : M Unit := modT fun x =>
  if x.isM then x.send (mk x.nextAcc)
  else { x with sch := { x.sch with fx := { x.sch.fx with heldMsg := x.sch.fx.heldMsg ++ [mk 0] } } }

/-- spawn (R299, R300). -/
def spawnM (f : FE) : M Go := whenBit0 f.p do
  let a ← readG f.ga.toNat false
  let slot := (← readG f.gb.toNat false).toNat
  let s ← getS
  match slotDecl s slot with
  | none => illop
  | some d =>
    if 0x180000 < a.toNat + 32 then trap 0x03 a
    match parseRecord (ofBytes (← readOwn a 32 32)) d.handlers.length with
    | none => illop
    | some r =>
      await (roomAt s s.cur slot)
      retRoom
      sendMsg fun n => .spawn slot r n
      pure .on
/-- tdec (R299, R301). -/
def tdecM (f : FE) : M Go := whenBit0 f.p do
  let slot := (← readG f.ga.toNat false).toNat
  let off := (← readG f.gb.toNat false).toNat
  let amt := (← readG f.gc.toNat false).toNat
  let s ← getS
  need ((slotDecl s slot).isSome && off % 4 == 0 && decide (off < 0x180000) && decide (1 ≤ amt) && decide (amt < 2 ^ 31))
  retRoom
  sendMsg fun n => .tdec slot off amt n
  pure .on

/-- No computed result is on its way to a window of some tiles: it becomes a push before the task ends. -/
def windowsQuiet (s : State) (ts : List Nat) : Bool := ts.all fun u => (s.tile u).pend.all fun p => match p.dst, p.what with
  | .win _ _, .claim _ _ _ _ => true
  | .win _ _, _ => false
  | _, _ => true
/-- The commit of an I task (R164, R186): the buffered accesses perform in their order, what is held leaves, the task ends. An
uncorrectable unit of a member's own store stops it (R381). -/
def commitM (ts : List Nat) : M Go := do
  let s ← getS
  await (windowsQuiet s ts)
  match commitStep s ts with
  | (s', .done) =>
    modS fun _ => endTask s' s'.cur
    pure .finish
  | (s', .wait) =>
    modS fun _ => s'
    sentHold
  | (s', .failed u h) =>
    modS fun _ => takeForced s' u 0x10 (ownDue h)
    sentHold
/-- tend (R303): the anchor's task ends for every member. DEDUCED: notes/assumptions/19.md. -/
def tendM (f : FC) : M Go := anchorOnly <| whenBit0 f.p do
  let s ← getS
  let ts := team s s.cur
  if ts.headD s.cur != s.cur then pure .finish
  else if (← getT).isM then
    await (windowsQuiet s ts && ts.all fun u => (ownOutstanding s u).isEmpty)
    modS fun s => endTask s s.cur
    pure .finish
  else commitM ts

/-! ## Gangs (R304-R307) -/

/-- Whether a scalar destination takes a write now: none where it is the window of an undeclared queue (R37, R40). -/
def Tile.takesG (x : Tile) (i : Nat) : Option Bool :=
  if i < 56 then some (tget .full x.regs.gFe i != .empty)
  else
    let q := queueOf x false (i - 56)
    if (x.outQ q).depth = 0 then none else some (decide (0 < x.outFree q) && x.winPend q == 0)
/-- Write a scalar destination, a window pushing (R40). -/
def Tile.giveG (x : Tile) (i : Nat) (d : Word) : Tile :=
  if i < 56 then { x with regs := x.regs.putG i d } else x.push (queueOf x false (i - 56)) (.scalar d)
/-- gform (R304): each member's own destination must take its ordinal. -/
def gformM (f : FC) : M Go := whenBit0 f.p do
  let s ← getS
  let n := ((s.actorDecl s.cur).map (·.gang)).getD 1
  let ts := team s s.cur
  need (decide (1 < n) && ts.headD 0 == s.cur && (← getT).gang.isNone)
  let ready := ts.map fun u => (s.tile u).takesG f.g.toNat
  need (ready.all (·.isSome))
  await (ready.all (· == some true))
  let k := (← getT).sch.task
  modS fun s => ts.zipIdx.foldl (fun a e => a.modTile e.1 fun x =>
    ({ x with gang := some ⟨s.cur, e.2, n⟩, sch := { x.sch with task := k } } : Tile).giveG f.g.toNat (BitVec.ofNat 64 e.2)) s
  pure .on
/-- gend (R306): an end decision, so the anchor's predicate governs every member (R305); the last member disbands the gang. -/
def gendM (f : FC) : M Go := do
  match (← getT).gang with
  | none => whenBit0 f.p illop
  | some g =>
    let s ← getS
    if g.ord + 1 = g.size && nbit (Pred.mask f.p (s.tile g.anchor).regs).toNat 0 then modS fun s => disband s s.cur
    pure .on
/-- gsync (R307): it waits too for what is acknowledged and has not performed, since that precedes every access after it. -/
def gsyncM (f : FC) : M Go := whenBit0 f.p do
  need ((← getT).gang.isSome)
  needM
  let s ← getS
  await ((gangTiles s s.cur).all fun u => scopeClear s u 3 (s.tile u).nextAcc)
  pure .on

/-! ## Collectives (R308-R312) -/

def grpValid (g : Word) : Bool := nbit g.toNat 63
def grpNr (g : Word) : Nat := nfld g.toNat 44 12
def grpRank (g : Word) : Nat := nfld g.toNat 32 11
/-- Bytes of an element. -/
def collWidth (ty : BitVec 4) : Nat := if ty = 9 then 2 else 4

/-- Whether a group takes a collective: valid, the rank below NR (R309). -/
def grpOk (s : State) (g : Nat) : Bool :=
  let w := tget 0 s.coll.grp g
  grpValid w && decide (1 ≤ grpNr w) && decide (grpNr w ≤ 2048) && decide (grpRank w < grpNr w)
/-- A group that a mismatch or a broken link has stopped takes no new collective, and eight may be outstanding (R397,
R310). -/
def collRoom (g : Nat) : M Unit := do
  let s ← getS
  await (!s.coll.stopped.contains g && decide (s.coll.out.length < 8))
/-- Whether this tile's configuration has armed the photo finish. -/
def hasDg (s : State) : Bool := ((s.cfg (s.sqOf s.cur)).map (·.dg.isSome)).getD false

/-- Empty the lines of a buffer as it was translated (R178), where its owner holds them. -/
def emptyParts (s : State) (t : Nat) (ps : List Part) : State :=
  ps.foldl (fun s p => if partMiss s t p = .ok then setFull s p.home p.len false else s) s
/-- Translate a buffer page by page (R309). -/
def bufferParts (a : Word) (n : Nat) (store : Bool) (size : Nat) : Nat → M (List Part)
  | 0 => pure []
  | k + 1 => do
    let before ← bufferParts a n store size k
    let page := a.toNat / size + k
    if page ≤ (a.toNat + n - 1) / size then
      let lo := Nat.max a.toNat (page * size)
      let hi := Nat.min (a.toNat + n) (page * size + size)
      let va : Word := BitVec.ofNat 64 lo
      let ph ← resolve va 1 1 store false
      pure (before ++ [ph.part va (hi - lo) (lo - a.toNat)])
    else pure before

/-- car, cbc and crd: kind 0, 1 and 2 (R309, R310). -/
def collM (kind : BitVec 2) (f : FE) : M Go := whenBit0 f.p do
  needM
  notReplay
  notRedundant
  let a ← readG f.ga.toNat false
  let n := (← readG f.gb.toNat false).toNat
  let root ← if kind = 0 then pure 0 else (do pure (← readG f.gc.toNat false).toNat)
  let c := f.cmd.toNat
  let ty : BitVec 4 := BitVec.ofNat 4 c
  let op : BitVec 2 := BitVec.ofNat 2 (c / 16)
  let dg := nbit c 6
  let hd : Option Nat := if nbit c 7 then some (nfld c 8 5) else none
  let s ← getS
  let t ← me
  let g := f.ix.toNat
  let w := if kind = 1 then 4 else collWidth ty
  need (decide (16 ≤ n) && decide (n ≤ 2 ^ 24) && n * w % 64 == 0)
  need (grpOk s g && (kind = 0 || decide (root < grpNr (tget 0 s.coll.grp g))))
  match hd with
  | none => pure ()
  | some h => match ← readHurdle h with
    | some (_, x) => need (hwBytes x)
    | none => illop
  need (!(dg && hasDg s))
  let bytes := n * w
  match steer t 0 a bytes with
  | some (.glob _) => pure ()
  | _ => trap 0x03 a
  if a.toNat % 64 ≠ 0 then trap 0x06 a
  if kind != 1 && ty != 0 then needMode
  let (cx, car, pg) ← carryNow
  let rank := grpRank (tget 0 s.coll.grp g)
  let size := pageBytes pg
  let pages := (a.toNat + bytes - 1) / size - a.toNat / size + 1
  let parts ← bufferParts a bytes false size pages
  let writes : Bool := match kind.toNat with
    | 0 => true
    | 1 => rank != root
    | _ => rank == root
  if writes then
    let _ ← bufferParts a bytes true size pages
  collRoom g
  modS fun s =>
    let ord := tget 0 s.coll.ord g
    let x := s.tile t
    let op : Coll := { g := g, n := ord, grp := tget 0 s.coll.grp g, kind := kind, ty := ty, op := op, dg := dg, va := a, count := n, root := root, car := car,
                       pgsz := pg, hd := hd, tile := t, cfg := s.sqOf t, ctx := cx, stamp := x.nextAcc, pages := parts }
    let s := { s with coll := { s.coll with ord := tput s.coll.ord g (ord + 1), out := s.coll.out ++ [op] } }
    let s := match hd with
      | some h => pendBy s t h true false
      | none => s
    let s := if writes then emptyParts s t parts else s
    if dg then s.modCfg (s.sqOf t) fun c => { c with dg := some (g, ord, op.grp) } else s
  pure .on

def carM (f : FE) : M Go := collM 0 f
def cbcM (f : FE) : M Go := collM 1 f
def crdM (f : FE) : M Go := collM 2 f
/-- cbar (R310): issued once, it holds until every rank has issued its match. -/
def cbarM (f : FE) : M Go := whenBit0 f.p do
  needM
  notReplay
  notRedundant
  let s ← getS
  let g := f.ix.toNat
  let x ← getT
  match x.sch.bar with
  | some (h, n) =>
    await (decide (n < tget 0 s.coll.barDone h))
    modT fun x => { x with sch := { x.sch with bar := none } }
    pure .on
  | none =>
    need (grpOk s g)
    await (scopeClear s s.cur 3 x.nextAcc)
    collRoom g
    modS fun s =>
      let ord := tget 0 s.coll.ord g
      let op : Coll := { g := g, n := ord, grp := tget 0 s.coll.grp g, kind := 3, ty := 0, op := 0, dg := false, va := 0, count := 0, root := 0, car := x.csr.carry,
                         pgsz := 0, hd := none, tile := s.cur, cfg := s.sqOf s.cur, ctx := s.ctxOf s.cur, stamp := 0 }
      { s with coll := { s.coll with ord := tput s.coll.ord g (ord + 1), out := s.coll.out ++ [op] } }
    modT fun x => { x with sch := { x.sch with bar := some (g, tget 0 s.coll.ord g) } }
    sentHold

/-- BR (R286). -/
def execBr (f : FC) (s : State) := issue (.br f) (brM f) s
/-- BC (R286). -/
def execBc (f : FC) (s : State) := issue (.bc f) (bcM f) s
/-- JAL (R286). -/
def execJal (f : FC) (s : State) := issue (.jal f) (jalM f) s
/-- JR (R286). -/
def execJr (f : FC) (s : State) := issue (.jr f) (jrM f) s
/-- LOOP (R288). -/
def execLoop (f : FC) (s : State) := issue (.loop f) (loopM f) s
/-- LBRK (R290). -/
def execLbrk (f : FC) (s : State) := issue (.lbrk f) (lbrkM f) s
/-- SND (R294). -/
def execSnd (f : FA) (s : State) := issue (.snd f) (sndM f) s
/-- RCV (R295). -/
def execRcv (f : FA) (s : State) := issue (.rcv f) (rcvM f) s
/-- QPK (R296). -/
def execQpk (f : FA) (s : State) := issue (.qpk f) (qpkM f) s
/-- QCNT (R297). -/
def execQcnt (f : FA) (s : State) := issue (.qcnt f) (qcntM f) s
/-- EOD (R298). -/
def execEod (f : FA) (s : State) := issue (.eod f) (eodM f) s
/-- QPSN (R298). -/
def execQpsn (f : FA) (s : State) := issue (.qpsn f) (qpsnM f) s
/-- SPAWN (R300). -/
def execSpawn (f : FE) (s : State) := issue (.spawn f) (spawnM f) s
/-- TDEC (R301). -/
def execTdec (f : FE) (s : State) := issue (.tdec f) (tdecM f) s
/-- TEND (R303). -/
def execTend (f : FC) (s : State) := issue (.tend f) (tendM f) s
/-- GFORM (R304). -/
def execGform (f : FC) (s : State) := issue (.gform f) (gformM f) s
/-- GEND (R306). -/
def execGend (f : FC) (s : State) := issue (.gend f) (gendM f) s
/-- GSYNC (R307). -/
def execGsync (f : FC) (s : State) := issue (.gsync f) (gsyncM f) s
/-- CAR (R310). -/
def execCar (f : FE) (s : State) := issue (.car f) (carM f) s
/-- CBC (R310). -/
def execCbc (f : FE) (s : State) := issue (.cbc f) (cbcM f) s
/-- CRD (R310). -/
def execCrd (f : FE) (s : State) := issue (.crd f) (crdM f) s
/-- CBAR (R310). -/
def execCbar (f : FE) (s : State) := issue (.cbar f) (cbarM f) s

end Sys2Proof.Machine
end

