-- ==== Sys2Proof/Machine/Crypto.lean ====
section
/-! DEFINITION. The functions the manual takes from public standards (R193, R351-R357, R360, R364): SHAKE256 (FIPS 202),
KMAC256 (SP 800-185), AES-256 (FIPS 197) in Galois/Counter Mode (SP 800-38D) and in XTS mode (IEEE 1619). -/

namespace Sys2Proof.Machine

/-! ## Keccak: the lanes of the state stand in a list, lane (x, y) at x + 5y -/

/-- n bits of the shift register that the round constants are drawn from, from contents r on. -/
def kTaps (r : Nat) : Nat → List Nat
  | 0 => []
  | n + 1 => r % 2 :: kTaps (if 128 ≤ r then Nat.xor (2 * r) 0x171 else 2 * r) n
/-- A round constant of the seven bits drawn for it: the j-th stands at 2^j - 1. -/
def kIota (bits : List Nat) : Word :=
  BitVec.ofNat 64 (bits.zipIdx.map fun e => e.1 * 2 ^ (2 ^ e.2 - 1)).sum
def kIotas : List Word :=
  let taps := kTaps 1 168
  (List.range 24).map fun n => kIota ((taps.drop (7 * n)).take 7)
/-- The walk over the lanes other than (0, 0) from its t-th place (x, y) on: each goes to its successor, rotated by the triangular
number of its place. -/
def kWalk (x y t : Nat) : Nat → List (Nat × Nat × Nat)
  | 0 => []
  | n + 1 =>
    let z := (2 * x + 3 * y) % 5
    (x + 5 * y, y + 5 * z, (t + 1) * (t + 2) / 2 % 64) :: kWalk y z (t + 1) n
/-- Parity of column x. -/
def kParity (s : List Word) (x : Nat) : Word := ([0, 5, 10, 15, 20].map fun y => s[x % 5 + y]?.getD 0).foldl (· ^^^ ·) 0
/-- Each lane takes the parities of its two neighbouring columns. -/
def kTheta (s : List Word) : List Word :=
  s.zipIdx.map fun e => e.1 ^^^ kParity s (e.2 + 4) ^^^ (kParity s (e.2 + 1)).rotateLeft 1
/-- Lanes rotated and moved along the walk. -/
def kMove (s : List Word) : List Word :=
  (kWalk 1 0 0 24).foldl (fun m e => lset m e.2.1 ((s[e.1]?.getD 0).rotateLeft e.2.2)) s
/-- A row of five lanes, each with the product of the two after it. -/
def kRow (r : List Word) : List Word :=
  r.zipIdx.map fun e => e.1 ^^^ (~~~ (r[(e.2 + 1) % 5]?.getD 0) &&& r[(e.2 + 2) % 5]?.getD 0)
def kRound (s : List Word) (k : Word) : List Word :=
  let m := kMove (kTheta s)
  match ((List.range 5).map fun y => kRow ((m.drop (5 * y)).take 5)).flatten with
  | [] => []
  | w :: r => (w ^^^ k) :: r
def keccakF (s : List Word) : List Word := kIotas.foldl kRound s

/-- Rate in bytes of a capacity of 512 bits. -/
def kRate : Nat := 136
/-- Bytes in pieces of n, fuel bounding their number. -/
def chunks (n : Nat) : Nat → List Byte → List (List Byte)
  | 0, _ => []
  | fuel + 1, l => if l.isEmpty then [] else l.take n :: chunks n fuel (l.drop n)
/-- Absorb whole blocks. -/
def kAbsorb (a : List Word) (blocks : List (List Byte)) : List Word :=
  blocks.foldl (fun a b => keccakF ((List.range 25).map fun i =>
    (a[i]?.getD 0) ^^^ if i < 17 then BitVec.ofNat 64 (ofBytes ((b.drop (8 * i)).take 8)) else 0)) a
/-- Squeeze k blocks. -/
def kSqueeze (a : List Word) : Nat → List Byte
  | 0 => []
  | k + 1 => ((a.take 17).map fun w => toBytes 8 w.toNat).flatten ++ kSqueeze (keccakF a) k
/-- The sponge with a domain suffix, n bytes out. -/
def sponge (suffix : Nat) (m : List Byte) (n : Nat) : List Byte :=
  let k := kRate - m.length % kRate
  let pad : List Byte := if k = 1 then [BitVec.ofNat 8 (suffix + 128)]
    else BitVec.ofNat 8 suffix :: List.replicate (k - 2) 0 ++ [128]
  let m := m ++ pad
  (kSqueeze (kAbsorb (List.replicate 25 0) (chunks kRate (m.length / kRate) m)) (n / kRate + 1)).take n
/-- SHAKE256 to n bytes. -/
def shake256 (m : List Byte) (n : Nat) : List Byte := sponge 0x1F m n

/-- The bytes of a number, highest first, at least one. -/
def beBytes (x : Nat) : List Byte :=
  let n := if x = 0 then 1 else (Nat.log2 x) / 8 + 1
  (toBytes n x).reverse
def leftEncode (x : Nat) : List Byte := let b := beBytes x; BitVec.ofNat 8 b.length :: b
def rightEncode (x : Nat) : List Byte := let b := beBytes x; b ++ [BitVec.ofNat 8 b.length]
def encodeString (s : List Byte) : List Byte := leftEncode (8 * s.length) ++ s
def bytepad (x : List Byte) (w : Nat) : List Byte :=
  let z := leftEncode w ++ x
  z ++ List.replicate ((w - z.length % w) % w) 0
/-- The bytes of an ASCII text. -/
def ascii (s : String) : List Byte := s.toList.map fun c => BitVec.ofNat 8 c.toNat
/-- KMAC256 with key, message, n bytes of output and customisation string. -/
def kmac256 (key m : List Byte) (n : Nat) (custom : List Byte) : List Byte :=
  sponge 0x04 (bytepad (encodeString (ascii "KMAC") ++ encodeString custom) kRate ++ bytepad (encodeString key) kRate ++ m ++
    rightEncode (8 * n)) n

/-! ## AES-256-GCM -/

/-- Doubling in GF(2^8). -/
def gfDouble (x : Byte) : Byte := if x.msb then (x <<< 1) ^^^ 0x1B else x <<< 1
/-- Product in GF(2^8), k bits of the second factor left. -/
def gfMul (a : Byte) (b : Nat) : Nat → Byte
  | 0 => 0
  | k + 1 => (if b % 2 = 1 then a else 0) ^^^ gfMul (gfDouble a) (b / 2) k
def gfMul8 (a b : Byte) : Byte := gfMul a b.toNat 8
/-- x^254, the inverse, with 0 for 0. -/
def gfInv (x : Byte) : Byte :=
  let x2 := gfMul8 x x
  let x3 := gfMul8 x2 x
  let x6 := gfMul8 x3 x3
  let x12 := gfMul8 x6 x6
  let x15 := gfMul8 x12 x3
  let x30 := gfMul8 x15 x15
  let x60 := gfMul8 x30 x30
  let x120 := gfMul8 x60 x60
  let x126 := gfMul8 x120 x6
  let x127 := gfMul8 x126 x
  gfMul8 x127 x127
/-- The S-box. -/
def aesSbox (x : Byte) : Byte :=
  let y := gfInv x
  y ^^^ y.rotateLeft 1 ^^^ y.rotateLeft 2 ^^^ y.rotateLeft 3 ^^^ y.rotateLeft 4 ^^^ 0x63
/-- Words of the key schedule, latest first, from the n-th on. -/
def aesSchedule (rc : Byte) (n : Nat) (w : List (List Byte)) : Nat → List (List Byte)
  | 0 => w
  | k + 1 =>
    let prev := w.headD []
    let old := w[7]?.getD []
    let t := if n % 8 = 0 then
        let r := (prev.drop 1 ++ prev.take 1).map aesSbox
        (r.headD 0 ^^^ rc) :: r.drop 1
      else if n % 8 = 4 then prev.map aesSbox
      else prev
    aesSchedule (if n % 8 = 0 then gfDouble rc else rc) (n + 1) ((old.zipWith (· ^^^ ·) t) :: w) k
/-- The fifteen round keys of a 32-byte key. -/
def aesKeys (key : List Byte) : List (List Byte) :=
  let w0 := (chunks 4 8 key).reverse
  let ws := (aesSchedule 1 8 w0 52).reverse
  (List.range 15).map fun r => ((ws.drop (4 * r)).take 4).flatten
def xorBytes (a b : List Byte) : List Byte := a.zipWith (· ^^^ ·) b
def aesShift (s : List Byte) : List Byte := (List.range 16).map fun i => s[(i + 4 * (i % 4)) % 16]?.getD 0
def aesMix (s : List Byte) : List Byte := ((chunks 4 4 s).map fun col =>
  (List.range 4).map fun i =>
    let g (k : Nat) : Byte := col[(i + k) % 4]?.getD 0
    gfDouble (g 0) ^^^ (gfDouble (g 1) ^^^ g 1) ^^^ g 2 ^^^ g 3).flatten
/-- Encrypt one block. -/
def aesEncrypt (keys : List (List Byte)) (b : List Byte) : List Byte :=
  let s := xorBytes b (keys.headD [])
  let s := ((keys.drop 1).take 13).foldl (fun s k => xorBytes (aesMix (aesShift (s.map aesSbox))) k) s
  xorBytes (aesShift (s.map aesSbox)) (keys[14]?.getD [])

/-- A block as a number, its first byte highest. -/
def beNat (b : List Byte) : Nat := ofBytes b.reverse
def beBlock (x : Nat) : List Byte := (toBytes 16 x).reverse
/-- Product in GF(2^128) as GHASH has it: bit 127 is the coefficient of 1. -/
def ghMul (x y : Nat) : Nat :=
  ((List.range 128).foldl (fun (acc : Nat × Nat) i =>
    let z := if nbit x (127 - i) then Nat.xor acc.1 acc.2 else acc.1
    let v := if acc.2 % 2 = 1 then Nat.xor (acc.2 / 2) (0xE1 * 2 ^ 120) else acc.2 / 2
    (z, v)) (0, y)).1
/-- Pad to whole blocks with zeros. -/
def pad16 (b : List Byte) : List Byte := b ++ List.replicate ((16 - b.length % 16) % 16) 0
def ghash (h : Nat) (m : List Byte) : Nat :=
  (chunks 16 (m.length / 16) m).foldl (fun y b => ghMul (Nat.xor y (beNat b)) h) 0
/-- Counter mode from a counter block on. -/
def aesCtr (keys : List (List Byte)) (nonce : List Byte) (c : Nat) : List (List Byte) → List Byte
  | [] => []
  | b :: r => xorBytes b (aesEncrypt keys (nonce ++ (toBytes 4 c).reverse)) ++ aesCtr keys nonce (c + 1) r
/-- The GCM tag over additional data and ciphertext, under a 12-byte nonce. -/
def gcmTag (keys : List (List Byte)) (nonce aad ct : List Byte) : List Byte :=
  let h := beNat (aesEncrypt keys (List.replicate 16 0))
  let y := ghash h (pad16 aad ++ pad16 ct ++ beBlock (8 * aad.length * 2 ^ 64 + 8 * ct.length))
  xorBytes (beBlock y) (aesEncrypt keys (nonce ++ [0, 0, 0, 1]))
/-- AES-256-GCM encryption: ciphertext and tag. -/
def gcmSeal (key nonce aad pt : List Byte) : List Byte × List Byte :=
  let keys := aesKeys key
  let ct := aesCtr keys nonce 2 (chunks 16 (pt.length / 16 + 1) pt)
  (ct, gcmTag keys nonce aad ct)
/-- AES-256-GCM decryption, none where the tag fails. -/
def gcmOpen (key nonce aad ct tag : List Byte) : Option (List Byte) :=
  let keys := aesKeys key
  if gcmTag keys nonce aad ct = tag then some (aesCtr keys nonce 2 (chunks 16 (ct.length / 16 + 1) ct)) else none

/-! ## AES-256-XTS -/

/-- A tweak times x in GF(2^128), its first byte lowest. -/
def xtsNext (x : Nat) : Nat := let y := 2 * x % 2 ^ 128; if nbit x 127 then Nat.xor y 0x87 else y
/-- Encrypt blocks under tweak x and its successors. -/
def xtsBlocks (keys : List (List Byte)) (x : Nat) : List (List Byte) → List Byte
  | [] => []
  | b :: r => xorBytes (aesEncrypt keys (xorBytes b (toBytes 16 x))) (toBytes 16 x) ++ xtsBlocks keys (xtsNext x) r
/-- AES-256-XTS encryption of a data unit of whole blocks with a sequence number, under two keys of 32 bytes. -/
def xtsEncrypt (key : List Byte) (unit : Nat) (pt : List Byte) : List Byte :=
  let x := ofBytes (aesEncrypt (aesKeys ((key.drop 32).take 32)) (toBytes 16 unit))
  xtsBlocks (aesKeys (key.take 32)) x (chunks 16 (pt.length / 16) pt)

end Sys2Proof.Machine
end

