-- ==== Sys2Proof/Machine/Csr.lean ====
section
/-! DEFINITION. The CSRs (R402, R425): their levels, how each is read, and what a write stores by its field rules (R4, R25,
R39, R66, R70, R76, R82, R83, R171, R183, R234, R264, R272, R277, R287, R308, R371, R373, R376, R387, R393, R399). -/

namespace Sys2Proof.Machine

/-- Who may access a CSR (R425). -/
inductive CsrLevel where
  | user | userRo | ref | refRo
deriving DecidableEq, Repr
/-- The level of a CSR number, none where it names no CSR. -/
def csrLevel (n : Nat) : Option CsrLevel :=
  if n ≤ 0x00A then some .user
  else if 0x010 ≤ n && decide (n ≤ 0x014) then some .userRo
  else if n = 0x018 then some .user
  else if n = 0x019 then some .userRo
  else if 0x020 ≤ n && decide (n ≤ 0x024) then some .user
  else if n = 0x025 then some .userRo
  else if n = 0x026 then some .user
  else if 0x100 ≤ n && decide (n ≤ 0x10A) then some .ref
  else if n = 0x10B then some .refRo
  else if 0x110 ≤ n && decide (n ≤ 0x11F) then some .ref
  else if 0x180 ≤ n && decide (n ≤ 0x186) then some .refRo
  else none

/-- How a CSR instruction combines the old value with its operand (R402). -/
inductive CsrOp where
  | write | set | clear
deriving DecidableEq, Repr
def CsrOp.apply (o : CsrOp) (old a : Word) : Word :=
  match o with
  | .write => a
  | .set => old ||| a
  | .clear => old &&& ~~~ a
/-- Bits of a W1C field that a CSR instruction clears (R402). -/
def CsrOp.clears (o : CsrOp) (a : Word) : Word :=
  match o with
  | .set => 0
  | _ => a

/-! ## Field rules -/

/-- Keep the bits of a mask. -/
def keep (m v : Word) : Word := v &&& m
def fmt8Store (old v : Word) : Word := if v &&& 7 = 0 then keep 0x18 v ||| keep 7 old else keep 0x1F v
def pgszStore (old v : Word) : Word := if v &&& 3 = 3 then old else keep 3 v
/-- One field of TACT (R373). -/
def tactField (old v : Word) (lo : Nat) : Word :=
  let x := nfld v.toNat lo 3
  BitVec.ofNat 64 ((if 2 ≤ x && decide (x ≤ 4) then x else nfld old.toNat lo 3) * 2 ^ lo)
def tactStore (old v : Word) : Word := tactField old v 0 ||| tactField old v 3 ||| tactField old v 6 ||| tactField old v 9
def stkbaseStore (v : Word) : Word := keep 0x1F0000 v
def tvecStore (v : Word) : Word := keep 0x9FFF v
def cgrpStore (v : Word) : Word := keep 0x80FFF7FFFFFFFFFF v
def savebaseStore (v : Word) : Word := keep 0xFFFFFFFFFFFF0003 v
def redctlStore (v : Word) : Word := keep 0xFFFFFFFFFFFFFF01 v

/-- Whether a handler's compute frame holds only values that a CSRW could store (R42). -/
def Csrs.frameOk (c : Csrs) : Bool :=
  c.rmode == keep 0xF c.rmode && c.fmt8 == keep 0x1F c.fmt8 && c.fmt8 &&& 7 != 0 && c.srseed == keep 0xFFFFFFFF c.srseed &&
  c.ftrap == keep 0x7F c.ftrap && c.pgsz == keep 3 c.pgsz && c.pgsz != 3 && c.stkbase == stkbaseStore c.stkbase &&
  c.tvec == tvecStore c.tvec && c.tact == tactStore 0 c.tact &&
  [0, 3, 6, 9].all fun lo => decide (2 ≤ nfld c.tact.toNat lo 3)

/-! ## Reading -/

/-- TSTAT (R371). -/
def Csrs.tstat (c : Csrs) : Word := BitVec.ofNat 64 (c.aborts.toNat * 256 + if c.inTrap then 1 else 0)
/-- ENGST (R234). -/
def EngStat.word (e : EngStat) : Word :=
  BitVec.ofNat 64 (e.orph.toNat * 2 ^ 48 + e.fcause.toNat * 2 ^ 32 + e.feng.toNat * 2 ^ 29 + (if e.fault then 2 ^ 28 else 0) + e.flags.toNat)
/-- PARTRECT (R343). -/
def Partition.rect (p : Partition) : Word := BitVec.ofNat 64 (p.y1 * 2 ^ 21 + p.x1 * 2 ^ 14 + p.y0 * 2 ^ 7 + p.x0)
/-- LINKST (R422). -/
def State.linkst (s : State) : Word :=
  BitVec.ofNat 64 (ofElems 2 ((List.range 4).map fun n => (tget {} s.links n : LinkPort).st.toNat))
/-- The context that CTXSEL of a partition selects; a referee reaches its own partition's contexts only (R345, R387). -/
def selCtx (s : State) (p : Partition) : Option Nat :=
  let c := p.ctxsel.toNat % 256
  if (s.ctx c).owner = p.owner then some c else none

/-- The value of a CSR for tile t. -/
def csrRead (s : State) (t n : Nat) : Word :=
  let x := s.tile t
  let c := x.csr
  let p := (s.partOf t).getD { owner := 0, x0 := 0, y0 := 0, x1 := 0, y1 := 0 }
  let f := s.field (fieldOf t)
  match n with
  | 0x000 => c.rmode
  | 0x001 => c.fflags
  | 0x002 => c.ftrap
  | 0x003 => c.fmt8
  | 0x004 => c.srseed
  | 0x005 => c.qmap
  | 0x006 => c.pgsz
  | 0x007 => c.stkbase
  | 0x008 => (x.regs.getLc 0).setWidth 64
  | 0x009 => (x.regs.getLc 1).setWidth 64
  | 0x00A => (x.regs.getLc 2).setWidth 64
  | 0x010 => BitVec.ofNat 64 t
  | 0x011 => BitVec.ofNat 64 (fieldOf t)
  | 0x012 => BitVec.ofNat 64 (s.ownerOf t)
  | 0x013 => p.rect
  | 0x014 => BitVec.ofNat 64 (s.ctxOf t % 256)
  | 0x018 => x.eng.stat.word
  | 0x019 => x.eng.stat.pos
  | 0x020 => c.tcause
  | 0x021 => c.tepc
  | 0x022 => c.taddr
  | 0x023 => c.tvec
  | 0x024 => c.tact
  | 0x025 => c.tstat
  | 0x026 => if c.enghold then 1 else 0
  | 0x100 => ((selCtx s p).map fun k => (s.ctx k).savebase).getD 0
  | 0x101 => p.evbase
  | 0x102 => p.evhead
  | 0x103 => p.evtail
  | 0x104 => ((selCtx s p).map fun k => (s.ctx k).redctl).getD 0
  | 0x105 => p.chgaptNext
  | 0x106 => p.chretryNext
  | 0x107 => p.ctxsel
  | 0x108 => p.agectl
  | 0x109 => p.rbctl
  | 0x10A => p.drainmax
  | 0x10B => s.sec.alarmpol
  | 0x180 => f.didt
  | 0x181 => f.pgctl
  | 0x182 => f.icrit
  | 0x183 => f.hbctl
  | 0x184 => f.shdint
  | 0x185 => f.meshctl
  | 0x186 => s.linkst
  | _ => if 0x110 ≤ n && decide (n ≤ 0x11F) then tget 0 s.coll.grpNext (n - 0x110) else 0

/-! ## Writing -/

/-- The pages of a save area of k slots, by their 2 MiB or 512 MiB leaves (R387). -/
def savePages (s : State) (c : Nat) (base : Word) (k : Nat) : List TlbEnt :=
  let bytes := 0x1000 + k * 2 ^ 21
  List.eraseDups <| (List.range (bytes / 2 ^ 21 + 2)).filterMap fun i =>
    let va : Word := BitVec.ofNat 64 (base.toNat / 2 ^ 21 * 2 ^ 21 + i * 2 ^ 21)
    if base.toNat + bytes ≤ va.toNat then none
    else
      match walkCtx s c va.toNat 21, walkCtx s c va.toNat 29 with
      | .ok (a, p, _), _ => some ⟨c, 1, va.toNat / 2 ^ 21, BitVec.ofNat 64 p, a⟩
      | _, .ok (a, p, _) => some ⟨c, 2, va.toNat / 2 ^ 29, BitVec.ofNat 64 p, a⟩
      | _, _ => none
/-- Save blocks of the largest configuration of a context: one a slot in each of its runs. -/
def ctxSlots (s : State) (c : Nat) : Nat :=
  ((s.cfgs.filter (·.ctx == c)).map fun k => k.image.actors.length * Nat.max 1 k.runs.length).foldl Nat.max 0
/-- Lock the save area's translations of a context in all 64 gateways, each with up to 1,024 locked entries, for a PIN of 1; a pin
that does not fit leaves PIN at 0 (R387). DEDUCED: notes/assumptions/80.md. -/
def pinArea (s : State) (c : Nat) (v : Word) : State :=
  let freed (f : FieldSt) : List TlbEnt := f.locked.filter (·.ctx != c)
  let ents := if nbit v.toNat 1 then savePages s c (keep 0xFFFFFFFFFFFF0000 v) (ctxSlots s c) else []
  let fits := (List.range Config.numFields).all fun n => decide ((freed (s.field n)).length + ents.length ≤ 1024)
  let v := if nbit v.toNat 1 && !fits then v &&& ~~~ 2 else v
  let ents := if fits then ents else []
  let s := (List.range Config.numFields).foldl (fun a n =>
    if (a.field n).locked.isEmpty && ents.isEmpty then a else a.modField n fun f => { f with locked := freed f ++ ents }) s
  s.modCtx c fun k => { k with savebase := v }
/-- A write of SAVEBASE (R387, R390): abandoned saves of the context start again. -/
def writeSavebase (s : State) (c : Nat) (v : Word) : State :=
  let s := pinArea s c (savebaseStore v)
  { s with cfgs := s.cfgs.map fun k => if k.ctx == c then { k with saveBad := [] } else k }
/-- The area is pinned again for a configuration that has joined its context. -/
def repin (s : State) (c : Nat) : State :=
  if nbit (s.ctx c).savebase.toNat 1 then pinArea s c (s.ctx c).savebase else s
/-- A write of REDCTL (R393). -/
def writeRedctl (s : State) (c : Nat) (v : Word) : State := s.modCtx c fun k => { k with redctl := redctlStore v }

/-- A write of a user-level CSR on a tile. -/
def Tile.csrWrite (x : Tile) (n : Nat) (o : CsrOp) (a : Word) : Tile :=
  let c := x.csr
  match n with
  | 0x000 => { x with csr := { c with rmode := keep 0xF (o.apply c.rmode a) } }
  | 0x001 => { x with csr := { c with fflags := keep 0x7F (o.apply c.fflags a) } }
  | 0x002 => { x with csr := { c with ftrap := keep 0x7F (o.apply c.ftrap a) } }
  | 0x003 => { x with csr := { c with fmt8 := fmt8Store c.fmt8 (o.apply c.fmt8 a) } }
  | 0x004 => { x with csr := { c with srseed := keep 0xFFFFFFFF (o.apply c.srseed a) } }
  | 0x005 => { x with csr := { c with qmap := o.apply c.qmap a } }
  | 0x006 => { x with csr := { c with pgsz := pgszStore c.pgsz (o.apply c.pgsz a) } }
  | 0x007 => { x with csr := { c with stkbase := stkbaseStore (o.apply c.stkbase a) } }
  | 0x008 => { x with regs := x.regs.putLc 0 ((o.apply ((x.regs.getLc 0).setWidth 64) a).setWidth 32) }
  | 0x009 => { x with regs := x.regs.putLc 1 ((o.apply ((x.regs.getLc 1).setWidth 64) a).setWidth 32) }
  | 0x00A => { x with regs := x.regs.putLc 2 ((o.apply ((x.regs.getLc 2).setWidth 64) a).setWidth 32) }
  | 0x018 =>
    let k := (o.clears a).toNat
    let y := { x with eng := { x.eng with stat := { x.eng.stat with flags := x.eng.stat.flags &&& ~~~ BitVec.ofNat 7 k } } }
    if nbit k 28 then y.clearFault else y
  | 0x020 => { x with csr := { c with tcause := keep 0xFF (o.apply c.tcause a) } }
  | 0x021 => { x with csr := { c with tepc := keep 0x1FFF (o.apply c.tepc a) } }
  | 0x022 => { x with csr := { c with taddr := o.apply c.taddr a } }
  | 0x023 => { x with csr := { c with tvec := tvecStore (o.apply c.tvec a) } }
  | 0x024 => { x with csr := { c with tact := tactStore c.tact (o.apply c.tact a) } }
  | 0x026 => { x with csr := { c with enghold := nbit (o.apply (if c.enghold then 1 else 0) a).toNat 0 } }
  | _ => x

/-- A write of a referee-level CSR of a partition. -/
def refWrite (s : State) (owner n : Nat) (o : CsrOp) (a : Word) : State :=
  match s.part owner with
  | none => s
  | some p =>
    let set (f : Partition → Partition) : State := s.modPart owner f
    match n with
    | 0x100 => match selCtx s p with
      | some c => writeSavebase s c (o.apply (s.ctx c).savebase a)
      | none => s
    | 0x101 => set fun p => { p with evbase := keep 0x1FE001 (o.apply p.evbase a) }
    | 0x102 => set fun p => { p with evhead := p.evhead &&& ~~~ keep 0xFFFF0000 (o.clears a) }
    | 0x103 => set fun p => { p with evtail := keep 0xFF (o.apply p.evtail a) }
    | 0x104 => match selCtx s p with
      | some c => writeRedctl s c (o.apply (s.ctx c).redctl a)
      | none => s
    | 0x105 => set fun p => { p with chgaptNext := keep 0xFFFF (o.apply p.chgaptNext a) }
    | 0x106 => set fun p => { p with chretryNext := keep 0xFFF (o.apply p.chretryNext a) }
    | 0x107 => set fun p => { p with ctxsel := keep 0xFF (o.apply p.ctxsel a) }
    | 0x108 => set fun p => { p with agectl := keep 0xFFFF (o.apply p.agectl a) }
    | 0x109 => set fun p => { p with rbctl := keep 0xFFFFFF01 (o.apply p.rbctl a) }
    | 0x10A => set fun p => { p with drainmax := keep 0xFFFFFFFF (o.apply p.drainmax a) }
    | _ =>
      if 0x110 ≤ n && decide (n ≤ 0x11F) then
        let old := tget 0 s.coll.grpNext (n - 0x110)
        { s with coll := { s.coll with grpNext := tset 0 s.coll.grpNext (n - 0x110) (cgrpStore (o.apply old a)) } }
      else s
/-- A write that firmware makes of a register of a field, or of ALARMPOL (R322, R327, R332, R280, R368, R382, R392). -/
def fieldWrite (s : State) (f n : Nat) (v : Word) : State :=
  match n with
  | 0x10B => if nbit s.sec.alarmpol.toNat 63 then s
    else { s with sec := { s.sec with alarmpol := keep 0x80000000FFFF0FFF v } }
  | 0x180 => s.modField f fun y => { y with didt := keep 0xFFFFFFFF v }
  | 0x181 => s.modField f fun y => { y with pgctl := keep 0xFFFFF v }
  | 0x182 => s.modField f fun y => { y with icrit := keep 0xFFFFFFFF v }
  | 0x183 => s.modField f fun y => { y with hbctl := keep 0xFFFFFF v }
  | 0x184 => s.modField f fun y => { y with shdint := keep 0xFFFF v }
  | 0x185 => s.modField f fun y => { y with meshctl := keep 0xFF v }
  | _ => s
/-- Firmware writes a rail's setpoint (R319): a field's compute rail within its range, less the throttle steps that stand (R320); an
edge I/O rail; the security island's. DESIGN CHOICE: notes/assumptions/82.md. -/
def railWrite (s : State) (n mv : Nat) : State :=
  if n < Config.numFields then
    let v := Nat.max 550 (Nat.min 900 mv)
    s.modField n fun y => { y with setMv := v, compMv := Nat.max 550 (v - (y.setMv - y.compMv)) }
  else if n < Config.numFields + 8 then { s with edgeMv := tset 0 s.edgeMv (n - Config.numFields) mv }
  else if n = Config.numFields + 8 then { s with secMv := mv }
  else s
/-- A CSR write by an instruction of tile t. DEDUCED: notes/assumptions/58.md. -/
def csrStore (s : State) (t n : Nat) (o : CsrOp) (a : Word) : State :=
  if n < 0x100 then s.modTile t fun x => x.csrWrite n o a else refWrite s (s.ownerOf t) n o a

end Sys2Proof.Machine
end

