-- ==== Sys2Proof/Machine/Turn.lean ====
section
/-! DEFINITION. Who moves and what it does: turns, the passing of time, the instruction boundary (R14, R56, R380) and the
fetch from the handler store. -/

namespace Sys2Proof.Machine

/-- What a turn comes to: an instruction or event to execute, or a state already reached. -/
inductive Deed where
  | run (i : Instr) (s : State)
  | done (s : State)
  | dead

/-- The fill word of an unwritten handler-store word (R58). -/
def fillWord : Word := 0xFFFFFFFFFFFFFFFF
/-- The word of a tile's handler store at an index; where no load has written it reads all ones. DESIGN CHOICE: notes/assumptions/116.md. -/
def Tile.codeAt (x : Tile) (pc : Nat) : Word := tget fillWord x.code pc

/-- Time passes: by a free amount (R5, R317). DESIGN CHOICE: notes/assumptions/6.md; DEDUCED: notes/assumptions/68.md. -/
def passTime (s : State) : State := { s with now := s.now + Config.stepNs s.tick, tick := s.tick + 1 }
/-- The cycles of a tile's own clock; those in which its patch waits for a grant count too (R404). DESIGN CHOICE: notes/assumptions/6.md. -/
def passCycles (s : State) (t : Nat) : State := s.modTile t fun x =>
  let n := Config.stepCycles s.tick
  let y : Tile := { x with sch := { x.sch with cycles := x.sch.cycles + n } }
  match x.pu.q with
  | e :: _ => if e.asked && !e.granted then y.perfAdd 7 n else y
  | [] => y

/-- An instruction has sent its request and holds for the reply (R389); a commit that has trapped sends nothing more before a resume. -/
def Sched.asked (k : Sched) : Bool := k.cmdOut.isSome || k.chOut.isSome || k.starter.isSome || decide (1 ≤ k.fx.phase) && !k.trapped
/-- One of the members that issue with a tile has sent its request. -/
def asking (s : State) (t : Nat) : Bool := (gangTiles s t).any fun u => (s.tile u).sch.asked
/-- A checkpoint has stopped the tile's task (R278, R389): its configuration is being saved, the task does not drain, and no
request of it is under way on the tiles that issue with it. -/
def stopped (s : State) (t : Nat) : Bool :=
  let x := s.tile t
  !asking s t && ((x.sch.task.map (·.drainAt.isNone)).getD false) &&
    (match x.sch.actor with
     | some a => ((s.cfg a.cfg).map fun c => decide (c.st = .saving)).getD false
     | none => false)
/-- Part of what a save holds of a tile's configuration is written: nothing reaches, leaves or changes its tiles any more (R389, R409). -/
def State.written (s : State) (t : Nat) : Bool :=
  match (s.tile t).sch.actor.bind fun a => s.cfg a.cfg with
  | some c => c.st == .saving && !(c.saveDone.isEmpty && c.saveBad.isEmpty)
  | none => false
/-- A tile that issues nothing: stopped, without clock, unreachable, halted as a gang with any of its members, poisoned, being
saved, or a follower of a formed gang. An instruction that has sent its request retires before its tile halts (R399). -/
def tileIdle (s : State) (t : Nat) : Bool :=
  let x := s.tile t
  x.failStop || stopped s t || x.noClock || s.unreachable t || (((gangTiles s t).any fun u => (s.tile u).sch.halted.isSome) && !asking s t) || ((x.sch.actor.map (·.stopped)).getD false) ||
    (match x.gang with | some g => g.anchor != t | none => false)

/-- The fetch: the instruction at the pc (R14, R56). A trap of the fetch is that of the one instruction of a step (R400). -/
def fetch (s : State) (t : Nat) (x : Tile) : Deed :=
  if Config.codeWords ≤ x.regs.pc then .done (stepDone (takeTrap s t 0x03 (BitVec.ofNat 64 x.regs.pc)) (stepper s t))
    else if x.codeBad.contains x.regs.pc then .done (stepDone (takeTrap s t 0x10 (BitVec.ofNat 64 x.regs.pc)) (stepper s t))
    else match decode (x.codeAt x.regs.pc) with
      | some i => .run i s
      | none => .run (.unassignedOpcode (x.codeAt x.regs.pc)) s
/-- The first refusal that a member of a tile's gang has still to take at a boundary, with the tile without it. -/
def lateOf (s : State) (t : Nat) : Option (Nat × Byte × Word × State) :=
  (gangTiles s t).findSome? fun u => match (s.tile u).sch.late with
    | (c, a) :: r => some (u, c, a, s.modTile u fun x => { x with sch := { x.sch with late := r } })
    | [] => none
/-- A running tile at an instruction boundary: what is due there in any member of its gang, else the instruction at the pc. An
instruction that has sent its request completes first. DEDUCED: notes/assumptions/14.md. -/
def boundary (s : State) (t : Nat) (x : Tile) : Deed :=
  if x.sch.asked then fetch s t x
  else match lateOf s t with
    | some (u, c, a, s') => .done (takeTrap s' u c a)
    | none => match (gangTiles s t).find? fun u => (s.tile u).eng.stat.due with
      | some u => if (stepper s t).isSome then fetch s t x else .run (.engfault u) s
      | none => fetch s t x

/-- A tile's turn. -/
def tileTurn (s : State) (t : Nat) : Deed :=
  let s := passCycles { s with cur := t } t
  if tileIdle s t then .done s
  else match (s.tile t).sch.task with
    | none => if (s.tile t).eng.stat.due then .run (.engfault t) s else .done s
    | some _ => boundary s t (s.tile t)

/-- The state in which an instruction word is the next thing fetched: an M task runs on the current tile with the word at
its pc, and the tile's turn is next. DESIGN CHOICE: notes/assumptions/2.md. -/
def placeWord (s : State) (w : Word) : State :=
  let s := { s with agenda := [.tile s.cur], sec := { s.sec with held := false, erased := false, due := [] } }
  s.modTile s.cur fun x =>
    let pc := x.regs.pc % Config.codeWords
    let stat := x.eng.stat
    { x with
      code := tset fillWord x.code pc w
      codeBad := x.codeBad.filter (· != pc)
      regs := { x.regs with pc := pc }
      gang := none
      failStop := false
      noClock := false
      fenced := false
      dead := false
      eng := { x.eng with stat := { stat with due := false } }
      sch := { x.sch with
        task := some (x.sch.task.getD { immediate := true })
        actor := x.sch.actor.map fun a => { a with stopped := false }
        halted := none
        late := [] } }

end Sys2Proof.Machine
end

