-- ==== Sys2Proof/Machine/Save.lean ====
section
/-! DEFINITION. The save area (R387-R391): what stands where in a slot's block and in the header, in both directions, and its
stores. The manual gives the sections and what each holds; places within a section are a DESIGN CHOICE: notes/assumptions/8.md. -/

namespace Sys2Proof.Machine

/-! ## Fields of a block -/

/-- A piece of a tile's state in its save block: its place, its bytes, how it is read from a tile and how it is put back. -/
structure SaveField where
  at_ : Nat
  len : Nat
  get : Tile → Nat
  set : Nat → Tile → Tile
/-- Write fields of a tile. -/
def putFields (x : Tile) (fs : List SaveField) (m : Memory) : Memory :=
  fs.foldl (fun m f => writeBytes m f.at_ (toBytes f.len (f.get x))) m
/-- Put fields back into a tile. -/
def getFields (m : Memory) (fs : List SaveField) (x : Tile) : Tile :=
  fs.foldl (fun x f => f.set (ofBytes (readBytes m f.at_ f.len)) x) x

def Tile.modRegs (x : Tile) (f : Regs → Regs) : Tile := { x with regs := f x.regs }
def Tile.modCsr (x : Tile) (f : Csrs → Csrs) : Tile := { x with csr := f x.csr }
def Tile.modEng (x : Tile) (f : Engines → Engines) : Tile := { x with eng := f x.eng }
def Tile.modPatch (x : Tile) (f : Patch → Patch) : Tile := { x with pu := { x.pu with st := f x.pu.st } }

/-- The CSRs that hold their own bits, put back by their field rules (R402). -/
def csrFields : List SaveField :=
  let f (k n : Nat) (get : Csrs → Word) : SaveField := ⟨8 * k, 8, fun x => (get x.csr).toNat, fun v x => x.csrWrite n .write (BitVec.ofNat 64 v)⟩
  [f 0 0x000 (·.rmode), f 1 0x001 (·.fflags), f 2 0x002 (·.ftrap), f 3 0x003 (·.fmt8), f 4 0x004 (·.srseed), f 5 0x005 (·.qmap),
   f 6 0x006 (·.pgsz), f 7 0x007 (·.stkbase), f 8 0x020 (·.tcause), f 9 0x021 (·.tepc), f 10 0x022 (·.taddr), f 11 0x023 (·.tvec), f 12 0x024 (·.tact),
   ⟨0x68, 1, fun x => x.csr.aborts.toNat, fun v x => x.modCsr fun c => { c with aborts := BitVec.ofNat 8 v }⟩,
   ⟨0x69, 1, fun x => (if x.csr.inTrap then 1 else 0) + if x.csr.enghold then 2 else 0,
    fun v x => x.modCsr fun c => { c with inTrap := nbit v 0, enghold := nbit v 1 }⟩]
/-- PC, task kind, loop counters with their start, end and ACTIVE bit (R287). -/
def flowFields : List SaveField :=
  let loop (k : Nat) : List SaveField :=
    [⟨0x80 + 4 * k, 4, fun x => (x.regs.getLc k).toNat, fun v x => x.modRegs fun r => r.putLc k (BitVec.ofNat 32 v)⟩,
     ⟨0x90 + 8 * k, 8, fun x => (if x.regs.loops.contains k then 2 ^ 32 else 0) + (x.regs.span k).2 * 2 ^ 16 + (x.regs.span k).1,
      fun v x => x.modRegs fun r =>
        let r := { r with lp := tset (0, 0) r.lp k (v % 2 ^ 13, v / 2 ^ 16 % 2 ^ 13) }
        if !nbit v 32 then { r with loops := r.loops.filter (· != k) }
        else if r.loops.contains k then r
        else { r with loops := k :: r.loops }⟩]
  [⟨0x70, 8, fun x => x.regs.pc, fun v x => x.modRegs fun r => { r with pc := v % 2 ^ 13 }⟩,
   ⟨0x78, 1, fun x => (x.sch.task.map fun k => if k.immediate then 2 else 1).getD 0,
    fun v x => { x with sch := { x.sch with task := x.sch.task.map fun k => { k with immediate := v == 2 } } }⟩] ++
  ((List.range 3).map loop).flatten
/-- ENGST and ENGPOS, stream-port descriptors with pos and state, hurdle table with PEND, handle table. A port saved RUNNING goes on
when the configuration starts (R389, R391). -/
def engFields : List SaveField :=
  let stat (f : EngStat → EngStat) (x : Tile) : Tile := x.modEng fun e => { e with stat := f e.stat }
  let port (p : Nat) (f : Port → Port) (x : Tile) : Tile := x.modEng fun e => { e with ports := tput e.ports p (f (tget {} e.ports p)) }
  let perPort (p : Nat) : List SaveField :=
    ((List.range 8).map fun i => (⟨0xC0 + 0x50 * p + 8 * i, 8, fun x => (tget 0 (tget ({} : Port) x.eng.ports p).desc i).toNat,
      fun v => port p fun y => { y with desc := tset 0 y.desc i (BitVec.ofNat 64 v) }⟩ : SaveField)) ++
    [⟨0x100 + 0x50 * p, 8, fun x => (tget ({} : Port) x.eng.ports p).pos, fun v => port p fun y => { y with pos := v }⟩,
     ⟨0x108 + 0x50 * p, 1, fun x => let y : Port := tget {} x.eng.ports p; if y.resume then 1 else y.st.toNat,
      fun v => port p fun y => if v = 1 then { y with st := 2, resume := true } else { y with st := BitVec.ofNat 2 v, resume := false }⟩]
  let hd (n : Nat) (f : Hurdle → Hurdle) (x : Tile) : Tile := x.modEng fun e => { e with hds := tset {} e.hds n (f (tget {} e.hds n)) }
  let perHd (n : Nat) : List SaveField :=
    [⟨0x200 + 8 * n, 4, fun x => ((tget ({} : Hurdle) x.eng.hds n).bound.map (· + 1)).getD 0,
      fun v => hd n fun h => { h with bound := if v = 0 then none else some (v - 1) }⟩,
     ⟨0x204 + 8 * n, 4, fun x => (tget ({} : Hurdle) x.eng.hds n).pend, fun v => hd n fun h => { h with pend := v }⟩]
  let handle (n : Nat) : SaveField := ⟨0x300 + 4 * n, 4,
    fun x => ((tget none x.eng.handles n).map fun b => 2 ^ 31 + b.1 * 2 ^ 16 + b.2).getD 0,
    fun v x => x.modEng fun e => { e with handles := tset none e.handles n (if nbit v 31 then some (v / 2 ^ 16 % 2 ^ 15, v % 2 ^ 16) else none) }⟩
  [⟨0xB0, 8, fun x => x.eng.stat.word.toNat, fun v => stat fun e => { e with
      orph := BitVec.ofNat 16 (v / 2 ^ 48), fcause := BitVec.ofNat 8 (v / 2 ^ 32), feng := BitVec.ofNat 3 (v / 2 ^ 29),
      fault := nbit v 28, flags := BitVec.ofNat 7 v }⟩,
   ⟨0xB8, 8, fun x => x.eng.stat.pos.toNat, fun v => stat fun e => { e with pos := BitVec.ofNat 64 v }⟩] ++
  ((List.range 4).map perPort).flatten ++ ((List.range 32).map perHd).flatten ++ (List.range 32).map handle
/-- The code of a register's full/empty bit. -/
def Fe.code : Fe → Nat
  | .full => 0
  | .empty => 1
  | .mark _ _ => 2
/-- The number in a pending note of the instruction that a register waits for: 1 an LDS, 2 a claim of RCV, 0 none. -/
def Tile.note (x : Tile) (d : RegRef) : Nat :=
  match x.pend.find? fun p => p.dst == d with
  | none => 0
  | some p => match p.what with
    | .lds _ _ => 1
    | .again _ _ => 1
    | .claim _ _ _ _ => 2
    | _ => 0
/-- The g, k and wa registers, and for each g and v register its full/empty bit, error mark and pending note. -/
def regFields : List SaveField :=
  let fe (i : Nat) : SaveField :=
    let g := decide (i < 64)
    let k := if g then i else i - 64
    let tbl (r : Regs) : Tbl Fe := if g then r.gFe else r.vFe
    let put (r : Regs) (v : Fe) : Regs := if g then { r with gFe := tset .full r.gFe k v } else { r with vFe := tset .full r.vFe k v }
    ⟨0x12E0 + i, 1, fun x => (tget .full (tbl x.regs) k).code + 4 * x.note (if g then .g k else .v k),
     fun v x => x.modRegs fun r => put r (match v % 4, tget .full (tbl r) k with
       | 0, _ => .full
       | 1, _ => .empty
       | _, .mark c a => .mark c a
       | _, _ => .mark 0 0)⟩
  let mark (i : Nat) : List SaveField :=
    let g := decide (i < 64)
    let k := if g then i else i - 64
    let tbl (r : Regs) : Tbl Fe := if g then r.gFe else r.vFe
    let put (r : Regs) (v : Fe) : Regs := if g then { r with gFe := tput r.gFe k v } else { r with vFe := tput r.vFe k v }
    [⟨0x1420 + i, 1, fun x => match tget .full (tbl x.regs) k with | .mark c _ => c.toNat | _ => 0,
      fun v x => x.modRegs fun r => match tget .full (tbl r) k with | .mark _ a => put r (.mark (BitVec.ofNat 8 v) a) | _ => r⟩,
     ⟨0x1560 + 8 * i, 8, fun x => match tget .full (tbl x.regs) k with | .mark _ a => a.toNat | _ => 0,
      fun v x => x.modRegs fun r => match tget .full (tbl r) k with | .mark c _ => put r (.mark c (BitVec.ofNat 64 v)) | _ => r⟩]
  ((List.range 64).map fun i => (⟨0x1000 + 8 * i, 8, fun x => (x.regs.getG i).toNat,
    fun v x => x.modRegs fun r => { r with g := tset 0 r.g i (BitVec.ofNat 64 v) }⟩ : SaveField)) ++
  ((List.range 16).map fun i => (⟨0x1200 + 2 * i, 2, fun x => (x.regs.getK i).toNat, fun v x => x.modRegs fun r => r.putK i (BitVec.ofNat 16 v)⟩ : SaveField)) ++
  ((List.range 4).map fun i => (⟨0x1220 + 48 * i, 48,
    fun x => let w : Wide := tget {} x.regs.wa i; w.V.toNat + w.W.toNat * 2 ^ 320 + w.Q.toNat * 2 ^ 328,
    fun v x => x.modRegs fun r => { r with wa := tset {} r.wa i ⟨BitVec.ofNat 320 v, BitVec.ofNat 2 (v / 2 ^ 320), BitVec.ofNat 32 (v / 2 ^ 328)⟩ }⟩ : SaveField)) ++
  (List.range 320).map fe ++ ((List.range 320).map mark).flatten ++
  ((List.range 256).map fun i => (⟨0x2000 + 64 * i, 64, fun x => (x.regs.getV i).toNat,
    fun v x => x.modRegs fun r => { r with v := tset 0 r.v i (BitVec.ofNat 512 v) }⟩ : SaveField))
/-- The patch: weight sets, accumulator sets, scale queue, modes and status. -/
def patchFields : List SaveField :=
  let set (at_ : Nat) (get : Patch → WSet) (put : (WSet → WSet) → Patch → Patch) (mode : Nat) : List SaveField :=
    let md (f : WSet → WSet) (x : Tile) : Tile := x.modPatch (put f)
    ((List.range 4096).map fun k => (⟨at_ + 2 * k, 2, fun x => (tget 0 (get x.pu.st).w k).toNat,
      fun v => md fun w => { w with w := tset 0 w.w k (BitVec.ofNat 16 v) }⟩ : SaveField)) ++
    ((List.range 128).map fun k => (⟨mode - 0x80 + k, 1, fun x => (tget 0 (get x.pu.st).sc k).toNat,
      fun v => md fun w => { w with sc := tset 0 w.sc k (BitVec.ofNat 8 v) }⟩ : SaveField)) ++
    [⟨mode, 2, fun x => let w := get x.pu.st; w.ty.toNat + (if w.i4 then 16 else 0) + (if w.scaled then 32 else 0) + w.fmt8.toNat % 256 * 256,
      fun v => md fun w => { w with ty := BitVec.ofNat 4 v, i4 := nbit v 4, scaled := nbit v 5, fmt8 := BitVec.ofNat 64 (v / 256) }⟩]
  let acc (at_ : Nat) (get : Patch → Pa) (put : (Pa → Pa) → Patch → Patch) : List SaveField :=
    (List.range 4096).map fun k => ⟨at_ + 4 * k, 4, fun x => (tget 0 (get x.pu.st).w k).toNat,
      fun v x => x.modPatch (put fun a => { a with w := tset 0 a.w k (BitVec.ofNat 32 v) })⟩
  let opt (v : Option Nat) : Nat := (v.map (· + 1)).getD 0
  let unopt (v : Nat) : Option Nat := if v = 0 then none else some (v - 1)
  set 0xA000 (·.act) (fun f p => { p with act := f p.act }) 0x16080 ++ set 0xC000 (·.sh) (fun f p => { p with sh := f p.sh }) 0x16180 ++
  acc 0xE000 (·.pa0) (fun f p => { p with pa0 := f p.pa0 }) ++ acc 0x12000 (·.pa1) (fun f p => { p with pa1 := f p.pa1 }) ++
  [⟨0x16200, 2, fun x => let p := x.pu.st; p.shSt.toNat + (if p.pa0.isInt then 4 else 0) + (if p.pa1.isInt then 8 else 0) + (if p.nosh then 16 else 0) + p.flags.toNat * 256,
    fun v x => x.modPatch fun p => { p with
      shSt := BitVec.ofNat 2 v, pa0 := { p.pa0 with isInt := nbit v 2 }, pa1 := { p.pa1 with isInt := nbit v 3 }, nosh := nbit v 4, flags := BitVec.ofNat 7 (v / 256) }⟩,
   ⟨0x16202, 1, fun x => opt x.pu.st.rgn, fun v x => x.modPatch fun p => { p with rgn := unopt v }⟩,
   ⟨0x16203, 1, fun x => opt x.pu.st.ring, fun v x => x.modPatch fun p => { p with ring := unopt v }⟩,
   ⟨0x16204, 2, fun x => opt (x.pu.st.recu.map (·.1)),
    fun v x => x.modPatch fun p => { p with recu := (unopt v).map fun d => (d, (p.recu.map (·.2)).getD {}) }⟩] ++
  ((List.range 32).map fun i => (⟨0x16210 + 2 * i, 2, fun x => let a : ActFmt := tget {} x.pu.st.fmts i; a.ty.toNat + a.fmt8.toNat % 256 * 256,
    fun v x => x.modPatch fun p => { p with fmts := tset {} p.fmts i ⟨BitVec.ofNat 4 v, BitVec.ofNat 64 (v / 256)⟩ }⟩ : SaveField)) ++
  ((List.range 16).map fun i => (⟨0x16300 + 64 * i, 64, fun x => ofBytes ((x.pu.st.scq[i]?).getD []),
    fun v x => x.modPatch fun p => { p with scq := lset p.scq i (toBytes 64 v) }⟩ : SaveField))
def blockFields : List SaveField := csrFields ++ flowFields ++ engFields ++ regFields ++ patchFields

/-! ## Where a configuration stands -/

/-- Tiles of a placement, with slot and member number: a gang's members follow its anchor (R267). -/
def placeTiles (img : Image) (place : Tbl Nat) : List (Nat × Nat × Nat) :=
  (place.map fun e =>
    let n := ((img.actors[e.1]?).map (·.gang)).getD 1
    (List.range (Nat.max 1 n)).map fun k => (e.1, k, e.2 + k)).flatten
/-- The placements of a configuration: a redundant one has one for each run (R394). -/
def Cfg.places (c : Cfg) : List (Tbl Nat) := if c.redundant then c.runs.map (·.place) else [c.place]
/-- Slots of a configuration. -/
def Cfg.slots (c : Cfg) : Nat := c.image.actors.length
/-- The tiles that hold its actors: save block, which is run · slots + slot, member number and tile. -/
def Cfg.members (c : Cfg) : List (Nat × Nat × Nat) :=
  (c.places.zipIdx.map fun r => (placeTiles c.image r.1).map fun e => (r.2 * c.slots + e.1, e.2.1, e.2.2)).flatten
/-- Every tile of a configuration: those of its actors and its reserves. -/
def Cfg.tiles (c : Cfg) : List Nat := c.members.map (·.2.2) ++ c.reserves
/-- A configuration that waits to be placed again: its runs keep what they have copied. -/
def Cfg.unplaced (c : Cfg) : Cfg := { c with place := [], reserves := [], fitted := 0, runs := c.runs.map fun r => { r with place := [] } }
/-- A configuration with the placement of one of its runs changed. -/
def Cfg.setPlace (c : Cfg) (run : Nat) (place : Tbl Nat) : Cfg :=
  if c.redundant then { c with runs := c.runs.zipIdx.map fun e => if e.2 = run then { e.1 with place := place } else e.1 }
  else { c with place := place }

/-! ## Queues, pops and held pushes (R379) -/

/-- A token's payload: the cause of a POISON in its first byte. -/
def Token.payload : Token → Vec
  | .vec d => d
  | .scalar d => d.setWidth 512
  | .poison c => c.setWidth 512
  | _ => 0
/-- The token of a tag and a payload. -/
def tokenOf (tag : Nat) (d : Vec) : Token :=
  match tag with
  | 0 => .vec d
  | 1 => .scalar (d.setWidth 64)
  | 5 => .poison (d.setWidth 8)
  | 6 => .close
  | n => .eod (BitVec.ofNat 2 (n - 1))
/-- The tokens in the slots of an output queue: what a stop pushed behind a full queue (R378) has none. -/
def Tile.outSlots (x : Tile) (q : Nat) : List Token := ((x.outQ q).toks.take (x.outQ q).depth).map (·.tok)
/-- The tokens in a tile's queues: input queues in rising order, then output queues. -/
def Tile.queued (x : Tile) : List Token :=
  ((List.range 16).map fun q => (x.inQ q).toks).flatten ++ ((List.range 16).map x.outSlots).flatten
/-- A token of a save block that has no slot of the queue buffer: one that waits behind a full output queue (R378), or one in a latch of
a circuit into the tile's queue q, with its producer's block · 8 + member and output queue (R409). -/
structure Beside where
  q : Nat
  tok : Token
  src : Option (Nat × Nat) := none
deriving DecidableEq, Repr
/-- The tokens that wait behind full output queues. -/
def Tile.waiting (x : Tile) : List Beside :=
  ((List.range 16).map fun q => ((x.outQ q).toks.drop (x.outQ q).depth).map fun r => { q := q, tok := r.tok }).flatten
/-- The latched tokens of the circuits into a save block's tile, oldest first on each, from the tiles of a configuration of n slots by
block · 8 + member. -/
def latchedInto (tiles : List (Nat × Tile)) (n blk : Nat) : List Beside :=
  ((tiles.filter fun e => e.1 / 8 / n == blk / n).map fun e => (e.2.outq.map fun o => match o.2.dest with
    | some (slot, q) => if slot = blk % n then o.2.latch.map fun tok => { q := q, tok := tok, src := some (e.1, o.1) } else []
    | none => []).flatten).flatten
/-- Tokens with their payloads from one place on and their tags from another. -/
def putTokens (m : Memory) (pay tag stride : Nat) (l : List Token) : Memory :=
  l.zipIdx.foldl (fun m e => writeBytes (writeBytes m (pay + 64 * e.2) (toBytes 64 e.1.payload.toNat)) (tag + stride * e.2) (toBytes 1 e.1.tag)) m
def getToken (m : Memory) (pay tag stride i : Nat) : Token :=
  tokenOf (ofBytes (readBytes m (tag + stride * i) 1)) (BitVec.ofNat 512 (ofBytes (readBytes m (pay + 64 * i) 64)))
/-- Tokens without a slot that a block has room for. -/
def besideMax : Nat := 1664
/-- Tokens without a slot: their numbers, then queue, tag, producer and payload of each. -/
def putBeside (waits latched : List Beside) (m : Memory) : Memory :=
  let m := writeBytes m 0x62000 (toBytes 2 waits.length ++ toBytes 2 (Nat.min latched.length (besideMax - waits.length)))
  ((waits ++ latched).take besideMax).zipIdx.foldl (fun m e =>
    let (key, out) : Nat × Nat := match e.1.src with
      | some (key, out) => (key, out + 1)
      | none => (0, 0)
    writeBytes (writeBytes m (0x62010 + 8 * e.2) (toBytes 1 e.1.q ++ toBytes 1 e.1.tok.tag ++ toBytes 2 out ++ toBytes 4 key))
      (0x66000 + 64 * e.2) (toBytes 64 e.1.tok.payload.toNat)) m
/-- The n tokens without a slot from number i on. -/
def getBeside (m : Memory) (i n : Nat) : List Beside := (List.range n).map fun k =>
  let at_ := 0x62010 + 8 * (i + k)
  let rd (o l : Nat) : Nat := ofBytes (readBytes m (at_ + o) l)
  { q := rd 0 1, tok := tokenOf (rd 1 1) (BitVec.ofNat 512 (ofBytes (readBytes m (0x66000 + 64 * (i + k)) 64)))
    src := if rd 2 2 = 0 then none else some (rd 4 4, rd 2 2 - 1) }
/-- The waiting and the latched tokens of a block. -/
def getWaiting (m : Memory) : List Beside := getBeside m 0 (ofBytes (readBytes m 0x62000 2))
def getLatched (m : Memory) : List Beside := getBeside m (ofBytes (readBytes m 0x62000 2)) (ofBytes (readBytes m 0x62002 2))
/-- Occupancy of every queue, the tokens, tentative pops and held pushes. -/
def putQueues (x : Tile) (m : Memory) : Memory :=
  let m := writeBytes m 0x380 ((List.range 16).map fun q => BitVec.ofNat 8 (x.inQ q).toks.length)
  let m := writeBytes m 0x390 ((List.range 16).map fun q => BitVec.ofNat 8 (x.outSlots q).length)
  let m := writeBytes m 0x2F200 ((List.range 16).map fun q => BitVec.ofNat 8 (x.inQ q).popped)
  let m := writeBytes m 0x2F210 (toBytes 2 x.sch.fx.held.length)
  let m := x.sch.fx.held.zipIdx.foldl (fun m e => writeBytes m (0x2F001 + 2 * e.2) (toBytes 1 e.1.1)) m
  putTokens (putTokens m 0x6000 0x400 1 x.queued) 0x2B000 0x2F000 2 (x.sch.fx.held.map (·.2))
/-- The tokens of n queues, by their occupancies at a place of the block, from the first of slot k on. -/
def readToks (m : Memory) (at_ : Nat) : Nat → Nat → Nat → List (Nat × List Token)
  | 0, _, _ => []
  | n + 1, q, k =>
    let c := ofBytes (readBytes m (at_ + q) 1)
    (q, (List.range c).map fun i => getToken m 0x6000 0x400 1 (k + i)) :: readToks m at_ n (q + 1) (k + c)
def getQueues (m : Memory) (x : Tile) : Tile :=
  let ins := readToks m 0x380 16 0 0
  let outs := readToks m 0x390 16 0 (ins.map (·.2.length)).sum
  let waits := getWaiting m
  let x := ins.foldl (fun x e => if (x.inQ e.1).depth = 0 then x
    else x.setInQ e.1 { x.inQ e.1 with toks := e.2, popped := ofBytes (readBytes m (0x2F200 + e.1) 1) }) x
  let x := outs.foldl (fun x e => if (x.outQ e.1).depth = 0 then x
    else x.setOutQ e.1 { x.outQ e.1 with
      toks := (e.2 ++ (waits.filter (·.q == e.1)).map (·.tok)).map fun t => ⟨t, 0⟩ }) x
  let n := ofBytes (readBytes m 0x2F210 2)
  { x with sch := { x.sch with fx := { x.sch.fx with
    held := (List.range n).map fun i => (ofBytes (readBytes m (0x2F001 + 2 * i) 1), getToken m 0x2B000 0x2F000 2 i) } } }

/-! ## Records, return buffer, store buffer -/

/-- A record's 32 bytes (R259). -/
def Record.bits (r : Record) : Nat :=
  r.handler.toNat + r.pri.toNat * 2 ^ 6 + r.policy.toNat * 2 ^ 9 + (if r.launch then 2 ^ 11 else 0) + r.est.toNat * 2 ^ 32 +
  (r.ctr.toNat + if r.cv then 2 ^ 24 else 0) * 2 ^ 64 + r.a0.toNat * 2 ^ 128 + r.a1.toNat * 2 ^ 192
/-- The record that 32 bytes hold, the old one where they break its layout. -/
def Record.reread (r : Record) (v : Nat) : Record := (parseRecord v 64).getD r
/-- Records of the run list, the ready list and the counters' links. -/
def Tile.recordsOf (x : Tile) : List (Option Record) := (x.sch.runl ++ x.sch.ready).map (·.rcd) ++ x.sch.links.map fun e => some e.2
/-- A message's record or decrement. -/
def Msg.bits : Msg → Nat
  | .spawn _ r _ => r.bits
  | .tdec slot off amt _ => off + amt * 2 ^ 64 + slot * 2 ^ 128 + 2 ^ 255
def Msg.reread (m : Msg) (v : Nat) : Msg :=
  match m with
  | .spawn k r n => .spawn k (r.reread v) n
  | .tdec k _ _ n => .tdec k (v % 2 ^ 64) (v / 2 ^ 64 % 2 ^ 64) n
/-- The place of record i of a block, 64 in the first page and those of a longer task queue after the full/empty bits; and how many there
are places for. -/
def recordAt (i : Nat) : Nat := if i < 64 then 0x500 + 36 * i else 0x3C000 + 36 * (i - 64)
def recordMax : Nat := 4288
/-- Task queue and run list, entries of 36 bytes, and the return buffer, 16 of 32. -/
def putRecords (x : Tile) (m : Memory) : Memory :=
  let m := ((x.recordsOf.take recordMax).zipIdx).foldl (fun m e => writeBytes m (recordAt e.2) (match e.1 with
    | none => toBytes 36 (2 ^ 256)
    | some r => toBytes 36 (r.bits + 2 ^ 257))) m
  ((x.sch.retBuf.take 16).zipIdx).foldl (fun m e => writeBytes m (0xE00 + 32 * e.2) (toBytes 32 e.1.bits)) m
def getRecords (m : Memory) (x : Tile) : Tile :=
  let at_ (i : Nat) : Nat := ofBytes (readBytes m (recordAt i) 32)
  let ent (k : Nat) (l : List RunEnt) : List RunEnt := l.zipIdx.map fun e =>
    if recordMax ≤ k + e.2 then e.1 else { e.1 with rcd := e.1.rcd.map (·.reread (at_ (k + e.2))) }
  let n := x.sch.runl.length
  let k := n + x.sch.ready.length
  { x with sch := { x.sch with
    runl := ent 0 x.sch.runl
    ready := ent n x.sch.ready
    links := x.sch.links.zipIdx.map fun e => if recordMax ≤ k + e.2 then e.1 else
      let r := e.1.2.reread (at_ (k + e.2))
      (r.ctr.toNat, r)
    retBuf := x.sch.retBuf.zipIdx.map fun e => if 16 ≤ e.2 then e.1 else e.1.reread (ofBytes (readBytes m (0xE00 + 32 * e.2) 32)) } }

/-- What a buffered access stores. -/
def BufItem.data : BufItem → Vec
  | .acc a => match a.op with
    | .store d => d
    | .stf d => d
    | .chStore _ d => d
    | .amo _ _ _ x y _ => x.setWidth 512 ||| (y.setWidth 512 <<< 64)
    | .red _ d _ _ => d
    | _ => 0
  | .hdarr h n _ => BitVec.ofNat 512 (h + n * 2 ^ 64)
def BufItem.withData (b : BufItem) (d : Vec) : BufItem :=
  match b with
  | .acc a => .acc { a with op := match a.op with
    | .store _ => .store d
    | .stf _ => .stf d
    | .chStore g _ => .chStore g d
    | .red ty _ mode seed => .red ty d mode seed
    | o => o }
  | b => b
def BufItem.va : BufItem → Word
  | .acc a => (a.parts.head?.map (·.va)).getD 0
  | _ => 0
/-- The buffered accesses with the place of each: its address, then its data (R165). -/
def sbPlaces (sb : List BufItem) : List (Nat × BufItem) :=
  (sb.foldl (fun (e : Nat × List (Nat × BufItem)) b => (e.1 + b.size, e.2 ++ [(e.1, b)])) (0x1A000, [])).2
def putBuffer (x : Tile) (m : Memory) : Memory :=
  (sbPlaces x.sch.fx.sb).zipIdx.foldl (fun m e =>
    let n := e.1.2.size - 8
    writeBytes (writeBytes m e.1.1 (toBytes 8 e.1.2.va.toNat ++ toBytes n e.1.2.data.toNat)) (0x2A000 + e.2) (toBytes 1 1)) m
def getBuffer (m : Memory) (x : Tile) : Tile :=
  let sb := (sbPlaces x.sch.fx.sb).map fun e => e.2.withData (BitVec.ofNat 512 (ofBytes (readBytes m (e.1 + 8) (e.2.size - 8))))
  { x with sch := { x.sch with fx := { x.sch.fx with sb := sb } } }

/-! ## The block -/

/-- Bytes [a, a+n) of one memory put at b of another. -/
def copyCells (src dst : Memory) (a b n : Nat) : Memory :=
  let keep := dst.filter fun e => !(decide (b ≤ e.1) && decide (e.1 < b + n))
  (src.filter fun e => decide (a ≤ e.1) && decide (e.1 < a + n)).foldl (fun k e => tset 0 k (e.1 - a + b) e.2) keep
/-- The full/empty bits of a tile store as bytes, one bit a word (R388). -/
def feCells (st : Store) : Memory :=
  (List.range (Config.storeBytes / 32)).foldl (fun m i =>
    tset 0 m i (BitVec.ofNat 8 (ofElems 1 ((List.range 8).map fun k => if st.full (8 * i + k) then 1 else 0)))) []
/-- A slot's save block (R388), with the tokens latched on the circuits into its tile (R409). -/
def blockCells (x : Tile) (latched : List Beside) : Memory :=
  let m := putFields x blockFields []
  let m := putBuffer x (putRecords x (putBeside x.waiting latched (putQueues x m)))
  let m := copyCells (feCells x.store) m 0 0x30000 0xC000
  copyCells x.store.bytes m 0 0x80000 Config.storeBytes
/-- A tile with what a save block holds (R391); of what the block has no place for, the tile keeps its own. -/
def unblock (m : Memory) (x : Tile) : Tile :=
  let x := getBuffer m (getRecords m (getQueues m (getFields m blockFields x)))
  { x with store := {
      bytes := copyCells m [] 0x80000 0 Config.storeBytes
      fe := (List.range (Config.storeBytes / 4)).foldl (fun f i => tset true f i (nbit (tget 0 m (0x30000 + i / 8)).toNat (i % 8))) [] } }
/-- A frame's address (R20): slot, layout, index. -/
def frameAddr (slot layout index : Nat) : Nat := slot % 2 ^ 14 * 2 ^ 18 + layout % 4 * 2 ^ 16 + index % 2 ^ 16
/-- Compute frame k of an actor: instructions 4k to 4k + 3 of its handler store (R20). -/
def ActorDecl.codeFrame (d : ActorDecl) (k : Nat) : List Word := (List.range 4).map fun j => tget fillWord d.code (4 * k + j)
/-- The compute frames that an actor's handlers occupy, by address. -/
def ActorDecl.codeFrames (d : ActorDecl) (slot : Nat) : List (Nat × List Word) :=
  ((d.code.map fun e => e.1 / 4).eraseDups).map fun k => (frameAddr slot 0 k, d.codeFrame k)
/-- The frames of an image, each with its address. -/
def Image.frameList (img : Image) : List (Nat × List Word) :=
  ((img.actors.zipIdx.map fun e => e.1.codeFrames e.2 ++ e.1.frames).flatten).mergeSort fun a b => decide (a.1 ≤ b.1)
/-- CMEAS (R360): the digest of an image's frames in the order of their addresses, each its address and its words. DESIGN CHOICE:
notes/assumptions/83.md. -/
def Image.cmeas (img : Image) : List Byte :=
  shake256 ((img.frameList.map fun e => toBytes 4 e.1 ++ (e.2.map fun w => toBytes 8 w.toNat).flatten).flatten) 32
/-- The header (R388, R389): sequence number, slot count, CMEAS, placement, then the state of the configuration's chains, windows and
collectives, and of its actors' ending conditions. -/
def headerCells (s : State) (c : Cfg) : Memory :=
  let chains := (s.slices.map fun e => (e.2.chains.filter (·.2.cfg == c.sq)).map fun k =>
    toBytes 12 (e.1 + k.1 * 2 ^ 8 + k.2.L.toNat * 2 ^ 24 + k.2.E.toNat * 2 ^ 48)).flatten
  let wins := (s.slices.map fun e => (e.2.wins.filter (·.cfg == c.sq)).map fun w => toBytes 56 (w.pa + (w.val.V.toNat + w.val.W.toNat * 2 ^ 320) * 2 ^ 64)).flatten
  let colls := (s.coll.out.filter (·.cfg == c.sq)).map fun k => toBytes 8 (k.g + k.n * 2 ^ 32)
  let places := c.places.flatten
  let ends := places.map fun e => match (s.tile e.2).sch.actor with
    | some a => toBytes 1 ((if a.done then 1 else 0) + if a.stopped then 2 else 0)
    | none => [0]
  let body := toBytes 8 c.sq ++ toBytes 4 c.image.actors.length ++ toBytes 1 chains.length ++ toBytes 1 wins.length ++ toBytes 1 colls.length ++ toBytes 1 0 ++
    c.image.cmeas ++ (places.map fun e => toBytes 4 (e.1 + e.2 * 2 ^ 16)).flatten ++ ends.flatten ++ (chains ++ wins ++ colls).flatten
  writeBytes [] 0 (body.take 4096)

/-! ## Its stores (R387, R389, R390) -/

/-- What a store of a save area comes to. -/
inductive SaveRes where
  | ok (s : State)
  /-- its page migrates (R197) -/
  | wait
  /-- unpinned, not writable, or another owner's granule -/
  | fault
/-- A store of n bytes, whole lines inside a page, through a locked translation of the tile's gateway (R387, R390). -/
def saveStore (s : State) (t c va : Nat) (m : Memory) (from_ n : Nat) : SaveRes :=
  let hit (e : TlbEnt) : Bool := e.ctx == c && e.vpn == va / pageBytes e.size
  match (s.field (fieldOf t)).locked.find? hit with
  | none => .fault
  | some e =>
    let p := e.pte.toNat
    let pa := ptePa p + va % pageBytes e.size
    if migrating s c (BitVec.ofNat 64 va) then .wait
    else if !nbit p 5 || nbit p 10 || (!nbit p 3 && !s.refLevel t) || granOwnerOf s pa != s.ownerOf t then .fault
    else
      let s := setDirty (setPteBit (touchWindows s (.dram pa) n) e.pteAt 8) e.pteAt
      let old := s.dram
      let new : Store := { old with
        bytes := copyCells m old.bytes from_ pa n
        bad1 := old.bad1.filter fun u => !coversUnit pa n u, bad2 := old.bad2.filter fun u => !coversUnit pa n u }
      .ok (digestWrite { s with dram := new } (.dram pa) n old new)
/-- Write k pieces of 4 KiB from a virtual address on; what is written before a fault stays (R390). The answer is the offset that
faults, or none with whether it waits. -/
def writePieces (s : State) (t c base : Nat) (m : Memory) (off : Nat) : Nat → State × Option (Option Nat)
  | 0 => (s, none)
  | k + 1 => match saveStore s t c (base + off) m off 4096 with
    | .ok s => writePieces s t c base m (off + 4096) k
    | .wait => (s, some none)
    | .fault => (s, some (some off))
/-- Where a save area's header and a block begin (R388); block run · slots + slot is that of a slot in a run of a redundant
configuration. DESIGN CHOICE: notes/assumptions/8.md. -/
def saveBase (s : State) (c : Nat) : Nat := nfld (s.ctx c).savebase.toNat 16 48 * 65536
def blockBase (s : State) (c blk : Nat) : Nat := saveBase s c + 0x1000 + blk * 2 ^ 21

end Sys2Proof.Machine
end

