-- ==== Sys2Proof/Machine/Starter.lean ====
section
/-! DEFINITION. What the starters do: completion records (R419, R420), placement (R268-R271), loading (R20, R42, R58, R131),
the end and the kill of a configuration (R255, R268, R398), pre-emption, save and restore (R276-R278, R387-R391), moves and
remaps (R274, R385), redundant runs (R394, R395). -/

namespace Sys2Proof.Machine

/-! ## Completion records (R419, R420) -/

def stNormal : Nat := 0
def stNofit : Nat := 1
def stAuthfail : Nat := 2
def stKilled : Nat := 3
def stContained : Nat := 4
def stPowerKill : Nat := 5
def stUnresolved : Nat := 6
def stFrozen : Nat := 7
def stRejected : Nat := 8
def stCancelled : Nat := 9
def stDivergent : Nat := 10

/-- Entries of a ring, none where its LOG disables it (R416). -/
def ringSize (log : Word) : Option Nat :=
  let n := nfld log.toNat 0 5
  if 4 ≤ n && decide (n ≤ 16) then some (2 ^ n) else none
/-- A completion record without its PHASE (R419); a configuration with a photo finish had ended when its snapshot was taken (R314). -/
def recordBytes (s : State) (c : Cfg) : List Byte :=
  let b (x : Bool) (i : Nat) : Nat := if x then 2 ^ i else 0
  toBytes 8 (c.status + c.ctx % 256 * 2 ^ 8 + c.stream % 16 * 2 ^ 16 + c.rflags.toNat * 2 ^ 32 + b c.replayed 39 + b c.mchk 40 + b c.suspect 41) ++
  toBytes 8 c.counter.toNat ++ toBytes 8 c.verdict.toNat ++
    toBytes 8 ((c.snapAt.map fun t => t / 1000000 % 2 ^ 32).getD s.ms + c.sq % 2 ^ 32 * 2 ^ 32)
/-- Room in a context's completion ring. DEDUCED: notes/assumptions/62.md. -/
def cqRoom (k : Ctx) : Bool :=
  match ringSize k.cqlog with
  | none => false
  | some n => (k.cqWritten + 1) % n != k.cqhead.toNat % n
/-- Write one record whole, with the PHASE of its pass. -/
def cqWrite (s : State) (c : Nat) (r : List Byte) : State :=
  let k := s.ctx c
  let n := (ringSize k.cqlog).getD 1
  let phase := 1 - k.cqWritten / n % 2
  let r := r.zipIdx.map fun e => if e.2 = 3 then e.1 ||| BitVec.ofNat 8 (128 * phase) else e.1
  let s := rawWrite s (.host (k.cqbase.toNat + 32 * (k.cqWritten % n))) r
  s.modCtx c fun k => { k with cqWritten := k.cqWritten + 1 }
/-- Write waiting records while the ring has room. DEDUCED: notes/assumptions/62.md. -/
def cqFlush (c : Nat) : List (List Byte) → State → State
  | [], s => s.modCtx c fun k => { k with cqWait := [] }
  | r :: rest, s =>
    if cqRoom (s.ctx c) then cqFlush c rest (cqWrite s c r)
    else s.modCtx c fun k => { k with cqWait := r :: rest }
/-- Post a record: behind those that wait. DEDUCED: notes/assumptions/62.md. -/
def postRecord (s : State) (c : Nat) (r : List Byte) : State := cqFlush c ((s.ctx c).cqWait ++ [r]) s

/-! ## Tiles of a configuration -/

/-- The CSRs of a tile that no handler has set: its last trap stands until the next (R371). -/
def Csrs.lastTrap (c : Csrs) : Csrs := { tcause := c.tcause, tepc := c.tepc, taddr := c.taddr }
/-- A tile without its actor: the store and the last trap stay, the capability table is cleared (R366, R371). -/
def Tile.unload (x : Tile) : Tile :=
  { (default_ : Tile) with
    store := x.store, sens := x.sens, failStop := x.failStop, noClock := x.noClock, fenced := x.fenced, dead := x.dead
    lastBeat := x.lastBeat, missed := x.missed, nextAcc := x.nextAcc
    csr := x.csr.lastTrap
    pu := { ({} : PatchUnit) with ranAt := x.pu.ranAt, gate := x.pu.gate, chunks := x.pu.chunks, spareBad := x.pu.spareBad }
    sch := { ({} : Sched) with haltGrp := x.sch.haltGrp, halted := if x.sch.halted = some .frozen then some .frozen else none } }
  where default_ : Tile := {}
/-- A tile leaves its configuration; a run of its patch that was granted ends, a start that waits is dropped, and a patch whose queue
is emptied begins its idle time (R328). -/
def unloadTile (s : State) (t : Nat) : State :=
  let x := s.tile t
  let granted := (x.pu.q.head?.map fun e => e.granted && e.cmd.starts).getD false
  let busy := !x.pu.q.isEmpty
  let s := s.modTile t fun x => let y := x.unload; if busy then { y with pu := y.pu.rest s.now } else y
  let s := if granted then s.modTile t fun x => { x with pu := { x.pu with ranAt := some s.now } } else s
  s.modField (fieldOf t) fun f => { f with
    pacer := { f.pacer with starts := f.pacer.starts.filter (·.tile != t) }, wakes := f.wakes.filter (·.1 != t) }
/-- The digests of regions in the store of tile t follow every word that changes from one content to another (R194). -/
def digestStore (s : State) (t : Nat) (old new : Store) : State :=
  if s.ctxs.all fun c => c.2.regions.isEmpty then s
  else (((old.bytes ++ new.bytes).map fun e => e.1 / 4 * 4).eraseDups).foldl (fun s a => digestWrite s (.tile t a) 4 old new) s
/-- A tile's store replaced, with the digests. -/
def replaceStore (s : State) (t : Nat) (st : Store) : State :=
  digestStore (s.modTile t fun x => { x with store := st }) t (s.tile t).store st
/-- A tile reset to its state after BIST: a fail-stop ends with it (R386). -/
def resetTile (s : State) (t : Nat) : State :=
  (replaceStore (unloadTile s t) t {}).modTile t fun x => { x with failStop := false, csr := {}, sch := { x.sch with haltGrp := none } }

/-- Take what a configuration holds outside its tiles: chain bindings and their entries, collectives, quotes; open reduce
windows close (R398). -/
def cutOutside (s : State) (sq : Nat) : State :=
  let s := closeWindows s fun w => w.cfg == sq
  let s : State := { s with slices := s.slices.map fun (e : Nat × Slice) =>
    let gone := (e.2.chains.filter fun c => c.2.cfg == sq).map (·.1)
    (e.1, { e.2 with
      chains := e.2.chains.filter fun c => c.2.cfg != sq
      ents := e.2.ents.filter fun a => !gone.contains a.tag.ch }) }
  { s with
    coll := { s.coll with out := s.coll.out.filter (·.cfg != sq) }
    sec := { s.sec with quotes := s.sec.quotes.filter (·.cfg != sq) } }

/-- The reply of the starters to a referee tile (R407). -/
def starterReply (s : State) (u v : Nat) : State :=
  s.modTile u fun x => { x with sch := { x.sch with starter := x.sch.starter.map fun _ => some v } }
/-- Record a configuration's end with a status, post its record and send its end notice. The referee that waits for its checkpoint is
refused. DEDUCED: notes/assumptions/33.md. -/
def finishCfg (s : State) (sq status : Nat) : State :=
  match s.cfg sq with
  | none => s
  | some c =>
    let s := match c.saver with
      | some u => starterReply s u 2
      | none => s
    let c := { c with status := status, st := .ending, saver := none }
    let s := s.modCfg sq fun _ => c
    let s := s.modPart c.owner fun p => { p with order := p.order.filter (· != sq) }
    let s := s.modCtx c.ctx fun k => { k with saved := k.saved.filter (·.cfg.sq != sq) }
    let s := postRecord s c.ctx (recordBytes s c)
    { s with seqQ := s.seqQ ++ [.endNotice sq] }
/-- A task that is between two instruction boundaries and comes to the next by itself: its commit has gone too far to be undone, or it has
sent a command whose reply comes (R398). DEDUCED: notes/assumptions/79.md. -/
def midway (s : State) (t : Nat) : Bool :=
  (team s t).all (fun u => !(s.tile u).failStop && !(s.tile u).noClock && !s.unreachable u) &&
    (committing s t || (gangTiles s t).any fun u => (s.tile u).sch.cmdOut.isSome)
/-- A kill of configurations on some tiles waits for their tasks to come to an instruction boundary (R333, R398). -/
def killWaits (s : State) (ts : List Nat) : Bool := ts.any (midway s)
/-- The tiles of the configurations of a context. -/
def ctxTiles (s : State) (c : Nat) : List Nat := ((s.cfgs.filter (·.ctx == c)).map Cfg.tiles).flatten
/-- KILL a configuration (R398): tasks stop, nothing held leaves, its tiles are vacated and become free at its end notice. -/
def killCfg (s : State) (sq status : Nat) : State :=
  match s.cfg sq with
  | none => s
  | some c =>
    if c.st = .ending || c.st = .ended then s
    else finishCfg (cutOutside (c.tiles.foldl unloadTile s) sq) sq status

/-! ## Placement (R269, R270) -/

/-- What the starters read of a context's memory: n bytes inside one page, by whatever leaf maps it (R168), in host memory where the entry
says so (R169), else in granules of the context's owner (R345, R350), as a read at the home (R15, R190); none where it cannot be read.
DEDUCED: notes/assumptions/39.md. -/
def readVa (s : State) (c va n : Nat) : Option (Home × List Byte × State) :=
  let leaf (lo : Nat) : Option (Nat × Nat × State) := match walkCtx s c va lo with
    | .ok (_, p, s) => some (lo, p, s)
    | .error _ => none
  match [16, 21, 29].findSome? leaf with
  | none => none
  | some (lo, p, s) =>
    let pa := ptePa p + va % 2 ^ lo
    let h : Home := if nbit p 10 then .host pa else .dram pa
    if !nbit p 10 && !ownedRange s (s.ctx c).owner pa n then none
    else match homeRead s h n with
      | .error _ => none
      | .ok (bs, s) => some (h, bs, s)

/-! ## Arguments (R427, R433) -/

/-- The bits of two integers, in two's complement without end. -/
def intNot (a : Int) : Int := -a - 1
def intAnd (a b : Int) : Int :=
  match decide (0 ≤ a), decide (0 ≤ b) with
  | true, true => Nat.land a.toNat b.toNat
  | true, false => a - Nat.land a.toNat (intNot b).toNat
  | false, true => b - Nat.land b.toNat (intNot a).toNat
  | false, false => intNot (Nat.lor (intNot a).toNat (intNot b).toNat)
def intOr (a b : Int) : Int := intNot (intAnd (intNot a) (intNot b))
/-- The exact value of an operator, none where it has none: a division by zero or a shift by a negative number (R427). -/
def ArgBin.eval (o : ArgBin) (a b : Int) : Option Int :=
  match o with
  | .mul => some (a * b)
  | .div => if b = 0 then none else some (Int.tdiv a b)
  | .mod => if b = 0 then none else some (Int.tmod a b)
  | .add => some (a + b)
  | .sub => some (a - b)
  | .shl => if b < 0 then none else some (if a = 0 then 0 else a * 2 ^ b.toNat)
  | .shr => if b < 0 then none else some (a >>> b.toNat)
  | .and => some (intAnd a b)
  | .xor => some (intOr a b - intAnd a b)
  | .or => some (intOr a b)
/-- The value of an expression with the words of an argument block, absent ones 0 (R418, R427). -/
def ArgExpr.eval (args : List Word) : ArgExpr → Option Int
  | .num v => some v
  | .arg n => some (args[n]?.getD 0).toNat
  | .neg e => (e.eval args).map fun v => -v
  | .not e => (e.eval args).map intNot
  | .bin o a b => (a.eval args).bind fun x => (b.eval args).bind fun y => o.eval x y
/-- The bits of a value in a field, none where it does not fit: 64 bits hold a signed or an unsigned value, a count is unsigned. -/
def fieldBits (v : Int) (width : Nat) : Option Nat :=
  if (if width = 64 then -(2 ^ 63 : Int) else 0) ≤ v && decide (v < 2 ^ width) then some (wrapN width v) else none
/-- A word with a field of it replaced. -/
def putBits (w : Word) (lo width v : Nat) : Word :=
  BitVec.ofNat 64 (w.toNat - nfld w.toNat lo width * 2 ^ lo + v % 2 ^ width * 2 ^ lo)
/-- Put the value of one expression where its frame calls for it; one that has no value or does not fit makes the frame fail its
checks. DESIGN CHOICE: notes/assumptions/7.md. -/
def ActorDecl.putArg (args : List Word) (d : ActorDecl) (e : ArgSite) : ActorDecl :=
  match (e.expr.eval args).bind fun v => fieldBits v e.width with
  | none => { d with badFrame := true }
  | some v =>
    let put (t : Tbl Word) : Tbl Word := tset 0 t e.word (putBits (tget 0 t e.word) e.lo e.width v)
    if e.port then { d with sps := d.sps.map fun p => if p.1 = e.ix then (p.1, put p.2) else p }
    else match d.handlers[e.ix]? with
      | none => d
      | some h => { d with handlers := lset d.handlers e.ix { h with consts := put h.consts } }
/-- Put the arguments of a launch where the frames call for them (R433). -/
def ActorDecl.subst (d : ActorDecl) (args : List Word) : ActorDecl := d.argAt.foldl (ActorDecl.putArg args) d

/-- Limits of R19 and R147, whose breach is NOFIT. -/
def Image.fits (img : Image) : Bool :=
  decide (img.reserve ≤ 64) && img.actors.all fun d =>
    let depths := d.inQ.map (fun e => e.2.1) ++ d.outQ.map (fun e => e.2.1)
    depths.all (fun n => n == 0 || (decide (2 ≤ n) && decide (n ≤ 128))) && decide (depths.sum ≤ Config.queueSlots) &&
    (match d.region with
     | none => true
     | some (g, h, w, i, j) =>
       decide (g < 16) && decide (1 ≤ h) && decide (h ≤ 64) && decide (1 ≤ w) && decide (w ≤ 64) && decide (h * w ≤ 4096) &&
         decide (i < h) && decide (j < w))
/-- A tile with an actor's queues declared, for the checks of its frames. DEDUCED: notes/assumptions/39.md. -/
def ActorDecl.probe (d : ActorDecl) : Tile :=
  { inq := d.inQ.foldl (fun t e => if e.2.1 = 0 then t else tput t e.1 { depth := e.2.1 }) []
    outq := d.outQ.foldl (fun t e => if e.2.1 = 0 then t else tput t e.1 { depth := e.2.1, dest := e.2.2 }) [] }
/-- The checks at load, whose breach is REJECTED (R269): frames, descriptors, firing rules, CSR values, circuits. DEDUCED: notes/assumptions/39.md. -/
def Image.loads (img : Image) : Bool :=
  img.actors.all fun d =>
    !d.badFrame && (d.gang == 1 || d.gang == 2 || d.gang == 4 || d.gang == 8) &&
    d.inQ.all (fun e => decide (e.1 < 16) && decide (e.2.2 ≤ 15) && decide (e.2.2 ≤ e.2.1)) && d.outQ.all (fun e => decide (e.1 < 16)) &&
    decide (d.ranges.length ≤ 4) && d.ranges.all (fun r => r.1 % 4 == 0 && r.2 % 4 == 0 && decide (r.1 + r.2 ≤ Config.storeBytes)) &&
    (match d.ring with
     | none => true
     | some (r, _) => decide (r < 16)) &&
    decide (d.cls < 4) && decide (d.pri < 8) && decide (d.policy < 2) && decide (d.est < 2 ^ 32) && decide (d.records ≤ 4096) &&
    d.handlers.all (fun h => h.csr.frameOk && decide (h.entry < Config.codeWords)) &&
    d.outQ.all (fun e => match e.2.2 with
      | none => true
      | some (k, q) => ((img.actors[k]?).map fun a => a.inQ.any fun i => i.1 == q && decide (0 < i.2.1)).getD false) &&
    d.sps.all (fun p => decide (p.1 < 4) && ({ desc := p.2 } : Port).legal d.probe)

/-- A tile is available to an actor (R270). -/
def available (s : State) (p : Partition) (free : Nat → Bool) (cls t : Nat) : Bool :=
  p.has t && !p.refs.contains t && s.tileState t == 0 && free t && decide (s.tileClass t ≤ cls)
/-- The free bit of a tile, which a fence takes from it too: after its release it is placeable again (R268, R386). -/
def State.freeBit (s : State) (t : Nat) : Bool := !s.taken.contains t && !(s.tile t).fenced
/-- The tiles of a partition in raster order (R270). -/
def Partition.raster (p : Partition) : List Nat :=
  ((List.range (p.y1 + 1 - p.y0)).map fun j => (List.range (p.x1 + 1 - p.x0)).map fun i => (p.y0 + j) * 96 + p.x0 + i).flatten
/-- The columns that a region takes from (x0, y0) on: at most two are skipped, never the first (R270). -/
def regionCols (ok : Nat → Nat → Bool) (x1 w x0 : Nat) : Nat → Nat → List Nat → Nat → Option (List Nat)
  | 0, _, _, _ => none
  | fuel + 1, x, cols, skips =>
    if cols.length = w then some cols
    else if x1 < x then none
    else if ok x cols.length then regionCols ok x1 w x0 fuel (x + 1) (cols ++ [x]) skips
    else if x = x0 || skips == 2 then none
    else regionCols ok x1 w x0 fuel (x + 1) cols (skips + 1)
/-- Slots of the members of region g. -/
def regionSlot (img : Image) (g i j : Nat) : Option Nat :=
  (findIx (fun d : ActorDecl => match d.region with
    | some (g', _, _, i', j') => g' == g && i' == i && j' == j
    | none => false) img.actors).map (·.1)
/-- Place one region at its first place in raster order. -/
def placeRegion (s : State) (p : Partition) (img : Image) (free : Nat → Bool) (g h w : Nat) : Option (List (Nat × Nat)) :=
  p.raster.findSome? fun t0 =>
    let x0 := tileX t0
    let y0 := tileY t0
    let cls (i j : Nat) : Nat := ((regionSlot img g i j).bind fun k => (img.actors[k]?).map (·.cls)).getD 0
    let ok (x j : Nat) : Bool := (List.range h).all fun i => available s p free (cls i j) ((y0 + i) * 96 + x)
    if p.y1 < y0 + h - 1 then none
    else (regionCols ok p.x1 w x0 (p.x1 + 2) x0 [] 0).map fun cols =>
      (cols.zipIdx.map fun c => (List.range h).filterMap fun i => (regionSlot img g i c.2).map fun k => (k, (y0 + i) * 96 + c.1)).flatten
/-- Place one gang of n tiles inside one field, or one actor. -/
def placeRow (s : State) (p : Partition) (free : Nat → Bool) (cls n : Nat) : Option Nat :=
  p.raster.find? fun t => (List.range n).all fun k =>
    tileY (t + k) == tileY t && fieldOf (t + k) == fieldOf t && available s p free cls (t + k)

/-- Place items one after another, each over the tiles that the earlier ones left. -/
def placeEach (free : Nat → Bool) (f : (Nat → Bool) → α → Option (List (Nat × Nat) × List Nat)) :
    List α → List (Nat × Nat) → List Nat → Option (List (Nat × Nat) × List Nat)
  | [], acc, used => some (acc, used)
  | a :: r, acc, used =>
    match f (fun t => free t && !used.contains t) a with
    | none => none
    | some (es, ts) => placeEach free f r (acc ++ es) (used ++ ts)

/-- PLACE an image (R270): regions, gangs, single actors, reserves; slots with their tiles, and the reserve tiles. DEDUCED: notes/assumptions/26.md. -/
def placeImage (s : State) (p : Partition) (img : Image) (free : Nat → Bool) : Option (Tbl Nat × List Nat) :=
  let acts := img.actors.zipIdx
  let regions := (acts.filterMap fun e => e.1.region.map fun r => (r.1, r.2.1, r.2.2.1)).eraseDups
  let gangs := acts.filter fun e => e.1.region.isNone && decide (1 < e.1.gang)
  let singles := acts.filter fun e => e.1.region.isNone && decide (e.1.gang ≤ 1)
  match placeEach free (fun free r => (placeRegion s p img free r.1 r.2.1 r.2.2).map fun es => (es, es.map (·.2))) regions [] [] with
  | none => none
  | some (acc, used) =>
    let row (free : Nat → Bool) (e : ActorDecl × Nat) : Option (List (Nat × Nat) × List Nat) :=
      let n := Nat.max 1 e.1.gang
      (placeRow s p free e.1.cls n).map fun t => ([(e.2, t)], (List.range n).map (t + ·))
    match placeEach free row gangs acc used with
    | none => none
    | some (acc, used) => match placeEach free row singles acc used with
      | none => none
      | some (acc, used) =>
        let spare (free : Nat → Bool) (_ : Nat) : Option (List (Nat × Nat) × List Nat) :=
          (placeRow s p free 0 1).map fun t => ([], [t])
        match placeEach free spare (List.range img.reserve) acc used with
        | none => none
        | some (_, all) => some (acc.foldl (fun t e => tput t e.1 e.2) [], all.drop used.length)

/-! ## Loading (R20, R42, R58, R131, R240) -/

/-- The numbers from a to b, without a, in order. -/
def stepsTo (a b : Nat) : List Nat :=
  if a ≤ b then (List.range (b - a)).map (a + 1 + ·) else (List.range (a - b)).map (a - 1 - ·)
/-- The tiles that a circuit enters on its way from tile t to tile u, first along x, then along y: the starters' fixed route is not
given (R30). DESIGN CHOICE: notes/assumptions/84.md. -/
def circuitPath (t u : Nat) : List Nat :=
  (stepsTo (tileX t) (tileX u)).map (fun x => tileY t * 96 + x) ++ (stepsTo (tileY t) (tileY u)).map fun y => y * 96 + tileX u
/-- Links that a circuit between two tiles crosses (R30): none within one tile. DESIGN CHOICE: notes/assumptions/84.md. -/
def hops (t u : Nat) : Nat := (circuitPath t u).length
/-- No circuit of a placement leaves its partition (R346). -/
def circuitsInside (p : Partition) (img : Image) (place : Tbl Nat) : Bool :=
  (placeTiles img place).all fun e => ((img.actors[e.1]?).map fun d => d.outQ.all fun q =>
    match q.2.2.bind fun k => place.find? fun y => y.1 == k.1 with
    | none => true
    | some y => (circuitPath e.2.2 y.2).all p.has).getD true
/-- A handler store as compute frames write it (R20), the fill word elsewhere (R58). -/
def frameCode (fs : List (Nat × List Word)) : Tbl Word :=
  fs.foldl (fun m f => (f.2.zipIdx).foldl (fun m e => tset fillWord m (4 * (f.1 % 2 ^ 16) + e.2) e.1) m) []
/-- Words that a frame seeds a tile store with; one that has to merge with an uncorrectable unit fail-stops the tile (R15, R381). -/
def seedTile (s : State) (t off : Nat) (ws : List Word) : State :=
  let bs := (ws.map fun w => toBytes 8 w.toNat).flatten
  match (s.tile t).store.badWrite off bs.length with
  | some u => failStopTile s t (BitVec.ofNat 64 (8 * u))
  | none => rawWrite s (.tile t off) bs
/-- Load an actor's frames into a tile (R20): fresh queues, ports, patch and code. -/
def loadActor (s : State) (sq slot : Nat) (d : ActorDecl) (place : Tbl Nat) (t : Nat) : State :=
  let s := d.seeds.foldl (fun s e => seedTile s t e.1 e.2) (unloadTile s t)
  s.modTile t fun x =>
    let outq := d.outQ.foldl (fun m e => if e.2.1 = 0 then m else tput m e.1 {
      depth := e.2.1, dest := e.2.2
      links := match e.2.2.bind fun k => place.find? fun p => p.1 == k.1 with
        | some p => hops t p.2
        | none => 0 : OutQ }) []
    { x with
      code := frameCode (d.codeFrames slot)
      inq := d.probe.inq
      outq := outq
      eng := { x.eng with ports := d.sps.foldl (fun m p => tput m p.1 { desc := p.2 }) [] }
      sch := { x.sch with actor := some { cfg := sq, slot := slot } } }
/-- Load every actor of a placement. -/
def loadAll (s : State) (sq : Nat) (img : Image) (place : Tbl Nat) : State :=
  (placeTiles img place).foldl (fun s e => match img.actors[e.1]? with
    | some d => loadActor s sq e.1 d place e.2.2
    | none => s) s
/-- Start the ports that their frames mark GO (R240, R437); such a run counts in no PEND (R248). -/
def startPorts (s : State) (ctx : Nat) (img : Image) (place : Tbl Nat) : State :=
  (placeTiles img place).foldl (fun s e => match img.actors[e.1]? with
    | none => s
    | some d => d.sps.foldl (fun s p =>
        let y := (s.tile e.2.2).port p.1
        if y.go then startPort s e.2.2 p.1 ctx false ((d.handlers[0]?.map fun h => h.csr.carry).getD {}) false else s) s) s
/-- Resume the ports that a checkpoint or a move halted while RUNNING (R274, R391). -/
def resumePorts (s : State) (t : Nat) : State := s.modTile t fun x =>
  { x with eng := { x.eng with ports := x.eng.ports.map fun e =>
    (e.1, if e.2.resume then { e.2 with st := 1, resume := false } else e.2) } }

/-! ## Moving a tile's state (R274, R391) -/

def Home.move (old new : Nat) : Home → Home
  | .tile t off => if t = old then .tile new off else .tile t off
  | h => h
def Acc.move (old new : Nat) (a : Acc) : Acc := { a with parts := a.parts.map fun p => { p with home := p.home.move old new } }
/-- The architectural state of tile `old` as it stands on another tile, which keeps what belongs to the part itself; a store that has
been read and written whole holds no soft errors. -/
def Tile.moveTo (src dst : Tile) (old new : Nat) : Tile :=
  { src with
    sens := dst.sens, failStop := dst.failStop, noClock := dst.noClock, fenced := dst.fenced
    dead := dst.dead, lastBeat := dst.lastBeat, missed := dst.missed
    store := { src.store with bad1 := [], bad2 := [] }
    codeBad := []
    pu := { src.pu with ranAt := dst.pu.ranAt, gate := dst.pu.gate, chunks := dst.pu.chunks, spareBad := dst.pu.spareBad }
    pend := src.pend.map fun p => { p with what := match p.what with
      | .lds a b => .lds (a.move old new) b
      | .again a b => .again (a.move old new) b
      | w => w }
    sch := { src.sch with
      haltGrp := dst.sch.haltGrp
      fx := { src.sch.fx with sb := src.sch.fx.sb.map fun b => match b with
        | .acc a => .acc (a.move old new)
        | b => b } } }
/-- The open digest regions of a context follow stores that have moved, all at once, from tile to tile (R210, R274). -/
def moveRegions (s : State) (c : Nat) (moves : List (Nat × Nat)) : State :=
  let home (h : Home) : Home := match h with
    | .tile t off => .tile (((moves.find? fun m => m.1 == t).map (·.2)).getD t) off
    | h => h
  s.modCtx c fun k => { k with regions := k.regions.map fun (r : Nat × Region) =>
    (r.1, { r.2 with homes := r.2.homes.map fun h => (h.1, home h.2) }) }
/-- The number by which a saved tile's store goes in the homes of regions, beyond every tile's: its words stand in the save area and change
only there. DEDUCED: notes/assumptions/8.md. -/
def parkedTile (sq key : Nat) : Nat := Config.numTiles + sq * 2 ^ 32 + key
/-- Circuits of a placement with the links they now cross. -/
def relink (s : State) (img : Image) (place : Tbl Nat) : State :=
  (placeTiles img place).foldl (fun s e => s.modTile e.2.2 fun x => { x with outq := x.outq.map fun q =>
    (q.1, { q.2 with links := match q.2.dest.bind fun k => place.find? fun p => p.1 == k.1 with
      | some p => hops e.2.2 p.2
      | none => q.2.links }) }) s

/-! ## Save (R278, R387-R391) -/

/-- The task of a tile has ended or a checkpoint has stopped it, on its anchor (R278, R389); nothing of a fail-stopped tile leaves it
(R381). -/
def taskStopped (s : State) (t : Nat) : Bool :=
  let a := (team s t).headD t
  ((s.tile a).sch.task.isNone || stopped s a) && !(s.tile t).failStop
/-- A tile whose task has ended or stopped, and of which nothing is under way but for its stream ports (R389). -/
def saveQuiet (s : State) (t : Nat) : Bool :=
  let x := s.tile t
  taskStopped s t && (chainedOf s t false).isEmpty && x.eng.copies.isEmpty && x.eng.dreqs.isEmpty && x.pu.q.isEmpty && x.net.isEmpty &&
    x.pend.all (fun p => match p.what with
      | .claim _ _ _ _ => true
      | .lds _ _ => true
      | .again _ _ => true
      | _ => false) && !(s.sec.quotes.any (·.tile == t))
/-- A tile whose save can be written: its ports have halted too (R389). -/
def saveReady (s : State) (t : Nat) : Bool := saveQuiet s t && (s.tile t).eng.ports.all (·.2.st != 1)
/-- The tiles of a configuration by save block · 8 + member. -/
def savedTiles (s : State) (c : Cfg) : List (Nat × Tile) := c.members.map fun e => (8 * e.1 + e.2.1, s.tile e.2.2)
/-- Write what a member of a configuration saves: the header before block 0 (R388); a gang's followers have no block of their
own. The answer is the base and the offset of the store that faults, or none with whether one waits. -/
def writeSave (s : State) (c : Cfg) (blk k t : Nat) : State × Option (Option (Nat × Nat)) :=
  let write (base n : Nat) (m : Memory) (s : State) : State × Option (Option (Nat × Nat)) :=
    let (s, r) := writePieces s t c.ctx base m 0 n
    (s, r.map fun o => o.map fun off => (base, off))
  if k != 0 then (s, none)
  else match if blk = 0 then write (saveBase s c.ctx) 1 (headerCells s c) s else (s, none) with
    | (s, none) => write (blockBase s c.ctx blk) 512 (blockCells (s.tile t) (latchedInto (savedTiles s c) c.slots blk)) s
    | r => r
/-- TADDR of the DUE that reading every register of some files meets, the patch's accumulators among them (R15, R381). -/
def Tile.regsBad (x : Tile) (p : RegKind → Bool) : Option Word :=
  match x.regs.parity.find? fun e => p e.1 with
  | some e => some (regDue e.1 e.2)
  | none => (x.pu.st.pa0.bad ++ x.pu.st.pa1.bad.map (4096 + ·)).head?.map (regDue .pa)
/-- Read the whole store of a tile and the registers of some files, to save or to move them: single-bit errors are corrected, and what is
uncorrectable fail-stops the tile (R15, R381): the error is its TADDR. -/
def readTile (s : State) (t : Nat) (p : RegKind → Bool) : Except Word State :=
  match (s.tile t).regsBad p, homeRead s (.tile t 0) Config.storeBytes with
  | some a, _ => .error a
  | none, .ok (_, s) => .ok s
  | none, .error u => .error (BitVec.ofNat 64 (8 * u))
/-- The stream ports that run on a quiet tile halt as by SPHALT, each after its element in progress, and go on at restore (R389). -/
def haltPorts (s : State) (t : Nat) : State :=
  if saveQuiet s t then s.modTile t fun x => { x with eng := { x.eng with ports := x.eng.ports.map fun p =>
    (p.1, if p.2.st = 1 && p.2.acc.isNone then { p.2 with st := 2, resume := true } else p.2) } }
  else s
/-- Try to save one member of a configuration that is being saved, whose members have all stopped. -/
def saveMember (s : State) (sq : Nat) (e : Nat × Nat × Nat) : State :=
  let (blk, k, t) := e
  match s.cfg sq with
  | none => s
  | some c =>
    let key := 8 * blk + k
    if c.saveDone.contains key || c.saveBad.contains key then s
    else match readTile s t (· != .c) with
    | .error a => failStopTile s t a
    | .ok s =>
      match writeSave s c blk k t with
      | (s, none) => s.modCfg sq fun c => { c with saveDone := c.saveDone ++ [key] }
      | (s, some none) => s
      | (s, some (some (base, off))) =>
        let s := tileEvent s t 0x0C 0x11 (BitVec.ofNat 64 (base + off)) (BitVec.ofNat 64 off)
        s.modCfg sq fun c => { c with saveBad := c.saveBad ++ [key] }
/-- Go on with the save of a configuration: its members' blocks are written once all of them have stopped, so that no token is in two of
them or in none (R389, R409); once every block is written its tiles are free (R390), and a victim of
pre-emption returns to the head of its stream behind the newcomer (R278). -/
def settleSave (s : State) (sq : Nat) : State :=
  match s.cfg sq with
  | none => s
  | some c =>
    if c.st != .saving then s
    else
      let ms := c.members
      let s := ms.foldl (fun a e => haltPorts a e.2.2) s
      let s := if ms.all fun e => saveReady s e.2.2 then ms.foldl (fun a e => saveMember a sq e) s else s
      let c := (s.cfg sq).getD c
      if ms.all fun e => c.saveDone.contains (8 * e.1 + e.2.1) then
        let back := c.resume
        let saver := c.saver
        let c := { c with st := .waiting, saveDone := [], saveBad := [], saver := none }
        let sv : Saved := ⟨c, savedTiles s c⟩
        let s := moveRegions s c.ctx (ms.map fun e => (e.2.2, parkedTile sq (8 * e.1 + e.2.1)))
        let s := c.tiles.foldl unloadTile s
        let s := { s with taken := s.taken.filter fun t => !c.tiles.contains t }
        let s := s.modCtx c.ctx fun k => { k with saved := k.saved ++ [sv] }
        let s := match saver with
          | some u => starterReply s u 0
          | none => s
        if back then
          let s := s.modCfg sq fun _ => c.unplaced
          s.modPart c.owner fun p => { p with order := p.order.take 1 ++ [sq] ++ p.order.drop 1 }
        else { s with cfgs := s.cfgs.filter (·.sq != sq) }
      else s

/-- The remaining estimate of a task (R278). -/
def remaining (x : Tile) (k : Task) : Nat := k.est - (x.sch.cycles - k.startCyc)
/-- Treat the running task of a victim's tile (R278): drain, kill, or checkpoint; a gang's task is its anchor's. DEDUCED: notes/assumptions/34.md. -/
def treatVictim (s : State) (t : Nat) : State :=
  let x := s.tile t
  match if (team s t).headD t = t && !committing s t then x.sch.task else none with
  | none => s
  | some k =>
    let cyc := ((s.partOf t).map fun p => p.drainmax.toNat % 2 ^ 32).getD 0
    if remaining x k ≤ cyc then
      s.modTile t fun x => { x with sch := { x.sch with task := some { k with drainAt := some (x.sch.cycles + 2 * cyc) } } }
    else if !k.immediate && k.policy != 1 then requeue s t
    else s
/-- Pre-empt a running configuration: without a save area it is killed (R387), at the instruction boundaries of its tasks (R398). DEDUCED:
notes/assumptions/34.md. -/
def preempt (s : State) (sq : Nat) : State :=
  match s.cfg sq with
  | none => s
  | some c =>
    if !nbit (s.ctx c.ctx).savebase.toNat 0 then (if killWaits s c.tiles then s else killCfg s sq stKilled)
    else
      let s := s.modCfg sq fun c => { c with st := .saving, resume := true, saveDone := [], saveBad := [], saver := none }
      c.members.foldl (fun a e => treatVictim a e.2.2) s

/-- The bytes of a save block as the context's tables map them (R391), n pieces of 4 KiB from piece k on; one that cannot be read stays as
`m` has it, as it was saved. DESIGN CHOICE: notes/assumptions/8.md. -/
def readBlock (c base : Nat) : Nat → Nat → Memory → State → Memory × State
  | _, 0, m, s => (m, s)
  | k, n + 1, m, s => match readVa s c (base + 4096 * k) 4096 with
    | some (h, _, s) =>
      let (st, a) := s.homeStore h
      readBlock c base (k + 1) n (copyCells st.bytes m a (4096 * k) 4096) s
    | none => readBlock c base (k + 1) n m s
/-- A saved LDS of global memory is to issue again, once its task goes on (R222, R389); one of a tile store waits there. -/
def Pend.withdraw (p : Pend) : Pend :=
  match p.what with
  | .lds a take => if a.parts.all (fun q => match q.home with | .tile _ _ => true | _ => false) then p else { p with what := .again a take }
  | _ => p
/-- A saved tile as its block gives it, with the tokens latched on the circuits into it (R391, R409): of what a block has no room for the tile
keeps its own; a gang's follower has no block. -/
def restoredTile (s : State) (sv : Saved) (blk k : Nat) (x : Tile) : Tile × List Beside × State :=
  if k != 0 then ({ x with store := { x.store with bad1 := [], bad2 := [] } }, [], s)
  else
    let latched := latchedInto sv.tiles sv.cfg.slots blk
    let (m, s) := readBlock sv.cfg.ctx (blockBase s sv.cfg.ctx blk) 0 512 (blockCells x latched) s
    (unblock m x, getLatched m ++ latched.drop (besideMax - x.waiting.length), s)
/-- A restored tile on its new place: placed anew for the rebalancer (R273), a stopped actor runs again. -/
def Tile.restored (x : Tile) (k t : Nat) : Tile :=
  { x with
    inq := x.inq.map fun (q : Nat × InQ) => (q.1, { q.2 with hot := false, hotPrev := false })
    gang := x.gang.map fun g => { g with anchor := t - k }
    pend := x.pend.map Pend.withdraw
    sch := { x.sch with
      halted := none
      actor := x.sch.actor.map fun a =>
        { a with stopped := false, moveTo := none, fresh := true, movedNow := false, movedPrev := false } } }
/-- Restored tokens in the latches of a tile's circuits. -/
def Tile.relatch (x : Tile) (key : Nat) (l : List Beside) : Tile :=
  { x with outq := x.outq.map fun (o : Nat × OutQ) =>
    (o.1, { o.2 with latch := (l.filter fun b => b.src == some (key, o.1)).map (·.tok) }) }
/-- Load one run of a saved configuration into a placement, each tile from its block (R391): its ports resume when it starts. The digests
follow the words that an edit of the save area changed, and the words that the stores replace (R194). DESIGN CHOICE:
notes/assumptions/8.md. -/
def loadSaved (s : State) (sv : Saved) (run : Nat) (place : Tbl Nat) : State :=
  let c := sv.cfg
  let ms := (placeTiles c.image place).map fun e => (run * c.slots + e.1, e.2.1, e.2.2)
  let was (e : Nat × Nat × Nat) : Nat := ((c.members.find? fun m => m.1 == e.1 && m.2.1 == e.2.1).map (·.2.2)).getD e.2.2
  let (tiles, latched, s) := ms.foldl (fun (acc : List (Nat × Nat × Nat × Tile × Tile) × List Beside × State) e =>
    match sv.tiles.find? fun k => k.1 == 8 * e.1 + e.2.1 with
    | none => acc
    | some (_, x) =>
      let (y, l, s) := restoredTile acc.2.2 sv e.1 e.2.1 x
      (acc.1 ++ [(e.1, e.2.1, e.2.2, x, y)], acc.2.1 ++ l, s)) ([], [], s)
  let s := tiles.foldl (fun s e =>
    let (blk, k, t, x, y) := e
    let key := 8 * blk + k
    let s := digestStore s (parkedTile c.sq key) x.store y.store
    let s := digestStore s t (s.tile t).store y.store
    s.modTile t fun d => ((y.moveTo d (was (blk, k, t)) t).restored k t).relatch key latched) s
  relink (moveRegions s c.ctx (ms.map fun e => (parkedTile c.sq (8 * e.1 + e.2.1), e.2.2))) c.image place

/-! ## The placement order (R268, R269, R271, R276) -/

/-- Fields of a list of tiles. -/
def fieldsOf (ts : List Nat) : List Nat := (ts.map fieldOf).eraseDups
/-- A configuration with the placement of run k and its reserve tiles. -/
def Cfg.placed (c : Cfg) (k : Nat) (place : Tbl Nat) (res : List Nat) : Cfg :=
  let c := if c.redundant && decide (c.runs.length ≤ k) then { c with runs := c.runs ++ [({ place := [], pages := [] } : RedRun)] } else c
  { (c.setPlace k place) with reserves := c.reserves ++ res }
/-- The run that is placed next: the first that has no place, else a new one. -/
def Cfg.nextRun (c : Cfg) : Nat :=
  if c.redundant then ((findIx (fun r : RedRun => c.resume && r.place.isEmpty) c.runs).map (·.1)).getD c.runs.length else 0
/-- A run of a redundant configuration is still to be placed: A or B (R394), or one that comes back. -/
def Cfg.moreRuns (c : Cfg) : Bool := c.redundant && (decide (c.runs.length < 2) || (c.resume && c.runs.any (·.place.isEmpty)))
/-- Place the next run of a configuration by R270, a redundant one's with every field that its other runs use excluded (R394, R395). -/
def placeNext (s : State) (p : Partition) (c : Cfg) (free : Nat → Bool) : Option (Tbl Nat × List Nat) :=
  let used := fieldsOf c.tiles
  placeImage s p c.image fun t => free t && !used.contains (fieldOf t)
/-- Put the placement of a run into effect: tiles taken, frames loaded or the saved state reloaded (R268, R391). -/
def takePlace (s : State) (c : Cfg) (place : Tbl Nat) (res : List Nat) : State :=
  let k := c.nextRun
  let s : State := { s with taken := s.taken ++ (placeTiles c.image place).map (fun e => e.2.2) ++ res }
  let s := s.modCfg c.sq fun c => { c.placed k place res with placedAt := s.now, placeNo := s.placeNext }
  let s := repin { s with placeNext := s.placeNext + 1 } c.ctx
  match if c.resume then (s.ctx c.ctx).saved.find? (·.cfg.sq == c.sq) else none with
  | some sv => loadSaved s sv k place
  | none => loadAll s c.sq c.image place
/-- A configuration all of whose runs have their places is staged or placed, and leaves the order; what was saved of it is loaded. -/
def donePlacing (s : State) (c : Cfg) : State :=
  let s := s.modCfg c.sq fun c => { c with st := if c.stage then .staged else .placed }
  let s := s.modPart c.owner fun p => { p with order := p.order.filter (· != c.sq) }
  if c.resume then s.modCtx c.ctx fun k => { k with saved := k.saved.filter (·.cfg.sq != c.sq) } else s

/-- Victims that let a newcomer fit (R276), by a test of a set of free tiles: running configurations of contexts of lower priority,
lowest first, then the latest placed. -/
def victims (s : State) (c : Cfg) (fitsIn : (Nat → Bool) → Bool) : Option (List Nat) :=
  let prio (k : Cfg) : Nat := (s.ctx k.ctx).prio
  let cands := s.cfgs.filter fun k => k.owner == c.owner && k.st = .running && decide (prio k < prio c)
  let sorted := cands.mergeSort fun a b => decide (prio a < prio b) || (prio a == prio b && decide (b.placeNo ≤ a.placeNo))
  let fits (n : Nat) : Bool :=
    let freed := ((sorted.take n).map Cfg.tiles).flatten
    fitsIn fun t => !(s.tile t).fenced && (!s.taken.contains t || freed.contains t)
  ((List.range sorted.length).find? fun n => fits (n + 1)).map fun n => (sorted.take (n + 1)).map (·.sq)
/-- A newcomer that does not fit waits, behind the saves of a pre-emption under way or of the victims it takes now. -/
def preemptFor (s : State) (p : Partition) (c : Cfg) (fitsIn : (Nat → Bool) → Bool) : State :=
  if s.cfgs.any fun k => k.st = .saving && k.resume && k.owner == p.owner then s
  else match victims s c fitsIn with
    | some vs => vs.foldl preempt s
    | none => s

/-- Words of the argument block, n from an address on (R418). -/
def readArgs (c : Nat) : Nat → Nat → State → Option (List Word × State)
  | _, 0, s => some ([], s)
  | va, n + 1, s => match readVa s c va 8 with
    | none => none
    | some (_, bs, s) => (readArgs c (va + 8) n s).map fun (r, s) => (BitVec.ofNat 64 (ofBytes bs) :: r, s)
/-- Read the argument block as the frames are loaded (R418, R433); none where it cannot be read. DEDUCED: notes/assumptions/39.md. -/
def loadArgs (s : State) (c : Cfg) : Option (Cfg × State) :=
  if c.resume || !c.args.isEmpty then some (c, s)
  else (readArgs c.ctx c.argsVa.toNat c.argn s).map fun (args, s) =>
    ({ c with args := args, image := { c.image with actors := c.image.actors.map (·.subst args) } }, s)
/-- What became of the configuration at the head of a partition's order. -/
inductive Head where
  | moved (s : State)
  | stuck (s : State)
/-- A configuration whose frames fail their checks at load: it has its tiles until its end notice, and ends without starting (R269). -/
def rejectPlaced (s : State) (c : Cfg) (place : Tbl Nat) (res : List Nat) : State :=
  let s : State := { s with taken := s.taken ++ (placeTiles c.image place).map (fun e => e.2.2) ++ res }
  finishCfg (s.modCfg c.sq fun _ => c.placed c.nextRun place res) c.sq stRejected
/-- Load a configuration whose next run has found its tiles; its arguments, frames and circuits must pass (R269). -/
def loadPlaced (s : State) (p : Partition) (c : Cfg) (place : Tbl Nat) (res : List Nat) : State :=
  match loadArgs s c with
  | none => rejectPlaced s c place res
  | some (c, s) =>
    if !(c.image.loads && circuitsInside p c.image place) then rejectPlaced s c place res
    else
      let s := takePlace (s.modCfg c.sq fun _ => c) c place res
      if ((s.cfg c.sq).map (·.moreRuns)).getD false then s else donePlacing s c
/-- Try to place a configuration that stands at the head of its partition's order (R276, R394). Whether it fits with every free bit set is
tested once, as it reaches the head, with STATE and CLASS as they stand then (R269); a third run that finds no fields waits (R395). -/
def placeCfg (s : State) (p : Partition) (c : Cfg) : Head :=
  if !c.image.fits then .moved (finishCfg s c.sq stNofit)
  else match placeNext s p c s.freeBit with
    | some (place, res) => .moved (loadPlaced s p c place res)
    | none =>
      let untested := decide (c.fitted ≤ c.nextRun) && (c.resume || !c.redundant || decide (c.runs.length < 2))
      if untested && (placeNext s p c fun _ => true).isNone then .moved (finishCfg (c.tiles.foldl unloadTile s) c.sq stNofit)
      else .stuck (preemptFor (s.modCfg c.sq fun c => { c with fitted := c.nextRun + 1 }) p c fun f => (placeNext s p c f).isSome)
/-- Try the configuration at the head of a partition's placement order (R269). -/
def placeHead (s : State) (p : Partition) : Head :=
  match p.order with
  | [] => .stuck s
  | sq :: rest => match s.cfg sq with
    | none => .moved (s.modPart p.owner fun p => { p with order := rest })
    | some c => placeCfg s p c
/-- Place what a partition's order lets through. -/
def placePart (s : State) (owner : Nat) : Nat → State
  | 0 => s
  | fuel + 1 => match s.part owner with
    | none => s
    | some p =>
      if p.frozen then s
      else match placeHead s p with
        | .moved s => placePart s owner fuel
        | .stuck s => s
def placeAll (s : State) : State :=
  s.parts.foldl (fun a p => placePart a p.owner (3 * p.order.length + 3)) s

/-! ## The end of a configuration (R255, R268, R175) -/

/-- Move a tile between usable and spare (R33); no other STATE changes so. DEDUCED: notes/assumptions/43.md. -/
def applyTileReq (s : State) (t : Nat) (spare : Bool) : State :=
  if s.tileState t ≤ 1 then s.setTileState t (if spare then 1 else 0) else s
/-- At a configuration boundary of a partition new values of partition-wide registers and groups take effect (R183, R308),
tiles move between usable and spare (R33), and a stopped group whose collectives are gone starts again at ordinal 0 (R397). -/
def cfgBoundary (s : State) (owner : Nat) : State :=
  let s := s.modPart owner fun p => { p with chgapt := p.chgaptNext, chretry := p.chretryNext }
  let (mine, rest) := s.tileReq.partition fun e => s.ownerOf e.1 == owner
  let s := mine.foldl (fun a e => applyTileReq a e.1 e.2) { s with tileReq := rest }
  let again := s.coll.stopped.filter fun g => !(s.coll.out.any (·.g == g))
  { s with coll := { s.coll with
    grp := s.coll.grpNext
    stopped := s.coll.stopped.filter fun g => !again.contains g
    ord := again.foldl (fun m g => tset 0 m g 0) s.coll.ord
    barDone := again.foldl (fun m g => tset 0 m g 0) s.coll.barDone } }
/-- Handle an end notice (R268): the tiles are free; a configuration whose verdict is still to come is kept for it. -/
def handleEnd (s : State) (sq : Nat) : State :=
  match s.cfg sq with
  | none => s
  | some c =>
    let s := c.tiles.foldl (fun a t => if ((a.tile t).sch.actor.map (·.cfg)).getD sq = sq then unloadTile a t else a) s
    let s := { s with taken := s.taken.filter fun t => !c.tiles.contains t }
    let s := cfgBoundary (cutOutside s sq) c.owner
    if c.snapAt.isSome then s.modCfg sq fun c => { c with st := .ended, place := [], reserves := [] }
    else { s with cfgs := s.cfgs.filter (·.sq != sq) }

/-- A placement has come to rest: every actor done, no task, record, message, access, engine operation or patch command
left (R255, R175). -/
def restful (s : State) (img : Image) (place : Tbl Nat) : Bool :=
  (placeTiles img place).all fun e =>
    let x := s.tile e.2.2
    (e.2.1 != 0 || (x.sch.actor.map (·.done)).getD false) && x.sch.task.isNone && x.sch.runl.isEmpty && x.sch.ready.isEmpty &&
      x.sch.links.isEmpty && x.sch.sent.isEmpty && x.sch.retBuf.isEmpty && (outstanding s e.2.2).isEmpty &&
      x.eng.copies.isEmpty && x.eng.dreqs.isEmpty && x.pu.q.isEmpty && x.eng.ports.all (fun p => p.2.st != 1)
/-- What a configuration holds outside its tiles has come to rest. -/
def outsideRest (s : State) (sq : Nat) : Bool :=
  !(s.coll.out.any (·.cfg == sq)) && !(s.sec.quotes.any (·.cfg == sq)) &&
    s.slices.all fun e => e.2.ents.all fun a => match e.2.chains.find? fun c => c.1 == a.tag.ch with
      | some c => c.2.cfg != sq
      | none => true

/-! ## Redundant runs (R394, R395) -/

/-- Keys a0 b0 c0 d0 a1 b1 c1 d1 of a 32-byte seed (R193). -/
def digestKeys (seed : List Byte) : List Nat :=
  let o := shake256 seed 64
  (List.range 8).map fun i =>
    let k := ofBytes ((o.drop (8 * i)).take 8) % digestP
    if k = 0 && (i % 4 == 0 || i % 4 == 2) then 1 else k
/-- The slice that a SLICE page's entry names (R27). -/
def leafSlice (p : Nat) : Option Nat := if nbit p 11 then some (nfld p 56 8) else none
/-- The bytes of the page at a virtual address: the size of its leaf. -/
def leafOf (s : State) (c va : Nat) : Option (Nat × Nat × Nat) :=
  [16, 21, 29].findSome? fun leaf => (walk s.dram.bytes va (s.ctx c).root leaf levels).map fun e => (leaf, e.1, e.2)
/-- The signature of a run: two lanes over every word of every page it copied (R394). -/
def runSig (s : State) (c : Cfg) (r : RedRun) : Nat × Nat :=
  let keys := digestKeys c.image.cmeas
  let reg : Region := { len := 0, homes := [], keys := keys }
  r.pages.foldl (fun acc e =>
    let size := 2 ^ (((leafOf s c.ctx e.1).map (·.1)).getD 16)
    (List.range (size / 4)).foldl (fun acc i =>
      let o := (e.1 + 4 * i - 2 ^ 48) / 4 % digestP
      let h := reg.hash o (s.dram.word (e.2 + 4 * i))
      ((acc.1 + h.1) % digestP, (acc.2 + h.2) % digestP)) acc) (0, 0)
/-- Drop the gateways' entries for a page (R170, R197). -/
def dropTlb (s : State) (c : Nat) (va size : Nat) : State :=
  let keepE (e : TlbEnt) : Bool := e.ctx != c || e.vpn * pageBytes e.size / size != va / size
  { s with fields := s.fields.map fun f => (f.1, { f.2 with tlb := f.2.tlb.filter keepE, locked := f.2.locked.filter keepE }) }
/-- A home after a range has moved. DEDUCED: notes/assumptions/42.md. -/
def Home.shift (old n new : Nat) (h : Home) : Home :=
  match h with
  | .dram x => if decide (old ≤ x) && decide (x < old + n) then .dram (x - old + new) else .dram x
  | h => h
/-- A part of an access after a range has moved: its home, and the slice that serves it, which a SLICE page names (R27). -/
def Part.shift (old n new : Nat) (sl : Option Nat) (p : Part) : Part :=
  match p.home with
  | .dram x => if decide (old ≤ x) && decide (x < old + n) then
      { p with home := .dram (x - old + new), slice := sl.getD (sliceOfPa (x - old + new)) }
    else p
  | _ => p
def Acc.shift (old n new : Nat) (sl : Option Nat) (a : Acc) : Acc := { a with parts := a.parts.map (·.shift old n new sl) }
def EngAcc.shift (old n new : Nat) (sl : Option Nat) (g : EngAcc) : EngAcc :=
  { g with parts := g.parts.map (·.shift old n new sl), done := g.done.map (·.shift old n new sl) }
/-- The granules that the engines of a tile are writing or reading after a range has moved. -/
def Engines.shift (old n new : Nat) (sl : Option Nat) (e : Engines) : Engines :=
  { e with
    ports := e.ports.map fun (p : Nat × Port) => (p.1, { p.2 with acc := p.2.acc.map (·.shift old n new sl) })
    copies := e.copies.map fun (o : CopyOp) => { o with acc := o.acc.map (·.shift old n new sl) }
    dreqs := e.dreqs.map fun (d : DreqOp) => { d with acc := d.acc.map (·.shift old n new sl) } }
/-- The accesses of a tile, on their way, waiting or buffered, after a range has moved. DEDUCED: notes/assumptions/42.md. -/
def Tile.shift (x : Tile) (old n new : Nat) (sl : Option Nat) : Tile :=
  { x with
    net := x.net.map (·.shift old n new sl)
    eng := x.eng.shift old n new sl
    pend := x.pend.map fun p => match p.what with
      | .lds a take => { p with what := .lds (a.shift old n new sl) take }
      | .again a take => { p with what := .again (a.shift old n new sl) take }
      | _ => p
    sch := { x.sch with fx := { x.sch.fx with sb := x.sch.fx.sb.map fun b => match b with
      | .acc a => .acc (a.shift old n new sl)
      | b => b } } }
/-- What names the old place of a page that has moved now names the new one, in saved tiles too (R197); a SLICE page names its slice. DEDUCED: notes/assumptions/42.md. -/
def relocate (s : State) (old n new : Nat) (sl : Option Nat) : State :=
  { s with
    ctxs := s.ctxs.map fun (c : Nat × Ctx) => (c.1, { c.2 with
      regions := c.2.regions.map fun (r : Nat × Region) =>
        (r.1, { r.2 with homes := r.2.homes.map fun (h : Nat × Home) => (h.1, h.2.shift old n new) })
      saved := c.2.saved.map fun v => { v with tiles := v.tiles.map fun (e : Nat × Tile) => (e.1, e.2.shift old n new sl) } })
    tiles := s.tiles.map fun (e : Nat × Tile) => (e.1, e.2.shift old n new sl) }
/-- Switch the translation of a page to another physical place (R197 step 5), by a change of its leaf, which can be read: low bit, place
and content. -/
def switchPage (s : State) (c va newPa : Nat) (slice : Option (BitVec 8)) (e : Nat × Nat × Nat) : State :=
    let (leaf, at_, p) := e
    let p := p - nfld p 16 36 * 65536 + newPa / 65536 % 2 ^ 36 * 65536
    let p := match slice with
      | some n => p % 2 ^ 56 - (if nbit p 11 then 2 ^ 11 else 0) + 2 ^ 11 + n.toNat * 2 ^ 56
      | none => p
    dropTlb (rawWrite (touchWindows s (.dram at_) 8) (.dram at_) (toBytes 8 p)) c va (2 ^ leaf)
/-- The leaf of a page whose translation is to be switched, or the state after a switch that cannot be made: there is none, or it is
uncorrectable (R28). -/
def leafToSwitch (s : State) (c va : Nat) : Except State (Nat × Nat × Nat) :=
  match leafOf s c va with
  | none => .error s
  | some e => if (s.dram.badRead e.2.1 8).isSome then .error (pteDue s e.2.1) else .ok e
/-- A page of a run that commits now stands at the run's copy: open digests take in the words in which the copy differs (R194), what
names the old place names the copy, and the translation is switched (R395). DEDUCED: notes/assumptions/42.md. -/
def commitPage (s : State) (ctx va copy : Nat) : State :=
  match leafToSwitch s ctx va with
  | .error s => s
  | .ok e =>
    let (leaf, _, p) := e
    let n := 2 ^ leaf
    let old := ptePa p / n * n
    let seen : Store := { s.dram with bytes := copyRange s.dram.bytes copy old n }
    switchPage (relocate (digestWrite s (.dram old) n s.dram seen) old n copy (leafSlice p)) ctx va copy none e
/-- Commit a run: each page it copied now stands at its copy (R395). -/
def commitRun (s : State) (c : Cfg) (k : Nat) : State :=
  match c.runs[k]? with
  | none => s
  | some r => r.pages.foldl (fun a e => commitPage a c.ctx e.1 e.2) s

end Sys2Proof.Machine
end

