-- ==== Sys2Proof/Machine/SystemOps.lean ====
section
/-! DEFINITION. The meanings of group 7: CSRs (R402), traps (R403), halt groups (R399, R400, R405), timing (R404), attestation and
sealing (R361-R364), capability tables (R365), digest regions (R406), containment, kills and pre-emption (R407). -/

namespace Sys2Proof.Machine

/-! ## CSRs (R402) -/

/-- The access checks of a CSR, before the predicate (R56, R402). DEDUCED: notes/assumptions/31.md. -/
def csrCheck (n : Nat) : M Unit := do
  let s ← getS
  match csrLevel n with
  | none => illop
  | some .user => pure ()
  | some .userRo => pure ()
  | some _ => if s.refLevel s.cur then pure () else stop .priv
/-- An access of FFLAGS waits for the flags of the producers in flight (R85). DEDUCED: notes/assumptions/32.md. -/
def flagsReady (n : Nat) : M Unit := do
  let x ← getT
  await (n != 0x001 || x.pend.all fun p => match p.what with
    | .value _ _ => false
    | _ => true)
def csrNum (f : FI) : Nat := f.imm.toNat % 4096
/-- A loop counter that is read by its CSR (R15, R287). -/
def counterGood (n : Nat) : M Unit := if 8 ≤ n && decide (n ≤ 10) then parityGood .lc (n - 8) else pure ()
/-- csrr. DEDUCED: notes/assumptions/31.md. -/
def csrrM (f : FI) : M Go := do
  let n := csrNum f
  csrCheck n
  whenBit0 f.p do
    dstReady true f.dst.toNat
    flagsReady n
    counterGood n
    let s ← getS
    writeG f.dst.toNat (csrRead s s.cur n)
    pure .on
/-- csrw, csrs and csrc: a CSR whose fields are all RO ignores the write. DEDUCED: notes/assumptions/31.md. -/
def csrModM (o : CsrOp) (f : FI) : M Go := do
  let n := csrNum f
  csrCheck n
  whenBit0 f.p do
    if f.dk then dstReady true f.dst.toNat
    flagsReady n
    let a ← readScalar f.a
    if f.dk || o != .write then counterGood n
    let s ← getS
    if f.dk then writeG f.dst.toNat (csrRead s s.cur n)
    modS fun s => csrStore s s.cur n o a
    pure .on
def csrwM (f : FI) : M Go := csrModM .write f
def csrsM (f : FI) : M Go := csrModM .set f
def csrcM (f : FI) : M Go := csrModM .clear f

/-! ## Traps (R403) and time (R404) -/

/-- trap. -/
def trapM (f : FI) : M Go := whenBit0 f.p do
  trap 0x1A (f.imm.setWidth 64)
/-- eret. -/
def eretM (f : FC) : M Go := whenBit0 f.p do
  jumpTo (← returnFromTrap (nbit f.aux.toNat 0))
/-- brk. -/
def brkM (f : FC) : M Go := whenBit0 f.p do
  trap 0x16 (f.aux.setWidth 64)
/-- rdtime. -/
def rdtimeM (f : FI) : M Go := whenBit0 f.p do
  dstReady true f.dst.toNat
  writeG f.dst.toNat (BitVec.ofNat 64 (← getS).now)
  pure .on
/-- Counter n of RDPERF. -/
def Tile.counter (x : Tile) (n : Nat) : Word := if n = 0 then BitVec.ofNat 64 x.sch.cycles else tget 0 x.sch.perf n
/-- rdperf. -/
def rdperfM (f : FI) : M Go := whenBit0 f.p do
  dstReady true f.dst.toNat
  writeG f.dst.toNat ((← getT).counter (f.imm.toNat % 8))
  pure .on

/-! ## Halt groups (R399, R400, R405) -/

/-- A tile of the referee's own partition, else OWNER (R346, R405). -/
def needTile (a : Word) : M Nat := do
  let s ← getS
  if decide (a.toNat < Config.numTiles) && s.ownerOf a.toNat == s.ownerOf s.cur then pure a.toNat else trap 0x0F a
/-- A tile that answers a request: one that is dead or fenced returns DEAD, one that has fail-stopped answers nothing until it is
declared dead (R34, R381, R383). DEDUCED: notes/assumptions/35.md. -/
def needLive (a : Word) : M Nat := do
  let t ← needTile a
  let s ← getS
  if s.unreachable t then trap 0x10 (deadTaddr a)
  else
    await !(s.tile t).failStop
    pure t
/-- Members of a halt group, or all the tiles of the partition. DEDUCED: notes/assumptions/35.md. -/
def groupTiles (s : State) (owner g : Nat) : List Nat :=
  match s.part owner with
  | none => []
  | some p => p.raster.filter fun t => (g == 64 || (s.tile t).sch.haltGrp == some g) && !s.unreachable t && !(s.tile t).failStop
/-- Resume a halted tile; a frozen one stays (R369). DEDUCED: notes/assumptions/18.md. -/
def resumeTile (s : State) (t : Nat) : State := s.modTile t fun x =>
  if x.sch.halted = some .frozen then x else { x with sch := { x.sch with halted := none } }
/-- hgrp.set. -/
def hgrpSetM (f : FE) : M Go := do
  needReferee
  whenBit0 f.p do
    let a ← readG f.ga.toNat false
    let g := (← readG f.gb.toNat false).toNat
    let t ← needLive a
    need (decide (g ≤ 64))
    let s ← getS
    if g < 64 && s.tiles.any fun e => e.2.sch.haltGrp == some g && s.ownerOf e.1 != s.ownerOf t then trap 0x0F a
    modS (·.modTile t fun x => { x with sch := { x.sch with haltGrp := if g = 64 then none else some g } })
    pure .on
/-- A tile of a halt group that halts by HGRP.HALT; the record of one that issues the instruction counts it, since it halts as that has
retired (R399). -/
def haltMember (issuers : List Nat) (s : State) (t : Nat) : State :=
  if issuers.contains t && (s.tile t).sch.halted.isNone then
    (haltTile s t .group).modTile t fun x => { x with sch := { x.sch with hrec := (x.perfAdd 1 1).sch.haltRec } }
  else haltTile s t .group
/-- hgrp.halt: a HALT event names the group and its first tile. -/
def hgrpHaltM (f : FE) : M Go := do
  needReferee
  whenBit0 f.p do
    let g := (← readG f.gb.toNat false).toNat
    need (decide (g ≤ 64))
    modS fun s => match groupTiles s (s.ownerOf s.cur) g with
      | [] => s
      | t :: ts => tileEvent ((t :: ts).foldl (haltMember (gangTiles s s.cur)) s) t 0x0D 0 (BitVec.ofNat 64 g) (BitVec.ofNat 64 t)
    pure .on
/-- hgrp.res. -/
def hgrpResM (f : FE) : M Go := do
  needReferee
  whenBit0 f.p do
    let g := (← readG f.gb.toNat false).toNat
    need (decide (g ≤ 64))
    modS fun s => (groupTiles s (s.ownerOf s.cur) g).foldl resumeTile s
    pure .on
/-- hgrp.step: a halted tile runs until one instruction has been issued (R400). DEDUCED: notes/assumptions/18.md. -/
def hgrpStepM (f : FE) : M Go := do
  needReferee
  whenBit0 f.p do
    let t ← needLive (← readG f.ga.toNat false)
    modS fun s => s.modTile t fun x =>
      let x := if nbit f.cmd.toNat 5 then { x with csr := { x.csr with enghold := true } } else x
      if x.sch.halted.isNone || x.sch.halted == some .frozen then x
      else { x with sch := { x.sch with halted := none, stepping := true } }
    pure .on
/-- hgrp.restile: with ENG it first clears FAULT (R380). -/
def hgrpRestileM (f : FE) : M Go := do
  needReferee
  whenBit0 f.p do
    let t ← needLive (← readG f.ga.toNat false)
    modS fun s => resumeTile (if nbit f.cmd.toNat 4 then s.modTile t Tile.clearFault else s) t
    pure .on
/-- hgrp.stat. -/
def hgrpStatM (f : FE) : M Go := do
  needReferee
  whenBit0 f.p do
    dstReady true f.gc.toNat
    let t ← needLive (← readG f.ga.toNat false)
    let x := (← getS).tile t
    writeG f.gc.toNat (BitVec.ofNat 64 ((if x.sch.halted.isSome then 1 else 0) + x.csr.tcause.toNat % 256 * 256 +
      x.regs.pc % 2 ^ 13 * 2 ^ 16))
    pure .on
/-- hgrp.read. DEDUCED: notes/assumptions/35.md. -/
def hgrpReadM (f : FE) : M Go := do
  needReferee
  whenBit0 f.p do
    dstReady true f.gc.toNat
    let t ← needLive (← readG f.ga.toNat false)
    let n := (← readG f.gb.toNat false).toNat
    need (decide (n < 4))
    writeG f.gc.toNat (tget 0 ((← getS).tile t).sch.hrec n)
    pure .on
/-- wfe (R405): it waits for an event of its partition's ring, or for its timeout. -/
def wfeM (f : FC) : M Go := do
  needReferee
  whenBit0 f.p do
    let s ← getS
    let x ← getT
    let some_ := match s.partOf s.cur with
      | some p => nfld p.evhead.toNat 0 8 != nfld p.evtail.toNat 0 8
      | none => false
    if some_ || x.sch.wfe == some 0 then
      modT fun x => { x with sch := { x.sch with wfe := none } }
      pure .on
    else match x.sch.wfe with
      | some _ => hold
      | none =>
        let us := (← readG f.g.toNat false).toNat
        if us = 0 then hold
        else
          modT fun x => { x with sch := { x.sch with wfe := some (s.now + 1000 * us) } }
          sentHold

/-! ## Attestation and sealing (R361-R364) -/

/-- Two ranges meet. -/
def rangesMeet (a n b m : Nat) : Bool := decide (a < b + m) && decide (b < a + n)
/-- Bytes of a quote (R361), and the granules that carry it. -/
def quoteBytes : Nat := 10368
/-- An address of ATTQ, SEAL or UNSEAL: in the own tile store under any of its spellings and 64-byte aligned, else ALIGN; a range that
leaves the store is an ADDRFAULT (R361). Its offset. -/
def needSeal (a : Word) (n : Nat) : M Nat := do
  let s ← getS
  let stk := (s.tile s.cur).csr.stkbase
  match steer s.cur stk a 1 with
  | some (.tile u _) => if u != s.cur || a.toNat % 64 != 0 then trap 0x06 a else needOwn a n 64
  | _ => trap 0x06 a
/-- attq (R362). -/
def attqM (f : FE) : M Go := whenBit0 f.p do
  needM
  dstReady true f.ga.toNat
  let b ← readG f.gb.toNat false
  let c ← readG f.gc.toNat false
  let off ← needSeal b 64
  let dst ← needSeal c quoteBytes
  need !(rangesMeet off 64 dst quoteBytes)
  match ← readHurdle f.ix.toNat with
  | some (_, w) => need (hwBytes w)
  | none => illop
  let report ← readOwn b 64 64
  let s ← getS
  let t := s.cur
  if 16 ≤ s.sec.quotes.length then
    writeG f.ga.toNat 1
    pure .on
  else
    modS fun s =>
      let s := pendBy s t f.ix.toNat true false
      let s := s.modTile t fun x => { x with store := x.store.setFes (dst / 4) false (quoteBytes / 4) }
      let q : Quote := { tile := t, hd := f.ix.toNat, dst := dst, report := report, ctx := s.ctxOf t, owner := s.ownerOf t, cfg := s.sqOf t }
      { s with sec := { s.sec with quotes := s.sec.quotes ++ [q] } }
    writeG f.ga.toNat 0
    pure .on

/-- A measurement value; each starts as zero (R360). -/
def Sec.measure (c : Sec) (n : Nat) : List Byte := tget (List.replicate 32 0) c.meas n
/-- The seal root (R354). -/
def sealRoot : List Byte := shake256 (Config.identitySeed ++ ascii "SHAGAN SEAL ROOT") 32
/-- The sealing key of a tile under a policy (R364). DEDUCED: notes/assumptions/37.md. -/
def sealKey (s : State) (t pol : Nat) : List Byte :=
  let fw := if nbit pol 0 then s.sec.measure 0 ++ s.sec.measure 1 ++ s.sec.measure 2 else []
  let pm := if nbit pol 1 then ((s.partOf t).map (·.pmeas)).getD [] else []
  let own := if nbit pol 2 then toBytes 2 (s.ownerOf t) else []
  shake256 (ascii "SHAGAN SEAL" ++ sealRoot ++ [BitVec.ofNat 8 pol] ++ fw ++ pm ++ own) 32
/-- A store of the core port into the own tile store of any length: no armed hurdle word, digests updated (R247, R364). -/
def writeOwn (off : Nat) (bs : List Byte) : M Unit := do
  let t ← me
  notArmed (.tile t off) bs.length
  portTurn (.tile t off) bs.length
  let s ← getS
  match homeWrite s (.tile t off) bs with
  | .error u => trap 0x10 (BitVec.ofNat 64 (8 * u))
  | .ok s' => modS fun _ => s'
/-- L of SEAL and UNSEAL (R361). -/
def sealLen (f : FE) : Nat := (f.cmd.toNat % 64 + 1) * 64
/-- A blob: header, ciphertext, tag and 16 zero bytes (R364). DEDUCED: notes/assumptions/37.md. -/
def sealBlob (key nonce pt : List Byte) (pol : Nat) : List Byte :=
  let hdr := toBytes 8 (pt.length + pol * 2 ^ 32) ++ nonce ++ List.replicate 12 0
  let (ct, tag) := gcmSeal key nonce hdr pt
  hdr ++ ct ++ tag ++ List.replicate 16 0
/-- The seal counter moves on; its reserve in flash grows by 2^20 when it is used up (R359, R364). -/
def Sec.nextSeal (c : Sec) : Sec :=
  { c with sealF := if c.sealCtr = c.sealF then c.sealF + 2 ^ 20 else c.sealF, sealCtr := c.sealCtr + 1 }
/-- seal. -/
def sealM (f : FE) : M Go := whenBit0 f.p do
  needM
  dstReady true f.ga.toNat
  let n := sealLen f
  let pol := nfld f.cmd.toNat 8 3
  let b ← readG f.gb.toNat false
  let c ← readG f.gc.toNat false
  let src ← needSeal b n
  let dst ← needSeal c (n + 64)
  need !(rangesMeet src n dst (n + 64))
  let pt ← readOwn b n 64
  let s ← getS
  writeOwn dst (sealBlob (sealKey s s.cur pol) (toBytes 12 s.sec.sealCtr) pt pol)
  modS fun s => { s with sec := s.sec.nextSeal }
  writeG f.ga.toNat 0
  pure .on
/-- What a blob of at most n bytes of plaintext opens to: a status, or the plaintext. DEDUCED: notes/assumptions/37.md. -/
def openBlob (s : State) (t n : Nat) (blob : List Byte) : Except Word (List Byte) :=
  let hdr := blob.take 32
  let len := ofBytes (hdr.take 4)
  let pol := (hdr[4]?.getD 0).toNat % 8
  if len = 0 || len % 64 != 0 || decide (n < len) then .error 3
  else match gcmOpen (sealKey s t pol) ((hdr.drop 8).take 12) hdr ((blob.drop 32).take len) ((blob.drop (32 + len)).take 16) with
    | none => .error 2
    | some pt => .ok pt
/-- unseal. -/
def unsealM (f : FE) : M Go := whenBit0 f.p do
  needM
  dstReady true f.ga.toNat
  let n := sealLen f
  let b ← readG f.gb.toNat false
  let c ← readG f.gc.toNat false
  let src ← needSeal b (n + 64)
  let dst ← needSeal c n
  need !(rangesMeet src (n + 64) dst n)
  let blob ← readOwn b (n + 64) 64
  let s ← getS
  match openBlob s s.cur n blob with
  | .error st => writeG f.ga.toNat st
  | .ok pt =>
    writeOwn dst pt
    writeG f.ga.toNat 0
  pure .on

/-! ## Capability tables (R365) -/

/-- The target of CAPSET and CAPCLR; none where it is dead. -/
def capTarget (f : FE) : M (Option Nat) := do
  let a ← readG f.ga.toNat false
  need (decide (a.toNat < Config.numTiles))
  let t ← needTile a
  let s ← getS
  if s.unreachable t then pure none
  else
    await !(s.tile t).failStop
    pure (some t)
/-- An entry with VALID, OPS and NONCE. -/
def capWord (nonce ops : Nat) : Word := BitVec.ofNat 64 (2 ^ 63 + ops % 16 * 2 ^ 32 + nonce % 2 ^ 32)
/-- capset. DEDUCED: notes/assumptions/35.md. -/
def capsetM (f : FE) : M Go := do
  needReferee
  whenBit0 f.p do
    let nonce := (← readG f.gb.toNat false).toNat
    let ops := (← readG f.gc.toNat false).toNat
    need (decide (nonce < 2 ^ 32) && decide (ops < 16))
    match ← capTarget f with
    | none => pure .on
    | some t =>
      modS (·.modTile t fun x => { x with eng := { x.eng with caps := tset 0 x.eng.caps f.ix.toNat (capWord nonce ops) } })
      pure .on
/-- capclr. -/
def capclrM (f : FE) : M Go := do
  needReferee
  whenBit0 f.p do
    match ← capTarget f with
    | none => pure .on
    | some t =>
      modS (·.modTile t fun x => { x with eng := { x.eng with
        caps := if nbit f.cmd.toNat 0 then [] else tset 0 x.eng.caps f.ix.toNat 0 } })
      pure .on

/-! ## Digest regions (R406, R193-R196) -/

/-- The places of a global region, page by page: first word and what it reaches. -/
def regionHomes (a : Word) (n size : Nat) : Nat → M (List (Nat × Phys))
  | 0 => pure []
  | k + 1 => do
    let r ← regionHomes a n size k
    let va := if k = 0 then a.toNat else (a.toNat / size + k) * size
    if a.toNat + n ≤ va then pure r
    else
      let ph ← resolve (BitVec.ofNat 64 va) 4 4 false false
      let s ← getS
      let bytes := Nat.min ((va / size + 1) * size) (a.toNat + n) - va
      match ph.home with
      | .dram pa =>
        if (List.range (bytes / 2 ^ 21 + 2)).any fun i => decide (pa / 2 ^ 21 + i ≤ (pa + bytes - 1) / 2 ^ 21) &&
            granOwnerOf s (pa + 2 ^ 21 * i) != s.ownerOf s.cur then
          trap 0x05 (BitVec.ofNat 64 va)
      | _ => pure ()
      pure (r ++ [((va - a.toNat) / 4, ph)])
/-- Regions that lie in a tile store. -/
def regionsIn (s : State) (t : Nat) : Nat :=
  (s.ctxs.map fun c => (c.2.regions.filter fun r => r.2.homes.any fun h => match h.2 with
    | .tile u _ => u == t
    | _ => false).length).sum
/-- The slices that hold a stretch of k words at a home: a page with SLICE lies in its own (R27, R193). -/
def stretchSlices (h : Home) (slice : Nat) (sl : Bool) (k : Nat) : List Nat :=
  match h with
  | .dram pa => if sl then [slice] else
      ((List.range (Nat.min 256 ((pa + 4 * k + 4095) / 4096 - pa / 4096))).map fun i => (pa / 4096 + i) % 256)
  | _ => []
/-- Regions that a slice holds: it has room for 32 (R28). DEDUCED: notes/assumptions/85.md. -/
def regionsAt (s : State) (slice : Nat) : Nat := (s.ctxs.map fun c => (c.2.regions.filter fun r => r.2.slices.contains slice).length).sum
/-- dgopen: it holds until its homes accept the region (R406). -/
def dgopenM (f : FE) : M Go := whenBit0 f.p do
  needM
  notReplay
  notRedundant
  let a ← readG f.ga.toNat false
  let words := (← readG f.gb.toNat false).toNat
  let seedAt ← readG f.gc.toNat false
  let s ← getS
  let t := s.cur
  let c := s.ctxOf t
  need (decide (1 ≤ words) && decide (words < 2 ^ 32))
  need !((s.ctx c).regions.any (·.1 == f.ix.toNat))
  let n := 4 * words
  let homes ← match steer t (s.tile t).csr.stkbase a n with
    | some (.tile u off) => do
      if u != t then trap 0x03 a
      if a.toNat % 4 ≠ 0 then trap 0x06 a
      need (decide (regionsIn s t < 4))
      pure [(0, (⟨.tile t off, 0, false, 0⟩ : Phys))]
    | some (.glob _) => do
      if a.toNat % 4 ≠ 0 then trap 0x06 a
      let size := pageBytes (BitVec.ofNat 2 (nfld (s.tile t).csr.pgsz.toNat 0 2))
      regionHomes a n size ((a.toNat + n - 1) / size - a.toNat / size + 1)
    | none => trap 0x03 a
  let seed ← readOwn seedAt 32 32
  let slices := ((homes.zipIdx.map fun e =>
    stretchSlices e.1.2.home e.1.2.slice e.1.2.sl (((homes[e.2 + 1]?.map (·.1)).getD words) - e.1.1)).flatten).eraseDups
  await (slices.all fun n => decide (regionsAt s n < 32))
  let r : Region := { len := words, homes := homes.map fun e => (e.1, e.2.home), keys := digestKeys seed, slices := slices }
  modS (·.modCtx c fun k => { k with regions := tput k.regions f.ix.toNat r })
  pure .on
/-- dgclose. -/
def dgcloseM (f : FE) : M Go := whenBit0 f.p do
  needM
  notReplay
  notRedundant
  let s ← getS
  let c := s.ctxOf s.cur
  need (((s.ctx c).regions.any (·.1 == f.ix.toNat)) && !hasDg s)
  modS (·.modCtx c fun k => { k with regions := tdel k.regions f.ix.toNat })
  pure .on
/-- dgsnap. -/
def dgsnapM (f : FE) : M Go := whenBit0 f.p do
  dstReady true f.ga.toNat
  dstReady true f.gb.toNat
  let s ← getS
  match ((s.ctx (s.ctxOf s.cur)).regions.find? (·.1 == f.ix.toNat)) with
  | none => illop
  | some (_, r) =>
    await (decide (r.len ≤ r.scanned) && (ownOutstanding s s.cur).isEmpty)
    writeG f.ga.toNat (BitVec.ofNat 64 r.d0)
    writeG f.gb.toNat (BitVec.ofNat 64 r.d1)
    pure .on
/-- dgver. -/
def dgverM (f : FE) : M Go := whenBit0 f.p do
  dstReady true f.ga.toNat
  let s ← getS
  let stream := ((s.cfg (s.sqOf s.cur)).map (·.stream)).getD 0
  writeG f.ga.toNat (tget 0 (s.ctx (s.ctxOf s.cur)).verdicts stream)
  pure .on

/-! ## Containment, kills, pre-emption (R386, R398, R407) -/

/-- Corners of a rectangle in PARTRECT layout: x0, y0, x1, y1 (R343). DEDUCED: notes/assumptions/35.md. -/
def rectOf (a : Word) : Nat × Nat × Nat × Nat :=
  let n := a.toNat
  (nfld n 0 7, nfld n 7 7, nfld n 14 7, nfld n 21 7)
/-- Whether a tile lies in a rectangle. -/
def inRect (r : Nat × Nat × Nat × Nat) (t : Nat) : Bool :=
  decide (r.1 ≤ tileX t) && decide (tileX t ≤ r.2.2.1) && decide (r.2.1 ≤ tileY t) && decide (tileY t ≤ r.2.2.2)
/-- Tiles of a rectangle. -/
def rectTiles (r : Nat × Nat × Nat × Nat) : List Nat :=
  ((List.range (r.2.2.2 + 1 - r.2.1)).map fun j => (List.range (r.2.2.1 + 1 - r.1)).map fun i => (r.2.1 + j) * 96 + r.1 + i).flatten
/-- Configurations with an actor on one of some tiles. -/
def cfgsOn (s : State) (ts : List Nat) : List Nat :=
  (s.cfgs.filter fun c => c.members.any fun e => ts.contains e.2.2).map (·.sq)
/-- The tiles of the configurations on some tiles. -/
def cfgTilesOn (s : State) (ts : List Nat) : List Nat := ((cfgsOn s ts).filterMap fun q => (s.cfg q).map Cfg.tiles).flatten
/-- Kill the configurations on some tiles and reset the tiles (R386). -/
def contain (s : State) (ts : List Nat) (status : Nat) : State :=
  ts.foldl resetTile ((cfgsOn s ts).foldl (fun a q => killCfg a q status) s)
/-- The partition of the tile that executes. -/
def myPart : M Partition := do
  let s ← getS
  match s.partOf s.cur with
  | some p => pure p
  | none => stop .priv
/-- fnrect. DEDUCED: notes/assumptions/35.md. -/
def fnrectM (f : FE) : M Go := do
  needReferee
  whenBit0 f.p do
    let a ← readG f.ga.toNat false
    let p ← myPart
    let r := rectOf a
    let (x0, y0, x1, y1) := r
    if !(decide (p.x0 ≤ x0) && decide (x0 ≤ x1) && decide (x1 ≤ p.x1) && decide (p.y0 ≤ y0) && decide (y0 ≤ y1) && decide (y1 ≤ p.y1)) then
      trap 0x0F a
    need (!(p.refs.any (inRect r)) && decide (p.fences.length < 4))
    let s ← getS
    await !(killWaits s (cfgTilesOn s (rectTiles r)))
    modS fun s =>
      let ts := rectTiles r
      let s := contain s ts stContained
      let s := ts.foldl (fun s t => s.modTile t fun x => { x with fenced := true }) s
      s.modPart p.owner fun p => { p with fences := p.fences ++ [r] }
    pure .on
/-- fnrect.rel: the tiles in no other fence are placeable again. -/
def fnrectRelM (f : FE) : M Go := do
  needReferee
  whenBit0 f.p do
    let a ← readG f.ga.toNat false
    let p ← myPart
    let r := rectOf a
    need (p.fences.contains r)
    let rest := p.fences.erase r
    modS fun s =>
      let s := (rectTiles r).foldl (fun s t => s.modTile t fun x => { x with fenced := rest.any fun q => inRect q t }) s
      s.modPart p.owner fun p => { p with fences := rest }
    pure .on
/-- The configuration that a tile runs. -/
def runsCfg (s : State) (t : Nat) : Option Cfg :=
  match (s.tile t).sch.actor with
  | none => none
  | some a => s.cfg a.cfg
/-- tkill.0: it waits for a commit that can no longer be undone (R164); a task that is killed leaves a tile that REFEREE or STALL halted free to run (R374). DEDUCED: notes/assumptions/36.md. -/
def tkillTaskM (f : FE) : M Go := do
  needReferee
  whenBit0 f.p do
    let t ← needLive (← readG f.ga.toNat false)
    let s ← getS
    let k := (s.tile ((team s t).headD t)).sch.task
    await !(committing s t || (k.map (·.immediate)).getD false && killWaits s (cfgTilesOn s [t]))
    modS fun s =>
      match (s.tile ((team s t).headD t)).sch.task with
      | none => s
      | some k =>
        if k.immediate then killCfg s (s.sqOf t) stKilled
        else (team s t).foldl (fun a u => a.modTile u fun x =>
          if x.sch.halted == some .referee || x.sch.halted == some .stall then { x with sch := { x.sch with halted := none } } else x) (requeue s t)
    pure .on
/-- tkill.1: the configuration that runs on the tile, at the instruction boundaries of its tasks (R398). -/
def tkillConfigM (f : FE) : M Go := do
  needReferee
  whenBit0 f.p do
    let t ← needTile (← readG f.ga.toNat false)
    let s ← getS
    await !(killWaits s (cfgTilesOn s [t]))
    modS fun s => match runsCfg s t with
      | none => s
      | some c => if c.st = .running || c.st = .saving then killCfg s c.sq stKilled else s
    pure .on
/-- Kill every configuration of a context, queued, pre-staged and saved ones included. -/
def killCtx (s : State) (c status : Nat) : State :=
  let s := (s.cfgs.filter (·.ctx == c)).foldl (fun a k => killCfg a k.sq status) s
  let saved := ((s.ctx c).saved.map (·.cfg)).filter fun k => (s.cfg k.sq).isNone
  let s := saved.foldl (fun a k => killCfg { a with cfgs := a.cfgs ++ [k.unplaced] } k.sq status) s
  s.modCtx c fun k => { k with saved := [] }
/-- tkill.2: a context of the referee's own partition (R345). DEDUCED: notes/assumptions/33.md. -/
def tkillContextM (f : FE) : M Go := do
  needReferee
  whenBit0 f.p do
    let c := (← readG f.ga.toNat false).toNat % 256
    let s ← getS
    await ((s.ctx c).owner != s.ownerOf s.cur || !(killWaits s (ctxTiles s c)))
    modS fun s => if (s.ctx c).owner = s.ownerOf s.cur then killCtx s c stKilled else s
    pure .on

/-- Ask the starters and hold for their reply (R407): `req` answers at once or leaves the request with them. -/
def askStarters (f : FE) (req : M (Option Nat)) : M Go := do
  let answer (v : Nat) : M Go := do
    modT fun x => { x with sch := { x.sch with starter := none } }
    writeG f.gc.toNat (BitVec.ofNat 64 v)
    pure .on
  match (← getT).sch.starter with
  | some none => hold
  | some (some v) => answer v
  | none =>
    dstReady true f.gc.toNat
    match ← req with
    | some v => answer v
    | none =>
      modT fun x => { x with sch := { x.sch with starter := some none } }
      sentHold
/-- premp.save. DEDUCED: notes/assumptions/33.md. -/
def prempSaveM (f : FE) : M Go := do
  needReferee
  whenBit0 f.p <| askStarters f do
    let t ← needTile (← readG f.ga.toNat false)
    let s ← getS
    match runsCfg s t with
    | none => pure (some 2)
    | some c =>
      if !nbit (s.ctx c.ctx).savebase.toNat 0 then pure (some 2)
      else if c.st != .running then pure (some 1)
      else
        modS (·.modCfg c.sq fun c => { c with st := .saving, resume := false, saveDone := [], saveBad := [], saver := some s.cur })
        pure none
/-- Place n runs of a saved configuration; none where one finds no tiles. -/
def placeSaved (p : Partition) (sq : Nat) : Nat → State → Option State
  | 0, s => some s
  | n + 1, s => match s.cfg sq with
    | none => none
    | some c => match placeNext s p c s.freeBit with
      | none => none
      | some (place, res) => placeSaved p sq n (takePlace s c place res)
/-- Bring the saved configuration of a context back (R391): 0 done, 1 busy, 2 none saved, 3 no place. DEDUCED: notes/assumptions/33.md. -/
def restoreCtx (s : State) (c : Nat) : Nat × State :=
  match (s.ctx c).saved.getLast? with
  | none => (2, s)
  | some sv =>
    let k := sv.cfg
    if (s.cfg k.sq).isSome then (1, s)
    else match s.part k.owner with
      | none => (2, s)
      | some p =>
        let u := { k.unplaced with st := .waiting, resume := true, stage := false }
        match placeSaved p k.sq k.places.length { s with cfgs := s.cfgs ++ [u] } with
        | none => (3, s)
        | some s' => (0, donePlacing s' u)
/-- premp.restore. DEDUCED: notes/assumptions/33.md. -/
def prempRestoreM (f : FE) : M Go := do
  needReferee
  whenBit0 f.p <| askStarters f do
    let c := (← readG f.ga.toNat false).toNat % 256
    let s ← getS
    if (s.ctx c).owner ≠ s.ownerOf s.cur then pure (some 2)
    else
      let (v, s') := restoreCtx s c
      modS fun _ => s'
      pure (some v)
/-- premp.remap: the request goes through the sequencer (R268). DEDUCED: notes/assumptions/33.md. -/
def prempRemapM (f : FE) : M Go := do
  needReferee
  whenBit0 f.p <| askStarters f do
    let t ← needTile (← readG f.ga.toNat false)
    let slot := (← readG f.gb.toNat false).toNat
    let s ← getS
    match runsCfg s t with
    | none => pure (some 2)
    | some c =>
      modS fun s => { s with seqQ := s.seqQ ++ [.remap c.sq slot s.cur] }
      pure none

/-- CSRR (R402). -/
def execCsrr (f : FI) (s : State) := issue (.csrr f) (csrrM f) s
/-- CSRW (R402). -/
def execCsrw (f : FI) (s : State) := issue (.csrw f) (csrwM f) s
/-- CSRS (R402). -/
def execCsrs (f : FI) (s : State) := issue (.csrs f) (csrsM f) s
/-- CSRC (R402). -/
def execCsrc (f : FI) (s : State) := issue (.csrc f) (csrcM f) s
/-- TRAP (R403). -/
def execTrap (f : FI) (s : State) := issue (.trap f) (trapM f) s
/-- ERET (R403). -/
def execEret (f : FC) (s : State) := issue (.eret f) (eretM f) s
/-- BRK (R403). -/
def execBrk (f : FC) (s : State) := issue (.brk f) (brkM f) s
/-- HGRP.SET (R405). -/
def execHgrpSet (f : FE) (s : State) := issue (.hgrpSet f) (hgrpSetM f) s
/-- HGRP.HALT (R405). -/
def execHgrpHalt (f : FE) (s : State) := issue (.hgrpHalt f) (hgrpHaltM f) s
/-- HGRP.RES (R405). -/
def execHgrpRes (f : FE) (s : State) := issue (.hgrpRes f) (hgrpResM f) s
/-- HGRP.STEP (R400). -/
def execHgrpStep (f : FE) (s : State) := issue (.hgrpStep f) (hgrpStepM f) s
/-- HGRP.RESTILE (R405). -/
def execHgrpRestile (f : FE) (s : State) := issue (.hgrpRestile f) (hgrpRestileM f) s
/-- HGRP.STAT (R405). -/
def execHgrpStat (f : FE) (s : State) := issue (.hgrpStat f) (hgrpStatM f) s
/-- HGRP.READ (R405). -/
def execHgrpRead (f : FE) (s : State) := issue (.hgrpRead f) (hgrpReadM f) s
/-- WFE (R405). -/
def execWfe (f : FC) (s : State) := issue (.wfe f) (wfeM f) s
/-- RDTIME (R404). -/
def execRdtime (f : FI) (s : State) := issue (.rdtime f) (rdtimeM f) s
/-- RDPERF (R404). -/
def execRdperf (f : FI) (s : State) := issue (.rdperf f) (rdperfM f) s
/-- ATTQ (R362). -/
def execAttq (f : FE) (s : State) := issue (.attq f) (attqM f) s
/-- SEAL (R364). -/
def execSeal (f : FE) (s : State) := issue (.seal f) (sealM f) s
/-- UNSEAL (R364). -/
def execUnseal (f : FE) (s : State) := issue (.unseal f) (unsealM f) s
/-- CAPSET (R365). -/
def execCapset (f : FE) (s : State) := issue (.capset f) (capsetM f) s
/-- CAPCLR (R365). -/
def execCapclr (f : FE) (s : State) := issue (.capclr f) (capclrM f) s
/-- DGOPEN (R406). -/
def execDgopen (f : FE) (s : State) := issue (.dgopen f) (dgopenM f) s
/-- DGCLOSE (R406). -/
def execDgclose (f : FE) (s : State) := issue (.dgclose f) (dgcloseM f) s
/-- DGSNAP (R406). -/
def execDgsnap (f : FE) (s : State) := issue (.dgsnap f) (dgsnapM f) s
/-- DGVER (R406). -/
def execDgver (f : FE) (s : State) := issue (.dgver f) (dgverM f) s
/-- FNRECT (R407). -/
def execFnrect (f : FE) (s : State) := issue (.fnrect f) (fnrectM f) s
/-- FNRECT.REL (R407). -/
def execFnrectRel (f : FE) (s : State) := issue (.fnrectRel f) (fnrectRelM f) s
/-- TKILL.0 (R407). -/
def execTkillTask (f : FE) (s : State) := issue (.tkillTask f) (tkillTaskM f) s
/-- TKILL.1 (R407). -/
def execTkillConfig (f : FE) (s : State) := issue (.tkillConfig f) (tkillConfigM f) s
/-- TKILL.2 (R407). -/
def execTkillContext (f : FE) (s : State) := issue (.tkillContext f) (tkillContextM f) s
/-- PREMP.SAVE (R407). -/
def execPrempSave (f : FE) (s : State) := issue (.prempSave f) (prempSaveM f) s
/-- PREMP.RESTORE (R407). -/
def execPrempRestore (f : FE) (s : State) := issue (.prempRestore f) (prempRestoreM f) s
/-- PREMP.REMAP (R407). -/
def execPrempRemap (f : FE) (s : State) := issue (.prempRemap f) (prempRemapM f) s
/-- UNASSIGNED_OPCODE (R56): a word that is no instruction raises ILLOP on the tile that fetched it. -/
def execUnassignedOpcode (w : Word) (s : State) : Host.Outcome State Fault Refusal :=
  .next (stepDone (takeTrap s s.cur 0x01 w) (stepper s s.cur))

end Sys2Proof.Machine
end

