-- ==== Sys2Proof/Machine/EvTile.lean ====
section
/-! DEFINITION. Events of a tile: results that arrive (R37, R38, R222, R295), firings and the start of tasks (R253, R254, R256,
R265), tokens and messages (R30, R260, R263), ENGFAULT (R380) and the timeouts of a tile (R278, R405). -/

namespace Sys2Proof.Machine

/-! ## Results -/

/-- Drop a pending result. -/
def Tile.dropPend (x : Tile) (n : Nat) : Tile := { x with pend := x.pend.eraseIdx n }
/-- An error mark reaches a register (R38); a window has none, so the cause is taken at the next boundary. -/
def Tile.fillMark (x : Tile) (d : RegRef) (c : Byte) (a : Word) : Tile :=
  match d with
  | .g i => { x with regs := { x.regs with gFe := tput x.regs.gFe i (.mark c a) } }
  | .v i => { x with regs := { x.regs with vFe := tput x.regs.vFe i (.mark c a) } }
  | .win _ _ => x.takeLate c a
/-- The lanes that a claim fills of its destination; the others keep their value, in a token zero (R40, R50). -/
def Tile.laned (x : Tile) (d : RegRef) (lanes : BitVec 16) (v : Vec) : Vec :=
  match d with
  | .v i => mergeLanes lanes (x.regs.getV i) v
  | .win _ true => mergeLanes lanes 0 v
  | _ => v
/-- A tile takes the token that a claim waits for: an ended task's claim takes it for good (R292, R295). -/
def Tile.popClaim (x : Tile) (q : Nat) (ended : Bool) : Tile :=
  if ended then
    let i := x.inQ q
    x.setInQ q { i with
      toks := i.toks.eraseIdx i.popped
      mark := (i.mark.filter (· != i.popped)).map fun k => if i.popped < k then k - 1 else k }
  else x.pop q
/-- The lanes of a claim reach its destination; the others keep their value, and bad parity with it (R15, R50). -/
def Tile.fillLanes (x : Tile) (d : RegRef) (lanes : BitVec 16) (v : Vec) : Tile :=
  let y := x.fillValue d (x.laned d lanes v) 0
  match d with
  | .v i => if lanes != 0xFFFF && x.regs.parity.contains (.v, i) then { y with regs := { y.regs with parity := (.v, i) :: y.regs.parity } } else y
  | _ => y
/-- What a claim whose task has ended does with a token's value: its register is the next task's by now, and stays as it is (R42); an output
queue receives its token. DEDUCED: notes/assumptions/78.md. -/
def Tile.fillEnded (x : Tile) (d : RegRef) (lanes : BitVec 16) (v : Vec) : Tile :=
  match d with
  | .win q vector => x.emit q 0 (if vector then .vec (x.laned d lanes v) else .scalar (v.setWidth 64))
  | _ => x
/-- What a claimed token gives its destination (R293); a mark of an ended task's claim reaches nobody. DEDUCED: notes/assumptions/78.md. -/
def Tile.fillToken (x : Tile) (d : RegRef) (q : Nat) (any : Bool) (word : Word) (lanes : BitVec 16) (ended : Bool) (tok : Token) : Tile :=
  let x := x.popClaim q ended
  let fill (v : Vec) : Tile := if ended then x.fillEnded d lanes v else x.fillLanes d lanes v
  let mark (c : Byte) (a : Word) : Tile := if ended then x else x.fillMark d c a
  match tok with
  | .vec v => fill v
  | .scalar v => fill (v.setWidth 512)
  | .poison c => mark 0x09 (poisonTaddr c q)
  | _ => if any then fill 0 else mark 0x01 word
/-- A follower of a gang that has been disbanded leaves the causes of its windows to its anchor, where its task runs on (R267). -/
def passLate (s : State) (t : Nat) : State :=
  if s.taskTile t = t then s
  else (s.tile t).sch.late.foldl (fun a c => a.takeLate t c.1 c.2) (s.modTile t fun x => { x with sch := { x.sch with late := [] } })
/-- LONG_LATENCY_FILL: the n-th result under way arrives; claims of one queue in their order (R292). -/
def evLongLatencyFill (t n : Nat) (s : State) : Option State :=
  let x := s.tile t
  if x.failStop || s.written t then none
  else match x.pend[n]? with
    | none => none
    | some p => match p.what with
      | .value v fl => some (s.modTile t fun x => (x.dropPend n).fillValue p.dst v fl)
      | .mark c a => some (passLate (s.modTile t fun x => (x.dropPend n).fillMark p.dst c a) t)
      | .claim q any word lanes =>
        if (x.pend.take n).any fun e => match e.what with
            | .claim k _ _ _ => k == q
            | _ => false then none
        else match (x.inQ q).toks[(x.inQ q).popped]? with
          | none => none
          | some tok => some (passLate (s.modTile t fun x => (x.dropPend n).fillToken p.dst q any word lanes p.ended tok) t)
      | .lds _ _ => none
      | .again _ _ => none
      | .status => none

/-- The configuration of a tile is running and its partition is not frozen. -/
def tileLive (s : State) (t : Nat) : Bool :=
  (match (s.tile t).sch.actor with
   | some a => ((s.cfg a.cfg).map fun c => decide (c.st = .running)).getD false && !a.stopped && a.moveTo.isNone
   | none => false) &&
  !(((s.partOf t).map (·.frozen)).getD false) && !(s.tile t).failStop && !(s.tile t).noClock && !s.unreachable t
/-- The parts of a load that issues again, walked anew with the page size that PGSZ holds; the error names the address. DEDUCED:
notes/assumptions/109.md. -/
def walkParts (s : State) (t : Nat) : List Part → Except (Nat × Word) (List Part × State)
  | [] => .ok ([], s)
  | p :: r =>
    let here : Except (Nat × Word) (Part × State) := match p.home with
      | .tile _ _ => .ok (p, s)
      | _ =>
        if migrating s (s.ctxOf t) p.va then .error (0, p.va)
        else match translate s t (s.ctxOf t) (s.refLevel t) (BitVec.ofNat 2 (nfld (s.tile t).csr.pgsz.toNat 0 2)) p.va false false with
          | .error e => .error (e, p.va)
          | .ok (ph, s) => .ok (ph.part p.va p.len p.pos, s)
    match here with
    | .error e => .error e
    | .ok (q, s) => (walkParts s t r).map fun (l, s) => (q :: l, s)
/-- A tile whose n-th result under way is given anew. -/
def Tile.setPend (x : Tile) (n : Nat) (w : PendWhat) : Tile := { x with pend := x.pend.modify n fun p => { p with what := w } }
/-- A withdrawn LDS issues again as its task goes on (R222, R389): a PAGEFAULT stalls an M task, a PAGEFAULT or PROTECT aborts an I task,
and any other failure leaves an error mark (R38, R170, R173). DEDUCED: notes/assumptions/109.md. -/
def issueAgain (s : State) (t n : Nat) (a : Acc) (take : Bool) : Option State :=
  let x := s.tile t
  if !tileLive s t || x.sch.task.isNone && x.gang.isNone || (gangTiles s t).any (fun u => (s.tile u).sch.halted.isSome) || asking s t then none
  else match walkParts s t a.parts with
    | .ok (ps, s) => some (s.modTile t (·.setPend n (.lds { a with parts := ps } take)))
    | .error (0, _) => none
    | .error (e, va) =>
      if e = 4 || (e = 5 && !x.isM) then some (takeTrap s t (BitVec.ofNat 8 e) (walkTaddr e va))
      else some (s.modTile t (·.setPend n (.mark (BitVec.ofNat 8 e) (walkTaddr e va))))
/-- LDS_WAKE (R222): the words are full, and the LDS reads them; or an LDS that a checkpoint has withdrawn issues again (R389). -/
def evLdsWake (t n : Nat) (s : State) : Option State :=
  let x := s.tile t
  match x.pend[n]? with
  | none => none
  | some p => match p.what with
    | .lds a _ =>
      if x.failStop || s.written t || !accFree s t a || (a.miss s t).isSome || !(a.parts.all fun q => isFull s q.home q.len) then none
      else match performAcc s t a with
        | .ok s' => some (s'.modTile t fun y => y.dropPend n)
        | _ => none
    | .again a take => issueAgain s t n a take
    | _ => none

/-! ## Firings and tasks -/

/-- Queue q holds CLOSE at its head. -/
def Tile.closed (x : Tile) (q : Nat) : Bool := x.head q == some .close
/-- An actor's declared input queues all hold CLOSE at their heads (R254). -/
def allClosed (d : ActorDecl) (x : Tile) : Bool :=
  let qs := (d.inQ.filter fun e => decide (0 < e.2.1)).map (·.1)
  !qs.isEmpty && qs.all x.closed
/-- A firing waits or runs on a tile. DEDUCED: notes/assumptions/38.md. -/
def Tile.firing (x : Tile) : Bool :=
  (x.sch.runl ++ x.sch.ready).any (·.rcd.isNone) || ((x.sch.task.map fun k => k.rcd.isNone).getD false)
/-- Resident tokens of a queue (R252, R257): those that an I task has popped stay resident until it commits, those that an M task has
claimed, or a task that has ended, are gone. -/
def Tile.resTokens (x : Tile) (q : Nat) : Nat :=
  let gone := x.pend.filter fun p => match p.what with
    | .claim k _ _ _ => k == q && (p.ended || x.isM)
    | _ => false
  (x.inQ q).toks.length - gone.length
/-- FIRING (R253, R254): the anchor's actor is ready to fire. -/
def evFiring (t : Nat) (s : State) : Option State :=
  let x := s.tile t
  match s.actorDecl t, x.sch.actor with
  | some d, some a =>
    let ready := d.inQ.all (fun e => decide (e.2.2 ≤ x.resTokens e.1)) &&
      d.ranges.all fun r => x.store.allFull (r.1 / 4) (r.2 / 4)
    if tileLive s t && (team s t).headD t == t && !a.done && !x.firing && ready && (!d.once || a.firings == 0) &&
        (d.source || !allClosed d x) then
      some (makeReady s t none d.pri)
    else none
  | _, _ => none
/-- A tile without the head of a queue, which stands behind the tokens that claims of ended tasks take (R292, R295). -/
def Tile.dropHead (x : Tile) (q : Nat) : Tile :=
  (x.setInQ q { x.inQ q with toks := (x.inQ q).toks.eraseIdx ((x.inQ q).popped + x.claims q) }).perfAdd 3 1
/-- ACTOR_CLOSE (R254). A gang's tokens reach its anchor, whose queues decide; every member takes its heads and closes its outputs. -/
def evActorClose (t : Nat) (s : State) : Option State :=
  let x := s.tile t
  match s.actorDecl t, x.sch.actor with
  | some d, some a =>
    let ts := team s t
    if tileLive s t && ts.headD t == t && !a.done && !x.firing && x.sch.task.isNone && !d.once &&
        allClosed d x &&
        ts.all (fun u => (s.tile u).declOut.all fun q => decide (0 < (s.tile u).outFree q)) then
      let s := ts.foldl (fun s u => s.modTile u fun x => (x.declIn.foldl Tile.dropHead x).closeOut) s
      some (s.modTile t fun x => { x with sch := { x.sch with actor := some { a with done := true } } })
    else none
  | _, _ => none
/-- TASK_START (R265, R256): the first entry of the run list that runs a handler. -/
def evTaskStart (t : Nat) (s : State) : Option State :=
  let x := s.tile t
  match s.actorDecl t, x.sch.actor with
  | some d, some a =>
    if !tileLive s t || x.sch.task.isSome || (team s t).any (fun u => (s.tile u).sch.halted.isSome || (s.tile u).eng.stat.due) then none
    else match firstEnt s.now (quantOf s t) (x.sch.runl.filter fun e => !((e.rcd.map (·.launch)).getD false)) with
      | none => none
      | some e => (d.handlers[(e.rcd.map (·.handler.toNat)).getD 0]?).map fun h => startTask s t e d a h
  | _, _ => none
/-- ENGFAULT (R380), at an instruction boundary of a tile that runs, or where no task runs: in an I task with a PAGEFAULT or PROTECT the engine is cancelled and FAULT cleared. -/
def evEngfault (t : Nat) (s : State) : Option State :=
  let x := s.tile t
  let busy (u : Nat) : Bool := let y := s.tile u; y.sch.task.isSome && (y.sch.halted.isSome || y.sch.stepping || y.sch.asked)
  if !x.eng.stat.due || x.failStop || (gangTiles s t).any busy then none
  else
    let abort := trapAct x 0x18 x.eng.stat.pos == .abortHalt
    let s := s.modTile t fun x => { x with eng := { x.eng with stat := { x.eng.stat with due := false } } }
    let s := takeTrap s t 0x18 x.eng.stat.pos
    some (if abort then s.modTile t Tile.clearFault else s)

/-! ## Tokens and messages -/

/-- A tile takes what is sent to it. -/
def takes (s : State) (t : Nat) : Bool := !s.unreachable t && !(s.tile t).failStop
/-- What tile t has sent to another owner's tile is dropped: REJECT, which the sending task takes at its next boundary while it still
runs (R347). -/
def rejectSent (s : State) (t u kind cls stamp : Nat) (addr : Word) : State :=
  let down := s.ownerOf u
  let s := recordReject s t kind cls down u addr
  if s.running t stamp then s.takeLate t 0x0F (rejectTaddr 0x0F down u 0)
  else s
/-- A token enters input queue k of tile u where that has a free slot and is not held (R274). -/
def enterQueue (s : State) (u k : Nat) (tok : Token) : Option State :=
  if takes s u && !s.written u && decide (0 < (s.tile u).inFree k) && ((s.tile u).sch.actor.bind (·.moveTo)).isNone then
    some (s.modTile u fun y => y.setInQ k { y.inQ k with toks := (y.inQ k).toks ++ [tok] })
  else none
/-- TOKEN_ARRIVAL (R30): the oldest token of a circuit enters its queue; else the next released token enters the circuit, or, on a
circuit that crosses no link, its queue. A token for another owner's tile is dropped (R347). -/
def evTokenArrival (t q : Nat) (s : State) : Option State :=
  let x := s.tile t
  let o := x.outQ q
  match o.dest.bind fun d => (slotTile s t d.1).map fun u => (u, d.2) with
  | none => none
  | some (u, k) =>
    let setQ (s : State) (f : OutQ → OutQ) : State := s.modTile t fun x => x.setOutQ q (f (x.outQ q))
    let deliver : Option State := match o.latch with
      | [] => none
      | tok :: rest => (enterQueue s u k tok).map fun s => setQ s fun o => { o with latch := rest, delivered := o.delivered + 1 }
    match deliver, o.toks with
    | some s', _ => some s'
    | none, r :: rest =>
      if s.unreachable u || x.failStop || s.unreachable t || s.written t || !released s t r then none
      else if s.ownerOf u != s.ownerOf t then some (rejectSent (setQ s fun o => { o with toks := rest }) t u 1 2 r.stamp (BitVec.ofNat 64 q))
      else if decide (o.latch.length < o.links) then some (setQ s fun o => { o with latch := o.latch ++ [r.tok], toks := rest })
      else if o.links = 0 && o.latch.isEmpty then
        (enterQueue s u k r.tok).map fun s => setQ s fun o => { o with toks := rest, delivered := o.delivered + 1 }
      else none
    | none, [] => none
/-- RESERVED_TAG (R18): the oldest token on a circuit arrives with a reserved tag; the record names the circuit's producer. DESIGN CHOICE: notes/assumptions/110.md. -/
def evReservedTag (t q : Nat) (s : State) : Option State :=
  let o := (s.tile t).outQ q
  match o.latch with
  | [] => none
  | _ :: rest => if s.written t then none else
    let s := s.modTile t fun x => x.setOutQ q { x.outQ q with latch := .poison 0x10 :: rest }
    some (tileEvent s t 0x02 0 2 0)
/-- A message may leave: every access of its task issued before it has been acknowledged (R300, R301). -/
def msgFree (s : State) (t : Nat) (m : Msg) : Bool := (ownOutstanding s t).all fun a => decide (m.stamp ≤ a.id)
/-- The head of a tile's messages reaches the tile of its slot, where `f` takes it; at another owner's tile it is dropped (R347). -/
def takeMsg (s : State) (t : Nat) (m : Msg) (f : State → Nat → State) : Option State :=
  match slotTile s t m.slot with
  | none => none
  | some u =>
    if !msgFree s t m || !takes s u || s.written u then none
    else
      let s := s.modTile t fun x => ({ x with sch := { x.sch with
        sent := x.sch.sent.drop 1, msgOut := tset 0 x.sch.msgOut m.slot (tget 0 x.sch.msgOut m.slot + 1) } } : Tile).perfAdd 5 1
      if s.ownerOf u != s.ownerOf t then some (rejectSent s t u 2 0 m.stamp 0)
      else some (f (s.modTile u fun y => y.perfAdd 6 1) u)
/-- RECORD_ARRIVAL (R260) of the record that tile t has sent first. -/
def evRecordArrival (t : Nat) (s : State) : Option State :=
  match (s.tile t).sch.sent with
  | .spawn k r n :: _ => takeMsg s t (.spawn k r n) fun s u => arriveRecord s u r
  | _ => none
/-- TDEC_ARRIVAL (R260). -/
def evTdecArrival (t : Nat) (s : State) : Option State :=
  match (s.tile t).sch.sent with
  | .tdec k off amt n :: _ => takeMsg s t (.tdec k off amt n) fun s u => arriveTdec s t u off amt n
  | _ => none

/-! ## Launch packets (R263, R418) -/

/-- An image whose load is rejected: that of a packet which names none. DEDUCED: notes/assumptions/39.md. -/
def badImage : Image := { actors := [{ badFrame := true }] }
/-- The configuration that a launch packet asks for, and whether it starts a staged one instead; one that breaks the layout has the
status REJECTED (R418). DESIGN CHOICE: notes/assumptions/7.md; DEDUCED: notes/assumptions/39.md. -/
def packetCfg (s : State) (ctx owner : Nat) (bs : List Byte) (inside : Bool) : Cfg × Bool :=
  let w (i : Nat) : Nat := ofBytes ((bs.drop (8 * i)).take 8)
  let stage := nbit (w 0) 12
  let start := nbit (w 0) 13
  let argn := w 4 % 256
  let bad := decide (0 < nfld (w 0) 14 18) || decide (0 < w 4 / 256) || decide (0 < w 5) || (stage && start) || decide (16 < argn)
  let img := ((s.images.find? fun e => e.1 == ctx && e.2.1.toNat == w 2).map (·.2.2)).getD badImage
  let t := nfld (w 0) 48 16
  ({ sq := 0, ctx := ctx, owner := owner, stream := nfld (w 0) 8 4, image := if bad then badImage else img, status := if bad then 8 else 0
     counter := if inside then 0 else BitVec.ofNat 64 (w 1), argsVa := BitVec.ofNat 64 (w 3), argn := argn
     stage := stage && !bad, stageId := nfld (w 0) 32 16
     stageEnd := if stage && decide (0 < t) then some (s.now + 1000 * t) else none }, start && !bad)
/-- LAUNCH_RECORD (R263): the first LAUNCH record of the run list sends its packet to the sequencer. An offset that is none breaks the
layout (DEDUCED: notes/assumptions/39.md); a packet that cannot be read fail-stops its tile (R381). -/
def evLaunchRecord (t : Nat) (s : State) : Option State :=
  let x := s.tile t
  match firstEnt s.now (quantOf s t) (x.sch.runl.filter fun e => (e.rcd.map (·.launch)).getD false) with
  | none => none
  | some e =>
    if !tileLive s t then none
    else
      let a := ((e.rcd.map Record.a0).getD 0).toNat
      match if a % 64 = 0 && decide (a + 64 ≤ Config.storeBytes) then homeRead s (.tile t a) 64
        else .ok (toBytes 8 (2 ^ 14) ++ List.replicate 56 0, s) with
      | .error u => some (failStopTile s t (BitVec.ofNat 64 (8 * u)))
      | .ok (bs, s) =>
        let (c, start) := packetCfg s (s.ctxOf t) (s.ownerOf t) bs true
        let s := s.modTile t fun x => ({ x with sch := { x.sch with runl := x.sch.runl.filter (· != e) } } : Tile).refill
        some { s with seqQ := s.seqQ ++ [.launch c start] }

/-! ## Timeouts -/

/-- WFE_TIMEOUT (R405). -/
def evWfeTimeout (t : Nat) (s : State) : Option State :=
  match (s.tile t).sch.wfe with
  | some d => if 0 < d && decide (d ≤ s.now) then some (s.modTile t fun x => { x with sch := { x.sch with wfe := some 0 } }) else none
  | none => none
/-- DRAIN_TIMEOUT (R278): a draining task past its limit is killed, or stopped for its checkpoint. -/
def evDrainTimeout (t : Nat) (s : State) : Option State :=
  let x := s.tile t
  match x.sch.task with
  | none => none
  | some k => match k.drainAt with
    | none => none
    | some d =>
      if x.sch.cycles < d || committing s t then none
      else if !k.immediate && k.policy != 1 then some (requeue s t)
      else some (s.modTile t fun x => { x with sch := { x.sch with task := some { k with drainAt := none } } })

/-- LONG_LATENCY_FILL (R57). -/
def execLongLatencyFill (t n : Nat) (s : State) := occur (evLongLatencyFill t n) s
/-- LDS_WAKE (R222). -/
def execLdsWake (t n : Nat) (s : State) := occur (evLdsWake t n) s
/-- FIRING (R253). -/
def execFiring (t : Nat) (s : State) := occur (evFiring t) s
/-- TASK_START (R265). -/
def execTaskStart (t : Nat) (s : State) := occur (evTaskStart t) s
/-- ACTOR_CLOSE (R254). -/
def execActorClose (t : Nat) (s : State) := occur (evActorClose t) s
/-- TOKEN_ARRIVAL (R30). -/
def execTokenArrival (t q : Nat) (s : State) := occur (evTokenArrival t q) s
/-- RESERVED_TAG (R18). -/
def execReservedTag (t q : Nat) (s : State) := occur (evReservedTag t q) s
/-- RECORD_ARRIVAL (R260). -/
def execRecordArrival (t : Nat) (s : State) := occur (evRecordArrival t) s
/-- TDEC_ARRIVAL (R260). -/
def execTdecArrival (t : Nat) (s : State) := occur (evTdecArrival t) s
/-- LAUNCH_RECORD (R263). -/
def execLaunchRecord (t : Nat) (s : State) := occur (evLaunchRecord t) s
/-- ENGFAULT (R380). -/
def execEngfault (t : Nat) (s : State) := occur (evEngfault t) s
/-- WFE_TIMEOUT (R405). -/
def execWfeTimeout (t : Nat) (s : State) := occur (evWfeTimeout t) s
/-- DRAIN_TIMEOUT (R278). -/
def execDrainTimeout (t : Nat) (s : State) := occur (evDrainTimeout t) s

end Sys2Proof.Machine
end

