-- ==== Sys2Proof/Machine/Patch.lean ====
section
/-! DEFINITION. The patch: its arithmetic (R132-R136, R139, R148, R153), what a command finds in the command order
(R144), and the execution of the command at its head, one row, piece or token a step (R143, R161, R392). -/

namespace Sys2Proof.Machine

/-! ## Arithmetic -/

/-- Whether a weight type's accumulators are floating point (R132). -/
def wFloat (ty : BitVec 4) : Bool := decide (8 ≤ ty.toNat)
/-- Pairings of R132. -/
def pairs (w a : BitVec 4) : Bool :=
  match w.toNat with
  | 9 => a = 9 || a = 10
  | 10 => a = 9 || a = 10
  | 4 => a = 4 || a = 5
  | _ => a = 11 || a = 12 || a = 13
/-- Width of a weight. -/
def WSet.width (w : WSet) : Nat := if w.i4 then 4 else tyWidth w.ty
/-- The value of a code of a type, an integer as an exact number. -/
def valOf (ty : BitVec 4) (w : Nat) (fmt8 : Word) (code : Nat) : Val :=
  match fmtOf ty fmt8 with
  | some f => decodeVal f code
  | none => .fin (dyOfInt (if tySigned ty then toSigned w code else (code : Int)))
/-- Weight W[k][n]. -/
def WSet.val (w : WSet) (k n : Nat) : Val := valOf w.ty w.width w.fmt8 (tget 0 w.w (64 * k + n)).toNat
/-- The scale code of column n for block b; 127 is 1 (R133). -/
def WSet.scale (w : WSet) (b n : Nat) : Nat := if w.scaled then (tget 0 w.sc (64 * b + n)).toNat else 127

/-- S of one chunk, exact: a NaN where R134 gives one, an infinity, or a number; a zero sum is -0 only of products that are all -0.
DEDUCED: notes/assumptions/93.md. -/
def chunkS (scale : Nat) (ab : List (Val × Val)) : Val :=
  let prod (p : Val × Val) : Val := match p with
    | (.fin x, .fin y) => .fin (x.mul y)
    | (x, y) => if x.isNan || y.isNan || x.isZero || y.isZero then .nan false 0 0 true else .inf (x.sign != y.sign)
  let ps := ab.map prod
  let pos := ps.any fun v => v.isInf && !v.sign
  let neg := ps.any fun v => v.isInf && v.sign
  if scale = 255 || ps.any Val.isNan || (pos && neg) then .nan false 0 0 true
  else if pos || neg then .inf neg
  else
    let ds := ps.filterMap fun v => match v with | .fin d => some d | _ => none
    let q := (ds.map (·.e)).foldl min 0
    let t := (ds.map (·.toInt q)).sum
    let d := ofIntAt (ds.all fun d => d.m = 0 && d.s) t q
    .fin { d with e := d.e + scale - 127 }
/-- ChunkAdd in float mode (R134). -/
def chunkAddF (acc : Nat) (x : Val) : Res :=
  match decodeVal f32 acc, x with
  | .nan _ _ _ _, _ => ⟨acc, 0⟩
  | _, .nan _ _ _ _ => ⟨0x7FC00000, NV⟩
  | .inf a, .inf b => if a == b then ⟨acc, 0⟩ else ⟨0x7FC00000, NV⟩
  | .inf _, _ => ⟨acc, 0⟩
  | _, .inf b => encodeVal f32 ⟨0, 0⟩ false (.inf b)
  | .fin a, .fin b => roundTo f32 ⟨0, 0⟩ false (a.add 0 b)
/-- ChunkAdd in integer mode (R134). -/
def chunkAddI (acc : Nat) (x : Int) (sat : Bool) : Res := fitInt 32 true sat (toSigned 32 acc + x)
/-- ChunkAdd by mode. -/
def chunkAdd (isF sat : Bool) (acc : Nat) (x : Val) : Res :=
  if isF then chunkAddF acc x
  else match x with
    | .fin d => chunkAddI acc (d.toInt 0) sat
    | _ => ⟨acc % 2 ^ 32, 0⟩

/-- One column of one row: four ChunkAdds in increasing k (R133, R135). -/
def columnAdd (w : WSet) (row : List Val) (sat : Bool) (n acc : Nat) : Res :=
  (List.range 4).foldl (fun r q =>
    let ab := (List.range 16).map fun i => ((row[16 * q + i]?).getD (.fin ⟨false, 0, 0⟩), w.val (16 * q + i) n)
    let c := chunkAdd (wFloat w.ty) sat r.code (chunkS (w.scale (q / 2) n) ab)
    ⟨c.code, r.fl ||| c.fl⟩) ⟨acc, 0⟩
/-- A row through a weight set; weights that do not pair with the row's type give the canonical NaN with NV, as R150 says of a region.
DEDUCED: notes/assumptions/94.md. -/
def rowAdd (w : WSet) (ty : BitVec 4) (row : List Val) (sat : Bool) (acc : List Nat) : List Res :=
  acc.zipIdx.map fun e => if pairs w.ty ty then columnAdd w row sat e.2 e.1 else ⟨0x7FC00000, NV⟩

/-- The flags of a list of results. -/
def flagsOf (l : List Res) : Flags := (l.map (·.fl)).foldl (· ||| ·) 0
/-- The elements of a row of activations (R136). -/
def actVals (a : ActFmt) (bs : List Byte) : List Val :=
  (toElems 64 (tyWidth a.ty) (ofBytes bs)).map (valOf a.ty (tyWidth a.ty) a.fmt8)

def Patch.pa (p : Patch) (set : Bool) : Pa := if set then p.pa1 else p.pa0
def Patch.setPa (p : Patch) (set : Bool) (a : Pa) : Patch := if set then { p with pa1 := a } else { p with pa0 := a }
def Pa.row (a : Pa) (r : Nat) : List Nat := (List.range 64).map fun n => (tget 0 a.w (64 * r + n)).toNat
def Pa.setRow (a : Pa) (r : Nat) (l : List Nat) : Pa :=
  { a with w := l.zipIdx.foldl (fun t e => tset 0 t (64 * r + e.2) (BitVec.ofNat 32 e.1)) a.w, bad := a.bad.filter (· / 64 != r) }
def Patch.fmt (p : Patch) (src : Nat) : ActFmt := tget {} p.fmts src

/-- The type code of accumulator words. -/
def accTy (isInt : Bool) : BitVec 4 := if isInt then 0 else 8
/-- A row of accumulators converted to a type, with the rounding of each element (R139, R153). -/
def convRow (ty : BitVec 4) (isInt : Bool) (fmt8 : Word) (rm : Nat → Rm) (sat : Bool) (l : List Nat) : List Res :=
  l.zipIdx.map fun e => convElem ty (accTy isInt) fmt8 (rm e.2) sat e.1

/-! ## What a command finds in the command order (R144) -/

/-- What the checks at issue know of the patch once every queued command has taken effect; weights that a neighbour's lap
will bring are unknown. -/
structure PView where
  act : Option (BitVec 4)
  sh : Option (BitVec 4)
  shd : Bool
  tag0 : Option Bool
  tag1 : Option Bool
  fmts : Tbl ActFmt
  scq : Nat
  rgn : Bool
  ring : Bool
deriving DecidableEq, Repr

def Patch.view (p : Patch) : PView :=
  ⟨some p.act.ty, if p.shSt = 0 then none else some p.sh.ty, p.shSt != 0, some p.pa0.isInt, some p.pa1.isInt, p.fmts,
    p.scq.length, p.rgn.isSome, p.ring.isSome⟩
/-- The view after a queued command. -/
def PView.after (v : PView) (e : PEntry) : PView :=
  match e.cmd with
  | .cfg src ty => { v with fmts := tput v.fmts src ⟨ty, e.car.fmt8⟩ }
  | .wld _ _ ty _ sc => { v with sh := some ty, shd := true, scq := if sc then v.scq - 2 else v.scq }
  | .wsw =>
    if v.ring then { v with act := v.sh, sh := none, shd := false }
    else if v.shd then { v with act := v.sh, sh := none, shd := false } else v
  | .sc _ _ n => { v with scq := v.scq + (n - e.done) }
  | .run _ _ _ _ set _ _ =>
    let k := v.act.map fun ty => !wFloat ty
    if set then { v with tag1 := k } else { v with tag0 := k }
  | .clr set all =>
    let v := if all || !set then { v with tag0 := some false } else v
    if all || set then { v with tag1 := some false } else v
  | .rgn on _ => { v with rgn := on }
  | .ring on _ => { v with ring := on }
  | _ => v
def Tile.view (x : Tile) : PView := x.pu.q.foldl PView.after x.pu.st.view
def PView.tag (v : PView) (set : Bool) : Option Bool := if set then v.tag1 else v.tag0

/-- Region and ring of the actor on a tile (R147, R151). -/
def regionOf (s : State) (t : Nat) : Option (Nat × Nat × Nat × Nat × Nat) := (s.actorDecl t).bind (·.region)
def ringOf (s : State) (t : Nat) : Option (Nat × Nat) := (s.actorDecl t).bind (·.ring)

/-- Whether a run may be issued after what is queued (R149, R161); what a ring's lap will bring is not known then (R144). DEDUCED:
notes/assumptions/94.md. -/
def runLegal (s : State) (t src rows r0 : Nat) (set zero sat : Bool) : Bool :=
  let v := (s.tile t).view
  let j := ((regionOf s t).map fun r => r.2.2.2.2).getD 0
  let west := src == 5
  decide (1 ≤ rows) && decide (rows ≤ 64) && decide (r0 + rows ≤ 64) &&
  (if v.rgn then west == decide (0 < j) else !west) &&
  (match v.act with
   | none => true
   | some w =>
     (west || pairs w (tget {} v.fmts src : ActFmt).ty) && (!sat || !wFloat w) &&
     (zero || v.tag set == none || v.tag set == some (!wFloat w)))
/-- Whether a drain's type fits the set's mode (R139). -/
def drainLegal (v : PView) (ty : BitVec 4) (set : Bool) : Bool :=
  match v.tag set with
  | some true => ty = 0 || ty = 2 || ty = 4
  | some false => decide (8 ≤ ty.toNat) && decide (ty.toNat ≤ 13)
  | none => true

/-! ## Execution -/

def modPatch (s : State) (t : Nat) (f : Patch → Patch) : State := s.modTile t fun x => { x with pu := { x.pu with st := f x.pu.st } }
def patchFlags (s : State) (t : Nat) (fl : Flags) : State :=
  if fl = 0 then s else modPatch s t fun p => { p with flags := p.flags ||| fl }

/-- A patch's cells are awake (R328). -/
def Tile.cellsAwake (x : Tile) (now : Nat) : Bool :=
  match x.pu.gate with
  | .awake n => decide (n ≤ now)
  | _ => false
/-- The command at the head is complete; a start may be asked for, and the patch may be idle (R324, R328). -/
def finishCmd (s : State) (t : Nat) : State :=
  let s := s.modTile t fun x =>
    let ran := match x.pu.q with
      | e :: _ => e.cmd.starts
      | [] => false
    { x with pu := ({ x.pu with q := x.pu.q.drop 1, ranAt := if ran then some s.now else x.pu.ranAt } : PatchUnit).rest s.now }
  askStart s t
/-- Count one more piece of the head done, complete when it was the last. -/
def advanceCmd (s : State) (t total : Nat) : State :=
  match (s.tile t).pu.q with
  | [] => s
  | e :: r =>
    if total ≤ e.done + 1 then finishCmd s t
    else s.modTile t fun x => { x with pu := { x.pu with q := { e with done := e.done + 1, acc := none } :: r } }

/-- Units of a tile-store source, by number from its address: those that have been read, the others as the own store holds them now, through
the task's store buffer (R142). -/
def sourceUnits (s : State) (t : Nat) (e : PEntry) (addr : Word) : List Nat → State → Except EngStop (List Byte × State)
  | [], s => .ok ([], s)
  | u :: r, s =>
    let here : Except EngStop (List Byte × State) := match e.seen.find? (·.1 == u) with
      | some (_, bs) => .ok (bs, s)
      | none => engRead s t 0 e.car.stkbase 0 (if e.byTask then (s.tile t).sch.fx.sb else []) 2 (addr + BitVec.ofNat 64 (8 * u)) 8
    match here with
    | .error x => .error x
    | .ok (bs, s) => (sourceUnits s t e addr r s).map fun (l, s) => (bs ++ l, s)
/-- Take n bytes, piece k of a command's data, from its source: tokens of a stream port's buffer, or the own tile store
through the task's store buffer (R136, R141, R142). -/
def takeSource (s : State) (t : Nat) (e : PEntry) (src : Nat) (addr : Word) (k n : Nat) : Except EngStop (List Byte × State) :=
  let x := s.tile t
  if src < 4 then
    let y := x.port src
    let m := (n + 63) / 64
    if y.buf.length < m then .error .wait
    else
      let bytes (tok : Token) : List Byte := match tok with
        | .vec d => takeBytes d 0 64
        | _ => List.replicate 64 0
      .ok ((y.buf.take m).flatMap bytes, s.modTile t fun x => x.setPort src { x.port src with buf := (x.port src).buf.drop m })
  else sourceUnits s t e addr ((List.range (n / 8)).map (n / 8 * k + ·)) s

/-- A chunk row has been computed: the spare cells compare the cells they shadow (R392). DESIGN CHOICE: notes/assumptions/25.md. -/
def spareCheck (s : State) (t : Nat) : State :=
  let x := s.tile t
  let every := Nat.max 1 (nfld (s.field (fieldOf t)).shdint.toNat 0 16)
  let j := x.pu.chunks / every % 4
  let bad := x.pu.spareBad.filter fun e => e.2 == j
  let s := s.modTile t fun x => { x with pu := { x.pu with chunks := x.pu.chunks + 1 } }
  if bad.isEmpty then s
  else
    let s := bad.foldl (fun a e => tileEvent a t 0x02 0 (BitVec.ofNat 64 (1 + 256 * e.1 + 65536 * j)) (BitVec.ofNat 64 x.pu.chunks)) s
    s.modCfg (s.sqOf t) fun c => { c with mchk := true }

/-- What a run takes for its row k in place of a source row, in recurrence mode: a result row fed back in the source's type (R153). -/
def feedBack (s : State) (t : Nat) (e : PEntry) (a : ActFmt) (r0 : Nat) (set : Bool) (row : List Val) : List Val × State :=
  let p := (s.tile t).pu.st
  match p.recu with
  | none => (row, s)
  | some (d, car) =>
    if e.done < d then (row, s)
    else
      let pa := p.pa set
      let rm (n : Nat) : Rm := ⟨car.mode, if car.mode = 5 then srRnd car.seed (BitVec.ofNat 32 e.done) n else 0⟩
      let rs := convRow a.ty pa.isInt a.fmt8 rm car.sat (pa.row (r0 + e.done - d))
      (rs.map fun r => valOf a.ty (tyWidth a.ty) a.fmt8 r.code, patchFlags s t (flagsOf rs))
/-- The activation row of row k of a run, with its format: from the source, which is consumed, or fed back (R153). -/
def runRow (s : State) (t : Nat) (e : PEntry) (src : Nat) (addr : Word) (r0 : Nat) (set : Bool) :
    Except EngStop (List Val × ActFmt × State) :=
  let a := (s.tile t).pu.st.fmt src
  match takeSource s t e src addr e.done (8 * tyWidth a.ty) with
  | .error x => .error x
  | .ok (bs, s) =>
    let (row, s) := feedBack s t e a r0 set (actVals a bs)
    .ok (row, a, s)

/-- Write an accumulator row, the set's mode becoming the weights' (R161). -/
def putRow (s : State) (t : Nat) (set : Bool) (r : Nat) (rs : List Res) : State :=
  let s := modPatch s t fun p =>
    p.setPa set { (p.pa set).setRow r (rs.map (·.code)) with isInt := !wFloat p.act.ty }
  patchFlags s t (flagsOf rs)

/-- One row of a run outside region mode (R133). -/
def runTry (s : State) (t : Nat) (e : PEntry) (src : Nat) (addr : Word) (rows r0 : Nat) (set zero sat : Bool) : Except EngStop State :=
  match runRow s t e src addr r0 set with
  | .error x => .error x
  | .ok (row, a, s) =>
    let p := (s.tile t).pu.st
    let acc := if zero then List.replicate 64 0 else (p.pa set).row (r0 + e.done)
    let s := putRow s t set (r0 + e.done) (rowAdd p.act a.ty row sat acc)
    .ok (advanceCmd (spareCheck s t) t rows)

/-! ## Parity of the accumulators (R15) -/

/-- The accumulator rows, by set, that a command reads for its next piece: the sums of a run that does not start from zero, in a region
the south row's only, what a recurrence feeds back, and the row of a drain (R133, R139, R148, R153). -/
def paReads (s : State) (t : Nat) (e : PEntry) : List (Bool × Nat) :=
  let p := (s.tile t).pu.st
  match e.cmd with
  | .run _ _ _ r0 set zero _ =>
    let south := p.rgn.isNone || ((regionOf s t).map fun r => r.2.2.2.1 + 1 == r.2.1).getD true
    let back := match p.recu with
      | some (d, _) => if d ≤ e.done then [(set, r0 + e.done - d)] else []
      | none => []
    (if !zero && south then [(set, r0 + e.done)] else []) ++ back
  | .drn _ _ _ ty set _ _ first rows => if rows = 0 then [] else [(set, first + e.done / (tyWidth ty / 8))]
  | _ => []
/-- TADDR of the DUE that a command meets as it reads an accumulator word of bad parity (R15, R381). -/
def paDue (s : State) (t : Nat) (e : PEntry) : Option Word :=
  (paReads s t e).findSome? fun r => (((s.tile t).pu.st.pa r.1).bad.find? (· / 64 == r.2)).map fun k =>
    regDue .pa ((if r.1 then 4096 else 0) + k)

/-! ## Systolic regions (R147-R150) -/

/-- The tile of member (i, j) of region g, in the run of its configuration that tile t belongs to. -/
def memberTile (s : State) (t g i j : Nat) : Option Nat :=
  (s.cfg (s.sqOf t)).bind fun c => (findIx (fun d : ActorDecl => match d.region with
    | some (g', _, _, i', j') => g' == g && i' == i && j' == j
    | none => false) c.image.actors).bind fun e => slotTile s t e.1
/-- The run at the head of a member that is ready for row k, its cells awake (R328). -/
def readyRun (s : State) (t k : Nat) : Option PEntry :=
  let x := s.tile t
  match x.pu.q with
  | e :: _ =>
    match e.cmd with
    | .run _ _ _ _ _ _ _ =>
      if x.pu.st.rgn.isSome && e.granted && e.done == k && enginesRun s t && x.cellsAwake s.now && (paDue s t e).isNone then some e
      else none
    | _ => none
  | [] => none
/-- One row of one member: the partial sums from the north pass through its weights, and the set's mode becomes the weights' in
every member (R148, R161). -/
def memberRow (s : State) (t : Nat) (e : PEntry) (south : Bool) (ty : BitVec 4) (row : List Val) (ps : List Nat) : List Nat × State :=
  match e.cmd with
  | .run _ _ rows r0 set zero sat =>
    let p := (s.tile t).pu.st
    let rs := rowAdd p.act ty row sat ps
    let s := patchFlags s t (flagsOf rs)
    let out := rs.map (·.code)
    let s := if south then
        if zero then putRow s t set (r0 + e.done) (out.map fun c => ⟨c, 0⟩)
        else
          let isF := wFloat p.act.ty
          let sums := (out.zip ((p.pa set).row (r0 + e.done))).map fun q =>
            chunkAdd isF sat q.2 (if isF then decodeVal f32 q.1 else .fin (dyOfInt (toSigned 32 q.1)))
          putRow s t set (r0 + e.done) sums
      else modPatch s t fun q => q.setPa set { q.pa set with isInt := !wFloat p.act.ty }
    (out, advanceCmd (spareCheck s t) t rows)
  | _ => (ps, s)
/-- The activation rows of the west column. -/
def westRows (s : State) (k : Nat) : List Nat → Except EngStop (List (List Val × ActFmt) × State)
  | [] => .ok ([], s)
  | t :: r => match readyRun s t k with
    | none => .error .wait
    | some e => match e.cmd with
      | .run src addr _ r0 set _ _ => match runRow s t e src addr r0 set with
        | .error x => .error x
        | .ok (row, a, s) => match westRows s k r with
          | .error x => .error x
          | .ok (rest, s) => .ok ((row, a) :: rest, s)
      | _ => .error .wait
/-- What the members of a column take from the column to their west, in recurrence mode their own rows (R153): what a member takes
it passes east. DEDUCED: notes/assumptions/76.md. -/
def eastRows (s : State) (k : Nat) : List (Nat × List Val × ActFmt) → List (List Val × ActFmt) × State
  | [] => ([], s)
  | (t, row, a) :: r =>
    let (row, s) := match readyRun s t k with
      | some e => match e.cmd with
        | .run _ _ _ r0 set _ _ => feedBack s t e a r0 set row
        | _ => (row, s)
      | none => (row, s)
    let (rest, s) := eastRows s k r
    ((row, a) :: rest, s)
/-- Row k of one column of a region, from north to south (R148). -/
def columnRows (s : State) (k h : Nat) (ts : List Nat) (rows : List (List Val × ActFmt)) : State :=
  (ts.zipIdx.foldl (fun (acc : List Nat × State) m =>
    match readyRun acc.2 m.1 k, rows[m.2]? with
    | some e, some (row, a) => memberRow acc.2 m.1 e (m.2 + 1 == h) a.ty row acc.1
    | _, _ => acc) (List.replicate 64 0, s)).2
/-- Row k of the columns of a region from west to east. -/
def regionRows (s : State) (k h : Nat) (rows : List (List Val × ActFmt)) : List (List Nat) → State
  | [] => s
  | ts :: r =>
    let s := columnRows s k h ts rows
    match r with
    | [] => s
    | next :: _ =>
      let (rows, s) := eastRows s k (next.zip rows)
      regionRows s k h rows r
/-- Row k of a region's run, in every member at once (R148): each must stand at row k of a granted run. -/
def regionTry (s : State) (t k : Nat) : Except EngStop State :=
  match (s.tile t).pu.st.rgn, regionOf s t with
  | some g, some (_, h, w, _, _) =>
    let col (j : Nat) : List (Option Nat) := (List.range h).map fun i => memberTile s t g i j
    let tiles := (List.range w).map col
    if tiles.any fun c => c.any fun m => match m with
        | none => true
        | some u => (readyRun s u k).isNone then .error .wait
    else
      let cols := tiles.map fun c => c.filterMap id
      match westRows s k (cols.headD []) with
      | .error x => .error x
      | .ok (rows, s) => .ok (regionRows s k h rows cols)
  | _, _ => .error .wait

/-! ## The other commands (R161) -/

/-- Bytes of a piece of a weight block: a row, or two 32-byte rows (R136). -/
def wldPiece (width : Nat) : Nat := if width = 16 then 128 else 64
def wldPieces (width : Nat) : Nat := if width = 4 then 32 else 64
/-- One piece of MXWLD (R137, R161). -/
def wldTry (s : State) (t : Nat) (e : PEntry) (src : Nat) (addr : Word) (ty : BitVec 4) (i4 sc : Bool) : Except EngStop State :=
  let width := if i4 then 4 else tyWidth ty
  let n := wldPiece width
  match takeSource s t e src addr e.done n with
  | .error x => .error x
  | .ok (bs, s) =>
    let per := 8 * n / width
    let es := toElems per width (ofBytes bs)
    let last := decide (wldPieces width ≤ e.done + 1)
    if last && sc && decide ((s.tile t).pu.st.scq.length < 2) then .error .wait
    else
      let s := modPatch s t fun p =>
        let sh := if e.done = 0 then { ty := ty, i4 := i4, fmt8 := e.car.fmt8 : WSet } else p.sh
        let sh := { sh with w := es.zipIdx.foldl (fun w x => tset 0 w (per * e.done + x.2) (BitVec.ofNat 16 x.1)) sh.w }
        let p := { p with sh := sh, shSt := 1 }
        if !last then p
        else
          let p := { p with shSt := 2 }
          if !sc then p
          else
            let scs := (p.scq.take 2).flatten
            { p with
              sh := { p.sh with scaled := true, sc := scs.zipIdx.foldl (fun w x => tset 0 w x.2 x.1) [] }
              scq := p.scq.drop 2 }
      .ok (advanceCmd s t (wldPieces width))

/-- The next 64-byte piece of a drain, with the flags that its row raised (R139, R140). -/
def drnPiece (x : Tile) (e : PEntry) (toQueue : Bool) (addr : Word) (ty : BitVec 4) (set sat : Bool) (first : Nat) : List Byte × Flags :=
  let each := tyWidth ty / 8
  let i := e.done / each
  let pa := x.pu.st.pa set
  let base := if toQueue then 0 else addr.toNat
  let rm (n : Nat) : Rm := ⟨e.car.mode, if e.car.mode = 5 then
    srRnd e.car.seed (BitVec.ofNat 32 (base + each * (64 * i + n))) (64 * i + n) else 0⟩
  let rs := convRow ty pa.isInt e.car.fmt8 rm sat (pa.row (first + i))
  let part := ((rs.map (·.code)).drop (e.done % each * (64 / each))).take (64 / each)
  (toBytes 64 (ofElems (tyWidth ty) part), if e.done % each = 0 then flagsOf rs else 0)
/-- One 64-byte piece of a drain (R139, R140): to the tile store as an engine write, or to an output queue as a token; a
piece that would meet an armed hurdle word is not written, an event says so, and the drain goes on (R247; DESIGN CHOICE:
notes/assumptions/100.md). -/
def drnTry (s : State) (t : Nat) (e : PEntry) (toQueue : Bool) (q : Nat) (addr : Word) (ty : BitVec 4) (set sat clr : Bool)
    (first rows : Nat) : Except EngStop State :=
  let x := s.tile t
  let each := tyWidth ty / 8
  let total := rows * each
  if total = 0 then .ok (finishCmd s t)
  else if toQueue && x.outFree q = 0 then .error .wait
  else
    let (bs, fl) := drnPiece x e toQueue addr ty set sat first
    let next (s : State) : State :=
      let s := patchFlags s t fl
      let s := if clr && (e.done + 1) % each == 0 then
          modPatch s t fun p => p.setPa set ((p.pa set).setRow (first + e.done / each) (List.replicate 64 0))
        else s
      advanceCmd s t total
    if toQueue then
      let tok := Token.vec (BitVec.ofNat 512 (ofBytes bs))
      .ok (next (s.modTile t fun x => if e.byTask then x.push q tok else x.emit q x.nextAcc tok))
    else match engWrite s t e.acc 0 e.car.stkbase 0 (addr + BitVec.ofNat 64 (64 * e.done)) bs with
      | .ok s => .ok (next s)
      | .error (.fault c) => if c = 0x0C then .ok (next (tileEvent s t 0x06 0x0C addr (BitVec.ofNat 64 t))) else .error (.fault c)
      | .error x => .error x

/-- Patch status (R159). -/
def Patch.status (p : Patch) : Nat :=
  p.flags.toNat + (if p.nosh then 2 ^ 9 else 0) + (if p.rgn.isSome then 2 ^ 10 else 0) + (if p.ring.isSome then 2 ^ 11 else 0) +
  (if p.recu.isSome then 2 ^ 12 else 0) + (if p.act.i4 then 2 ^ 13 else 0) + p.act.ty.toNat * 2 ^ 14 + p.shSt.toNat * 2 ^ 18 +
  p.scq.length * 2 ^ 20

/-- The rollback copy of the patch, at an I task's first group 5 command (R145). -/
def Tile.keepPatch (x : Tile) : Tile :=
  if !x.isM && x.sch.fx.patch0.isNone then
    { x with sch := { x.sch with fx := { x.sch.fx with patch0 := some x.pu.st } } }
  else x
/-- Commands that need the patch's cells (R328): MXST reads state that gating keeps. DEDUCED: notes/assumptions/77.md. -/
def PCmd.cells : PCmd → Bool
  | .st _ => false
  | _ => true
/-- The status of an MXST that the running task issued reaches the register that has waited longest for one; the register of a task that
has ended waits no more (R42, R161). -/
def Tile.giveStatus (x : Tile) (byTask : Bool) : Tile :=
  let v : Vec := BitVec.ofNat 512 x.pu.st.status
  match if byTask then x.pend.findIdx? (·.what == .status) else none with
  | none => x
  | some n => { x with pend := x.pend.modify n fun p => { p with what := .value v 0 } }
/-- MXST at its turn (R161): every earlier command has completed; with CLR the W1C bits that it returns clear. -/
def stTry (s : State) (t : Nat) (e : PEntry) (clr : Bool) : State :=
  let s := s.modTile t (·.giveStatus e.byTask)
  finishCmd (if clr then modPatch s t fun p => { p with flags := 0, nosh := false } else s) t
/-- The command at the head of a patch's queue waits: for the engines, for its cells, or for its grant (R146, R328). -/
def headWaits (s : State) (t : Nat) (e : PEntry) : Bool :=
  !enginesGo s t e.acc || (e.cmd.cells && !(s.tile t).cellsAwake s.now) || (e.cmd.starts && !e.granted)
/-- The next step of the command at the head of a patch's queue. -/
def patchTry (s0 : State) (t : Nat) : Except EngStop State :=
  let x0 := s0.tile t
  match x0.pu.q with
  | [] => .error .wait
  | e :: _ =>
    if headWaits s0 t e then .error .wait
    else if let some a := paDue s0 t e then .error (.failStop a)
    else
      let s := if e.byTask then s0.modTile t Tile.keepPatch else s0
      match e.cmd with
      | .cfg src ty => .ok (finishCmd (modPatch s t fun p => { p with fmts := tput p.fmts src ⟨ty, e.car.fmt8⟩ }) t)
      | .wld src addr ty i4 sc => wldTry s t e src addr ty i4 sc
      | .wsw =>
        let p := x0.pu.st
        if p.ring.isSome then
          if p.shSt != 2 then .error .wait
          else .ok (finishCmd (modPatch s t fun p => { p with act := p.sh, sh := p.act, shSt := 0 }) t)
        else if p.shSt = 2 then .ok (finishCmd (modPatch s t fun p => { p with act := p.sh, sh := p.act, shSt := 0 }) t)
        else if p.shSt = 0 then .ok (finishCmd (modPatch s t fun p => { p with nosh := true }) t)
        else .error .wait
      | .sc src addr n => match takeSource s t e src addr e.done 64 with
        | .error x => .error x
        | .ok (bs, s) => .ok (advanceCmd (modPatch s t fun p => { p with scq := p.scq ++ [bs] }) t n)
      | .run src addr rows r0 set zero sat =>
        if x0.pu.st.rgn.isSome then regionTry s t e.done else runTry s t e src addr rows r0 set zero sat
      | .drn toQueue q addr ty set sat clr first rows => drnTry s t e toQueue q addr ty set sat clr first rows
      | .clr set all => .ok (finishCmd (modPatch s t fun p =>
          let p := if all || !set then { p with pa0 := {} } else p
          if all || set then { p with pa1 := {} } else p) t)
      | .rgn on n => .ok (finishCmd (modPatch s t fun p => { p with rgn := if on then some n else none }) t)
      | .ring on n => .ok (finishCmd (modPatch s t fun p => { p with ring := if on then some n else none }) t)
      | .lap =>
        let next := (ringOf s t).bind fun r => slotTile s t r.2
        match next with
        | none => .error .wait
        | some u =>
          if s.unreachable u || (s.tile u).failStop || (s.tile u).pu.st.shSt != 0 then .error .wait
          else .ok (finishCmd (modPatch s u fun p => { p with sh := x0.pu.st.act, shSt := 2 }) t)
      | .st clr => .ok (stTry s t e clr)
      | .recur on d => .ok (finishCmd (modPatch s t fun p => { p with recu := if on then some (d, e.car) else none }) t)

/-- A tile whose queued patch command n is given anew. -/
def Tile.setCmd (x : Tile) (n : Nat) (e : PEntry) : Tile := { x with pu := { x.pu with q := lset x.pu.q n e } }
/-- The address of a command's tile-store source. -/
def PCmd.ownSource : PCmd → Option Word
  | .wld 4 a _ _ _ => some a
  | .sc 4 a _ => some a
  | .run 4 a _ _ _ _ _ => some a
  | _ => none
/-- A drain to the tile store. -/
def PCmd.drainsOwn : PCmd → Bool
  | .drn toQueue _ _ _ _ _ _ _ _ => !toQueue
  | _ => false
/-- Read a unit of the tile-store source of the n-th queued command, by number from its address, before the piece that it belongs to: a core
store issued after the command may be seen in one unit and not in another (R142). A drain before it in the command order has been
written (R143). DEDUCED: notes/assumptions/9.md. -/
def patchReads (s : State) (t n u : Nat) : Option State :=
  let x := s.tile t
  (x.pu.q[n]?).bind fun e => e.cmd.ownSource.bind fun a =>
    if !enginesRun s t || (x.pu.q.take n).any (·.cmd.drainsOwn) || decide (1024 ≤ u) || e.seen.any (·.1 == u) then none
    else match sourceUnits s t e a [u] s with
      | .error _ => none
      | .ok (bs, s) => some (s.modTile t (·.setCmd n { e with seen := tput e.seen u bs }))
/-- One unit of the piece that the drain at the head is to write, ahead of the others (R163). -/
def drainAhead (s : State) (t k : Nat) : Option State :=
  let x := s.tile t
  x.pu.q.head?.bind fun e => match e.cmd with
    | .drn false _ addr ty set sat _ first rows =>
      if rows = 0 || headWaits s t e || (paDue s t e).isSome then none
      else
        let s := if e.byTask then s.modTile t Tile.keepPatch else s
        (engAhead s t e.acc 0 e.car.stkbase 0 (addr + BitVec.ofNat 64 (64 * e.done)) (drnPiece x e false addr ty set sat first).1 k).map
          fun r => r.2.modTile t (·.setCmd 0 { e with acc := some r.1 })
    | _ => none
/-- PATCH_COMMAND (R143). -/
def evPatchCommand (t : Nat) (s : State) : Option State := engGo s t (patchTry s t)

/-- Put a command into the queue: gated cells that it needs are asked to wake (R328), a start at the head asks the pacer (R323). -/
def enqueueCmd (s : State) (t : Nat) (e : PEntry) : State :=
  let s := s.modTile t fun x => { x with pu := { x.pu with q := x.pu.q ++ [e] } }
  askStart (if e.cmd.cells then askWake s t else s) t

end Sys2Proof.Machine
end

