-- ==== Sys2Proof/Machine/PatchOps.lean ====
section
/-! DEFINITION. The meanings of group 5: checks at issue and entry into the patch command queue (R141-R146, R149, R151-R156,
R160, R161), and the arrival of a remote command (R156, R157). -/

namespace Sys2Proof.Machine

/-- In an I task no group 5 command while region or ring mode is on (R145). -/
def needPlainPatch : M Unit := do
  let x ← getT
  need (x.isM || (!x.view.rgn && !x.view.ring))
/-- PRI of the task that issues a command. -/
def Tile.taskPri (x : Tile) : Nat := (x.sch.task.map (·.pri)).getD 0
/-- Issue a local command: hold while the queue's 16 entries are taken (R144). -/
def issueCmd (c : PCmd) : M Go := do
  let x ← getT
  await (decide (x.pu.q.length < 16))
  let t ← me
  modS fun s => enqueueCmd s t { cmd := c, car := x.csr.carry, pri := x.taskPri, byTask := true }
  pure .on
/-- The tile-store address of a source or destination, checked for n bytes (R141); 0 where none is named. -/
def cmdAddr (named : Bool) (g : BitVec 8) (n : Nat) : M Word := do
  if named then
    let a ← readG g.toNat false
    let _ ← needOwn a n 64
    pure a
  else pure 0

/-- mxcfg. -/
def mxcfgM (f : FE) : M Go := whenBit0 f.p do
  needPlainPatch
  issueCmd (.cfg f.ix.toNat (BitVec.ofNat 4 f.cmd.toNat))
/-- mxwld (R137, R138, R151): ILLOP comes before the faults of the address. DESIGN CHOICE: notes/assumptions/114.md. -/
def mxwldM (f : FE) : M Go := whenBit0 f.p do
  needPlainPatch
  let ty := BitVec.ofNat 4 f.cmd.toNat
  let sc := nbit f.cmd.toNat 4
  let i4 := nbit f.cmd.toNat 5
  let v := (← getT).view
  need (!v.ring && (!sc || decide (2 ≤ v.scq)))
  let width := if i4 then 4 else tyWidth ty
  let a ← cmdAddr (f.ix == 4) f.ga (512 * width)
  issueCmd (.wld f.ix.toNat a ty i4 sc)
/-- mxwsw. -/
def mxwswM (f : FE) : M Go := whenBit0 f.p do
  needPlainPatch
  issueCmd .wsw
/-- mxsc (R138): ILLOP comes before the faults of the address. DESIGN CHOICE: notes/assumptions/114.md. -/
def mxscM (f : FE) : M Go := whenBit0 f.p do
  needPlainPatch
  let n := (← readG f.gb.toNat false).toNat
  need (decide (1 ≤ n) && decide (n ≤ 8) && decide ((← getT).view.scq + n ≤ 8))
  let a ← cmdAddr (f.ix == 4) f.ga (64 * n)
  issueCmd (.sc f.ix.toNat a n)
/-- mxrun (R149, R161): ILLOP comes before the faults of the address. DESIGN CHOICE: notes/assumptions/114.md. -/
def mxrunM (f : FE) : M Go := whenBit0 f.p do
  needPlainPatch
  let rows := (← readG f.gb.toNat false).toNat
  let r0 := (← readG f.gc.toNat false).toNat
  let s ← getS
  let src := f.ix.toNat
  let set := nbit f.cmd.toNat 0
  let zero := nbit f.cmd.toNat 1
  let sat := nbit f.cmd.toNat 2
  need (runLegal s s.cur src rows r0 set zero sat)
  let a ← cmdAddr (f.ix == 4) f.ga (8 * rows * tyWidth (tget {} (s.tile s.cur).view.fmts src : ActFmt).ty)
  issueCmd (.run src a rows r0 set zero sat)
/-- mxdrn (R139, R140): a tile-store destination empties at issue. ILLOP comes before RMODEBAD, and both before the faults of the
address. DESIGN CHOICE: notes/assumptions/98.md. -/
def mxdrnM (f : FE) : M Go := whenBit0 f.p do
  needPlainPatch
  let first := (← readG f.gb.toNat false).toNat
  let rows := (← readG f.gc.toNat false).toNat
  let x ← getT
  let ty := BitVec.ofNat 4 f.cmd.toNat
  let set := nbit f.cmd.toNat 4
  let toQueue := f.ix != 16
  need (decide (first + rows ≤ 64) && drainLegal x.view ty set)
  need (!toQueue || decide (0 < (x.outQ f.ix.toNat).depth))
  if 8 ≤ ty.toNat then needMode
  let n := 8 * rows * tyWidth ty
  let a ← cmdAddr (!toQueue) f.ga n
  await (decide (x.pu.q.length < 16))
  let t ← me
  if !toQueue then modS fun s => emptyRange s t 0 x.csr.stkbase 0 (pagesOf n) a n
  issueCmd (.drn toQueue f.ix.toNat a ty set (nbit f.cmd.toNat 5) (nbit f.cmd.toNat 6) first rows)
/-- mxclr. -/
def mxclrM (f : FE) : M Go := whenBit0 f.p do
  needPlainPatch
  issueCmd (.clr (nbit f.cmd.toNat 0) (nbit f.cmd.toNat 1))
/-- mxrgn (R149, R161): on and off name the region that the setup declares. -/
def mxrgnM (f : FE) : M Go := whenBit0 f.p do
  needM
  let on := nbit f.cmd.toNat 0
  let n := (← readG f.ga.toNat false).toNat
  let s ← getS
  need ((s.tile s.cur).view.rgn != on && (regionOf s s.cur).map (·.1) == some n)
  issueCmd (.rgn on n)
/-- mxring (R151, R161): on and off name the ring that the setup declares. -/
def mxringM (f : FE) : M Go := whenBit0 f.p do
  needM
  let on := nbit f.cmd.toNat 0
  let n := (← readG f.ga.toNat false).toNat
  let s ← getS
  need ((s.tile s.cur).view.ring != on && (ringOf s s.cur).map (·.1) == some n)
  issueCmd (.ring on n)
/-- mxlap (R152). -/
def mxlapM (f : FE) : M Go := whenBit0 f.p do
  needM
  need (← getT).view.ring
  issueCmd .lap
/-- mxrec (R153, R73). RMODEBAD comes before the ILLOP of a depth out of range. DESIGN CHOICE: notes/assumptions/99.md. -/
def mxrecM (f : FE) : M Go := whenBit0 f.p do
  needPlainPatch
  if nbit f.cmd.toNat 0 then
    let d := (← readG f.ga.toNat false).toNat
    needMode
    need (decide (1 ≤ d) && decide (d ≤ 16))
    issueCmd (.recur true d)
  else issueCmd (.recur false 0)
/-- mxst (R57, R161): a command of the queue whose register is empty until every earlier command has completed. DEDUCED:
notes/assumptions/77.md. -/
def mxstM (f : FE) : M Go := whenBit0 f.p do
  needPlainPatch
  dstReady true f.ga.toNat
  let go ← issueCmd (.st (nbit f.cmd.toNat 0))
  sendResult (.g f.ga.toNat) .status
  pure go

/-! ## Remote commands (R154-R157, R346) -/

/-- TADDR of CAPFAIL (R156). -/
def capTaddr (target c : Nat) (dead : Bool) : Word := BitVec.ofNat 64 (target * 256 + c + if dead then 2 ^ 32 else 0)
/-- mxcmd (R155): the request is sent, and the core holds for the reply; OWNER comes before RMODEBAD. DESIGN CHOICE: notes/assumptions/114.md. -/
def mxcmdM (f : FE) : M Go := whenBit0 f.p do
  needM
  match (← getT).sch.cmdOut with
  | some r =>
    match r.reply with
    | none => hold
    | some v =>
      modT fun x => { x with sch := { x.sch with cmdOut := none } }
      if v = 1 then pure .on
      else trap 0x0E (capTaddr r.target r.cap (v == 2))
  | none =>
    let target := (← readG f.ga.toNat false).toNat
    let nonce := (← readG f.gb.toNat false).toNat
    let param ← readG f.gc.toNat false
    let s ← getS
    if !(decide (target < Config.numTiles) && s.ownerOf target == s.ownerOf s.cur) then trap 0x0F (BitVec.ofNat 64 target)
    if f.cmd = 1 && decide (8 ≤ param.toNat % 16) && decide (param.toNat % 16 ≤ 13) then needMode
    modT fun x => ({ x with sch := { x.sch with cmdOut := some {
      target := target, cap := f.ix.toNat, nonce := BitVec.ofNat 32 nonce, op := f.cmd.toNat, param := param,
      car := x.csr.carry, pri := x.taskPri } } } : Tile).perfAdd 5 1
    sentHold

/-- The local command that a remote one stands for, if its parameter keeps the limits of R155 and the rules of the local
command (R157); one that keeps them not is refused. DESIGN CHOICE: notes/assumptions/115.md. -/
def remoteCmd (s : State) (t : Nat) (r : RCmd) : Option PCmd :=
  let p := r.param.toNat
  let x := s.tile t
  match r.op with
  | 0 =>
    let rows := nfld p 0 7
    let r0 := nfld p 8 6
    let src := nfld p 20 2
    let ok := nbit p 7 || decide (0 < nfld p 14 2) || nbit p 19 || decide (0 < p / 2 ^ 22)
    if ok || !runLegal s t src rows r0 (nbit p 16) (nbit p 17) (nbit p 18) then none
    else some (.run src 0 rows r0 (nbit p 16) (nbit p 17) (nbit p 18))
  | 1 =>
    let ty := BitVec.ofNat 4 p
    let q := nfld p 8 4
    let first := nfld p 16 6
    let rows := nfld p 24 7
    let bad := nbit p 7 || decide (0 < nfld p 12 4) || decide (0 < nfld p 22 2) || decide (0 < p / 2 ^ 31)
    if bad || rows = 0 || decide (64 < first + rows) || !drainLegal x.view ty (nbit p 4) || (x.outQ q).depth = 0 then none
    else some (.drn true q 0 ty (nbit p 4) (nbit p 5) (nbit p 6) first rows)
  | 2 => if p = 0 then some .wsw else none
  | _ => if p / 4 = 0 then some (.clr (nbit p 0) (nbit p 1)) else none

/-- REMOTE_COMMAND_ARRIVAL (R156): the command that tile t has sent reaches its target, whose region and ring mode are those after
every command queued there (DESIGN CHOICE: notes/assumptions/101.md). At another owner's tile it is dropped, and the sender, which
still holds, raises OWNER precisely (R347). -/
def evRemoteCommandArrival (t : Nat) (s : State) : Option State :=
  match (s.tile t).sch.cmdOut with
  | none => none
  | some r =>
    let answer (s : State) (v : BitVec 2) : State := s.modTile t fun x =>
      ({ x with sch := { x.sch with cmdOut := some { r with reply := some v } } } : Tile).perfAdd 6 1
    if r.reply.isSome then none
    else if s.ownerOf r.target != s.ownerOf t then
      some (takeTrap (recordReject s t 2 0 (s.ownerOf r.target) r.target 0) t 0x0F (rejectTaddr 0x0F (s.ownerOf r.target) r.target 0))
    else if s.unreachable r.target then some (answer s 2)
    else
      let x := s.tile r.target
      if x.failStop then none
      else
        let cap := (tget 0 x.eng.caps r.cap).toNat
        let v := x.view
        let refused := !nbit cap 63 || nfld cap 0 32 != r.nonce.toNat || !nbit cap (32 + r.op) || v.rgn || v.ring
        match remoteCmd s r.target r with
        | none => some (answer s 0)
        | some c =>
          if refused then some (answer s 0)
          else if 16 ≤ x.pu.q.length then none
          else some (answer (enqueueCmd s r.target { cmd := c, car := r.car, pri := r.pri, remote := true }) 1)

/-- MXCFG (R161). -/
def execMxcfg (f : FE) (s : State) := issue (.mxcfg f) (mxcfgM f) s
/-- MXWLD (R161). -/
def execMxwld (f : FE) (s : State) := issue (.mxwld f) (mxwldM f) s
/-- MXWSW (R161). -/
def execMxwsw (f : FE) (s : State) := issue (.mxwsw f) (mxwswM f) s
/-- MXSC (R161). -/
def execMxsc (f : FE) (s : State) := issue (.mxsc f) (mxscM f) s
/-- MXRUN (R161). -/
def execMxrun (f : FE) (s : State) := issue (.mxrun f) (mxrunM f) s
/-- MXDRN (R161). -/
def execMxdrn (f : FE) (s : State) := issue (.mxdrn f) (mxdrnM f) s
/-- MXCLR (R161). -/
def execMxclr (f : FE) (s : State) := issue (.mxclr f) (mxclrM f) s
/-- MXRGN (R149). -/
def execMxrgn (f : FE) (s : State) := issue (.mxrgn f) (mxrgnM f) s
/-- MXRING (R151). -/
def execMxring (f : FE) (s : State) := issue (.mxring f) (mxringM f) s
/-- MXLAP (R152). -/
def execMxlap (f : FE) (s : State) := issue (.mxlap f) (mxlapM f) s
/-- MXREC (R153). -/
def execMxrec (f : FE) (s : State) := issue (.mxrec f) (mxrecM f) s
/-- MXCMD (R155). -/
def execMxcmd (f : FE) (s : State) := issue (.mxcmd f) (mxcmdM f) s
/-- MXST (R159). -/
def execMxst (f : FE) (s : State) := issue (.mxst f) (mxstM f) s
/-- PATCH_COMMAND (R143). -/
def execPatchCommand (t : Nat) (s : State) := occur (evPatchCommand t) s
/-- REMOTE_COMMAND_ARRIVAL (R156). -/
def execRemoteCommandArrival (t : Nat) (s : State) := occur (evRemoteCommandArrival t) s

end Sys2Proof.Machine
end

