-- ==== Sys2Proof/Machine/EvNet.lean ====
section
/-! DEFINITION. Events of accesses at their homes: plain accesses, atomics and reduce-adds (R162, R187, R190), finish-line
buffers (R180-R186), what is refused or returned (R347, R383, R438), shoot-downs and migrations (R170, R197), soft errors
(R15) and digest scans (R195). -/

namespace Sys2Proof.Machine

/-! ## Plain accesses -/

/-- A commit whose tile has fail-stopped sends nothing more (R381). -/
def mute (x : Tile) : Bool := x.failStop && decide (1 ≤ x.sch.fx.phase)
/-- The n-th access of a tile's network, when nothing stands before it or in its way. DEDUCED: notes/assumptions/9.md. -/
def netAcc (s : State) (t n : Nat) : Option Acc :=
  match (s.tile t).net[n]? with
  | none => none
  | some a => if !accFree s t a || (a.miss s t).isSome || mute (s.tile t) then none else some a
/-- What may perform by itself in a tile's network: each part of an access that performs part by part, every other access whole. -/
def netUnits (x : Tile) : List (Nat × Nat) :=
  ((x.net.zipIdx.map fun e => if e.1.op.byParts then (List.range e.1.parts.length).map fun k => (e.2, k) else [(e.2, 0)])).flatten
/-- A packet has left the escape channel. -/
def leaveMesh (s : State) (t id : Nat) : State :=
  if (s.field (fieldOf t)).mesh.contains (t, id) then
    s.modField (fieldOf t) fun f => { f with mesh := f.mesh.filter (· != (t, id)) }
  else s
/-- An access of the network has been acknowledged. -/
def netDone (s : State) (t n : Nat) : State :=
  let s := match (s.tile t).net[n]? with
    | some a => leaveMesh s t a.id
    | none => s
  s.modTile t fun x => ({ x with net := x.net.eraseIdx n } : Tile).perfAdd 6 1
/-- Perform the n-th access of the network. -/
def netPerform (s : State) (t n : Nat) (a : Acc) : Option State :=
  match performAcc s t a with
  | .ok s' => some (netDone s' t n)
  | _ => none
/-- Perform part k of the n-th access of the network, when nothing stands before it or in its way; the last part ends the access. -/
def netPart (s : State) (t n k : Nat) (a : Acc) : Option State :=
  match a.parts[k]? with
  | none => none
  | some p =>
    if !partFree s t a (a.parts.take k) p || partMiss s t p != .ok || mute (s.tile t) then none
    else match performPart s t a p with
      | .error _ => none
      | .ok (b, s') =>
        let rest := a.parts.eraseIdx k
        let reply (s : State) : State := if p.own t then s else s.modTile t (·.perfAdd 6 1)
        some (if rest.isEmpty then
            let s := finishAcc (leaveMesh s' t a.id) t b
            reply (s.modTile t fun x => { x with net := x.net.eraseIdx n })
          else reply (s'.modTile t fun x => { x with net := lset x.net n { b with parts := rest } }))
/-- Part k of the i-th access of a tile's network, a load, a store or a full/empty operation, at its home. -/
def performUnit (s : State) (t i k : Nat) : Option State :=
  match (s.tile t).net[i]? with
  | none => none
  | some a =>
    if a.op.byParts then netPart s t i k a
    else match netAcc s t i, a.op with
      | some a, .stf _ => netPerform s t i a
      | some a, .fetst _ _ => netPerform s t i a
      | _, _ => none
/-- What an engine of a tile may do with one aligned 8-byte unit before the step that completes its granule, element or command (R142, R163,
R179, R245): the engine and the unit by a number. DEDUCED: notes/assumptions/9.md. -/
def engineUnit (s : State) (t n : Nat) : Option State :=
  let k := n / 16
  match n % 16 with
  | 4 => copyAhead s t k
  | 5 => copyReads s t k
  | 6 => drainAhead s t k
  | 7 => patchReads s t (k % 16) (k / 16)
  | 8 => dreqReads s t (k % 16) (k / 16)
  | 9 => dreqAhead s t (k % 16) (k / 16)
  | p => if p < 4 then portAhead s t p k else none
/-- ATOMIC_AT_HOME (R187). -/
def evAtomicAtHome (t n : Nat) (s : State) : Option State :=
  match netAcc s t n with
  | none => none
  | some a => match a.op with
    | .amo _ _ _ _ _ _ => netPerform s t n a
    | _ => none
/-- What reduce-adds of f32 must agree in to combine (R158): the word, the low bits of its address, MODE and SRSEED. -/
def Acc.redKey (a : Acc) : Option (Home × Nat × BitVec 3 × BitVec 32) :=
  match a.op, a.parts with
  | .red 0 _ mode seed, p :: _ => some (p.home, p.va.toNat % 2 ^ 32, mode, seed)
  | _, _ => none
/-- The f32 value that a reduce-add carries. -/
def Acc.redVal (a : Acc) : Val :=
  match a.op with
  | .red _ d _ _ => decodeVal f32 (d.toNat % 2 ^ 32)
  | _ => .fin ⟨false, 0, 0⟩
/-- The other reduce-adds on their way that may combine with one of tile t, by tile and place (R158). -/
def redMates (s : State) (t n : Nat) (a : Acc) : List (Nat × Nat × Acc) :=
  (s.tiles.map fun e => if s.ownerOf e.1 == s.ownerOf t && s.ctxOf e.1 == s.ctxOf t then
      (List.range e.2.net.length).filterMap fun m => (netAcc s e.1 m).bind fun b =>
        if (e.1 != t || m != n) && b.redKey == a.redKey then some (e.1, m, b) else none
    else []).flatten
/-- Those of them that have combined with it as it arrives. DESIGN CHOICE: notes/assumptions/106.md. -/
def redMet (s : State) (t n : Nat) (a : Acc) : List (Nat × Nat × Acc) :=
  if a.redKey.isNone then []
  else (redMates s t n a).zipIdx.filterMap fun e => if nbit (Config.combines s.tick) e.2 then some e.1 else none
/-- An access of the network, found by its number, has been acknowledged. -/
def netAck (s : State) (t id : Nat) : State :=
  match (s.tile t).net.findIdx? (·.id == id) with
  | some n => netDone s t n
  | none => s
/-- The page-table entries through which some reduce-adds perform are dirty (R169). -/
def dirtyMet (s : State) (met : List (Nat × Nat × Acc)) : State :=
  met.foldl (fun s e => e.2.2.parts.foldl (fun s p => setDirty s p.pteAt) s) s
/-- A combined packet arrives: the exact sum of its reduce-adds, with the flags that the sum raised (R158, R190), each through its own
entry. -/
def performMet (s : State) (t : Nat) (a : Acc) (met : List (Nat × Nat × Acc)) : Perf :=
  match a.op, a.parts with
  | .red _ _ mode seed, p :: _ =>
    let (u, f) := ({} : Wide).addAll (a.redVal :: met.map fun e => e.2.2.redVal)
    match performRed s t p (fun w => let (x, f1) := w.join u; (x, f1 ||| f)) mode seed (a.retries == 0) with
    | .ok s => .ok (dirtyMet s met)
    | r => r
  | _, _ => .ok s
/-- RED_ARRIVAL (R190, R192): a packet arrives, alone or combined with others (R158); one that finds no window free waits, its referee
told once. -/
def evRedArrival (t n : Nat) (s : State) : Option State :=
  match netAcc s t n with
  | none => none
  | some a => match a.op with
    | .red _ _ _ _ =>
      let met := redMet s t n a
      match if met.isEmpty then performAcc s t a else performMet s t a met with
      | .ok s' => some (met.foldl (fun s e => netAck s e.1 e.2.2.id) (netAck s' t a.id))
      | .wait s' => if a.retries = 0 then some (s'.modTile t fun x => { x with net := lset x.net n { a with retries := 1 } }) else none
      | .due _ => none
    | _ => none

/-! ## Finish-line buffers (R180-R186) -/

/-- A chained access meets an uncorrectable line: it is answered with an error and does not move the chain (R381, R438), which ends a commit
that still runs. -/
def chainDue (s : State) (t : Nat) (a : Acc) (acked : Bool) (h : Home) : State :=
  let va := (a.parts.head?.map (·.va)).getD 0
  if acked && s.running t a.id then takeForced s (s.taskTile t) 0x10 (dueTaddr h va) else refuseAcc s t a 0x10 (dueTaddr h va) va
/-- Perform one chained access at its slice and move the chain on; one that meets an uncorrectable line is answered with an
error and does not move it (R381, R438), which ends a commit that still runs. DEDUCED: notes/assumptions/41.md. -/
def chainStep (s : State) (t : Nat) (a : Acc) (g : ChainTag) (acked : Bool) : State :=
  match performAcc s t a with
  | .ok s' => s'.modSlice g.slice fun y => match y.chain g.ch with
    | none => y
    | some c => { y with chains := tput y.chains g.ch { c with L := g.sn, E := g.nn } }
  | .due h => chainDue s t a acked h
  | .wait s' => s'
/-- The waiting entry of a chain that performs next: eligible, of the lowest arrival number. -/
def nextEnt (y : Slice) (ch : Nat) (c : Chain) : Option ChEnt :=
  (y.ents.filter fun e => e.tag.ch == ch && !e.tentative && c.eligible e.tag).foldl (fun b e => match b with
    | none => some e
    | some d => if e.arr < d.arr then some e else b) none
/-- Which access of a chain is being performed unit by unit. -/
def setCur (s : State) (sl ch : Nat) (n : Option Nat) : State := s.modSlice sl fun y => match y.chain ch with
  | none => y
  | some c => { y with chains := tput y.chains ch { c with cur := n } }
/-- An entry leaves its slice. -/
def freeEnt (s : State) (sl : Nat) (e : ChEnt) : State := s.modSlice sl fun y => { y with ents := y.ents.filter fun d => d.arr != e.arr }
/-- The loop of PerformChain (R180): an access of one unit performs at once; a 64-byte one begins, and its units follow (R163). DEDUCED:
notes/assumptions/41.md. -/
def chainLoop (sl ch : Nat) : Nat → State → State
  | 0, s => s
  | fuel + 1, s =>
    let y := s.slice sl
    match if (y.curEnt ch).isSome then none else (y.chain ch).bind (nextEnt y ch) with
    | none => s
    | some e =>
      if e.acc.parts.length ≤ 1 then chainLoop sl ch fuel (chainStep (freeEnt s sl e) e.tile e.acc e.tag e.acked)
      else setCur s sl ch (some e.arr)
/-- Rescan a chain (R180). -/
def rescan (s : State) (sl ch : Nat) : State := chainLoop sl ch ((s.slice sl).ents.length + 1) s
/-- Put an access into an entry. -/
def takeEnt (s : State) (t : Nat) (a : Acc) (g : ChainTag) (tentative bypass : Bool) : State :=
  s.modSlice g.slice fun y => { y with
    ents := y.ents ++ [{ tile := t, acc := a, tag := g, arr := y.nextArr, tentative := tentative, bypass := bypass }]
    nextArr := y.nextArr + 1 }
/-- The arrival of a chained access (R180, R181, R186): the state after it, or none where the slice refuses it. DEDUCED: notes/assumptions/41.md. -/
def chainArrive (s : State) (t : Nat) (a : Acc) (g : ChainTag) (tentative : Bool) : Option State :=
  let y := s.slice g.slice
  match y.chain g.ch with
  | none => none
  | some c =>
    let ok := c.eligible g
    if ok && y.bypassFree g.ch then
      some (if tentative then settleGap (takeEnt s t a g true true) g.slice g.ch false
        else if a.parts.length ≤ 1 then settleGap (rescan (chainStep s t a g false) g.slice g.ch) g.slice g.ch true
        else settleGap (setCur (takeEnt s t a g false true) g.slice g.ch (some y.nextArr)) g.slice g.ch false)
    else if y.sharedFree then some (settleGap (takeEnt s t a g tentative false) g.slice g.ch false)
    else none
/-- The access that a chain was performing has performed, or its home has answered with an error: the entry is free, and the chain's loop
goes on (R180). -/
def chainOn (s : State) (sl : Nat) (e : ChEnt) : State :=
  settleGap (rescan (setCur (freeEnt s sl e) sl e.tag.ch none) sl e.tag.ch) sl e.tag.ch true
/-- Part k of the 64-byte access that a chain is performing (R163, R228): the last one moves the chain on. -/
def chainUnit (s : State) (sl : Nat) (e : ChEnt) (k : Nat) : Option State :=
  (e.acc.parts[k]?).map fun p =>
    let r : Except Home (Vec × State) := match e.acc.op with
      | .chStore _ d => (performWrite s e.tile p (takeBytes d p.pos p.len) false).map fun s => (0, s)
      | _ => match homeRead s p.home p.len with
        | .error u => .error (p.home.unit u)
        | .ok (bs, s) => .ok (putBytes e.got p.pos bs, s)
    match r with
    | .error h => chainOn (chainDue s e.tile e.acc e.acked h) sl e
    | .ok (got, s) =>
      let rest := e.acc.parts.eraseIdx k
      if rest.isEmpty then
        let s := match e.acc.op with
          | .chLoad _ d size => arriveResult s e.tile d (extendLoad got size false)
          | _ => s
        let s := s.modSlice sl fun y => match y.chain e.tag.ch with
          | none => y
          | some c => { y with chains := tput y.chains e.tag.ch { c with L := e.tag.sn, E := e.tag.nn } }
        chainOn s sl e
      else s.modSlice sl fun y => { y with ents := y.ents.map fun d =>
        if d.arr = e.arr then { d with got := got, acc := { d.acc with parts := rest } } else d }
/-- The parts of a tile's accesses that chains are performing: slice, entry and part. -/
def chainUnits (s : State) (t : Nat) : List (Nat × ChEnt × Nat) :=
  (s.slices.map fun y => (y.2.chains.filterMap fun c => (y.2.curEnt c.1).filter (·.tile == t)).flatMap fun e =>
    (List.range e.acc.parts.length).map fun k => (y.1, e, k)).flatten
/-- PERFORM_AT_HOME (R162): the n-th unit of a tile's network; behind these, a unit of an access that a chain is performing; behind these,
a unit of an engine. DEDUCED: notes/assumptions/9.md. -/
def evPerformAtHome (t n : Nat) (s : State) : Option State :=
  let units := netUnits (s.tile t)
  match units[n]?, (chainUnits s t)[n - units.length]? with
  | some (i, k), _ => performUnit s t i k
  | none, some (sl, e, k) => chainUnit s sl e k
  | none, none => engineUnit s t (n - units.length - (chainUnits s t).length)
/-- Links of a chained access. -/
def Acc.chain (a : Acc) : Option ChainTag :=
  match a.op with
  | .chLoad g _ _ => some g
  | .chStore g _ => some g
  | _ => none
/-- CHRETRY of a tile's partition: retries and their spacing in ns (R183). -/
def chRetry (s : State) (t : Nat) : Nat × Nat :=
  let v := ((s.partOf t).map fun p => p.chretry.toNat).getD 0x310
  (nfld v 0 8, 32 * 2 ^ nfld v 8 4)
/-- Take a chained access from the core that holds for it; the destination of an LDC is full again, as it was. -/
def Tile.withdraw (x : Tile) (n : Nat) (a : Acc) : Tile :=
  let r := match a.op.dst with
    | some (.g i) => { x.regs with gFe := tdel x.regs.gFe i }
    | some (.v i) => { x.regs with vFe := tdel x.regs.vFe i }
    | _ => x.regs
  { x with net := x.net.eraseIdx n, regs := r, sch := { x.sch with chOut := none } }
/-- An access reaches its slice: accepted, or refused (R183). -/
def chainTry (s : State) (t n : Nat) (a : Acc) (g : ChainTag) : State :=
  match chainArrive s t a g !(s.tile t).isM with
  | some s' => netDone s' t n
  | none =>
    let k := a.retries + 1
    if (chRetry s t).1 < k && (s.tile t).isM then
      takeTrap (s.modTile t (·.withdraw n a)) t 0x0A ((a.parts.head?.map (·.va)).getD 0)
    else s.modTile t fun x => { x with net := lset x.net n { a with retries := k, refusedAt := s.now } }
/-- A chain is performing a 64-byte access: its arrivals are handled one at a time (R180). -/
def chainBusy (s : State) (g : ChainTag) : Bool := ((s.slice g.slice).curEnt g.ch).isSome
/-- CHAIN_ARRIVAL (R180). -/
def evChainArrival (t n : Nat) (s : State) : Option State :=
  match netAcc s t n with
  | none => none
  | some a => a.chain.bind fun g => if a.retries = 0 && !chainBusy s g then some (chainTry s t n a g) else none
/-- CHAIN_RETRY (R183). -/
def evChainRetry (t n : Nat) (s : State) : Option State :=
  match netAcc s t n with
  | none => none
  | some a => a.chain.bind fun g =>
    if 0 < a.retries && !chainBusy s g && decide (a.retries ≤ (chRetry s t).1) && decide (a.refusedAt + (chRetry s t).2 ≤ s.now) then
      some (chainTry s t n a g)
    else none
/-- Rescan chains after something happened to their entries. -/
def rescanAll (s : State) (hit : List (Nat × Nat)) : State := hit.foldl (fun a k =>
  let b := rescan a k.1 k.2
  settleGap b k.1 k.2 ((b.slice k.1).chain k.2 |>.map (·.L) |> (· != ((a.slice k.1).chain k.2).map (·.L)))) s
/-- Slices that hold an entry that a test selects. -/
def slicesOf (s : State) (p : ChEnt → Bool) : List Nat := s.slices.filterMap fun e => if e.2.ents.any p then some e.1 else none
/-- Every chained store of the commit of some tiles has been accepted: none is on its way or has come back (R186). -/
def allAccepted (s : State) (ts : List Nat) : Bool :=
  ts.all fun u => !mute (s.tile u) && !((s.tile u).net.any Acc.isChStore) && !((s.tile u).sch.fx.sb.any (·.isCh))
/-- CHAIN_CONFIRMATION (R186): every chained store of the commit has been accepted, and one of the slices that hold them accepts the
confirmation, which slice a free value says: that acknowledges the stores there (R185), which wait as ordinary entries from then on and hold
no bypass slot (R181), and the last slice lets the commit go on. DEDUCED: notes/assumptions/41.md. -/
def evChainConfirmation (t : Nat) (s : State) : Option State :=
  let ts := team s t
  let mine (c : ChEnt) : Bool := ts.contains c.tile && c.tentative && !c.cancelled
  let held := slicesOf s mine
  let phase := (s.tile (ts.headD t)).sch.fx.phase
  if !(phase == 1 || phase == 2) || !allAccepted s ts then none
  else match if held.length ≤ 1 then held.head? else held[Config.nextSlice s.tick % held.length]? with
    | none => none
    | some k =>
      let hit := (chainsOf s mine).filter (·.1 == k)
      let s := s.modSlice k fun y => { y with ents := y.ents.map fun c => if mine c then { c with tentative := false, bypass := false, acked := true } else c }
      some (rescanAll (setPhases s ts (if held.length ≤ 1 then 3 else 2)) hit)
/-- CHAIN_CANCELLATION (R186): a cancellation reaches the slices and frees the entries as if they had never been sent; or the last retry
of a chained store of a commit has been refused, and the task aborts with CHOVF. DEDUCED: notes/assumptions/41.md. -/
def evChainCancellation (t : Nat) (s : State) : Option State :=
  let hit := chainsOf s fun c => c.tile == t && c.cancelled
  if !hit.isEmpty then some (rescanAll (mapEnts s fun l => l.filter fun c => !(c.tile == t && c.cancelled)) hit)
  else
    let ts := team s t
    match ts.findSome? fun u => ((s.tile u).net.find? fun a => a.isChStore && decide ((chRetry s u).1 < a.retries)).map fun a => (u, a) with
    | none => none
    | some (u, a) =>
      if (s.tile u).isM || mute (s.tile u) then none
      else
        let s := (ts.filter (· != u)).foldl (fun a m => recordTrap a m 0x19 (BitVec.ofNat 64 u)) s
        let va := (a.parts.head?.map (·.va)).getD 0
        some (abortTask (recordTrap s u 0x0A va) (ts.headD t) 0x0A va)
/-- CHGAP (R182). DEDUCED: notes/assumptions/41.md. -/
def evChgap (sl ch : Nat) (s : State) : Option State :=
  let y := s.slice sl
  match y.chain ch with
  | none => none
  | some c => match c.gapAt, (s.cfg c.cfg) with
    | some g, some k =>
      let gapt := ((s.part k.owner).map fun p => p.chgapt.toNat % 65536).getD 0
      if c.gapSent || gapt = 0 || decide (s.now < g + 1000 * gapt) then none
      else
        let n := (y.ents.filter fun e => e.tag.ch == ch && !e.tentative).length
        let d := BitVec.ofNat 64 (c.L.toNat + c.E.toNat * 2 ^ 24 + n % 65536 * 2 ^ 48)
        let s := event s k.owner 0x03 0 (0x8000 + sl) k.ctx 0xFFFF d (BitVec.ofNat 64 ch)
        some (s.modSlice sl fun y => { y with chains := tput y.chains ch { c with gapSent := true } })
    | _, _ => none

/-! ## Refused and returned accesses (R347, R383, R438) -/

/-- The n-th of a tile's accesses on their way, its waiting LDSs after those of the network. -/
def flying (s : State) (t n : Nat) : Option Acc := ((s.tile t).net ++ (s.tile t).ldsAccs)[n]?
/-- A tile without an access that is on its way. -/
def Tile.forget (x : Tile) (a : Acc) : Tile :=
  { x with
    net := x.net.filter (·.id != a.id)
    pend := x.pend.filter fun p => match p.what with
      | .lds b _ => b.id != a.id
      | _ => true }
/-- A tile without one part of an access on its way: what is left of a store goes on, all else is gone with it. -/
def Tile.forgetPart (x : Tile) (a : Acc) (p : Part) : Tile :=
  let rest := a.parts.erase p
  if !a.op.byParts || a.op.dst.isSome || rest.isEmpty then x.forget a
  else { x with net := x.net.map fun b => if b.id = a.id then { b with parts := rest } else b }
/-- A part of an access refused for good: precise on a core that still holds for it, a DUE with REFEREE; in a commit what has not
performed stays in the buffer and the referee takes the cause (R347, R438). -/
def refuseNow (s : State) (t : Nat) (a : Acc) (p : Part) (cause : Byte) (taddr : Word) : State :=
  if (s.tile t).sch.chOut == some a.id then
    let n := ((s.tile t).net.findIdx? (·.id == a.id)).getD 0
    let s := s.modTile t (·.withdraw n a)
    if cause = 0x10 then takeForced s t cause taddr else takeTrap s t cause taddr
  else if 1 ≤ (s.tile t).sch.fx.phase && s.running t a.id then
    takeForced (s.modTile t fun x => let y := x.forget a; y.setSb (.acc a :: y.sch.fx.sb)) (s.taskTile t) cause taddr
  else refuseAcc (s.modTile t (·.forgetPart a p)) t a cause taddr p.va
/-- REJECT_REPLY (R347, R350). -/
def evRejectReply (t n : Nat) (s : State) : Option State :=
  match flying s t n with
  | none => none
  | some a => match a.miss s t with
    | some (p, .reject c o d) => some (refuseNow (recordReject s t 2 0 o d p.va) t a p c (rejectTaddr c o d p.va))
    | _ => none
/-- The part of an access that meets an uncorrectable unit at its home, and the unit. -/
def Acc.due (s : State) (t : Nat) (a : Acc) : Option (Part × Home) :=
  if a.op.byParts then (a.freeParts s t).findSome? fun p =>
    if partMiss s t p != .ok then none
    else match performPart s t a p with
      | .error h => some (p, h)
      | .ok _ => none
  else
    let full := match a.op with
      | .lds _ _ _ => a.parts.all fun q => isFull s q.home q.len
      | _ => true
    if !accFree s t a || (a.miss s t).isSome || !full || a.chain.isSome then none
    else match performAcc s t a with
      | .due h => (a.parts.find? fun p => p.home.line == h.line).or a.parts.head? |>.map fun p => (p, h)
      | _ => none
/-- DUE_ERROR_REPLY (R438, R381): the home meets an uncorrectable unit and does not perform the access. -/
def evDueErrorReply (t n : Nat) (s : State) : Option State :=
  match flying s t n with
  | none => none
  | some a => (a.due s t).map fun (p, h) =>
    if p.own t then failStopTile (s.modTile t (·.forget a)) t (ownDue h) else refuseNow s t a p 0x10 (dueTaddr h p.va)
/-- DEAD_RETURN (R383): n = 0, the first message sent; 1 to 16, the tokens on circuit n - 1; above, an access. -/
def evDeadReturn (t n : Nat) (s : State) : Option State :=
  let x := s.tile t
  if n = 0 then
    match x.sch.sent with
    | [] => none
    | m :: rest =>
      match slotTile s t m.slot with
      | none => none
      | some u =>
        if s.unreachable u && msgFree s t m && decide (x.sch.retBuf.length < 16) then
          some (s.modTile t fun x => { x with sch := { x.sch with sent := rest, retBuf := x.sch.retBuf ++ [m] } })
        else none
  else if n ≤ 16 then
    let o := x.outQ (n - 1)
    match o.dest.bind fun d => slotTile s t d.1 with
    | none => none
    | some u =>
      if s.unreachable u && !o.latch.isEmpty then
        some (s.modTile t fun x => x.setOutQ (n - 1) { x.outQ (n - 1) with
          latch := [], toks := (o.latch.map fun tok => ({ tok := tok, stamp := 0 } : Rel)) ++ o.toks })
      else none
  else
    match flying s t (n - 17) with
    | none => none
    | some a => match a.miss s t with
      | some (p, .dead) => some (refuseNow s t a p 0x10 (deadTaddr p.va))
      | _ => none

/-! ## Pages (R170, R197) -/

/-- SHOOT_DOWN (R170): no gateway keeps an entry that translates the address in the context. -/
def evShootDown (ctx : Nat) (va : Word) (s : State) : Option State :=
  let keepE (e : TlbEnt) : Bool := e.ctx != ctx || e.vpn != va.toNat / pageBytes e.size
  some { s with fields := s.fields.map fun (f : Nat × FieldSt) =>
    (f.1, { f.2 with tlb := f.2.tlb.filter keepE, locked := f.2.locked.filter keepE }) }
/-- A part of an access meets a physical range. -/
def Part.inDram (p : Part) (pa n : Nat) : Bool := match p.home with
  | .dram x => decide (x < pa + n) && decide (pa < x + p.len)
  | _ => false
/-- An access meets a physical range. -/
def Acc.touches (a : Acc) (pa n : Nat) : Bool := a.parts.any (·.inDram pa n)
/-- The accesses in flight to a physical range, waiting LDSs with them: those that nothing of their own tile holds back (R197). -/
def inFlight (s : State) (pa n : Nat) : List (Nat × Nat) :=
  (s.tiles.map fun e => ((e.2.net ++ e.2.ldsAccs).filter fun a =>
    a.parts.any fun p => p.inDram pa n && partFree s e.1 a [] p).map fun a => (e.1, a.id)).flatten
/-- Accesses in flight to a page that have not drained (R197 step 2). -/
def pageBusy (s : State) (m : Migr) : Bool :=
  let n := pageBytes m.spec.size
  s.tiles.any fun e => e.2.net.any (fun a => a.touches m.oldPa n && m.flight.contains (e.1, a.id)) ||
    (enginesOn s e.1 && e.2.engAccs.any fun g => g.parts.any (·.inDram m.oldPa n)) || e.2.eng.dreqs.any fun d => decide (d.pa < m.oldPa + n) && decide (m.oldPa < d.pa + d.bytes)
/-- What makes a migration wait in step 3: entries of finish-line buffers, open windows, waiting LDSs, and collectives,
whose pages stay pinned (R309). -/
def pageHeld (s : State) (m : Migr) : Bool :=
  let n := pageBytes m.spec.size
  (s.slices.any fun e => e.2.ents.any (fun c => c.acc.touches m.oldPa n) ||
    e.2.wins.any fun w => decide (w.pa < m.oldPa + n) && decide (m.oldPa < w.pa + 4)) ||
  (s.tiles.any fun e => e.2.ldsAccs.any fun a => a.touches m.oldPa n && m.flight.contains (e.1, a.id)) ||
  s.coll.out.any fun c => c.pages.any (·.inDram m.oldPa n)
/-- Move a page (R197 steps 4 and 5); with an entry that is uncorrectable the migration ends and the page stays (R28). -/
def movePage (s : State) (m : Migr) : State :=
  let n := pageBytes m.spec.size
  let new := m.spec.newPa
  match leafToSwitch s m.spec.ctx m.spec.va.toNat with
  | .error s => { s with migr := none }
  | .ok e =>
    let slice := (m.spec.slice.map (·.toNat)).or (leafSlice e.2.2)
    let s := relocate (copyDram s m.oldPa new n) m.oldPa n new slice
    { switchPage s m.spec.ctx m.spec.va.toNat new m.spec.slice e with migr := none }
/-- Both places of a page lie in granules of the context's owner (R345, R350). -/
def pageOwned (s : State) (m : MigrSpec) (old : Nat) : Bool :=
  let o := (s.ctx m.ctx).owner
  ownedRange s o old (pageBytes m.size) && ownedRange s o m.newPa (pageBytes m.size)
/-- PAGE_MIGRATION (R197): it begins with the stall and the shoot-down of step 1; then it goes on as far as it can. One runs at a
time. DESIGN CHOICE: notes/assumptions/102.md. -/
def evPageMigration (m : MigrSpec) (s : State) : Option State :=
  match s.migr with
  | none => match walkCtx s m.ctx m.va.toNat (leafLowOf m.size) with
    | .error _ => none
    | .ok (at_, p, s) =>
      if nbit p 10 || !pageOwned s m (ptePa p) then none
      else
        let s := dropTlb s m.ctx m.va.toNat (pageBytes m.size)
        some { s with migr := some { spec := m, oldPa := ptePa p, pteAt := at_, step := 1, flight := inFlight s (ptePa p) (pageBytes m.size) } }
  | some g =>
    if g.spec != m || pageBusy s g then none
    else if pageHeld s g then if g.step = 3 then none else some { s with migr := some { g with step := 3 } }
    else if !pageOwned s m g.oldPa then some { s with migr := none }
    else some (movePage s g)
/-- MIGRATION_CANCEL (R197), in step 3. -/
def evMigrationCancel (s : State) : Option State :=
  match s.migr with
  | some g => if g.step = 3 then some { s with migr := none } else none
  | none => none

/-! ## Errors and scans -/

/-- A soft error in a unit: a second one makes it uncorrectable (R15). -/
def Store.strike (st : Store) (u : Nat) (double : Bool) : Store :=
  if st.bad2.contains u then st
  else if double || st.bad1.contains u then { st with bad1 := st.bad1.filter (· != u), bad2 := st.bad2 ++ [u] }
  else { st with bad1 := st.bad1 ++ [u] }
/-- Registers of a file (R36). -/
def regCount : RegKind → Nat
  | .g => 56
  | .v => 248
  | .k => 16
  | .c => 256
  | .lc => 3
  | .wa => 4
  | .pa => 8192
/-- A register's parity goes bad (R15). -/
def Tile.spoil (x : Tile) (f : RegKind) (i : Nat) : Tile :=
  let add (l : List Nat) (k : Nat) : List Nat := if l.contains k then l else l ++ [k]
  match f with
  | .pa => x.modPatch fun p =>
    if i < 4096 then { p with pa0 := { p.pa0 with bad := add p.pa0.bad i } }
    else { p with pa1 := { p.pa1 with bad := add p.pa1.bad (i - 4096) } }
  | _ => if x.regs.parity.contains (f, i) then x else x.modRegs fun r => { r with parity := r.parity ++ [(f, i)] }
/-- SOFT_ERROR (R15). -/
def evSoftError (e : SoftErr) (s : State) : Option State :=
  match e with
  | .tileUnit t off double => if off < Config.storeBytes then some (s.modTile t fun x => { x with store := x.store.strike (off / 8) double }) else none
  | .dramUnit pa double => if pa < Config.dramBytes then some { s with dram := s.dram.strike (pa / 8) double } else none
  | .codeWord t i =>
    if i < Config.codeWords && !(s.tile t).codeBad.contains i then some (s.modTile t fun x => { x with codeBad := x.codeBad ++ [i] }) else none
  | .reg t f i => if i < regCount f && (f != .k || i != 0) then some (s.modTile t (·.spoil f i)) else none
/-- The scan of a region takes in its next word. -/
def Region.scan (r : Region) (w : Nat) : Region :=
  let v := r.hash r.scanned w
  { r with d0 := (r.d0 + v.1) % digestP, d1 := (r.d1 + v.2) % digestP, scanned := r.scanned + 1 }
/-- The scan of a context's region meets an uncorrectable unit: the tile whose store holds it fail-stops, and of DRAM the referee is
told; the scan does not go on (R381). DEDUCED: notes/assumptions/73.md. -/
def scanFails (s : State) (ctx : Nat) (h : Home) : State :=
  match h with
  | .tile t off => failStopTile s t (BitVec.ofNat 64 off)
  | .dram pa => event s (s.ctx ctx).owner 0x02 0x10 0xFFFF ctx 0xFFFF 4 (BitVec.ofNat 64 pa)
  | .host _ => s
/-- DIGEST_SCAN (R195): the scan reads its next word, an access at its home (R15, R190). -/
def evDigestScan (ctx rg : Nat) (s : State) : Option State :=
  match (s.ctx ctx).regions.find? (·.1 == rg) with
  | none => none
  | some (_, r) =>
    if r.len ≤ r.scanned then none
    else match regionHome r.homes r.scanned with
      | none => none
      | some h => match homeRead s h 4 with
        | .error u => some (scanFails s ctx (h.unit u))
        | .ok (bs, s) => some (s.modCtx ctx fun k => { k with
            regions := k.regions.map fun e => if e.1 == rg then (e.1, e.2.scan (ofBytes bs)) else e })

/-- PERFORM_AT_HOME (R162). -/
def execPerformAtHome (t n : Nat) (s : State) := occur (evPerformAtHome t n) s
/-- ATOMIC_AT_HOME (R187). -/
def execAtomicAtHome (t n : Nat) (s : State) := occur (evAtomicAtHome t n) s
/-- RED_ARRIVAL (R190). -/
def execRedArrival (t n : Nat) (s : State) := occur (evRedArrival t n) s
/-- CHAIN_ARRIVAL (R180). -/
def execChainArrival (t n : Nat) (s : State) := occur (evChainArrival t n) s
/-- CHAIN_RETRY (R183). -/
def execChainRetry (t n : Nat) (s : State) := occur (evChainRetry t n) s
/-- CHAIN_CONFIRMATION (R186). -/
def execChainConfirmation (t : Nat) (s : State) := occur (evChainConfirmation t) s
/-- CHAIN_CANCELLATION (R186). -/
def execChainCancellation (t : Nat) (s : State) := occur (evChainCancellation t) s
/-- CHGAP (R182). -/
def execChgap (slice ch : Nat) (s : State) := occur (evChgap slice ch) s
/-- REJECT_REPLY (R347). -/
def execRejectReply (t n : Nat) (s : State) := occur (evRejectReply t n) s
/-- DUE_ERROR_REPLY (R438). -/
def execDueErrorReply (t n : Nat) (s : State) := occur (evDueErrorReply t n) s
/-- DEAD_RETURN (R383). -/
def execDeadReturn (t n : Nat) (s : State) := occur (evDeadReturn t n) s
/-- SHOOT_DOWN (R170). -/
def execShootDown (ctx : Nat) (va : Word) (s : State) := occur (evShootDown ctx va) s
/-- PAGE_MIGRATION (R197). -/
def execPageMigration (m : MigrSpec) (s : State) := occur (evPageMigration m) s
/-- MIGRATION_CANCEL (R197). -/
def execMigrationCancel (s : State) := occur evMigrationCancel s
/-- SOFT_ERROR (R15). -/
def execSoftError (e : SoftErr) (s : State) := occur (evSoftError e) s
/-- DIGEST_SCAN (R195). -/
def execDigestScan (ctx rg : Nat) (s : State) := occur (evDigestScan ctx rg) s

end Sys2Proof.Machine
end

