-- ==== Sys2Proof/Machine/EvSched.lean ====
section
/-! DEFINITION. Events of the sequencer and the starters: launches, starts and ends of configurations (R175, R255, R268, R271,
R355-R357, R418-R420), verdicts (R314, R315, R396), redundant runs (R394, R395), the rebalancer (R273, R274), heartbeats and
dead tiles (R34, R382, R385), collectives (R310-R313, R397). -/

namespace Sys2Proof.Machine

/-! ## Sequenced messages (R268) -/

/-- A launch reaches the starters: a frozen partition's completes FROZEN (R369), a packet that breaks its layout REJECTED, a START
finds its staged configuration (R271, R418). DEDUCED: notes/assumptions/40.md. -/
def handleLaunch (s : State) (sq : Nat) (c : Cfg) (start : Bool) : State :=
  let c := { c with sq := sq }
  match s.part c.owner with
  | none => s
  | some p =>
    let enter (c : Cfg) : State := { s with cfgs := s.cfgs ++ [c] }
    if p.frozen then finishCfg (enter c) sq stFrozen
    else if c.status = stRejected then finishCfg (enter c) sq stRejected
    else if start then
      match s.cfgs.find? fun k => k.ctx == c.ctx && k.stream == c.stream && k.stage && k.stageId == c.stageId &&
          (k.st == .staged || k.st == .waiting) with
      | some k => s.modCfg k.sq fun k => { k with stage := false, stageEnd := none, st := if k.st = .staged then .placed else k.st }
      | none => finishCfg (enter c) sq stRejected
    else (enter { c with redundant := nbit (s.ctx c.ctx).redctl.toNat 0 }).modPart c.owner fun p => { p with order := p.order ++ [sq] }
/-- The tiles of an actor whose first tile is t: a gang's stand beside one another (R267). -/
def ActorDecl.row (d : ActorDecl) (t : Nat) : List Nat := (List.range (Nat.max 1 d.gang)).map (t + ·)
/-- The run in which a tile of a slot is dead, with its placement and the slot's first tile. -/
def deadPlace (s : State) (c : Cfg) (d : ActorDecl) (slot : Nat) : Option (Nat × Tbl Nat × Nat) :=
  c.places.zipIdx.findSome? fun r =>
    (r.1.find? fun e => e.1 == slot && (d.row e.2).any fun t => s.tileState t == 3).map fun e => (r.2, r.1, e.2)
/-- The first spare tiles of a partition that can hold an actor, a gang's in one field. -/
def spareFor (s : State) (p : Partition) (d : ActorDecl) : Option Nat :=
  p.raster.find? fun t => (d.row t).all fun u => p.has u && tileY u == tileY t && fieldOf u == fieldOf t && s.tileState u == 1 &&
    !p.refs.contains u && s.freeBit u && decide (s.tileClass u ≤ d.cls)
/-- A tile that replaces one: what has been delivered of that one, and what it had still to discard, is not sent again (R385). -/
def Tile.replaces (y x : Tile) : Tile :=
  { y with
    outq := y.outq.map fun q => (q.1, { q.2 with discard := (x.outQ q.1).delivered + (x.outQ q.1).discard })
    sch := { y.sch with msgDiscard := x.sch.msgDiscard.foldl (fun m e => tset 0 m e.1 (tget 0 m e.1 + e.2)) x.sch.msgOut } }
/-- REMAP the actor in a slot from its dead tile to spare ones (R385); of a gang every member moves. DEDUCED: notes/assumptions/33.md. -/
def handleRemap (s : State) (sq slot u : Nat) : State :=
  match s.cfg sq with
  | none => starterReply s u 2
  | some c => match c.image.actors[slot]?, s.part c.owner with
    | some d, some p => match deadPlace s c d slot with
      | none => starterReply s u 2
      | some (run, place0, old) =>
        if !d.replay then starterReply s u 2
        else if c.st != .running then starterReply s u 1
        else match spareFor s p d with
          | none => starterReply s u 3
          | some t =>
            let olds := d.row old
            let news := d.row t
            let was := olds.map s.tile
            let place := tput place0 slot t
            let s := news.foldl (fun s k => s.setTileState k 0) s
            let s : State := { s with taken := (s.taken.filter fun k => !olds.contains k) ++ news }
            let s := s.modCfg sq fun c => { (c.setPlace run place) with replayed := true }
            let s := news.foldl (fun s k => loadActor s sq slot d place k) s
            let s := (news.zip was).foldl (fun s e => s.modTile e.1 (·.replaces e.2)) s
            let s := startPorts s c.ctx c.image [(slot, t)]
            let s := relink (olds.foldl unloadTile s) c.image place
            let s := (placeTiles c.image place).foldl (fun a e => a.modTile e.2.2 fun y =>
              let (mine, rest) := y.sch.retBuf.partition fun m => m.slot == slot
              { y with sch := { y.sch with retBuf := rest, sent := mine ++ y.sch.sent } }) s
            starterReply s u 0
    | _, _ => starterReply s u 2
/-- Handle one message; the sequencer has given it the next number (R33, R268). -/
def handleMsg (s : State) (m : SMsg) : State :=
  let n := s.seqNext
  let s := { s with seqNext := n + 1 }
  match m with
  | .launch c start => handleLaunch s n c start
  | .endNotice sq => handleEnd s sq
  | .dead t => s.setTileState t 3
  | .remap sq slot u => handleRemap s sq slot u
  | .tileState t spare =>
    -- with nothing of the partition placed, the boundary is now
    if s.cfgs.any fun c => c.owner == s.ownerOf t && (c.st == .placed || c.st == .staged || c.st == .running || c.st == .saving) then
      { s with tileReq := s.tileReq ++ [(t, spare)] }
    else applyTileReq s t spare
/-- SEQUENCED_MESSAGE (R268): the starters handle the next message, go on with saves (R389) and place what fits (R269). -/
def evSequencedMessage (s : State) : Option State :=
  let busy := s.cfgs.any fun c => c.st == .saving
  if s.seqQ.isEmpty && !busy && s.parts.all (fun p => p.order.isEmpty) then none
  else
    let s := match s.seqQ with
      | [] => s
      | m :: r => handleMsg { s with seqQ := r } m
    some (placeAll ((s.cfgs.map (·.sq)).foldl settleSave s))
/-- TILE_STATE_REQUEST (R33). DEDUCED: notes/assumptions/43.md. -/
def evTileStateRequest (t : Nat) (spare : Bool) (s : State) : Option State :=
  if t < Config.numTiles then some { s with seqQ := s.seqQ ++ [.tileState t spare] } else none

/-! ## Launch packets (R355, R356, R417, R418) -/

/-- A launch that is refused: an AUTHFAIL record, a violation record (R356). -/
def authFail (s : State) (c : Nat) (owner : Nat) (k : Cfg) : State :=
  let s := postRecord s c (recordBytes s { k with status := stAuthfail })
  let n := s.rejectsNow owner
  let (i, s) := s.takeFree
  let (j, s) := s.takeFree
  let dtile := Config.recordField j % 65536
  let s := logViolation s ⟨s.ms, 5, Config.recordField i % 256, 0xFFFF, owner, 0xFFFF, dtile, k.counter, n⟩
  event s owner 0x08 0 0xFFFF c 0xFFFF k.counter (BitVec.ofNat 64 (owner + dtile * 2 ^ 16 + 5 * 2 ^ 32))
/-- The tag of a packet under a session key (R355). -/
def launchTag (key bs : List Byte) : List Byte := kmac256 key (bs.take 48) 16 (ascii "SHAGAN LAUNCH")
/-- LAUNCH_PACKET (R355, R417): the next packet of a context's ring in the host window, owner 0, read at its home
(R15, R190, R350, R416); one that cannot be read fails its
tag check. DEDUCED: notes/assumptions/39.md. -/
def evLaunchPacket (c : Nat) (s : State) : Option State :=
  let k := s.ctx c
  match ringSize k.sqlog with
  | none => none
  | some n =>
    if k.sqhead.toNat % n = k.sqtail.toNat % n then none
    else
      let pa := k.sqbase.toNat + 64 * (k.sqhead.toNat % n)
      let (bs, read, s) : List Byte × Bool × State :=
        match if ownedRange s 0 pa 64 then homeRead s (.dram pa) 64 else .error 0 with
        | .ok (bs, s) => (bs, true, s)
        | .error _ => (List.replicate 64 0, false, s)
      let s := s.modCtx c fun k => { k with sqhead := BitVec.ofNat 64 ((k.sqhead.toNat % n + 1) % n) }
      let (cf, start) := packetCfg s c k.owner bs false
      let good := match (s.part k.owner).bind (·.sess) with
        | none => false
        | some key => launchTag key bs == (bs.drop 48).take 16
      some (if read && good && (bs.headD 0).toNat == c && decide (k.lastCounter.toNat < cf.counter.toNat) then
          let s := s.modCtx c fun k => { k with lastCounter := cf.counter }
          { s with seqQ := s.seqQ ++ [.launch cf start] }
        else authFail s c k.owner cf)
/-- SQTAIL_DOORBELL (R417). -/
def evSqtailDoorbell (c : Nat) (v : BitVec 16) (s : State) : Option State :=
  match ringSize (s.ctx c).sqlog with
  | none => none
  | some n => if s.sec.ide && decide (v.toNat < n) then some (s.modCtx c fun k => { k with sqtail := v.setWidth 64 }) else none

/-! ## Starts and ends (R175, R254, R255, R271) -/

/-- CONFIG_START (R175, R271, R315, R420): earlier configurations of the stream have ended, their verdict is PASS, and the
completion buffer has room. DEDUCED: notes/assumptions/44.md. -/
def evConfigStart (sq : Nat) (s : State) : Option State :=
  match s.cfg sq with
  | none => none
  | some c =>
    let k := s.ctx c.ctx
    let earlier (d : Cfg) : Bool := d.ctx == c.ctx && d.stream == c.stream && decide (d.sq < sq)
    if c.st != .placed || s.cfgs.any earlier || k.saved.any (fun v => earlier v.cfg) || k.gate.contains c.stream ||
        decide (16 ≤ k.cqWait.length) || ((s.part c.owner).map (·.frozen)).getD true then none
    else
      let s := cfgBoundary s c.owner
      let s := s.modCfg sq fun c => { c with st := .running, resume := false }
      some (if c.resume then c.members.foldl (fun a e => resumePorts a e.2.2) s
        else if c.redundant then (c.runs.filter (!·.done)).foldl (fun a r => startPorts a c.ctx c.image r.place) s
        else startPorts s c.ctx c.image c.place)

/-- The snapshot of a context's open regions (R196): windows on their words close first. DEDUCED: notes/assumptions/45.md. -/
def takeSnapshot (s : State) (c : Nat) : State × List (Nat × Nat × Nat) :=
  let s := closeWindows s fun w => (s.ctx c).regions.any fun r => !(regionOffs r.2.homes r.2.len (.dram w.pa)).isEmpty
  (s, (s.ctx c).regions.map fun r => (r.1, r.2.d0, r.2.d1))
/-- The windows that a redundant run has opened, on pages that it copied. -/
def runWindow (s : State) (c : Cfg) (r : RedRun) (w : Window) : Bool :=
  w.cfg == c.sq && r.pages.any fun e =>
    decide (e.2 ≤ w.pa) && decide (w.pa < e.2 + 2 ^ (((leafOf s c.ctx e.1).map (·.1)).getD 16))
/-- END_NOTICE (R255, R175): a configuration that has come to rest ends. One with a photo finish takes its snapshot, and its
record waits for the verdict (R314); a redundant run forms its signature (R394). -/
def evEndNotice (sq : Nat) (s : State) : Option State :=
  match s.cfg sq with
  | none => none
  | some c =>
    if c.st != .running then none
    else if c.redundant then
      match findIx (fun r : RedRun => !r.done && restful s c.image r.place) c.runs with
      | none => none
      | some (i, r) =>
        let s := closeWindows s (runWindow s c r)
        some (s.modCfg sq fun c => { c with runs := lset c.runs i { r with done := true, sig := runSig s c r } })
    else if !restful s c.image c.place || !outsideRest s sq then none
    else
      let s := closeWindows s fun w => w.cfg == sq
      match c.dg with
      | none => some (finishCfg s sq stNormal)
      | some _ =>
        if (s.ctx c.ctx).regions.any fun r => decide (r.2.scanned < r.2.len) then none
        else
          let (s, snap) := takeSnapshot s c.ctx
          let s := s.modCfg sq fun c => { c with st := .ending, snapAt := some s.now, snap := snap }
          some { s with seqQ := s.seqQ ++ [.endNotice sq] }

/-- STAGE_TIMEOUT (R271). DEDUCED: notes/assumptions/40.md. -/
def evStageTimeout (sq : Nat) (s : State) : Option State :=
  match s.cfg sq with
  | none => none
  | some c => match c.stageEnd with
    | some e => if c.stage && decide (e ≤ s.now) && (c.st == .staged || c.st == .waiting) then some (killCfg s sq stCancelled) else none
    | none => none
/-- STAGED_RELEASE_OR_CANCEL (R271, R315). DEDUCED: notes/assumptions/40.md; DEDUCED: notes/assumptions/49.md. -/
def evStagedReleaseOrCancel (sq : Nat) (release : Bool) (s : State) : Option State :=
  match s.cfg sq with
  | none => none
  | some c =>
    let gated := (s.ctx c.ctx).gate.contains c.stream && c.st == .placed
    let open_ (s : State) : State := s.modCtx c.ctx fun k => { k with gate := k.gate.filter (· != c.stream) }
    if release then if gated then some (open_ s) else none
    else if gated then some (open_ (killCfg s sq stCancelled))
    else if c.st == .staged then some (killCfg s sq stCancelled)
    else none

/-! ## The photo finish (R396) -/

def vPass : Nat := 1
def vDivergent : Nat := 2
def vUnresolved : Nat := 3
/-- A verdict word (R396). -/
def verdictWord (seq outcome : Nat) (minor : Bool) (ndiv lowest : Nat) : Word :=
  BitVec.ofNat 64 (outcome + (if minor then 4 else 0) + ndiv % 2048 * 2 ^ 4 + lowest % 2048 * 2 ^ 16 + seq % 2 ^ 32 * 2 ^ 32)
/-- The verdict of rank `own` over every rank's vector: outcome, whether a minority is named, its size and lowest rank. -/
def judge (own : Nat) (vs : List RankDigest) : Nat × Bool × Nat × Nat :=
  let nr := vs.length
  match vs with
  | [] => (vUnresolved, false, 0, 0)
  | v :: _ =>
    if nr = 1 || vs.all (fun w => w.regions == v.regions) then (vPass, false, 0, 0)
    else match if 3 ≤ nr then vs.find? fun w => decide (nr < 2 * (vs.filter fun x => x.regions == w.regions).length) else none with
      | none => (vUnresolved, false, 0, 0)
      | some w =>
        let bad := (vs.filter fun x => x.regions != w.regions).map (·.rank)
        (if bad.contains own then vDivergent else vPass, true, bad.length, bad.foldl Nat.min (bad.headD 0))
/-- The verdict takes effect: record, event, DGVER, and the gate of the stream (R315, R396). -/
def settleVerdict (s : State) (c : Cfg) (v : Nat × Bool × Nat × Nat) : State :=
  let n := (c.dg.map (·.2.1)).getD 0
  let w := verdictWord n v.1 v.2.1 v.2.2.1 v.2.2.2
  let status := if v.1 = vPass then stNormal else if v.1 = vDivergent then stDivergent else stUnresolved
  let s := postRecord s c.ctx (recordBytes s { c with verdict := w, status := status })
  let s := event s c.owner 0x0A 0 0xFFFF c.ctx 0xFFFF w (BitVec.ofNat 64 n)
  let s := if v.1 = vDivergent then event s c.owner 0x0F 0x13 0xFFFF c.ctx 0xFFFF w (BitVec.ofNat 64 n) else s
  let s := s.modCtx c.ctx fun k => { k with
    verdicts := tset 0 k.verdicts c.stream w
    gate := if v.1 = vPass then k.gate else k.gate.filter (· != c.stream) ++ [c.stream] }
  if c.st = .ended then { s with cfgs := s.cfgs.filter (·.sq != c.sq) }
  else s.modCfg c.sq fun c => { c with snapAt := none, verdict := w, status := status }
/-- Time for the digests of the other ranks (R315). -/
def verdictNs : Nat := 20000
/-- DIGEST_VERDICT (R314): the snapshots of all the other ranks of the CAR's group, as it was when the CAR issued, have come in time. -/
def evDigestVerdict (sq : Nat) (others : List RankDigest) (s : State) : Option State :=
  match s.cfg sq with
  | none => none
  | some c => match c.snapAt, c.dg with
    | some at_, some (_, _, w) =>
      let own := grpRank w
      let ranks := others.map (·.rank)
      let whole := (List.range (grpNr w)).all fun r => r == own || (ranks.filter (· == r)).length == 1
      if !whole || others.length + 1 != grpNr w || ranks.contains own || decide (at_ + verdictNs < s.now) then none
      else some (settleVerdict s c (judge own (⟨own, c.snap⟩ :: others)))
    | _, _ => none
/-- VERDICT_TIMEOUT (R315). -/
def evVerdictTimeout (sq : Nat) (s : State) : Option State :=
  match s.cfg sq with
  | none => none
  | some c => match c.snapAt with
    | some at_ => if at_ + verdictNs ≤ s.now then some (settleVerdict s c (vUnresolved, false, 0, 0)) else none
    | none => none

/-! ## Redundant runs (R395) -/

/-- The field groups of some runs are marked suspect, and a REDUND event reports them: bit n of its outcome is run n. DESIGN CHOICE:
notes/assumptions/95.md. -/
def redundEvent (s : State) (c : Cfg) (bad : List Nat) : State :=
  let s := s.modCfg c.sq fun c => { c with suspect := true }
  let fields := fieldsOf ((bad.filterMap fun k => c.runs[k]?.map fun r => (placeTiles c.image r.place).map (·.2.2)).flatten)
  let s := fields.foldl (fun a f => a.modField f fun y => { y with suspect := true }) s
  event s c.owner 0x0E 0 0xFFFF c.ctx 0xFFFF (BitVec.ofNat 64 (bad.map (2 ^ ·)).sum) (BitVec.ofNat 64 c.sq)
/-- REDUNDANT_COMPARE (R395). -/
def evRedundantCompare (sq : Nat) (s : State) : Option State :=
  match s.cfg sq with
  | none => none
  | some c =>
    if !c.redundant || c.st != .running || c.runs.any (!·.done) then none
    else match c.runs with
      | [a, b] =>
        if a.sig = b.sig then some (finishCfg (commitRun s c 0) sq stNormal)
        else
          let s := s.modCfg sq fun c => { c with st := .waiting, stage := false }
          some (s.modPart c.owner fun p => { p with order := sq :: p.order })
      | [a, b, r] =>
        if r.sig = a.sig || r.sig = b.sig then
          let good := if r.sig = a.sig then 0 else 1
          some (finishCfg (redundEvent (commitRun s c good) c [1 - good]) sq stNormal)
        else some (finishCfg (redundEvent s c [0, 1, 2]) sq stUnresolved)
      | _ => none

/-! ## Heartbeats (R34, R382) -/

def hbPeriod (f : FieldSt) : Nat := 100 * Nat.max 1 (nfld f.hbctl.toNat 0 16)
def hbMiss (f : FieldSt) : Nat := Nat.max 1 (nfld f.hbctl.toNat 16 8)
/-- HEARTBEAT (R382): at the end of a period a tile beats, or a tile that cannot misses its beat. -/
def evHeartbeat (t : Nat) (s : State) : Option State :=
  let x := s.tile t
  let per := hbPeriod (s.field (fieldOf t))
  if s.now < x.lastBeat + per * (x.missed + 1) || x.dead || s.tileState t == 3 then none
  else some (s.modTile t fun x =>
    if x.failStop || x.noClock then { x with missed := x.missed + 1 } else { x with missed := 0, lastBeat := s.now })
/-- DEAD_DECLARATION (R34): HBMISS beats in a row are missing. The tile's routers fence it from now on; the tile map changes as the
starters handle the declaration in its turn (R33). -/
def evDeadDeclaration (t : Nat) (s : State) : Option State :=
  if (s.tile t).dead || s.tileState t == 3 || decide ((s.tile t).missed < hbMiss (s.field (fieldOf t))) then none
  else
    let s := tileEvent s t 0x09 0 (BitVec.ofNat 64 t) 0
    let s := s.modTile t fun x => { x with dead := true }
    let s := s.modField (fieldOf t) fun f => { f with
      pacer := { f.pacer with starts := f.pacer.starts.filter (·.tile != t) }, wakes := f.wakes.filter (·.1 != t) }
    some { s with seqQ := s.seqQ ++ [.dead t] }
/-- LOST_CLOCK_OR_SUPPLY (R382). -/
def evLostClockOrSupply (t : Nat) (s : State) : Option State :=
  if t < Config.numTiles then some (s.modTile t fun x => { x with noClock := true }) else none

/-! ## The rebalancer (R272-R275) -/

/-- Occupancy of an input queue at or above THR (R273). -/
def InQ.above (q : InQ) (rb : Word) : Bool := decide (nfld rb.toNat 8 8 * q.depth ≤ 256 * q.toks.length)
/-- Change what `f` says of every declared input queue of the tiles that hold an actor. -/
def mapQueues (s : State) (p : Nat → Bool) (f : Nat → InQ → InQ) : State :=
  { s with tiles := s.tiles.map fun (e : Nat × Tile) =>
    (e.1, if p e.1 && e.2.sch.actor.isSome then { e.2 with inq := e.2.inq.map fun (q : Nat × InQ) => (q.1, f e.1 q.2) } else e.2) }
/-- The end of a partition's window in progress (R273). -/
def Partition.winEnd (p : Partition) : Nat := p.winStart + 1000 * Nat.max 1 (nfld p.rbNow.toNat 16 16)
/-- A partition has a tile in a field. -/
def Partition.inField (p : Partition) (f : Nat) : Bool :=
  decide (p.x0 / 12 ≤ f % 8) && decide (f % 8 ≤ p.x1 / 12) && decide (p.y0 / 12 ≤ f / 8) && decide (f / 8 ≤ p.y1 / 12)
/-- The wall time of a field's next sample: every 64 ns (R273). -/
def sampleAt (s : State) (f : Nat) : Nat := 64 * (s.field f).sampN
/-- REBALANCE_SAMPLE (R273): a field's sample of an instant that has come, which belongs to the window in progress of each partition.
DEDUCED: notes/assumptions/71.md. -/
def evRebalanceSample (f : Nat) (s : State) : Option State :=
  let at_ := sampleAt s f
  if Config.numFields ≤ f || decide (s.now < at_) || s.parts.any (fun p => p.inField f && decide (p.winEnd ≤ at_)) then none
  else
    let sees (t : Nat) : Bool := fieldOf t == f && ((s.partOf t).map fun p => decide (p.winStart ≤ at_)).getD false
    let s' := mapQueues s sees fun t q => { q with hot := q.hot && q.above (((s.partOf t).map (·.rbNow)).getD 0) }
    some (s'.modField f fun y => { y with sampN := y.sampN + 1 })
/-- The tile of an actor when a partition's next window begins: its queues start as not yet seen below THR. -/
def Tile.nextWindow (x : Tile) : Tile :=
  match x.sch.actor with
  | none => x
  | some a => { x with
      inq := x.inq.map fun (q : Nat × InQ) => (q.1, { q.2 with hotPrev := q.2.hot && !a.fresh, hot := true })
      sch := { x.sch with actor := some { a with fresh := false, movedPrev := a.movedNow, movedNow := false } } }
/-- REBALANCE_WINDOW (R272, R273): a window of a partition ends, each of its fields having taken every sample of it, and the next
begins. DEDUCED: notes/assumptions/71.md. -/
def evRebalanceWindow (o : Nat) (s : State) : Option State :=
  match s.part o with
  | none => none
  | some p =>
    let fields := (List.range Config.numFields).filter p.inField
    if s.now < p.winEnd || fields.any (fun f => decide (sampleAt s f < p.winEnd)) then none
    else
      let s := s.modPart o fun p => { p with winStart := p.winEnd, rbNow := p.rbctl }
      some { s with tiles := s.tiles.map fun (e : Nat × Tile) => (e.1, if p.has e.1 then e.2.nextWindow else e.2) }
/-- The reserve tile of a configuration that an actor on tile t would move to: in its field, first in raster order. -/
def reserveFor (s : State) (c : Cfg) (t : Nat) : Option Nat :=
  (c.reserves.mergeSort (· ≤ ·)).find? fun u => fieldOf u == fieldOf t && takes s u && !(s.tile u).noClock
/-- Whether the actor in a slot of a running configuration qualifies for a move (R273, R366). -/
def movable (s : State) (c : Cfg) (slot t : Nat) : Bool :=
  let x := s.tile t
  (match c.image.actors[slot]?, x.sch.actor with
   | some d, some a => !d.pin && decide (d.gang ≤ 1) && !a.movedNow && !a.movedPrev && !a.fresh && !a.stopped
   | _, _ => false) &&
  x.eng.caps.isEmpty && s.tileClass t != 0 && x.inq.any (fun q => q.2.hotPrev) && (reserveFor s c t).isSome
/-- A tile stands at a task boundary with nothing that holds a move (R274 step 2): a claim that has outlived its task moves with the queue. -/
def moveReady (s : State) (t : Nat) : Bool :=
  let x := s.tile t
  x.sch.task.isNone && x.eng.copies.isEmpty && x.eng.dreqs.isEmpty && x.pend.all (·.ended) && (outstanding s t).isEmpty &&
    !(s.sec.quotes.any (·.tile == t)) && x.engAccs.isEmpty &&
    x.eng.hds.all fun h => h.2.pend == (x.eng.ports.filter fun p => p.2.pendHd == some h.1).length
/-- The patch of a moved actor: what is queued asks for its start and its wake anew on the new tile (R324, R328). DEDUCED:
notes/assumptions/71.md. -/
def PatchUnit.again (p : PatchUnit) : PatchUnit := { p with q := p.q.map fun e => { e with asked := false, granted := false } }
/-- Move the actor of a run's slot, numbered as its save block, to a reserve tile (R274 steps 3 to 5). -/
def moveActor (s : State) (c : Cfg) (blk old new : Nat) : State :=
  let run := blk / c.slots
  let place := tput ((c.places[run]?).getD []) (blk % c.slots) new
  let y := (s.tile old).moveTo (s.tile new) old new
  let y := { y with
    pu := y.pu.again
    sch := { y.sch with actor := y.sch.actor.map fun a => { a with moveTo := none, movedNow := true, fresh := true } } }
  let s := digestStore (unloadTile s old) new (s.tile new).store y.store
  let s := moveRegions (s.setTile new y) c.ctx [(old, new)]
  let s := if y.pu.q.isEmpty then s else askStart (askWake s new) new
  let s : State := { s with
    slices := s.slices.map fun (e : Nat × Slice) =>
      (e.1, { e.2 with ents := e.2.ents.map fun (k : ChEnt) => if k.tile = old then { k with tile := new } else k })
    coll := { s.coll with out := s.coll.out.map fun (k : Coll) => if k.tile = old then { k with tile := new } else k } }
  let s := s.modCfg c.sq fun c => { (c.setPlace run place) with reserves := c.reserves.filter (· != new) ++ [old] }
  relink s c.image place
/-- The actors that qualify for a move, and the one of the lowest slot (R273), by save block and tile. -/
def candidates (s : State) (cs : List Cfg) : List (Cfg × Nat × Nat) :=
  (cs.map fun c => if c.st == .running then
      (c.members.filter fun e => e.2.1 == 0 && movable s c (e.1 % c.slots) e.2.2).map fun e => (c, e.1, e.2.2)
    else []).flatten
def lowest (l : List (Cfg × Nat × Nat)) : Option (Cfg × Nat × Nat) := l.foldl (fun b e => match b with
  | none => some e
  | some d => if e.2.1 % e.1.slots < d.2.1 % d.1.slots then some e else some d) none
/-- REBALANCE_MOVE (R274): the move in progress, whose target was chosen when it began, completes or is abandoned (R275), or the next
one begins. -/
def evRebalanceMove (o : Nat) (s : State) : Option State :=
  match s.part o with
  | none => none
  | some p =>
    let cs := s.cfgs.filter fun c => c.owner == o
    let target (t : Nat) : Option Nat := (s.tile t).sch.actor.bind (·.moveTo)
    let aim (t : Nat) (u : Option Nat) : State :=
      s.modTile t fun x => { x with sch := { x.sch with actor := x.sch.actor.map fun a => { a with moveTo := u } } }
    match cs.findSome? fun c => c.members.findSome? fun e => (target e.2.2).map fun u => (c, e.1, e.2.2, u) with
    | some (c, blk, t, u) =>
      if c.st != .running || s.unreachable t || !takes s u || (s.tile u).noClock then some (aim t none)
      else if moveReady s t then some (match readTile s t (· == .lc) with
        | .ok s => moveActor s c blk t u
        | .error a => failStopTile s t a)
      else none
    | none =>
      if !nbit p.rbNow.toNat 0 then none
      else match lowest (candidates s cs) with
        | none => none
        | some (c, _, t) => some (aim t (reserveFor s c t))

/-! ## Collectives (R310-R313, R397) -/

/-- Bytes that one rank's side of a collective holds. -/
def Coll.bytes (c : Coll) : Nat := c.count * (if c.kind = 1 then 4 else collWidth c.ty)
/-- This module's side of a collective, as the group stood at its issue (R312). -/
def ownSide (c : Coll) (data : List Byte) : CollSide :=
  { rank := grpRank c.grp, gid := BitVec.ofNat 32 c.grp.toNat, kind := c.kind, ty := c.ty, op := c.op, dg := c.dg, count := c.count
    root := c.root, mode := BitVec.ofNat 3 c.car.mode, data := data }
/-- Two descriptors agree (R312). -/
def agrees (a b : CollSide) : Bool :=
  a.gid == b.gid && a.kind == b.kind && a.ty == b.ty && a.op == b.op && a.dg == b.dg && a.count == b.count && a.root == b.root &&
    a.mode == b.mode
/-- One element reduced over the ranks in their order (R311), saturating as RMODE says (R79). -/
def reduceElem (ty : BitVec 4) (op : BitVec 2) (rm : Rm) (sat : Bool) (xs : List Nat) : Res :=
  if ty = 0 then
    let is := xs.map (toSigned 32)
    ⟨match op.toNat with
      | 0 => wrapN 32 is.sum
      | 1 => wrapN 32 (is.foldl max (is.headD 0))
      | _ => wrapN 32 (is.foldl min (is.headD 0)), 0⟩
  else
    let f := if ty = 9 then bf16 else f32
    if op = 0 then
      let (w, fl) := ({} : Wide).addAll (xs.map (decodeVal f))
      let r := w.round f rm sat
      ⟨r.code, r.fl ||| fl⟩
    else match xs with
      | [] => ⟨0, 0⟩
      | x :: rest => rest.foldl (fun r y =>
          let m := minmaxVal f (op == 2) false (decodeVal f r.code) (decodeVal f y) r.code y
          ⟨m.code, r.fl ||| m.fl⟩) ⟨x, 0⟩
/-- The result of a collective from every rank's side in rank order, with its flags. -/
def collResult (c : Coll) (sides : List CollSide) : List Byte × Flags :=
  if c.kind = 1 then (((sides.find? (·.rank == c.root)).map (·.data)).getD [], 0)
  else
    let w := collWidth c.ty
    let nums := sides.map fun d => ofBytes d.data
    let rm (j : Nat) : Rm := ⟨c.car.mode, if c.car.mode = 5 then srRnd c.car.seed (BitVec.ofNat 32 (w * j)) j else 0⟩
    let rs := (List.range c.count).map fun j => reduceElem c.ty c.op (rm j) c.car.sat (nums.map fun x => elemOf x (8 * w) j)
    ((rs.map fun r => toBytes w r.code).flatten, flagsOf rs)
/-- Read the buffer by the translations made at issue (R309); an uncorrectable unit leaves the collective incomplete. DEDUCED:
notes/assumptions/86.md. -/
def collRead : List Part → State → Option (List Byte × State)
  | [], s => some ([], s)
  | p :: r, s => match homeRead s p.home p.len with
    | .error _ => none
    | .ok (bs, s) => (collRead r s).map fun (rest, s) => (bs ++ rest, s)
/-- Where line i of a buffer stands, by the translations made at issue. -/
def Coll.line (c : Coll) (i : Nat) : Option (Home × Nat) :=
  (c.pages.find? fun p => decide (p.pos ≤ 64 * i) && decide (64 * i < p.pos + p.len)).map fun p => (p.home.add (64 * i - p.pos), p.pteAt)
/-- Write a collective's lines, each full and counted on its hurdle (R310). -/
def collWrite (c : Coll) : List (List Byte) → Nat → State → State
  | [], _, s => s
  | b :: r, i, s =>
    let s := match c.line i with
      | none => s
      | some (h, pte) => match homeWrite s h b with
        | .error _ => s
        | .ok s => setDirty (setFull s h 64 true) pte
    collWrite c r (i + 1) (match c.hd with
      | some h => arrive s c.tile h 64 true false
      | none => s)
/-- Whether this rank's buffer is read: not that of a CBC's other ranks, which is only written, nor a CBAR's, which has none (R310). -/
def Coll.reads (c : Coll) (rank : Nat) : Bool := c.kind != 3 && (c.kind != 1 || rank == c.root)
/-- Whether this rank's buffer receives the result (R310). -/
def Coll.writes (c : Coll) (rank : Nat) : Bool :=
  match c.kind.toNat with
  | 0 => true
  | 1 => rank != c.root
  | 2 => rank == c.root
  | _ => false
/-- A port has new keys, and counts its frames from 0 (R353). -/
def LinkPort.rekey (y : LinkPort) (k : List Byte) : LinkPort :=
  { y with frames := 0, framesIn := 0, keys := y.keys + 1, keyOut := k.take 32, keyIn := (k.drop 32).take 32 }
/-- A port with room for n more frames: it rekeys before a counter would reach 2^40 (R353). DEDUCED: notes/assumptions/57.md. -/
def linkRoom (n : Nat) (s : State) (p : Nat) : LinkPort × State :=
  let y : LinkPort := tget {} s.links p
  if Nat.max y.frames y.framesIn + n < 2 ^ 40 then (y, s)
  else
    let (i, s) := s.takeFree
    (y.rekey (Config.linkSecret i), s)
/-- Good frames of one port, each way (R353). DEDUCED: notes/assumptions/57.md. -/
def portFrames (n : Nat) (s : State) (p : Nat) : State :=
  if (tget {} s.links p : LinkPort).st != 2 then s
  else
    let (y, s) := linkRoom n s p
    { s with links := tput s.links p { y with fails := 0, frames := y.frames + n, framesIn := y.framesIn + n } }
/-- Good frames on every port that is up (R353). DEDUCED: notes/assumptions/57.md. -/
def linkFrames (s : State) (n : Nat) : State := (s.links.map (·.1)).foldl (portFrames n) s
/-- COLLECTIVE_COMPLETE (R312, R313): every other rank's side of the group's oldest collective has come, over working links. -/
def evCollectiveComplete (g : Nat) (others : List CollSide) (s : State) : Option State :=
  match s.coll.out.find? (·.g == g) with
  | none => none
  | some c =>
    let nr := grpNr c.grp
    let own := grpRank c.grp
    let ranks := others.map (·.rank)
    let whole := (List.range nr).all fun r => r == own || (ranks.filter (· == r)).length == 1
    let linked := nr == 1 || s.links.any fun l => l.2.st == 2
    let ready := (outstanding s c.tile).all fun a => decide (c.stamp ≤ a.id)
    if s.coll.stopped.contains g || s.written c.tile || !whole || others.length + 1 != nr || ranks.contains own || !linked || !(c.kind == 3 || ready) then none
    else if others.any fun d => !agrees d (ownSide c []) then
      let s := event s (((s.cfg c.cfg).map (·.owner)).getD 0) 0x05 0 0xFFFF c.ctx 0xFFFF (BitVec.ofNat 64 g) (BitVec.ofNat 64 c.n)
      some { s with coll := { s.coll with stopped := s.coll.stopped ++ [g] } }
    else
      match if c.reads own then collRead c.pages s else some ([], s) with
        | none => none
        | some (data, s) =>
          let me := ownSide c data
          let gone (s : State) : State := { s with coll := { s.coll with out := s.coll.out.erase c } }
          if c.kind == 3 then some (gone { s with coll := { s.coll with barDone := tput s.coll.barDone g (c.n + 1) } })
          else if others.any fun d => d.data.length != c.bytes && (c.kind != 1 || d.rank == c.root) then none
          else
            let sides := (me :: others).mergeSort fun a b => decide (a.rank ≤ b.rank)
            let (out, fl) := collResult c sides
            let s := s.modCfg c.cfg fun k => { k with rflags := k.rflags ||| fl }
            let s := if nr = 1 then s else linkFrames s ((c.bytes + 4095) / 4096)
            let s := if c.writes own then collWrite c (chunks 64 (c.bytes / 64) out) 0 s else s
            some (gone (match c.hd with
              | some h => pendBy s c.tile h false false
              | none => s))

/-- SEQUENCED_MESSAGE (R268). -/
def execSequencedMessage (s : State) := occur evSequencedMessage s
/-- TILE_STATE_REQUEST (R33). -/
def execTileStateRequest (t : Nat) (spare : Bool) (s : State) := occur (evTileStateRequest t spare) s
/-- LAUNCH_PACKET (R355). -/
def execLaunchPacket (ctx : Nat) (s : State) := occur (evLaunchPacket ctx) s
/-- SQTAIL_DOORBELL (R417). -/
def execSqtailDoorbell (ctx : Nat) (v : BitVec 16) (s : State) := occur (evSqtailDoorbell ctx v) s
/-- CONFIG_START (R175). -/
def execConfigStart (sq : Nat) (s : State) := occur (evConfigStart sq) s
/-- END_NOTICE (R255). -/
def execEndNotice (sq : Nat) (s : State) := occur (evEndNotice sq) s
/-- STAGE_TIMEOUT (R271). -/
def execStageTimeout (sq : Nat) (s : State) := occur (evStageTimeout sq) s
/-- STAGED_RELEASE_OR_CANCEL (R315). -/
def execStagedReleaseOrCancel (sq : Nat) (release : Bool) (s : State) := occur (evStagedReleaseOrCancel sq release) s
/-- DIGEST_VERDICT (R314). -/
def execDigestVerdict (sq : Nat) (others : List RankDigest) (s : State) := occur (evDigestVerdict sq others) s
/-- VERDICT_TIMEOUT (R315). -/
def execVerdictTimeout (sq : Nat) (s : State) := occur (evVerdictTimeout sq) s
/-- REDUNDANT_COMPARE (R395). -/
def execRedundantCompare (sq : Nat) (s : State) := occur (evRedundantCompare sq) s
/-- HEARTBEAT (R382). -/
def execHeartbeat (t : Nat) (s : State) := occur (evHeartbeat t) s
/-- DEAD_DECLARATION (R34). -/
def execDeadDeclaration (t : Nat) (s : State) := occur (evDeadDeclaration t) s
/-- LOST_CLOCK_OR_SUPPLY (R382). -/
def execLostClockOrSupply (t : Nat) (s : State) := occur (evLostClockOrSupply t) s
/-- REBALANCE_SAMPLE (R273). -/
def execRebalanceSample (f : Nat) (s : State) := occur (evRebalanceSample f) s
/-- REBALANCE_WINDOW (R273). -/
def execRebalanceWindow (o : Nat) (s : State) := occur (evRebalanceWindow o) s
/-- REBALANCE_MOVE (R274). -/
def execRebalanceMove (o : Nat) (s : State) := occur (evRebalanceMove o) s
/-- COLLECTIVE_COMPLETE (R313). -/
def execCollectiveComplete (g : Nat) (others : List CollSide) (s : State) := occur (evCollectiveComplete g others) s

end Sys2Proof.Machine
end

