-- ==== Sys2Proof/Machine/EvPower.lean ====
section
/-! DEFINITION. Events of current, clocks and power: the pacer (R323, R324), gating and wakes (R328), sensors (R330), throttle and
governor (R320, R321), the stopwatch (R331), the power kill (R333) and the escape channel (R279). -/

namespace Sys2Proof.Machine

/-- Tiles of a field in raster order (R11). -/
def fieldTiles (f : Nat) : List Nat :=
  ((List.range 12).map fun j => (List.range 12).map fun i => (12 * (f / 8) + j) * 96 + 12 * (f % 8) + i).flatten
/-- The up to four tiles linked to a tile within its field (R12). -/
def neighbours (t : Nat) : List Nat :=
  let ok (u : Nat) : Bool := decide (u < Config.numTiles) && fieldOf u == fieldOf t
  (if tileX t = 0 then [] else [t - 1]) ++ (if tileX t = 95 then [] else [t + 1]) ++ (if t < 96 then [] else [t - 96]) ++ [t + 96]
    |>.filter ok

/-! ## Sensors (R330) -/

/-- The three kinds of sensor. -/
inductive Sense where
  | mv | temp | cur
deriving DecidableEq, Repr
def Sense.all : List Sense := [.mv, .temp, .cur]
def Sense.of (k : Sense) (r : SensorReading) : Int :=
  match k with
  | .mv => r.mv
  | .temp => r.temp
  | .cur => r.cur
/-- A sensor marked invalid. -/
def Sensors.bad (x : Sensors) (k : Sense) : Bool :=
  match k with
  | .mv => x.vBad
  | .temp => x.tBad
  | .cur => x.iBad
/-- Limits of a kind: lowest and highest plausible; stuck below; neighbours move above; off the median by more than. Units are
mV, 1/16 degree and 0.1 A; a change of less than 0.05 A is none. -/
def Sense.limits (k : Sense) : Int × Int × Int × Int × Int :=
  match k with
  | .mv => (400, 1000, 2, 20, 60)
  | .temp => (-320, 2400, 4, 80, 240)
  | .cur => (0, 400, 1, 20, 80)
/-- The latest sample of a tile. -/
def latest (s : State) (k : Sense) (t : Nat) : Option Int := (s.tile t).sens.hist.head?.map k.of
/-- Twice the median; of two values the median is their mean. -/
def median2 (l : List Int) : Option Int :=
  let q := l.mergeSort (· ≤ ·)
  let n := q.length
  if n = 0 then none
  else if n % 2 = 1 then (q[n / 2]?).map (2 * ·) else some (q[n / 2 - 1]?.getD 0 + q[n / 2]?.getD 0)
/-- How far the last 64 samples and the one before them moved. -/
def moved (k : Sense) (h : List SensorReading) : Int :=
  let l := h.map k.of
  l.foldl max (l.headD 0) - l.foldl min (l.headD 0)
/-- Latest samples of the valid neighbours of a sensor. -/
def validNear (s : State) (k : Sense) (t : Nat) : List Int :=
  ((neighbours t).filter fun u => !(s.tile u).sens.bad k).filterMap (latest s k)
/-- A sample is implausible (R330). -/
def implausible (s : State) (k : Sense) (t : Nat) : Bool :=
  let h := (s.tile t).sens.hist
  match h with
  | [] => false
  | r :: _ =>
    let v := k.of r
    let (lo, hi, still, near, off) := k.limits
    let vs := validNear s k t
    let stuck := h.length == 65 && decide (moved k h < still) &&
      (match median2 ((neighbours t).map fun u => moved k (s.tile u).sens.hist) with
       | some m => decide (2 * near < m)
       | none => false)
    let away := decide (2 ≤ vs.length) && (match median2 vs with
      | some m => decide (2 * off < (2 * v - m).natAbs)
      | none => false)
    decide (v < lo) || decide (hi < v) || stuck || away
/-- Mark a sensor after a sample: valid again after 64 plausible samples in a row. -/
def Sensors.mark (x : Sensors) (k : Sense) (bad : Bool) : Sensors :=
  let next (b : Bool) (n : Nat) : Bool × Nat :=
    if bad then (true, 0) else if b then (if 63 ≤ n then (false, 0) else (true, n + 1)) else (false, 0)
  match k with
  | .mv => let r := next x.vBad x.vGood; { x with vBad := r.1, vGood := r.2 }
  | .temp => let r := next x.tBad x.tGood; { x with tBad := r.1, tGood := r.2 }
  | .cur => let r := next x.iBad x.iGood; { x with iBad := r.1, iGood := r.2 }
/-- Twice the value of a tile's sensor: its own, or the median of its valid neighbours; none where none is valid. -/
def sensed2 (s : State) (k : Sense) (t : Nat) : Option Int :=
  if (s.tile t).sens.bad k then median2 (validNear s k t) else (latest s k t).map (2 * ·)
/-- A sensor and all its neighbours of one kind are invalid: the field's rail goes to its floor. -/
def atFloor (s : State) (f : Nat) : Bool :=
  (fieldTiles f).any fun t => Sense.all.any fun k =>
    (s.tile t).sens.bad k && (neighbours t).all fun u => (s.tile u).sens.bad k
/-- The compute rail of a field in mV (R319, R320, R330). -/
def railMv (s : State) (f : Nat) : Nat := if atFloor s f then 600 else (s.field f).compMv
/-- Twice the current of a field, in 0.1 A (R322, R332). -/
def fieldCurrent2 (s : State) (f : Nat) : Nat := ((fieldTiles f).map fun t => ((sensed2 s .cur t).getD 0).toNat).sum
/-- Twice the highest temperature of a field, in 1/16 degree. -/
def fieldTemp2 (s : State) (f : Nat) : Option Int :=
  ((fieldTiles f).filterMap (sensed2 s .temp)).foldl (fun m v => match m with
    | none => some v
    | some w => some (max v w)) none
def limitOf (f : FieldSt) : Nat := nfld f.icrit.toNat 0 16
/-- The field current exceeds LIMIT (R322, R333). -/
def overLimit (s : State) (f : Nat) : Bool := decide (2 * limitOf (s.field f) < fieldCurrent2 s f)
/-- Since when the field current exceeds LIMIT, after a sample or a write of LIMIT (R333). -/
def watchLimit (s : State) (f : Nat) : State :=
  let exceeds := overLimit s f
  s.modField f fun y => { y with overSince := if exceeds then some (y.overSince.getD s.now) else none }
/-- Sensors of a field marked invalid. -/
def invalidSensors (s : State) (f : Nat) : Nat :=
  ((fieldTiles f).map fun t => (Sense.all.filter (s.tile t).sens.bad).length).sum
/-- A field above 105 degrees whose rail cannot step down (R320), since when; after a millisecond the alarm's TEMP source fires
(R367). DEDUCED: notes/assumptions/55.md. -/
def heat (s : State) (f : Nat) : State :=
  let hot := decide (2 * 1680 < (fieldTemp2 s f).getD 0)
  let s := s.modField f fun y => { y with hotSince := if hot && decide (y.compMv < 560) then some (y.hotSince.getD s.now) else none }
  match (s.field f).hotSince with
  | some a => if a + 1000000 ≤ s.now then s.alarmNext .temp f else s
  | none => s
/-- What a sample of a field adds to its millisecond (R331). -/
def SwAcc.sample (w : SwAcc) (rail net cur2 bad : Nat) (temp2 : Option Int) (exceeds floor : Bool) : SwAcc :=
  { w with
    samples := w.samples + 1, vcomp := w.vcomp + rail, vnet := w.vnet + net, cur := w.cur + cur2, power := w.power + rail * cur2
    ipeak := Nat.max w.ipeak cur2, overI := w.overI || exceeds, floor := w.floor || floor, invalid := bad
    tmax := match temp2, w.tmax with
      | some a, some b => some (max a b)
      | some a, none => some a
      | none, m => m }
/-- SENSOR_SAMPLE (R330, R331): the samples of a tile, what they make of its sensors, and what the field reads; a valid reading above
125 degrees fires the alarm's TEMP source (R367). -/
def evSensorSample (t : Nat) (sm : SensorReading) (s : State) : Option State :=
  if Config.numTiles ≤ t then none
  else
    let s := s.modTile t fun x => { x with sens := { x.sens with hist := (sm :: x.sens.hist).take 65 } }
    let marks := Sense.all.map fun k => (k, implausible s k t)
    let s := s.modTile t fun x => { x with sens := marks.foldl (fun y e => y.mark e.1 e.2) x.sens }
    let f := fieldOf t
    let exceeds := overLimit s f
    let s := s.count f fun w =>
      w.sample (railMv s f) (s.field f).netMv (fieldCurrent2 s f) (invalidSensors s f) (fieldTemp2 s f) exceeds (atFloor s f)
    let s := watchLimit s f
    let s := if !(s.tile t).sens.tBad && decide (2000 < sm.temp) then s.alarmNext .temp f else s
    some (heat s f)

/-! ## Throttle and governor (R320, R321) -/

/-- THROTTLE_STEP (R320). -/
def evThrottleStep (f : Nat) (s : State) : Option State :=
  let y := s.field f
  if Config.numFields ≤ f || decide (s.now < y.throtAt + 100000) then none
  else
    let temp := (fieldTemp2 s f).getD 0
    let hot := decide (2 * 1680 < temp) || (y.throttled && decide (2 * 1600 ≤ temp))
    let s := s.modField f fun y => { y with throtAt := s.now, throttled := hot }
    some (if !hot then s.modField f fun y => { y with compMv := Nat.min y.setMv (y.compMv + 10), hotSince := none }
      else if 560 ≤ y.compMv then
        (s.modField f fun y => { y with compMv := y.compMv - 10, hotSince := none }).count f fun w => { w with throt := w.throt + 1 }
      else heat s f)
/-- NETWORK_GOVERNOR (R321): the occupancy of the adaptive channels in 1/256. -/
def evNetworkGovernor (f occ : Nat) (s : State) : Option State :=
  if Config.numFields ≤ f || decide (s.now < (s.field f).govAt + 10000) then none
  else some (s.modField f fun y => { y with
    govAt := s.now
    netMv := if 64 < occ then Nat.min 850 (y.netMv + 10) else if occ < 16 then Nat.max 600 (y.netMv - 10) else y.netMv })

/-! ## The pacer (R322-R325) -/

def rateOf (f : FieldSt) : Nat := Nat.max 1 (nfld f.didt.toNat 0 16)
def ageOf (f : FieldSt) : Nat := Nat.max 1 (nfld f.didt.toNat 16 16)
/-- The pacing interval since the last event is over (R323). -/
def paced (s : State) (p : Pacer) : Bool :=
  match p.lastAt with
  | none => true
  | some a => decide (19000 ≤ (s.now - a) * p.lastRate)
/-- Effective priority of a start request (R323). -/
def Req.ep (r : Req) (now age : Nat) : Nat := Nat.min 7 (r.pri + (now - r.at_) / age)
/-- The start that is granted: the highest EP, ties to the earliest request. -/
def firstReq (now age : Nat) : List Req → Option Req
  | [] => none
  | a :: r => match firstReq now age r with
    | none => some a
    | some b => if a.ep now age < b.ep now age || (a.ep now age == b.ep now age && decide (b.at_ < a.at_)) then some b else some a
/-- PACER_STOP (R323). -/
def evPacerStop (f : Nat) (s : State) : Option State :=
  let y := s.field f
  match y.pacer.stops with
  | [] => none
  | r :: rest =>
    if !paced s y.pacer then none
    else
      let s := s.modField f fun y => { y with pacer := { y.pacer with
        stops := rest, lastAt := some s.now, lastRate := rateOf y, running := y.pacer.running - 1 } }
      some (s.modTile r.tile fun x => { x with pu := { x.pu with ranAt := none } })
/-- PACER_GRANT (R323). -/
def evPacerGrant (f : Nat) (s : State) : Option State :=
  let y := s.field f
  if !y.pacer.stops.isEmpty || !paced s y.pacer || overLimit s f then none
  else match firstReq s.now (ageOf y) y.pacer.starts with
    | none => none
    | some r =>
      let late := decide (19000 ≤ (s.now - r.at_) * rateOf y)
      let s := s.modField f fun y => { y with pacer := { y.pacer with
        starts := y.pacer.starts.erase r, lastAt := some s.now, lastRate := rateOf y, running := y.pacer.running + 1 } }
      let s := s.count f fun w => { w with grant := w.grant + 1, defer := w.defer + if late then 1 else 0 }
      some (s.modTile r.tile fun x => { x with pu := { x.pu with q := match x.pu.q with
        | e :: q => { e with granted := true } :: q
        | [] => [] } })
/-- RUN_COMPLETE (R324): a patch that has finished a run asks for its stop. -/
def evRunComplete (t : Nat) (s : State) : Option State :=
  let y := s.field (fieldOf t)
  if (s.tile t).pu.ranAt.isNone || y.pacer.stops.any (·.tile == t) then none
  else some (s.modField (fieldOf t) fun y => { y with pacer := { y.pacer with stops := y.pacer.stops ++ [⟨t, 0, s.now⟩] } })

/-! ## Gating and wakes (R327, R328) -/

/-- POWER_GATE (R328): the hold of an idle patch is over, the ns in which it expires with it, or its gating has ended. -/
def evPowerGate (t : Nat) (s : State) : Option State :=
  let x := s.tile t
  let beh := nfld (s.field (fieldOf t)).pgctl.toNat 0 16
  let put (s : State) (g : Gate) : State := s.modTile t fun x => { x with pu := { x.pu with gate := g } }
  match x.pu.gate with
  | .awake n => if x.pu.q.isEmpty && beh != 0 && decide (n + beh < s.now) then some (put s (.gating (s.now + 64) false)) else none
  | .gating e w =>
    if s.now < e then none
    else
      let s := put s (.gated w)
      some (if w then s.modField (fieldOf t) fun f => { f with wakes := f.wakes ++ [(t, e)] } else s)
  | .gated _ => none
/-- WAKE_ADMIT (R328): at a slot boundary up to W wakes are admitted that had queued by then, awake at the end of the slot. -/
def evWakeAdmit (f : Nat) (s : State) : Option State :=
  let y := s.field f
  match y.wakes with
  | [] => none
  | (_, at_) :: _ =>
    let slot := Nat.max (y.wakeSlot + 1) ((at_ + 63) / 64)
    if s.now < 64 * slot then none
    else
      let w := Nat.max 4 (nfld y.pgctl.toNat 16 4)
      let n := ((y.wakes.take w).takeWhile fun e => decide (e.2 ≤ 64 * slot)).length
      let s := (y.wakes.take n).foldl (fun a e => a.modTile e.1 fun x => { x with pu := { x.pu with gate := .awake (64 * (slot + 1)) } }) s
      some (s.modField f fun y => { y with wakes := y.wakes.drop n, wakeSlot := slot })

/-! ## Stopwatch (R331, R421) -/

/-- A stopwatch record; what no sample says of its millisecond is free, from number k on. DESIGN CHOICE: notes/assumptions/47.md. -/
def stopwatchBytes (f : Nat) (w : SwAcc) (lost : Bool) (k : Nat) : List Byte :=
  let n := w.samples
  let b (x : Bool) (i : Nat) : Nat := if x then 2 ^ i else 0
  let mean (i v : Nat) : Nat := if n = 0 then Config.unmeasured (8 * k + i) else v / n
  let temp : Nat := match w.tmax with
    | some v => wrapN 16 (v / 2)
    | none => Config.unmeasured (8 * k + 4)
  toBytes 1 f ++ toBytes 1 (b w.floor 0 + b w.overI 1 + b w.kill 2 + b lost 3) ++ toBytes 2 w.invalid ++ toBytes 4 (w.ms % 2 ^ 32) ++
  toBytes 2 (mean 0 w.vcomp) ++ toBytes 2 (mean 1 w.vnet) ++ toBytes 2 (mean 2 (w.cur / 2)) ++
  toBytes 2 (mean 3 (w.power / 2000) + Config.networkPower k) ++ toBytes 2 temp ++ toBytes 2 (Nat.min 65535 w.throt) ++
  toBytes 4 w.grant ++ toBytes 4 w.defer ++ toBytes 2 (if n = 0 then Config.unmeasured (8 * k + 5) else w.ipeak / 2) ++ toBytes 2 0
/-- What a field has accumulated in the millisecond whose record comes next; nothing, where no sample and no event fell in it. -/
def nextAcc (s : State) (f : Nat) : SwAcc :=
  let y := s.field f
  ((y.swDone ++ [y.sw]).find? fun w => w.ms == y.swNext).getD { ms := y.swNext, invalid := invalidSensors s f }
/-- Entries of the telemetry ring, none where TMLOG is out of range (R421). -/
def Telemetry.size (t : Telemetry) : Option Nat :=
  let n := t.log.toNat
  if 8 ≤ n && decide (n ≤ 20) then some (2 ^ n) else none
/-- STOPWATCH_RECORD (R331): the record of a field's next millisecond, which has ended, goes to the host's ring, where it has room,
and is kept for management; the first record written after a dropped one says so. -/
def evStopwatchRecord (f : Nat) (s : State) : Option State :=
  let y := s.field f
  if Config.numFields ≤ f || decide (s.now / 1000000 ≤ y.swNext) then none
  else
    let w := nextAcc s f
    let (k, s) := s.takeFree
    let r := stopwatchBytes f w y.swLost k
    let room := match s.tm.size with
      | none => none
      | some n => if (s.tm.head.toNat + 1) % n = s.tm.tail.toNat % n then none else some n
    let s := match room with
      | none => s
      | some n =>
        let s := rawWrite s (.host (s.tm.base.toNat + 32 * (s.tm.head.toNat % n))) r
        { s with tm := { s.tm with head := BitVec.ofNat 64 ((s.tm.head.toNat + 1) % n) } }
    some (s.modField f fun y => { y with
      swDone := y.swDone.filter fun w => decide (y.swNext < w.ms), swNext := y.swNext + 1, swLost := room.isNone, swLast := r })

/-! ## Power kill (R333) and escape (R279) -/

/-- A tile with running work: a task, or commands of its patch that go on after one. -/
def Tile.working (x : Tile) : Bool := x.sch.task.isSome || !x.pu.q.isEmpty
/-- Configurations with running work in a field, in the order in which their contexts are killed: lowest priority, then latest placed. -/
def killOrder (s : State) (f : Nat) : List Cfg :=
  (s.cfgs.filter fun c => (c.st == .running || c.st == .saving) && c.tiles.any fun t => fieldOf t == f && (s.tile t).working).mergeSort fun a b =>
    let x := (s.ctx a.ctx).prio
    let y := (s.ctx b.ctx).prio
    decide (x < y) || (x == y && decide (b.placeNo ≤ a.placeNo))
/-- POWER_KILL (R333), while the field still exceeds LIMIT: the context's tasks stop at their next instruction boundaries. -/
def evPowerKill (f : Nat) (s : State) : Option State :=
  let y := s.field f
  match y.overSince with
  | none => none
  | some at_ =>
    if s.now < at_ + 1000 * Nat.max 1 (nfld y.icrit.toNat 16 16) || !overLimit s f then none
    else match killOrder s f with
      | [] => none
      | c :: _ => if killWaits s (ctxTiles s c.ctx) then none else
        let ts := (ctxTiles s c.ctx).filter fun t => (s.tile t).sch.task.isSome
        let s := ts.foldl (fun a t => trapEvent (recordTrap a t 0x12 0) t 0x12 0) s
        let s := ts.foldl resetTile (killCtx s c.ctx stPowerKill)
        some ((s.modField f fun y => { y with overSince := some s.now }).count f fun w => { w with kill := true })
/-- ESCAPE_ENTRY (R279): the n-th access that tiles of the field have under way has been blocked long enough. DEDUCED: notes/assumptions/48.md. -/
def evEscapeEntry (f n : Nat) (s : State) : Option State :=
  let all := ((fieldTiles f).map fun t => (s.tile t).net.map fun a => (t, a.id)).flatten
  match all[n]? with
  | none => none
  | some p => if (s.field f).mesh.contains p then none else some (s.modField f fun y => { y with mesh := y.mesh ++ [p] })

/-- PACER_GRANT (R323). -/
def execPacerGrant (f : Nat) (s : State) := occur (evPacerGrant f) s
/-- PACER_STOP (R323). -/
def execPacerStop (f : Nat) (s : State) := occur (evPacerStop f) s
/-- RUN_COMPLETE (R324). -/
def execRunComplete (t : Nat) (s : State) := occur (evRunComplete t) s
/-- WAKE_ADMIT (R328). -/
def execWakeAdmit (f : Nat) (s : State) := occur (evWakeAdmit f) s
/-- POWER_GATE (R328). -/
def execPowerGate (t : Nat) (s : State) := occur (evPowerGate t) s
/-- SENSOR_SAMPLE (R330). -/
def execSensorSample (t : Nat) (sm : SensorReading) (s : State) := occur (evSensorSample t sm) s
/-- THROTTLE_STEP (R320). -/
def execThrottleStep (f : Nat) (s : State) := occur (evThrottleStep f) s
/-- NETWORK_GOVERNOR (R321). -/
def execNetworkGovernor (f occ : Nat) (s : State) := occur (evNetworkGovernor f occ) s
/-- STOPWATCH_RECORD (R331). -/
def execStopwatchRecord (f : Nat) (s : State) := occur (evStopwatchRecord f) s
/-- POWER_KILL (R333). -/
def execPowerKill (f : Nat) (s : State) := occur (evPowerKill f) s
/-- ESCAPE_ENTRY (R279). -/
def execEscapeEntry (f n : Nat) (s : State) := occur (evEscapeEntry f n) s

end Sys2Proof.Machine
end

