-- ==== Sys2Proof/Machine/EvSecurity.lean ====
section
/-! DEFINITION. Events of the security island: bring-up and power (R354, R359, R360, R423), partitions (R342-R345), sessions
(R357), the alarm (R367-R369), quotes (R359, R362), debug (R360), link keys (R352, R353). -/

namespace Sys2Proof.Machine

/-! ## Power and bring-up (R423) -/

/-- A measurement value extended by a digest (R360). -/
def Sec.extend (c : Sec) (n : Nat) (d : List Byte) : Sec := { c with meas := tput c.meas n (shake256 (c.measure n ++ d) 32) }
/-- What a tile keeps without power: the defects of its patch. DEDUCED: notes/assumptions/3.md. -/
def Tile.cold (x : Tile) : Tile := { ({} : Tile) with pu := { ({} : PatchUnit) with spareBad := x.pu.spareBad } }
/-- The island's retention SRAM and flash (R349, R358, R359, R364), everything else at reset. DEDUCED: notes/assumptions/3.md. -/
def Sec.retained (c : Sec) : Sec :=
  { ({} : Sec) with
    log := c.log, xidx := c.xidx, flashF := c.flashF, sealCtr := c.sealCtr, sealF := c.sealF, flashOk := c.flashOk, cold := c.cold
    cert := c.cert }
/-- The module as power-on reset leaves it; what stands outside it stays. DEDUCED: notes/assumptions/3.md. -/
def coldState (s : State) : State :=
  { ({} : State) with
    tick := s.tick, free := s.free, agenda := s.agenda, cur := s.cur, hostMem := s.hostMem, images := s.images, mgmt := s.mgmt, hostOut := s.hostOut
    tiles := s.tiles.map fun (e : Nat × Tile) => (e.1, e.2.cold), sec := s.sec.retained }
/-- POWER_LOSS (R354, R359): every key ends; without retention the log and the counters' places are lost too. DEDUCED: notes/assumptions/50.md. -/
def evPowerLoss (retention : Bool) (s : State) : Option State :=
  let s := coldState s
  let c := s.sec
  some { s with sec := if retention then { c with held := true } else { c with held := true, cold := true, log := [] } }
/-- Each firmware copy is measured before its signature is verified, until one verifies (R360, R423). -/
def measureFw (c : Sec) : List (Bool × List Byte) → Sec × Bool
  | [] => (c, false)
  | (ok, d) :: r => if ok then (c.extend 1 d, true) else measureFw (c.extend 1 d) r
/-- The counters at the island's start: after a cold start without retention each resumes at its bound in flash (R359). DEDUCED: notes/assumptions/50.md. -/
def Sec.resume (c : Sec) : Sec :=
  if c.cold then { c with cold := false, xidx := c.flashF, sealCtr := c.sealF } else c
/-- The tile map from the repair record and BIST (R33, R423). -/
def bootMap (b : BootInput) (s : State) : State :=
  let s := b.tiles.foldl (fun (a : State) e =>
    if e.1 < Config.numTiles then { a with tileMap := tset 0 a.tileMap e.1 e.2 } else a) { s with tileMap := [] }
  b.bistFail.foldl (fun a t => if t < Config.numTiles then a.setTileState t 2 else a) s
/-- Bring-up fails at a step: held in reset; a failure of step 2 is reported on management. -/
def bootFail (s : State) (c : Sec) (step : Nat) : State :=
  { s with
    sec := { c with held := true, boot := step - 1 }
    mgmt := if step = 2 then s.mgmt ++ [.bringUp step] else s.mgmt }
/-- The tile map's 9,216 bytes (R32, R360). -/
def State.mapBytes (s : State) : List Byte := (List.range Config.numTiles).map fun t => tget 0 s.tileMap t
/-- Every bit of ALARMPOL that firmware can set, with LOCK (R368). -/
def lockedPol (v : Word) : Word := keep 0x80000000FFFF0FFF v ||| 0x8000000000000000
/-- The debug state that step 7 measures in MEAS5 (R360, R423): zero, no unlock accepted. DEDUCED: notes/assumptions/51.md. -/
def debugState : List Byte := List.replicate 32 0
/-- POWER_ON (R423): MEAS0 to MEAS5 are extended by the digests of what they measure (R360), the DRBG draws the key of the granules in
no partition (R351, R354). DEDUCED: notes/assumptions/3.md; DEDUCED: notes/assumptions/51.md; DESIGN CHOICE: notes/assumptions/83.md. -/
def evPowerOn (b : BootInput) (s0 : State) : Option State :=
  let s := coldState s0
  if !b.romOk then some (bootFail s s.sec 1) else
  let c := s.sec.extend 0 b.romHash
  let (c, fw) := measureFw c (b.fw.take 2)
  some (if !fw then bootFail s c 2
    else
      let c := { c.resume with idOk := b.identityOk, pubKey := if b.identityOk then Config.identityPublic else [], cert := b.cert }
      if !b.repairOk then bootFail s c 4
      else
        let s := bootMap b s
        let pol := lockedPol b.alarmpol
        let c := ({ c.extend 2 b.repairHash with serial := b.serial }).extend 3 (shake256 s.mapBytes 32)
        let (n, s) := s.takeFree
        let c := (c.extend 4 (shake256 (toBytes 8 pol.toNat) 32)).extend 5 debugState
        { s with sec := { c with alarmpol := pol, boot := 8, hostKey := Config.drbg n } })

/-! ## Partitions (R342-R345) -/

/-- Two rectangles share a tile. -/
def rectsMeet (p : Partition) (q : PartSpec) : Bool :=
  decide (p.x0 ≤ q.x1) && decide (q.x0 ≤ p.x1) && decide (p.y0 ≤ q.y1) && decide (q.y0 ≤ p.y1)
/-- A 2 MiB granule zeroed, its lines full (R344, R350). -/
def zeroGranule (s : State) (g : Nat) : State :=
  let a := g * 2 ^ 21
  let b := a + 2 ^ 21
  let out (lo hi x : Nat) : Bool := decide (x < lo) || decide (hi ≤ x)
  { s with dram :=
    { bytes := s.dram.bytes.filter fun e => out a b e.1
      fe := s.dram.fe.filter fun e => out (a / 64) (b / 64) e.1
      bad1 := s.dram.bad1.filter fun u => out (a / 8) (b / 8) u
      bad2 := s.dram.bad2.filter fun u => out (a / 8) (b / 8) u } }
/-- The key of a granule's owner (R351, R354). DESIGN CHOICE: notes/assumptions/81.md. -/
def State.dramKey (s : State) (pa : Nat) : List Byte :=
  match s.part (granOwnerOf s pa) with
  | some p => p.dramKey
  | none => s.sec.hostKey
/-- A line of DRAM as it stands encrypted in the device: one data unit of 64 bytes, whose number is PA[51:6] (R351). `dram` itself holds
what a slice reads and writes. -/
def State.dramCipher (s : State) (pa : Nat) : List Byte :=
  xtsEncrypt (s.dramKey pa) (nfld pa 6 46) (readBytes s.dram.bytes (pa / 64 * 64) 64)
/-- A granule goes to a new owner: zeros under its key. -/
def giveGranule (o : Nat) (s : State) (g : Nat) : State :=
  let s := zeroGranule s g
  { s with granOwner := tset 0 s.granOwner g (BitVec.ofNat 16 o) }
/-- A tile goes to a new owner: its store zero and full, its capability and handle tables clear, no fence of the old one round it. -/
def giveTile (s : State) (t : Nat) : State :=
  (unloadTile s t).modTile t fun x =>
    { x with store := {}, fenced := false, sch := { x.sch with halted := none, haltGrp := none } }
/-- A context goes to a new owner; its queue registers are the host's. DESIGN CHOICE: notes/assumptions/52.md. -/
def giveCtx (s : State) (c owner root prio : Nat) : State :=
  s.modCtx c fun k => { ({} : Ctx) with
    owner := owner, root := root, prio := prio, sqbase := k.sqbase, sqlog := k.sqlog, sqtail := k.sqtail, sqhead := k.sqhead
    cqbase := k.cqbase, cqlog := k.cqlog, cqhead := k.cqhead, cqWritten := k.cqWritten, cqWait := k.cqWait }
/-- Tiles of a partition that run a configuration. -/
def runsAny (s : State) (has : Nat → Bool) : Bool := s.cfgs.any fun c => c.tiles.any has
/-- PMEAS: the digest of the referee image (R345, R360). DESIGN CHOICE: notes/assumptions/83.md. -/
def partDigest (q : PartSpec) : List Byte := shake256 ((q.refCode.map fun w => toBytes 8 w.toNat).flatten) 32
/-- The partition that firmware specifies, with its DRAM key. -/
def newPart (q : PartSpec) (key : List Byte) (now ms : Nat) : Partition :=
  { owner := q.owner, x0 := q.x0, y0 := q.y0, x1 := q.x1, y1 := q.y1, refs := q.referees, pmeas := partDigest q, dramKey := key
    winStart := now, rejMs := ms }
/-- A specification that R342, R345 and, for its contexts' priorities, R276 allow beside the partitions there are. DESIGN CHOICE: notes/assumptions/52.md. -/
def partOk (s : State) (q : PartSpec) : Bool :=
  let p := newPart q [] 0 0
  s.sec.boot == 8 && decide (s.parts.length < 16) && decide (1 ≤ q.owner) && decide (q.owner ≤ 0xFFFE) && !(s.parts.any (·.owner == q.owner)) &&
  decide (q.x0 ≤ q.x1) && decide (q.x1 < 96) && decide (q.y0 ≤ q.y1) && decide (q.y1 < 96) && !(s.parts.any (rectsMeet · q)) &&
  decide (1 ≤ q.referees.length) && decide (q.referees.length ≤ 4) && q.referees.all p.has && !runsAny s p.has &&
  q.granules.all (fun g => decide (g < Config.dramBytes / 2 ^ 21) && granOwnerOf s (g * 2 ^ 21) == 0) &&
  q.contexts.all fun e => decide (e.1 < 256) && (s.ctx e.1).owner == 0 && decide (e.2.2 ≤ 7)
/-- A referee tile runs the referee image from its first word at power-on values of its registers (R345). DESIGN CHOICE: notes/assumptions/52.md. -/
def startReferee (q : PartSpec) (s : State) (t : Nat) : State :=
  s.modTile t fun x =>
    let code := (q.refCode.zipIdx).foldl (fun (m : Tbl Word) e => tset fillWord m e.2 e.1) []
    { x with code := code, regs := {}, csr := {}, sch := { x.sch with task := some { immediate := true } } }
/-- PARTITION_CREATE (R342-R345). DESIGN CHOICE: notes/assumptions/52.md. -/
def evPartitionCreate (q : PartSpec) (s : State) : Option State :=
  if !partOk s q then none
  else
    let (n, s) := s.takeFree
    let p := newPart q (Config.drbg n) s.now s.ms
    let s := p.raster.foldl giveTile s
    let s := q.granules.foldl (giveGranule q.owner) s
    let s := q.contexts.foldl (fun a e => giveCtx a e.1 q.owner e.2.1 e.2.2) s
    some (q.referees.foldl (startReferee q) { s with parts := s.parts ++ [p] })
/-- PARTITION_DESTROY (R344, R369): the configurations of a frozen partition, which run nothing, end with it. DEDUCED: notes/assumptions/53.md. -/
def evPartitionDestroy (o : Nat) (s : State) : Option State :=
  match s.part o with
  | none => none
  | some p =>
    if !p.frozen && runsAny s p.has then none
    else
      let mine := (s.cfgs.filter (·.owner == o)).map (·.sq)
      let s := mine.foldl (fun a sq => killCfg a sq stKilled) s
      let s : State := { s with
        cfgs := s.cfgs.filter (·.owner != o)
        taken := s.taken.filter fun t => !p.has t
        parts := s.parts.filter (·.owner != o)
        sec := { s.sec with quotes := s.sec.quotes.filter (·.owner != o) } }
      let s := p.raster.foldl giveTile s
      let grans := (s.granOwner.filter fun e => e.2.toNat == o).map (·.1)
      let s := grans.foldl (giveGranule 0) s
      let ctxs := (s.ctxs.filter fun e => e.2.owner == o).map (·.1)
      some (ctxs.foldl (fun a c => giveCtx a c 0 0 0) s)

/-! ## Signatures and quotes (R358, R359, R362) -/

/-- Exactly n bytes. -/
def fixLen (n : Nat) (l : List Byte) : List Byte := l.take n ++ List.replicate (n - l.length) 0
/-- The index of the next signature, with the bound moved up when the index reaches it; none where the island signs nothing (R359).
`fails`: a write of the bound to flash would fail. -/
def Sec.nextIndex (c : Sec) (fails : Bool) : Option Nat × Sec :=
  if !c.idOk || decide (2 ^ 40 ≤ c.xidx) then (none, c)
  else if c.xidx != c.flashF then (some c.xidx, { c with xidx := c.xidx + 1 })
  else if !c.flashOk || fails then (none, { c with flashOk := false })
  else (some c.xidx, { c with xidx := c.xidx + 1, flashF := c.flashF + 4096 })
/-- A signature with index i: its 5 bytes, highest first, then the free value (R358). PRESUMED: notes/assumptions/11.md. -/
def signWith (i : Nat) (m : List Byte) : List Byte := (toBytes 5 i).reverse ++ fixLen 9888 (Config.identitySign i m)
/-- A quote (R362) of owner o: its bytes, and the state after the signature. DESIGN CHOICE: notes/assumptions/11.md; DESIGN CHOICE: notes/assumptions/50.md. -/
def makeQuote (s : State) (o ctx : Nat) (cmeas report : List Byte) : List Byte × State :=
  let (k, s) := s.takeFree
  let (ix, c) := s.sec.nextIndex (Config.flashWriteFails k)
  let pmeas := ((s.part o).map (·.pmeas)).getD []
  let head := toBytes 8 (1 + quoteBytes * 2 ^ 32) ++ toBytes 8 c.serial.toNat ++ toBytes 8 (ix.getD (2 ^ 40 - 1)) ++
    toBytes 8 (o + ctx % 256 * 2 ^ 16) ++ toBytes 4 s.ms ++ List.replicate 28 0 ++ ((List.range 8).map c.measure).flatten ++
    fixLen 32 pmeas ++ fixLen 32 cmeas ++ fixLen 64 report
  let sig := match ix with
    | some i => signWith i head
    | none => List.replicate 9893 0
  (head ++ sig ++ List.replicate 27 0, { s with sec := c })
/-- Write a quote's granules in turn, each arriving on the hurdle (R233, R362). -/
def quoteGranules (q : Quote) : List (List Byte) → Nat → State → Except EngStop State
  | [], _, s => .ok s
  | b :: r, off, s =>
    match engWrite s q.tile none q.ctx (s.tile q.tile).csr.stkbase 0 (BitVec.ofNat 64 off) b with
    | .error e => .error e
    | .ok s => quoteGranules q r (off + b.length) (arrive s q.tile q.hd b.length true false)
/-- QUOTE_COMPLETE (R362): the oldest pending quote is signed and written. -/
def evQuoteComplete (s : State) : Option State :=
  match s.sec.quotes with
  | [] => none
  | q :: r =>
    let (bs, s) := makeQuote s q.owner q.ctx (((s.cfg q.cfg).map fun k => k.image.cmeas).getD []) q.report
    let s : State := { s with sec := { s.sec with quotes := r } }
    some (pendBy (match quoteGranules q (chunks 64 162 bs) q.dst s with
      | .ok s => s
      | .error _ => s) q.tile q.hd false false)

/-! ## Sessions (R357) -/

/-- SESSION_NONCE: a fresh key pair; the encapsulation key and an identity quote are returned. DESIGN CHOICE: notes/assumptions/11.md. -/
def evSessionNonce (o : Nat) (nt : List Byte) (s : State) : Option State :=
  if (s.part o).isNone || nt.length != 32 || s.sec.boot != 8 then none
  else
    let (n, s) := s.takeFree
    let ek := Config.encapKey n
    let (quote, s) := makeQuote s o 0 [] (shake256 (ek ++ nt) 64)
    let s := s.modPart o fun p => { p with hs := some (nt, n) }
    some { s with hostOut := s.hostOut ++ [.session o ek quote] }
/-- SESSION_CIPHERTEXT: the session key is set; the decapsulation key is gone. DESIGN CHOICE: notes/assumptions/11.md. -/
def evSessionCiphertext (o : Nat) (ct : List Byte) (s : State) : Option State :=
  match (s.part o).bind (·.hs) with
  | none => none
  | some (nt, n) =>
    if ct.length != 1568 then none
    else
      let key := shake256 (ascii "SHAGAN SESSION" ++ Config.sharedSecret n ct ++ nt ++ shake256 (Config.encapKey n) 32) 32
      some (s.modPart o fun p => { p with sess := some key, hs := none })

/-! ## The alarm (R367-R369) -/

/-- A source's level in ALARMPOL. -/
def alarmLevel (pol : Word) (a : AlarmSource) : Nat :=
  nfld pol.toNat (match a with | .lid => 10 | .glitch => 8 | .osc => 6 | .temp => 4 | .debug => 2 | .rej => 0) 2
/-- The partitions a source affects. -/
def alarmParts (s : State) (a : AlarmSource) (at_ : Nat) : List Nat :=
  let all := s.parts.map (·.owner)
  let field : List Nat := (s.parts.filter fun p => (fieldTiles at_).any p.has).map (·.owner)
  match a with
  | .lid => all
  | .glitch => field
  | .osc => (s.parts.filter (·.has at_)).map (·.owner)
  | .temp => field
  | .debug => if all.contains at_ then [at_] else all
  | .rej => all.filter (· == at_)
/-- Freeze a partition (R369): its tiles halt, its pending quotes are discarded. DEDUCED: notes/assumptions/54.md. -/
def freeze (s : State) (o : Nat) : State :=
  match s.part o with
  | none => s
  | some p =>
    let s := s.modPart o fun p => { p with frozen := true }
    let s := p.raster.foldl (fun (a : State) t => if (a.tile t).sch.halted.isSome then a
      else a.modTile t fun x => { x with sch := { x.sch with halted := some .frozen } }) s
    { s with sec := { s.sec with quotes := s.sec.quotes.filter (·.owner != o) } }
/-- Erase every key register of R354. DEDUCED: notes/assumptions/12.md. -/
def eraseKeys (s : State) : State :=
  { s with
    parts := s.parts.map fun p => { p with sess := none, hs := none, dramKey := [] }
    links := s.links.map fun (e : Nat × LinkPort) => (e.1, { e.2 with st := 0, keyOut := [], keyIn := [] })
    sec := { s.sec with erased := true, idOk := false, ide := false, ideKey := [], hostKey := [] } }
/-- A source's number in a violation record: its place in the table of R367. DEDUCED: notes/assumptions/47.md. -/
def alarmNumber (a : AlarmSource) : Nat := match a with | .lid => 0 | .glitch => 1 | .osc => 2 | .temp => 3 | .debug => 4 | .rej => 5
/-- A source fires: its level, with every lower one. DESIGN CHOICE: notes/assumptions/47.md; DEDUCED: notes/assumptions/55.md. -/
def fireAlarm (s : State) (a : AlarmSource) (at_ : Nat) : State :=
  let lv := alarmLevel s.sec.alarmpol a
  let (i, s) := s.takeFree
  let g (k : Nat) : Nat := Config.recordField (6 * i + k)
  let count : Nat := match alarmParts s a at_ with
    | [o] => s.rejectsNow o
    | _ => g 5 % 2 ^ 32
  let s := logViolation s ⟨s.ms, 6, alarmNumber a, g 0 % 65536, g 1 % 65536, g 2 % 65536, g 3 % 65536, BitVec.ofNat 64 (g 4), count⟩
  let s : State := { s with mgmt := s.mgmt ++ [.alert a] }
  let s := if 1 ≤ lv then (alarmParts s a at_).foldl freeze s else s
  let s := if 2 ≤ lv then eraseKeys ((s.parts.map (·.owner)).foldl freeze s) else s
  if 3 ≤ lv then { s with sec := { s.sec with held := true } } else s
/-- Whether what the state shows lets a source fire; the lid, a rail's glitch, a ring's frequency and a failed debug request
are the outside's. The owner-rejection source fires once for the millisecond of its count (R348). DEDUCED: notes/assumptions/55.md. -/
def alarmDue (s : State) (a : AlarmSource) (at_ : Nat) : Bool :=
  match a with
  | .lid => true
  | .glitch => decide (at_ < Config.numFields)
  | .osc => decide (at_ < Config.numTiles)
  | .temp => decide (at_ < Config.numFields) &&
      ((fieldTiles at_).any (fun t => !(s.tile t).sens.tBad && ((latest s .temp t).map fun v => decide (2000 < v)).getD false) ||
        ((s.field at_).hotSince.map fun t => decide (t + 1000000 ≤ s.now)).getD false)
  | .debug => true
  | .rej => ((s.part at_).map fun p => !p.rejFired && decide (nfld s.sec.alarmpol.toNat 16 16 < p.rejects)).getD false
/-- ALARM (R367). DEDUCED: notes/assumptions/55.md. -/
def evAlarm (a : AlarmSource) (at_ : Nat) (s : State) : Option State :=
  if !alarmDue s a at_ then none
  else
    let s := if a = .rej then s.modPart at_ fun p => { p with rejFired := true } else s
    some (fireAlarm s a at_)
/-- UNFREEZE (R369): the command's tag verifies under the partition's session key. DEDUCED: notes/assumptions/54.md; DESIGN CHOICE: notes/assumptions/56.md. -/
def evUnfreeze (o : Nat) (tag : List Byte) (s : State) : Option State :=
  match s.part o with
  | none => none
  | some p => match p.sess with
    | none => none
    | some key =>
      if !p.frozen || tag != kmac256 key (Config.unfreezeMessage o) Config.unfreezeLength Config.unfreezeCustom then none
      else
        let s := s.modPart o fun p => { p with frozen := false }
        some (p.raster.foldl (fun (a : State) t => if (a.tile t).sch.halted = some .frozen then
          a.modTile t fun x => { x with sch := { x.sch with halted := none } } else a) s)
/-- DEBUG_UNLOCK (R360, R367): an accepted unlock extends MEAS5, a failed one is the DEBUG source. DEDUCED: notes/assumptions/51.md. -/
def evDebugUnlock (ok : Bool) (o : Nat) (digest : List Byte) (s : State) : Option State :=
  some (if ok then { s with sec := { s.sec.extend 5 digest with debug := true } } else fireAlarm s .debug o)

/-! ## Links (R352, R353, R397, R422) -/

/-- Number of replica ports (R422). -/
def numPorts : Nat := 4
def State.modLink (s : State) (p : Nat) (f : LinkPort → LinkPort) : State := { s with links := tput s.links p (f (tget {} s.links p)) }
/-- The identity quote of the module at the other end authenticates it (R353, R363): made for no context or configuration, under the
same ROM, with a certificate of its identity key under the root key and a signature under that key. A certificate is a public key and
its signature. DEDUCED: notes/assumptions/57.md. -/
def peerOk (c : Sec) (quote cert : List Byte) : Bool :=
  let part (a n : Nat) : List Byte := (quote.drop a).take n
  quote.length == quoteBytes && (quote.drop 0x1A).headD 1 == 0 && part 0x160 32 == List.replicate 32 0 && part 0x40 32 == c.measure 0 &&
    Config.signatureValid Config.rootKey (cert.take 64) (cert.drop 64) &&
    Config.signatureValid (cert.take 64) (quote.take 0x1C0) (part 0x1C0 9893)
/-- LINK_TRAINING (R353, R422): a port that is not up trains, and sends the island's identity quote; a training port comes up with new
keys once the other end's quote has authenticated it and the island's own was signed. DEDUCED: notes/assumptions/57.md. The start of
the port after the last stands for a reset of the host link, which ends its IDE keys (R354). DESIGN CHOICE: notes/assumptions/107.md. -/
def evLinkTraining (p : Nat) (up : Training) (s : State) : Option State :=
  let y : LinkPort := tget {} s.links p
  if s.sec.boot != 8 || decide (numPorts < p) then none
  else if p = numPorts then (if up = .start then some { s with sec := { s.sec with ide := false, ideKey := [] } } else none)
  else match up with
  | .start =>
    if y.st = 2 || y.st = 1 then none
    else
      let (k, s) := s.takeFree
      let (mine, s) := makeQuote s 0 0 [] (Config.linkReport k)
      some (s.modLink p fun y => { y with st := 1, fails := 0, quote := mine })
  | .peer quote cert =>
    if y.st != 1 || (y.quote.drop 0x10).take 5 == List.replicate 5 0xFF || !peerOk s.sec quote cert then none
    else
      let (k, s) := s.takeFree
      some (s.modLink p fun y => { y.rekey (Config.linkSecret k) with st := 2, fails := 0 })
/-- The IV of a frame: 32 bits of port and direction, 0 out and 1 in, then 64 bits of frame counter (R353). DESIGN CHOICE:
notes/assumptions/57.md. -/
def linkIv (p dir n : Nat) : List Byte := toBytes 4 (2 * p + dir) ++ toBytes 8 n
/-- A frame of sixteen flits as the port sends it next: ciphertext and tag (R353). -/
def LinkPort.seal (y : LinkPort) (p : Nat) (flits : List Byte) : List Byte × List Byte := gcmSeal y.keyOut (linkIv p 0 y.frames) [] flits
/-- The tag that the frame received next must carry. -/
def LinkPort.tagIn (y : LinkPort) (p : Nat) (frame : List Byte) : List Byte := gcmTag (aesKeys y.keyIn) (linkIv p 1 y.framesIn) [] frame
/-- The groups that span modules stop (R397). -/
def spanning (s : State) : List Nat := (List.range 16).filter fun g =>
  grpValid (tget 0 s.coll.grp g) && decide (1 < grpNr (tget 0 s.coll.grp g))
/-- LINK_TAG_FAILURE (R353, R397): a frame whose tag fails is sent again; the sixteenth failure in a row takes the port down, and its
keys end. DEDUCED: notes/assumptions/57.md. -/
def evLinkTagFailure (x : BadFrame) (s : State) : Option State :=
  let p := x.port
  let y : LinkPort := tget {} s.links p
  if numPorts ≤ p || y.st != 2 || !(x.tag.length != 16 || x.tag != y.tagIn p x.frame) then none
  else if y.fails + 1 < 16 then
    let (y, s) := linkRoom 1 s p
    some { s with links := tput s.links p { y with fails := y.fails + 1, framesIn := y.framesIn + 1 } }
  else
    let s := s.modLink p fun y => { y with st := 3, fails := 16, frames := 0, framesIn := 0, keyOut := [], keyIn := [] }
    let s := s.parts.foldl (fun a q => event a q.owner 0x0B 0 0xFFFF 0 0xFFFF (BitVec.ofNat 64 p) 0) s
    some { s with coll := { s.coll with stopped := s.coll.stopped ++ (spanning s).filter fun g => !s.coll.stopped.contains g } }
/-- LINK_REKEY (R353). DEDUCED: notes/assumptions/57.md. -/
def evLinkRekey (p : Nat) (s : State) : Option State :=
  if numPorts ≤ p || (tget {} s.links p : LinkPort).st != 2 then none
  else
    let (k, s) := s.takeFree
    some (s.modLink p (·.rekey (Config.linkSecret k)))
/-- IDE_KEY_EXCHANGE (R352): the host link's AES-GCM keys of 256 bits, one after another, from the SPDM session. DESIGN CHOICE:
notes/assumptions/57.md. -/
def evIdeKeyExchange (s : State) : Option State :=
  if s.sec.boot != 8 then none
  else
    let (k, s) := s.takeFree
    some { s with sec := { s.sec with ide := true, ideKey := Config.ideSecret k } }

/-- POWER_ON (R423). -/
def execPowerOn (b : BootInput) (s : State) := occur (evPowerOn b) s
/-- POWER_LOSS (R354). -/
def execPowerLoss (retention : Bool) (s : State) := occur (evPowerLoss retention) s
/-- PARTITION_CREATE (R344). -/
def execPartitionCreate (p : PartSpec) (s : State) := occur (evPartitionCreate p) s
/-- PARTITION_DESTROY (R344). -/
def execPartitionDestroy (o : Nat) (s : State) := occur (evPartitionDestroy o) s
/-- QUOTE_COMPLETE (R362). -/
def execQuoteComplete (s : State) := occur evQuoteComplete s
/-- SESSION_NONCE (R357). -/
def execSessionNonce (o : Nat) (nt : List Byte) (s : State) := occur (evSessionNonce o nt) s
/-- SESSION_CIPHERTEXT (R357). -/
def execSessionCiphertext (o : Nat) (ct : List Byte) (s : State) := occur (evSessionCiphertext o ct) s
/-- ALARM (R367). -/
def execAlarm (src : AlarmSource) (at_ : Nat) (s : State) := occur (evAlarm src at_) s
/-- UNFREEZE (R369). -/
def execUnfreeze (o : Nat) (tag : List Byte) (s : State) := occur (evUnfreeze o tag) s
/-- DEBUG_UNLOCK (R360). -/
def execDebugUnlock (ok : Bool) (o : Nat) (digest : List Byte) (s : State) := occur (evDebugUnlock ok o digest) s
/-- LINK_TRAINING (R422). -/
def execLinkTraining (p : Nat) (up : Training) (s : State) := occur (evLinkTraining p up) s
/-- LINK_TAG_FAILURE (R353). -/
def execLinkTagFailure (p : BadFrame) (s : State) := occur (evLinkTagFailure p) s
/-- LINK_REKEY (R353). -/
def execLinkRekey (p : Nat) (s : State) := occur (evLinkRekey p) s
/-- IDE_KEY_EXCHANGE (R352). -/
def execIdeKeyExchange (s : State) := occur evIdeKeyExchange s

end Sys2Proof.Machine
end

