-- ==== Sys2Proof/Machine/EvHost.lean ====
section
/-! DEFINITION. The host and the management port: CXL.mem (R350, R415), register writes (R4, R402, R416, R420, R421), management
(R422, R424). -/

namespace Sys2Proof.Machine

/-- HOST_CXL_MEM_ACCESS (R350, R352): a read of a line, or a write of bytes within one. The window is the granules of owner
0x0000; elsewhere a read gives ones with poison and a write is discarded, with a KIND 4 record. A line that cannot be
corrected is returned with poison. DEDUCED: notes/assumptions/60.md. -/
def evHostCxlMemAccess (pa : Nat) (data : List Byte) (wr : Bool) (s : State) : Option State :=
  let line := pa / 64 * 64
  let reply (bs : List Byte) (poison : Bool) (s : State) : State := { s with hostOut := s.hostOut ++ [.cxl bs poison] }
  if !s.sec.ide || decide (Config.dramBytes ≤ pa) || (wr && (data.isEmpty || decide (line + 64 < pa + data.length))) then none
  else
    let o := granOwnerOf s pa
    if o != 0 then
      let n := s.rejectsNow o
      let (i, s) := s.takeFree
      let s := logViolation s ⟨s.ms, 4, Config.recordField i % 256, 0xFFFF, o, 0xFFFF, 0x8000 + sliceOfPa pa, BitVec.ofNat 64 pa, n⟩
      some (if wr then s else reply (List.replicate 64 0xFF) true s)
    else if wr then
      match homeWrite s (.dram pa) data with
      | .ok s => some s
      | .error _ => some s
    else match homeRead s (.dram line) 64 with
      | .ok (bs, s) => some (reply bs false s)
      | .error _ => some (reply (readBytes s.dram.bytes line 64) true s)

/-- Bytes of completion records written to the ring once the host has made room (R420). -/
def cqFlushCtx (s : State) (c : Nat) : State := cqFlush c (s.ctx c).cqWait s
/-- A write of a context's queue register (R416). DEDUCED: notes/assumptions/58.md. -/
def queueWrite (s : State) (c off : Nat) (v : Word) : State :=
  match off with
  | 0x00 => s.modCtx c fun k => { k with sqbase := v }
  | 0x08 => s.modCtx c fun k => { k with sqlog := keep 0x1F v }
  | 0x10 => (evSqtailDoorbell c (v.setWidth 16) s).getD s
  | 0x20 => s.modCtx c fun k => { k with cqbase := v }
  | 0x28 => cqFlushCtx (s.modCtx c fun k => { k with cqlog := keep 0x1F v }) c
  | 0x30 => cqFlushCtx (s.modCtx c fun k => { k with cqhead := keep 0xFFFF v }) c
  | _ => s
/-- A write of a telemetry ring register (R421). DEDUCED: notes/assumptions/58.md. -/
def telemetryWrite (s : State) (off : Nat) (v : Word) : State :=
  match off with
  | 0x00 => { s with tm := { s.tm with base := v } }
  | 0x08 => { s with tm := { s.tm with log := v } }
  | 0x18 => { s with tm := { s.tm with tail := v } }
  | _ => s
/-- CSR_WRITE (R4, R402): a CSR of a tile, of a partition or of a field by its level, a rail's setpoint by device firmware (R319), or a
BAR0 register of the host, which needs IDE (R352). DEDUCED: notes/assumptions/58.md. -/
def evCsrWrite (r : RegName) (v : Word) (s : State) : Option State :=
  match r with
  | .csr n i => match csrLevel n with
    | some .user => if i < Config.numTiles then some (s.modTile i fun x => x.csrWrite n .write v) else none
    | some .ref => if (s.part i).isSome then some (refWrite s i n .write v) else none
    | some .refRo => some (if n = 0x182 then watchLimit (fieldWrite s i n v) i else fieldWrite s i n v)
    | _ => none
  | .queueReg c off => if s.sec.ide && decide (c < 256) then some (queueWrite s c off v) else none
  | .telemetry off => if s.sec.ide then some (telemetryWrite s off v) else none
  | .rail n => if n ≤ Config.numFields + 8 then some (railWrite s n (v.toNat % 65536)) else none
/-- SAVEBASE_WRITE (R387, R390). -/
def evSavebaseWrite (c : Nat) (v : Word) (s : State) : Option State := if c < 256 then some (writeSavebase s c v) else none
/-- REDCTL_WRITE (R393). -/
def evRedctlWrite (c : Nat) (v : Word) (s : State) : Option State := if c < 256 then some (writeRedctl s c v) else none
/-- CQHEAD_WRITE (R416, R420). -/
def evCqheadWrite (c : Nat) (v : BitVec 16) (s : State) : Option State := evCsrWrite (.queueReg c 0x30) (v.setWidth 64) s
/-- TMTAIL_WRITE (R421). -/
def evTmtailWrite (v : Word) (s : State) : Option State := evCsrWrite (.telemetry 0x18) v s

/-- MGMT_ASSIGN_GROUP (R422). DEDUCED: notes/assumptions/59.md. -/
def evMgmtAssignGroup (n : Nat) (v : Word) (s : State) : Option State :=
  if n < 16 then some { s with coll := { s.coll with assigned := tset 0 s.coll.assigned n (cgrpStore v) } } else none
/-- MGMT_READ_STOPWATCH (R331, R424): each field's latest record. -/
def evMgmtReadStopwatch (s : State) : Option State :=
  let rs := ((List.range Config.numFields).map fun f => (s.field f).swLast).filter fun r => !r.isEmpty
  some { s with mgmt := s.mgmt ++ rs.map .stopwatch }
/-- The 32 bytes of a violation record (R349). -/
def VRec.bytes (r : VRec) : List Byte :=
  toBytes 4 r.ms ++ toBytes 1 r.kind ++ toBytes 1 r.cls ++ toBytes 2 r.sown ++ toBytes 2 r.down ++ toBytes 2 r.stile ++ toBytes 2 r.dtile ++
    toBytes 2 0 ++ toBytes 8 r.addr.toNat ++ toBytes 4 r.count ++ toBytes 4 0
/-- MGMT_READ_SECURITY_LOG (R349, R424). -/
def evMgmtReadSecurityLog (s : State) : Option State := some { s with mgmt := s.mgmt ++ [.seclog (s.sec.log.map VRec.bytes)] }
/-- MGMT_READ_LINKST (R422, R424): LINKST and the bring-up status. -/
def evMgmtReadLinkst (s : State) : Option State := some { s with mgmt := s.mgmt ++ [.linkst (s.linkst.setWidth 8) s.sec.boot] }

/-- HOST_CXL_MEM_ACCESS (R350). -/
def execHostCxlMemAccess (pa : Nat) (data : List Byte) (wr : Bool) (s : State) := occur (evHostCxlMemAccess pa data wr) s
/-- CSR_WRITE (R402). -/
def execCsrWrite (r : RegName) (v : Word) (s : State) := occur (evCsrWrite r v) s
/-- SAVEBASE_WRITE (R390). -/
def execSavebaseWrite (ctx : Nat) (v : Word) (s : State) := occur (evSavebaseWrite ctx v) s
/-- REDCTL_WRITE (R393). -/
def execRedctlWrite (ctx : Nat) (v : Word) (s : State) := occur (evRedctlWrite ctx v) s
/-- CQHEAD_WRITE (R420). -/
def execCqheadWrite (ctx : Nat) (v : BitVec 16) (s : State) := occur (evCqheadWrite ctx v) s
/-- TMTAIL_WRITE (R421). -/
def execTmtailWrite (v : Word) (s : State) := occur (evTmtailWrite v) s
/-- MGMT_ASSIGN_GROUP (R422). -/
def execMgmtAssignGroup (n : Nat) (v : Word) (s : State) := occur (evMgmtAssignGroup n v) s
/-- MGMT_READ_STOPWATCH (R424). -/
def execMgmtReadStopwatch (s : State) := occur evMgmtReadStopwatch s
/-- MGMT_READ_SECURITY_LOG (R424). -/
def execMgmtReadSecurityLog (s : State) := occur evMgmtReadSecurityLog s
/-- MGMT_READ_LINKST (R424). -/
def execMgmtReadLinkst (s : State) := occur evMgmtReadLinkst s

end Sys2Proof.Machine
end

