-- ==== Sys2Proof/Machine/Agenda.lean ====
section
/-! DEFINITION. Which turn comes: the head of the agenda; when the agenda is empty, work of the current tile that is due, then of
the module, then the next tile's own turn. The manual leaves this order open (R5, R199); notes/assumptions/1.md. -/

namespace Sys2Proof.Machine

/-- The first event of a tile that is due and needs nothing from outside, having occurred. DESIGN CHOICE: notes/assumptions/1.md. -/
def tileWork (s : State) (t : Nat) : Option State :=
  let x := s.tile t
  let f := fieldOf t
  let pends := (List.range x.pend.length).map fun n => (evLongLatencyFill t n s).or (evLdsWake t n s)
  let back := (List.range (x.net.length + x.ldsAccs.length)).map fun n =>
    (evRejectReply t n s).or <| (evDeadReturn t (n + 17) s).or (evDueErrorReply t n s)
  let dead := (List.range 17).map fun n => evDeadReturn t n s
  let units := (List.range ((netUnits x).length + (chainUnits s t).length)).map fun n => evPerformAtHome t n s
  let accs := (List.range x.net.length).map fun n =>
    (evAtomicAtHome t n s).or <| (evRedArrival t n s).or <|
    (evChainArrival t n s).or (evChainRetry t n s)
  let ports := x.eng.ports.map fun e => evStreamElement t e.1 s
  let reads := (List.range x.eng.dreqs.length).map fun n => evDreqReply t n s
  let faults := (List.range 8).map fun e => evEngineFault t e s
  let queues := x.outq.map fun e => evTokenArrival t e.1 s
  let rest := [evRemoteCommandArrival t s, evEngineGranuleWrite t s,
    evChainConfirmation t s, evChainCancellation t s, evPatchCommand t s,
    evRunComplete t s, evPacerStop f s, evPacerGrant f s,
    evWakeAdmit f s, evPowerGate t s, evRecordArrival t s,
    evTdecArrival t s, evLaunchRecord t s, evWfeTimeout t s,
    evDrainTimeout t s, evActorClose t s, evFiring t s,
    evTaskStart t s]
  (pends ++ back ++ dead ++ units ++ accs ++ ports ++ reads ++ faults ++ queues ++ rest).findSome? id
/-- The first event of the module that is due and needs nothing from outside, having occurred. DESIGN CHOICE: notes/assumptions/1.md. -/
def moduleWork (s : State) : Option State :=
  let cfgs := s.cfgs.map fun c => (evStageTimeout c.sq s).or <|
    (evConfigStart c.sq s).or (evEndNotice c.sq s)
  let packets := s.ctxs.map fun e => evLaunchPacket e.1 s
  let seq := if s.seqQ.isEmpty && s.tick % 16 != 0 then none else evSequencedMessage s
  (cfgs ++ packets ++ [seq]).findSome? id
/-- The tile after the current one, in rising order and round again. DESIGN CHOICE: notes/assumptions/1.md. -/
def nextTile (s : State) : Nat :=
  let ts := s.tiles.map (·.1)
  match ts.find? fun t => decide (s.cur < t) with
  | some t => t
  | none => ts.headD s.cur
/-- What happens when the agenda is empty. DESIGN CHOICE: notes/assumptions/1.md. -/
def autoDeed (s : State) : Deed :=
  match (tileWork s s.cur).or (moduleWork s) with
  | some s' => .done s'
  | none => tileTurn s (nextTile s)

/-- The next deed: the head of the agenda, else the current tile's own turn. A module held in reset, or whose keys are
erased, accepts only power-on (R369, R423); an alarm source that has met its condition fires first (R367). DESIGN CHOICE: notes/assumptions/1.md; DEDUCED: notes/assumptions/12.md. -/
def nextDeed (s0 : State) : Deed :=
  let s := passTime s0
  match s.agenda with
  | .ev (.powerOn b) :: r => .run (.powerOn b) { s with agenda := r }
  | a =>
    if s.sec.held then .dead
    else if s.sec.erased then .done { s with agenda := a.drop 1 }
    else match s.sec.due with
      | (src, at_) :: r => .done (let s := { s with sec := { s.sec with due := r } }; (evAlarm src at_ s).getD s)
      | [] => match a with
      | .ev i :: r => .run i { s with agenda := r }
      | .tile t :: r => tileTurn { s with agenda := r } t
      | [] => autoDeed s

end Sys2Proof.Machine
end

