-- ==== Sys2Proof/Machine/LaneOps.lean ====
section
/-! DEFINITION. The meanings of group 2: permutes, reductions, predicates, packing, MX blocks, dot products and wide
accumulators (R116-R128). -/

namespace Sys2Proof.Machine

/-- Elements a vector of a type's width holds. -/
def elemCount (ty : BitVec 4) : Nat := 512 / tyWidth ty
/-- The vector with elements of width w. -/
def vecOf (w : Nat) (l : List Nat) : Vec := BitVec.ofNat 512 (ofElems w l)
/-- The elements of A of a type. -/
def elemsA (f : FA) (ty : BitVec 4) : M (List Nat) := readElems ty (elemCount ty) f.a

/-! ## Permutes and lane moves (R117, R118) -/

/-- A move of elements under the mask: `g` gives destination element j from A, B and C. -/
def permM (f : FA) (vecB useC : Bool) (g : Nat → List Nat → List Nat → List Nat → Nat → Nat) : M Go := whenLanes f.p fun m => do
  dstReady false f.dst.toNat m
  let n := elemCount f.ty
  let a ← elemsA f f.ty
  let b ← if vecB then readElems (intTy f.ty) n f.b else (do let x ← readElem (intTy f.ty) f.b; pure [x])
  let c ← if useC then readElems f.ty n f.c else pure []
  writeV f.dst.toNat m (vecOf (tyWidth f.ty) ((List.range n).map (g n a b c)))
  pure .on

/-- The lanes that a selector picks, in increasing order. -/
def picked (sel : Nat) : List Nat := (List.range 16).filter (nbit sel)
/-- vcmpr (R118). -/
def compress (a : List Nat) (sel : Nat) : List Nat :=
  let l := (picked sel).map (el a)
  l ++ List.replicate (16 - l.length) 0
/-- vxpd (R118). -/
def expand (a : List Nat) (sel : Nat) : List Nat :=
  (List.range 16).map fun i => if nbit sel i then el a (picked (sel % 2 ^ i)).length else 0
/-- The lane moves under a selector. -/
def laneMoveM (f : FA) (g : List Nat → Nat → List Nat) : M Go := whenLanes f.p fun m => do
  dstReady false f.dst.toNat m
  let a ← elemsA f 0
  let b ← readElem 0 f.b
  writeV f.dst.toNat m (vecOf 32 (g a (b % 65536)))
  pure .on
/-- vlane (R118). -/
def vlaneM (f : FA) : M Go :=
  if f.dk then whenBit0 f.p do
    dstReady true f.dst.toNat
    let a ← elemsA f 0
    let b ← readElem 0 f.b
    writeG f.dst.toNat (widen f.ty (el a (b % 16)))
    pure .on
  else whenLanes f.p fun m => do
    dstReady false f.dst.toNat m
    let a ← elemsA f 0
    let b ← readElem 0 f.b
    let c ← readElem f.ty f.c
    writeV f.dst.toNat m (vecOf 32 (a.set (b % 16) c))
    pure .on

/-! ## Reductions (R119-R121) -/

/-- A reduction's value: a float's code or an integer, with flags. -/
structure Acc1 where
  v : Int
  fl : Flags := 0
deriving DecidableEq, Repr

/-- Combine of R119: op 0 sum, 1 maximum, 2 minimum. Integers are exact; a float sum rounds without saturation. DESIGN CHOICE: notes/assumptions/113.md. -/
def combine (f : FA) (op : Nat) (rm : Rm) (x y : Int) : Acc1 :=
  match fmtOf f.ty 0 with
  | some g =>
    let a := decodeVal g x.toNat
    let b := decodeVal g y.toNat
    let r := if op = 0 then addVal g rm false false a b else minmaxVal g (op == 2) false a b x.toNat y.toNat
    ⟨r.code, r.fl⟩
  | none => if op = 0 then ⟨x + y, 0⟩ else if op = 1 then ⟨max x y, 0⟩ else ⟨min x y, 0⟩
/-- An element's value in a reduction. -/
def redElem (f : FA) (x : Nat) : Int := if tySigned f.ty then toSigned (tyWidth f.ty) x else (x : Int)
/-- A value of a reduction that no Combine has made: a signalling NaN is quieted and raises NV (R86, R94). DEDUCED: notes/assumptions/87.md. -/
def lone (f : FA) (x : Int) : Acc1 :=
  match (fmtOf f.ty 0).bind fun g => nanResult g [decodeVal g x.toNat] with
  | some r => ⟨r.code, r.fl⟩
  | none => ⟨x, 0⟩
/-- One level of the tree (R119): node (L, j) draws idx 128·L + j. -/
def treeLevel (g : Nat → Int → Int → Acc1) (lvl : Nat) : Nat → List (Option Int) → List (Option Int) × Flags
  | j, x :: y :: r =>
    let (t, fl) := treeLevel g lvl (j + 1) r
    match x, y with
    | some a, some b =>
      let c := g (128 * lvl + j) a b
      (some c.v :: t, c.fl ||| fl)
    | none, b => (b :: t, fl)
    | a, none => (a :: t, fl)
  | _, r => (r, 0)
/-- The tree from level `lvl` up. -/
def treeRed (g : Nat → Int → Int → Acc1) : Nat → Nat → List (Option Int) → Option Int × Flags
  | 0, _, l => (l.headD none, 0)
  | n + 1, lvl, l =>
    let (l1, f1) := treeLevel g lvl 0 l
    let (r, f2) := treeRed g n (lvl + 1) l1
    (r, f1 ||| f2)

/-- The lane of element j of width w. -/
def laneOf (w j : Nat) : Nat := w * j / 32
/-- A reduction writes its result to g, or to element 0 of v with zeros above (R119); an FPTRAP names lane 0 (R83). DEDUCED:
notes/assumptions/30.md. -/
def finishRed (f : FA) (r : Res) : M Go :=
  if f.dk then finishG true f.dst (widen f.ty r.code) r.fl
  else finishV true f.dst 0xFFFF (BitVec.ofNat 512 (r.code % 2 ^ tyWidth f.ty)) r.fl 1

/-- vred (R119). -/
def vredM (f : FA) : M Go := whenLanes f.p fun m => do
  dstReady f.dk f.dst.toNat
  let a ← elemsA f f.ty
  if (fmtOf f.ty 0).isSome && f.m == 0 then needMode
  let c := (← getT).csr
  let w := tyWidth f.ty
  let leaves := a.zipIdx.map fun e => if nbit m.toNat (laneOf w e.2) then some (redElem f e.1) else none
  let (r, fl) := treeRed (fun idx => combine f f.m.toNat (rmOf c f.dk f.dst idx)) (elemCount f.ty).log2 1 leaves
  let v := r.getD 0
  finishRed f (if (fmtOf f.ty 0).isSome then ⟨(lone f v).v.toNat, (lone f v).fl ||| fl⟩
    else if f.m = 0 then fitInt w (tySigned f.ty) f.sat v else ⟨wrapN w v, 0⟩)

/-- The exact sum of values rounded once, without saturation (R121). DESIGN CHOICE: notes/assumptions/113.md. -/
def exactSum (g : Fmt) (rm : Rm) (vs : List Val) : Res :=
  match nanResult g vs with
  | some r => r
  | none =>
    if vs.any (fun v => v.isInf && v.sign) && vs.any (fun v => v.isInf && !v.sign) then invalid g
    else match vs.find? Val.isInf with
      | some v => encodeVal g rm false v
      | none =>
        let t : Int := (vs.map fun v => match v with | .fin d => d.toInt (-149) | _ => (0 : Int)).sum
        if t = 0 then ⟨0, 0⟩ else roundTo g rm false ⟨decide (t < 0), t.natAbs, -149⟩
/-- The values of the enabled elements. -/
def enabledVals (m : BitVec 16) (w : Nat) (g : Fmt) (a : List Nat) : List Val :=
  (a.zipIdx.filter fun e => nbit m.toNat (laneOf w e.2)).map fun e => decodeVal g e.1
/-- vredx (R121). -/
def vredxM (f : FA) : M Go := whenLanes f.p fun m => do
  dstReady f.dk f.dst.toNat
  let a ← elemsA f f.ty
  needMode
  let c := (← getT).csr
  finishRed f (exactSum (fOf f) (rmOf c f.dk f.dst 0) (enabledVals m (tyWidth f.ty) (fOf f) a))

/-- vscan's operation as one of Combine (R120). -/
def scanOp (f : FA) : Nat := if f.m.toNat < 2 then 0 else f.m.toNat - 1
/-- vscan over elements from j up with the running value (R120): the first enabled element starts it as it is, and is written, by an
exclusive sum at the next one, as a value that no Combine has made. -/
def scanElems (f : FA) (c : Csrs) (m : BitVec 16) : Nat → Option Int → List Nat → Elems
  | _, _, [] => {}
  | j, run, x :: r =>
    let w := tyWidth f.ty
    let lane := laneOf w j
    if nbit m.toNat lane then
      let y := redElem f x
      let step : Acc1 := match run with
        | none => lone f y
        | some z =>
          let q := combine f (scanOp f) (rmOf c false f.dst j) z y
          if (fmtOf f.ty 0).isSome then q
          else
            let k := fitInt w (tySigned f.ty) f.sat q.v
            ⟨redElem f k.code, k.fl⟩
      let rest := scanElems f c m (j + 1) (some (if run.isNone then y else step.v)) r
      let out : Int := if f.m = 1 then (run.map fun z => (lone f z).v).getD 0 else step.v
      { codes := wrapN w out :: rest.codes, fl := step.fl ||| rest.fl,
        lanes := if step.fl &&& c.enabled = 0 then rest.lanes else rest.lanes ||| (1#16 <<< lane) }
    else
      let rest := scanElems f c m (j + 1) run r
      { rest with codes := 0 :: rest.codes }
/-- vscan (R120). -/
def vscanM (f : FA) : M Go := whenLanes f.p fun m => do
  dstReady false f.dst.toNat m
  let a ← elemsA f f.ty
  if (fmtOf f.ty 0).isSome && f.m.toNat < 2 then needMode
  let e := scanElems f (← getT).csr m 0 none a
  finishV true f.dst m (vecOf (tyWidth f.ty) e.codes) e.fl e.lanes

/-! ## Predicates (R122, R123) -/

/-- A predicate source: a predicate, a constant's low bits, or a literal sign-extended (R122). -/
def readPred (a : Src) : M (BitVec 16) := do
  match a with
  | .g i _ => readK i.toNat
  | .c i => return (← readC i.toNat).setWidth 16
  | .lit c => return c.signExtend 16
  | .v _ _ => illop
/-- An operation on predicates. -/
def kopM (f : FA) (two : Bool) (g : BitVec 16 → BitVec 16 → BitVec 16) : M Go := whenBit0 f.p do
  let a ← readPred f.a
  let b ← if two then readPred f.b else pure 0
  writeK f.dst.toNat (g a b)
  pure .on
/-- A count over a predicate into a g register. -/
def kcountM (f : FA) (g : Nat → Nat) : M Go := whenBit0 f.p do
  dstReady true f.dst.toNat
  let a ← readPred f.a
  writeG f.dst.toNat (BitVec.ofNat 64 (g a.toNat))
  pure .on
/-- kmov (R123). -/
def kmovM (f : FA) : M Go := whenBit0 f.p do
  match f.m.toNat with
  | 0 => writeK f.dst.toNat (← readPred f.a)
  | 1 => writeK f.dst.toNat ((← readScalar f.a).setWidth 16)
  | 2 =>
    let v ← elemsA f 0
    writeK f.dst.toNat (BitVec.ofNat 16 (ofElems 1 (v.map fun x => if x = 0 then 0 else 1)))
  | _ =>
    dstReady true f.dst.toNat
    writeG f.dst.toNat ((← readPred f.a).setWidth 64)
  pure .on

/-! ## Packing (R124) -/

/-- vpack (R124). DEDUCED: notes/assumptions/65.md. -/
def vpackM (f : FA) : M Go := whenLanes f.p fun m => do
  dstReady false f.dst.toNat m
  let w := if f.m = 1 then 4 else tyWidth f.ty
  let ws := if f.m = 1 then 8 else 2 * w
  let a := toElems (512 / ws) ws (← match f.a with | .v i b => readV i.toNat b | _ => illop).toNat
  let b := toElems (512 / ws) ws (← match f.b with | .v i b => readV i.toNat b | _ => illop).toNat
  let src := a ++ b
  let v (x : Nat) : Int := if tySigned f.ty then toSigned ws x else (x : Int)
  let c := (← getT).csr
  let e := mapElems c.enabled m w (fun j => fitInt w (tySigned f.ty) f.sat (v (el src j))) (512 / w) 0
  finishV false f.dst m (vecOf w e.codes) e.fl e.lanes
/-- vunpk (R124). -/
def vunpkM (f : FA) : M Go := whenLanes f.p fun m => do
  dstReady false f.dst.toNat m
  let i4 := nbit f.m.toNat 1
  let w := if i4 then 4 else tyWidth f.ty
  let n := 512 / (2 * w)
  let a := toElems (512 / w) w (← match f.a with | .v i b => readV i.toNat b | _ => illop).toNat
  let v (x : Nat) : Nat := if tySigned f.ty then wrapN (2 * w) (toSigned w x) else x
  writeV f.dst.toNat m (vecOf (2 * w) ((List.range n).map fun j => v (el a (j + if nbit f.m.toNat 0 then n else 0))))
  pure .on

/-! ## MX blocks (R125, R126) -/

/-- emax of an MX element type (R125). -/
def mxEmax (ty : BitVec 4) : Int :=
  match ty.toNat with
  | 14 => 2
  | 11 => 8
  | _ => 15
/-- The exponent of a block of finite values (R125). -/
def mxExp (ty : BitVec 4) (ds : List Dy) : Int :=
  match ((ds.filter fun d => d.m != 0).map ilog2).max? with
  | none => -127
  | some l => max (-127) (min 127 (l - mxEmax ty))
/-- The bit of an MX block at which its scale code stands. -/
def mxScaleAt (ty : BitVec 4) : Nat := if ty = 14 then 128 else 256
/-- vmxq (R125): a mask that is not all true raises ILLOP, a reserved MODE before it. DEDUCED: notes/assumptions/30.md; DEDUCED:
notes/assumptions/92.md. -/
def vmxqM (f : FA) : M Go := whenLanes f.p fun m => do
  dstReady false f.dst.toNat
  let a ← elemsA f 8
  let b ← readElems 8 16 f.b
  needMode
  need (m == 0xFFFF)
  let c := (← getT).csr
  let g := fOf f
  let xs := (a ++ b).map (decodeVal f32)
  if xs.any fun x => x.isNan || x.isInf then
    finishV true f.dst m (BitVec.ofNat 512 (0xFF * 2 ^ mxScaleAt f.ty)) NV 1
  else
    let ds := xs.filterMap fun x => match x with | .fin d => some d | _ => none
    let e := mxExp f.ty ds
    let r := mapElems c.enabled 0xFFFF g.w (fun j => match ds[j]? with
      | some d => roundTo g (rmOf c false f.dst j) f.sat { d with e := d.e - e }
      | none => ⟨0, 0⟩) 32 0
    finishV true f.dst m (BitVec.ofNat 512 (ofElems g.w r.codes + (e + 127).toNat * 2 ^ mxScaleAt f.ty)) r.fl r.lanes
/-- vmxd (R126). -/
def vmxdM (f : FA) : M Go := whenLanes f.p fun m => do
  dstReady false f.dst.toNat m
  let v ← match f.a with | .v i b => readV i.toNat b | _ => illop
  needMode
  let c := (← getT).csr
  let g := fOf f
  let scale := nfld v.toNat (mxScaleAt f.ty) 8
  let one (j : Nat) : Res :=
    if scale = 0xFF then ⟨canonNan f32, NV⟩
    else
      let rm := rmOf c false f.dst j
      match decodeVal g (elemOf v.toNat g.w (j + if f.m = 1 then 16 else 0)) with
      | .fin d => roundTo f32 rm false { d with e := d.e + scale - 127 }
      | x => convVal f32 rm false x
  let e := mapElems c.enabled m 32 one 16 0
  finishV false f.dst m (vecOf 32 e.codes) e.fl e.lanes

/-! ## Dot products (R128) -/

/-- Pairs of elements. -/
def pairUp : List Val → List Val → List (Val × Val)
  | a :: r, b :: q => (a, b) :: pairUp r q
  | _, _ => []
/-- C + Σ a·b, one exact sum and one rounding into f32 (R128). -/
def dotVal (rm : Rm) (sat : Bool) (c : Val) (ab : List (Val × Val)) : Res :=
  let zeroInf := ab.any fun p => (p.1.isZero && p.2.isInf) || (p.1.isInf && p.2.isZero)
  match nanResult f32 (c :: (ab.map fun p => [p.1, p.2]).flatten) with
  | some r => { r with fl := r.fl ||| (if zeroInf then NV else 0) }
  | none =>
    let prod (p : Val × Val) : Val := match p with
      | (.fin x, .fin y) => .fin (x.mul y)
      | (x, y) => .inf (x.sign != y.sign)
    let terms := c :: ab.map prod
    let pos := terms.any fun v => v.isInf && !v.sign
    let neg := terms.any fun v => v.isInf && v.sign
    if zeroInf || (pos && neg) then invalid f32
    else if pos || neg then encodeVal f32 rm sat (.inf neg)
    else
      let ds := terms.filterMap fun v => match v with | .fin d => some d | _ => none
      let q := (ds.map (·.e)).foldl min 0
      let t := (ds.map (·.toInt q)).sum
      let zs := if ds.all fun d => d.m = 0 && d.s then true
        else if ds.all fun d => d.m = 0 && !d.s then false else rm.mode == 2
      roundTo f32 rm sat (ofIntAt zs t q)
/-- vdot (R128). -/
def vdotM (f : FA) : M Go := whenLanes f.p fun m => do
  dstReady false f.dst.toNat m
  let w := tyWidth f.ty
  let k := 32 / w
  let a ← elemsA f f.ty
  let b ← readElems f.ty (elemCount f.ty) f.b
  let isF := decide (8 ≤ f.ty.toNat)
  let c ← readElems (if isF then 8 else 0) 16 f.c
  if isF then needMode
  let t := (← getT).csr
  let one (i : Nat) : Res :=
    let ai := (List.range k).map fun j => el a (i * k + j)
    let bi := (List.range k).map fun j => el b (i * k + j)
    match fmtOf f.ty t.fmt8 with
    | some g => dotVal (rmOf t false f.dst i) f.sat (decodeVal f32 (el c i)) (pairUp (ai.map (decodeVal g)) (bi.map (decodeVal g)))
    | none =>
      let s := ((ai.zip bi).map fun p => redElem f p.1 * redElem f p.2).sum
      fitInt 32 true f.sat (toSigned 32 (el c i) + s)
  let e := mapElems t.enabled m 32 one 16 0
  finishV true f.dst m (vecOf 32 e.codes) e.fl e.lanes

/-! ## Wide accumulators (R127) -/

def Regs.getWa (r : Regs) (i : Nat) : Wide := tget {} r.wa i
def Regs.putWa (r : Regs) (i : Nat) (w : Wide) : Regs :=
  { r with wa := tset {} r.wa i w, parity := r.parity.filter fun e => e != (.wa, i) }
/-- A wide accumulator that is read (R15). -/
def readWa (i : Nat) : M Wide := do
  parityGood .wa i
  return (← getT).regs.getWa i
/-- Add the enabled elements in order, with the lanes that raised an enabled flag. -/
def waddList (en : Flags) (w : Wide) : List (Nat × Val) → Wide × Flags × BitVec 16
  | [] => (w, 0, 0)
  | (lane, v) :: r =>
    let (w1, f1) := w.add v
    let (w2, f2, l) := waddList en w1 r
    (w2, f1 ||| f2, if f1 &&& en = 0 then l else l ||| (1#16 <<< lane))
/-- The value of an element of wadd. -/
def waddVal (f : FA) (x : Nat) : Val :=
  if f.ty = 0 then .fin (dyOfInt (toSigned 32 x)) else decodeVal (fOf f) x
/-- wadd (R127); a scalar source adds wherever some lane is enabled (DEDUCED: notes/assumptions/90.md), and its FPTRAP names lane 0
(DEDUCED: notes/assumptions/30.md). -/
def waddM (f : FA) : M Go := whenLanes f.p fun m => do
  let w := tyWidth f.ty
  let xs : List (Nat × Nat) ← match f.a with
    | .v i b => do
      let v ← readV i.toNat b
      pure (((toElems (elemCount f.ty) w v.toNat).zipIdx.map fun e => (laneOf w e.2, e.1)).filter fun e => nbit m.toNat e.1)
    | a => do
      let x ← readElem f.ty a
      pure [(0, x)]
  let w0 ← readWa f.m.toNat
  let t ← getT
  let (w', fl, lanes) := waddList t.csr.enabled w0 (xs.map fun e => (e.1, waddVal f e.2))
  checkFp fl lanes
  modT (·.raise fl)
  modR (·.putWa f.m.toNat w')
  pure .on
/-- wrnd (R127). -/
def wrndM (f : FA) : M Go :=
  if f.dk then whenBit0 f.p do
    dstReady true f.dst.toNat
    needMode
    let w ← readWa f.m.toNat
    let t ← getT
    let r := w.round (fOf f) (rmOf t.csr true f.dst 0) f.sat
    finishG true f.dst (widen f.ty r.code) r.fl
  else whenLanes f.p fun m => do
    dstReady false f.dst.toNat m
    needMode
    let w ← readWa f.m.toNat
    let t ← getT
    let r := w.round (fOf f) (rmOf t.csr false f.dst 0) f.sat
    finishV true f.dst m (BitVec.ofNat 512 r.code) (if nbit m.toNat 0 then r.fl else 0) 1
/-- wclr (R127), wherever some lane is enabled. DEDUCED: notes/assumptions/90.md. -/
def wclrM (f : FA) : M Go := whenLanes f.p fun _ => do
  modR (·.putWa f.m.toNat {})
  pure .on
/-- wmov (R127): `.sat` is the direction bit. -/
def wmovM (f : FA) : M Go := whenLanes f.p fun m => do
  if f.sat then
    let v ← match f.a with | .v i b => readV i.toNat b | _ => illop
    need (m == 0xFFFF)
    match Wide.ofVec v with
    | none => illop
    | some w =>
      modR (·.putWa f.m.toNat w)
      pure .on
  else
    dstReady false f.dst.toNat
    need (m == 0xFFFF)
    finishV true f.dst m (← readWa f.m.toNat).toVec 0 0

/-- VPERM (R117). -/
def execVperm (f : FA) (s : State) := issue (.vperm f) (permM f true false fun n a b _ j => el a (el b j % n)) s
/-- VBCAST (R117). -/
def execVbcast (f : FA) (s : State) := issue (.vbcast f) (permM f false false fun n a b _ _ => el a (el b 0 % n)) s
/-- VROT (R117). -/
def execVrot (f : FA) (s : State) := issue (.vrot f) (permM f false false fun n a b _ j => el a ((j + n - el b 0 % n) % n)) s
/-- VSLIDE (R117). -/
def execVslide (f : FA) (s : State) :=
  issue (.vslide f) (permM f false true fun n a b c j =>
    let k := Nat.min (el b 0) n
    if j + k < n then el a (j + k) else el c (j + k - n)) s
/-- VRED (R119). -/
def execVred (f : FA) (s : State) := issue (.vred f) (vredM f) s
/-- VREDX (R121). -/
def execVredx (f : FA) (s : State) := issue (.vredx f) (vredxM f) s
/-- VSCAN (R120). -/
def execVscan (f : FA) (s : State) := issue (.vscan f) (vscanM f) s
/-- VCMPR (R118). -/
def execVcmpr (f : FA) (s : State) := issue (.vcmpr f) (laneMoveM f compress) s
/-- VXPD (R118). -/
def execVxpd (f : FA) (s : State) := issue (.vxpd f) (laneMoveM f expand) s
/-- VLANE (R118). -/
def execVlane (f : FA) (s : State) := issue (.vlane f) (vlaneM f) s
/-- KAND (R122). -/
def execKand (f : FA) (s : State) := issue (.kand f) (kopM f true fun a b => a &&& b) s
/-- KOR (R122). -/
def execKor (f : FA) (s : State) := issue (.kor f) (kopM f true fun a b => a ||| b) s
/-- KXOR (R122). -/
def execKxor (f : FA) (s : State) := issue (.kxor f) (kopM f true fun a b => a ^^^ b) s
/-- KNOT (R122). -/
def execKnot (f : FA) (s : State) := issue (.knot f) (kopM f false fun a _ => ~~~ a) s
/-- KPOP (R122). -/
def execKpop (f : FA) (s : State) := issue (.kpop f) (kcountM f (popN 16)) s
/-- KFIRST (R122). -/
def execKfirst (f : FA) (s : State) := issue (.kfirst f) (kcountM f (ctzN 16)) s
/-- KMOV (R123). -/
def execKmov (f : FA) (s : State) := issue (.kmov f) (kmovM f) s
/-- VPACK (R124). -/
def execVpack (f : FA) (s : State) := issue (.vpack f) (vpackM f) s
/-- VUNPK (R124). -/
def execVunpk (f : FA) (s : State) := issue (.vunpk f) (vunpkM f) s
/-- VMXQ (R125). -/
def execVmxq (f : FA) (s : State) := issue (.vmxq f) (vmxqM f) s
/-- VMXD (R126). -/
def execVmxd (f : FA) (s : State) := issue (.vmxd f) (vmxdM f) s
/-- VDOT (R128). -/
def execVdot (f : FA) (s : State) := issue (.vdot f) (vdotM f) s
/-- WADD (R127). -/
def execWadd (f : FA) (s : State) := issue (.wadd f) (waddM f) s
/-- WRND (R127). -/
def execWrnd (f : FA) (s : State) := issue (.wrnd f) (wrndM f) s
/-- WCLR (R127). -/
def execWclr (f : FA) (s : State) := issue (.wclr f) (wclrM f) s
/-- WMOV (R127). -/
def execWmov (f : FA) (s : State) := issue (.wmov f) (wmovM f) s

end Sys2Proof.Machine
end

