-- ==== Sys2Proof/Machine/MemOps.lean ====
section
/-! DEFINITION. The meanings of group 3: loads, stores, full/empty, chains, atomics, reduce-adds, fences (R214-R232). -/

namespace Sys2Proof.Machine

/-- The address of format M: base plus the sign-extended byte offset (R52). -/
def effAddr (f : FM) : M Word := do return (← readG f.base.toNat f.bw) + f.off.signExtend 64

/-- Bytes of a size code (R52). -/
def sizeBytes (size : BitVec 3) : Nat :=
  match size.toNat with
  | 0 => 1
  | 1 => 2
  | 2 => 4
  | 3 => 8
  | _ => 64

/-- The destination of a format M load. -/
def dataRef (f : FM) : RegRef := if f.dk then .g f.dst.toNat else .v f.dst.toNat
/-- The data that a format M store takes from its register. -/
def readData (f : FM) : M Vec := do
  if f.dk then return (← readG f.dst.toNat false).setWidth 512 else readV f.dst.toNat false

/-- A fence behind what the core has issued: every later access waits for the earlier ones in its scope (R232); fences that
wait for nothing are forgotten. -/
def placeFence (scope : Nat) : M Unit := modS fun s => s.modTile s.cur fun x => { x with sch := { x.sch with
  fences := (x.sch.fences.filter fun e => !scopeClear s s.cur e.1 e.2) ++ [(scope, x.nextAcc)] } }
/-- The fence of wafer scope that `.acq` places behind its load and `.rel` before its store (R219). -/
def orderFence (on : Bool) : M Unit := if on then placeFence 2 else pure ()
/-- `.acq` and `.rel` are for M tasks (R216). -/
def needMIf (b : Bool) : M Unit := if b then needM else pure ()

/-- ld (R218). -/
def ldM (f : FM) : M Go := whenBit0 f.p do
  needMIf (f.ord == 1)
  dstReady true f.dst.toNat
  let a ← effAddr f
  let n := sizeBytes f.size
  let ph ← resolve a n n false true
  issueLoad (.g f.dst.toNat) 0 n (nbit f.aux.toNat 0) false [ph.part a n 0]
  orderFence (f.ord == 1)
  pure .on

/-- st (R218). -/
def stM (f : FM) : M Go := whenBit0 f.p do
  needMIf (f.ord == 2)
  let d ← readData f
  let a ← effAddr f
  let n := sizeBytes f.size
  let ph ← resolve a n n true true
  orderFence (f.ord == 2)
  issueStore (.store d) [ph.part a n 0]
  pure .on

/-- The parts of a 64-byte vector access under a mask: its aligned 8-byte units, or the one word of a unit that is enabled
(R163, R218). -/
def lineParts (m : BitVec 16) (ph : Phys) (a : Word) : List Part :=
  (List.range 8).filterMap fun k =>
    match nbit m.toNat (2 * k), nbit m.toNat (2 * k + 1) with
    | true, true => some (ph.partAt a (8 * k) 8)
    | true, false => some (ph.partAt a (8 * k) 4)
    | false, true => some (ph.partAt a (8 * k + 4) 4)
    | false, false => none

/-- Check the line of a vector access: the aperture of its enabled lanes, then the line (R215, R218). -/
def resolveLine (m : BitVec 16) (a : Word) (store : Bool) : M Phys := do
  let s ← getS
  let out (i : Nat) : Bool := nbit m.toNat i && (steer s.cur (s.tile s.cur).csr.stkbase (a + BitVec.ofNat 64 (4 * i)) 4).isNone
  if (List.range 16).any out then trap 0x03 a
  if a.toNat % 64 ≠ 0 then trap 0x06 a
  resolve a 64 64 store true

/-- ldv (R218). -/
def ldvM (f : FM) : M Go := whenLanes f.p fun m => do
  needMIf (f.ord == 1)
  dstReady false f.dst.toNat m
  let a ← effAddr f
  let ph ← resolveLine m a false
  let x ← getT
  issueLoad (.v f.dst.toNat) (x.regs.getV f.dst.toNat) 64 false false (lineParts m ph a)
  orderFence (f.ord == 1)
  pure .on

/-- stv (R218). DEDUCED: notes/assumptions/22.md. -/
def stvM (f : FM) : M Go := whenLanes f.p fun m => do
  needMIf (f.ord == 2)
  let d ← readData f
  let a ← effAddr f
  let ph ← resolveLine m a true
  orderFence (f.ord == 2)
  issueStore (.store d) (lineParts m ph a)
  pure .on

/-- The lane addresses of ldg and stg, resolved in increasing lane order (R215, R220). -/
def gatherParts (f : FM) (m : BitVec 16) (a : Word) (ix : Vec) (store : Bool) : List Nat → M (List Part)
  | [] => pure []
  | i :: r =>
    if nbit m.toNat i then do
      let k := toSigned 32 (elemOf ix.toNat 32 i) * 2 ^ (f.aux.toNat % 4)
      let ai := a + BitVec.ofInt 64 k
      let ph ← resolve ai 4 4 store true
      let rest ← gatherParts f m a ix store r
      pure (ph.part ai 4 (4 * i) :: rest)
    else gatherParts f m a ix store r

/-- ldg (R220): one access a lane, in increasing lane order; v[d + 1] is read at issue. -/
def ldgM (f : FM) : M Go := whenLanes f.p fun m => do
  dstReady false f.dst.toNat m
  let a ← effAddr f
  let ix ← readV (f.dst.toNat + 1) false
  let ps ← gatherParts f m a ix false (List.range 16)
  let x ← getT
  issueLoad (.v f.dst.toNat) (x.regs.getV f.dst.toNat) 64 false true ps
  pure .on

/-- stg (R220): one access a lane, in increasing lane order; HDCLOB comes after the checks of R215 in every lane. DEDUCED:
notes/assumptions/22.md; DESIGN CHOICE: notes/assumptions/114.md. -/
def stgM (f : FM) : M Go := whenLanes f.p fun m => do
  let d ← readV f.dst.toNat false
  let a ← effAddr f
  let ix ← readV (f.dst.toNat + 1) false
  let ps ← gatherParts f m a ix true (List.range 16)
  for p in ps do issueStore (.store d) [p]
  pure .on

/-- The parts of an lds: the words of a tile store, or its bytes of the line, whose full bits it awaits (R222). -/
def ldsParts (ph : Phys) (a : Word) (n : Nat) : List Part :=
  match ph.home with
  | .tile _ _ => (List.range (n / 4)).map fun i => ph.partAt a (4 * i) 4
  | _ => [ph.part a n 0]
/-- lds (R222): what the store buffer gives is not awaited at the home (R164, R216); it performs at once when its words are full in
the own store, else waits at its home. DEDUCED: notes/assumptions/64.md. -/
def ldsM (f : FM) : M Go := whenBit0 f.p do
  let take := nbit f.aux.toNat 0
  needMIf take
  dstReady f.dk f.dst.toNat
  let a ← effAddr f
  let n := sizeBytes f.size
  let ph ← resolve a n n false false
  let ps := ldsParts ph a n
  let covers := sbOver (← getT).sch.fx.sb ps
  let acc ← newAcc (uncovered covers ps) (.lds (dataRef f) take covers)
  let s ← getS
  if allOwn s.cur acc.parts && accFree s s.cur acc && acc.parts.all fun p => isFull s p.home p.len then
    emptyDst (dataRef f)
    sendAcc acc
  else sendResult (dataRef f) (.lds acc take)
  pure .on

/-- A .w or .d form of stf to global memory raises ALIGN (R223). -/
def stfM (f : FM) : M Go := whenBit0 f.p do
  let d ← readData f
  let a ← effAddr f
  let n := sizeBytes f.size
  let s ← getS
  match steer s.cur (s.tile s.cur).csr.stkbase a n with
  | some (.glob _) => if f.size != 4 then trap 0x06 a
  | _ => pure ()
  let ph ← resolve a n n true false
  issueStore (.stf d) [ph.part a n 0]
  pure .on

/-- The parts of a feclr: one for each 64-byte line that it meets. -/
def feclrParts (ph : Phys) (a : Word) (n : Nat) : List Part :=
  let off := match ph.home with
    | .tile _ o => o
    | .dram o => o
    | .host o => o
  let lead := 64 - off % 64
  (List.range ((off + n + 63) / 64 - off / 64)).map fun i =>
    let k := if i = 0 then 0 else lead + 64 * (i - 1)
    ph.partAt a k (Nat.min n (lead + 64 * i) - k)
/-- feclr (R224). DEDUCED: notes/assumptions/15.md; DEDUCED: notes/assumptions/28.md; DEDUCED: notes/assumptions/64.md. -/
def feclrM (f : FM) : M Go := whenBit0 f.p do
  let len := (← readG f.dst.toNat false).toNat
  let a ← effAddr f
  if len = 0 then pure .on
  else
    let s ← getS
    let x := s.tile s.cur
    match steer s.cur x.csr.stkbase a len with
    | none => trap 0x03 a
    | some pl =>
      let unit := match pl with | .tile _ _ => 4 | .glob _ => 64
      if a.toNat % unit != 0 || len % unit != 0 || decide (2 ^ 24 ≤ len) then trap 0x06 a
      let size := pageBytes (BitVec.ofNat 2 (nfld x.csr.pgsz.toNat 0 2))
      let twoPages : Bool := match pl with
        | .glob _ => a.toNat / size != (a.toNat + len - 1) / size
        | .tile _ _ => false
      if twoPages then trap 0x06 a
      let ph ← resolve a len unit true false
      let acc ← newAcc (feclrParts ph a len) .feclr
      if (← getT).isM then sendAcc acc else buffer (.acc acc)
      pure .on

/-- The full bit that a buffered stf or feclr gives the byte at a home. -/
def BufItem.bitAt (b : BufItem) (h : Home) : Option Bool :=
  match b with
  | .hdarr _ _ _ => none
  | .acc a =>
    let v : Option Bool := match a.op with
      | .stf _ => some true
      | .feclr => some false
      | _ => none
    if a.parts.any fun p => (p.offOf h).isSome then v else none
/-- The bits of a line that the store buffer gives: word numbers of a tile store's line, 0 for a line of DRAM (R216). -/
def sbBits (sb : List BufItem) (line : Home) : List (Nat × Bool) :=
  let bit (h : Home) : Option Bool := sb.reverse.findSome? (·.bitAt h)
  if sb.isEmpty then []
  else match line with
    | .tile _ _ => (List.range 16).filterMap fun i => (bit (line.add (4 * i))).map fun b => (i, b)
    | _ => ((bit line).map fun b => (0, b)).toList
/-- fetst (R225): the mask of full bits of the line, read at its home through the store buffer (R216). DEDUCED:
notes/assumptions/64.md. -/
def fetstM (f : FM) : M Go := whenBit0 f.p do
  dstReady true f.dst.toNat
  let a ← effAddr f
  let ph ← resolve a 1 1 false false
  let line := ph.home.line
  let acc ← newAcc [⟨line, a, 64, 0, ph.slice, ph.pteAt⟩] (.fetst (.g f.dst.toNat) (sbBits (← getT).sch.fx.sb line))
  emptyDst (.g f.dst.toNat)
  sendAcc acc
  pure .on

/-- The sequence pair of a chained access (R226): slice and chain by its handle, and s, p, n; ILLOP where it breaks the
layout, names an unbound handle, or s or p is the wildcard (R184). -/
def seqPair (f : FM) : M ChainTag := do
  let k := 2 * f.aux.toNat
  let x := (← readG k false).toNat
  let y := (← readG (k + 1) false).toNat
  need (decide (x < 2 ^ 48) && decide (y < 2 ^ 28))
  let h := nfld y 24 4
  need (nfld x 0 24 != 0xFFFFFF && nfld x 24 24 != 0xFFFFFF)
  match tget none (← getT).eng.handles h with
  | none => illop
  | some (slice, ch) =>
    pure ⟨slice, ch, BitVec.ofNat 24 (nfld x 0 24), BitVec.ofNat 24 (nfld x 24 24), BitVec.ofNat 24 (nfld y 0 24)⟩

/-- Resolve a chained access: outside its slice's SLICE pages it raises CHSLICE (R184). -/
def resolveChain (a : Word) (n : Nat) (store : Bool) (tag : ChainTag) : M Phys := do
  let ph ← resolve a n n store false
  if ph.sl && ph.slice == tag.slice then pure ph else trap 0x0B a

/-- Hold the core from the sending of a chained access until its slice accepts it (R183): the access is gone from the
network once accepted. -/
def chainHold (send : M Unit) : M Go := do
  let x ← getT
  match x.sch.chOut with
  | some id =>
    if x.net.any (·.id == id) then hold
    else
      modT fun x => { x with sch := { x.sch with chOut := none } }
      pure .on
  | none =>
    send
    sentHold

/-- Put a chained access on its way. -/
def sendChain (a : Acc) : M Unit := modT fun x =>
  ({ x with net := x.net ++ [a], sch := { x.sch with chOut := some a.id } } : Tile).perfAdd 5 1

/-- The parts of a chained access: the aligned 8-byte units of a 64-byte one (R163). -/
def chainParts (ph : Phys) (a : Word) (n : Nat) : List Part := if n = 64 then lineParts 0xFFFF ph a else [ph.part a n 0]
/-- ldc (R228), in M tasks only (R185). -/
def ldcM (f : FM) : M Go := whenBit0 f.p do
  needM
  notReplay
  notRedundant
  chainHold do
    dstReady f.dk f.dst.toNat
    let tag ← seqPair f
    let a ← effAddr f
    let n := sizeBytes f.size
    let ph ← resolveChain a n false tag
    let acc ← newAcc (chainParts ph a n) (.chLoad tag (dataRef f) n)
    emptyDst (dataRef f)
    sendChain acc

/-- stc (R228): buffered in an I task (R185). -/
def stcM (f : FM) : M Go := whenBit0 f.p do
  notReplay
  notRedundant
  let send : M Acc := do
    let tag ← seqPair f
    let d ← readData f
    let a ← effAddr f
    let n := sizeBytes f.size
    let ph ← resolveChain a n true tag
    newAcc (chainParts ph a n) (.chStore tag d)
  if (← getT).isM then chainHold do sendChain (← send)
  else
    buffer (.acc (← send))
    pure .on

/-- chbind (R227): the slice replies within the step. -/
def chbindM (f : FE) : M Go := whenBit0 f.p do
  notReplay
  notRedundant
  let a ← readG f.ga.toNat false
  let b ← readG f.gb.toNat false
  need (decide (a.toNat < 4096) && decide (b.toNat < 0xFFFFFF))
  let s ← getS
  let slice := a.toNat / 16
  let ch := a.toNat % 16
  let sq := s.sqOf s.cur
  match (s.slice slice).chains.find? fun e => e.1 == ch with
  | some (_, c) => if c.cfg != sq then trap 0x0B a
  | none => modS (·.modSlice slice fun y => { y with chains := tput y.chains ch ⟨sq, BitVec.ofNat 24 b.toNat, 0xFFFFFF, none, false, none⟩ })
  modT fun x => { x with eng := { x.eng with handles := tput x.eng.handles f.ix.toNat (some (slice, ch)) } }
  pure .on

/-- amo (R230). DEDUCED: notes/assumptions/15.md. -/
def amoM (f : FM) : M Go := whenBit0 f.p do
  let ret := nbit f.aux.toNat 3
  needMIf ret
  notReplay
  let x ← readG f.dst.toNat false
  let y ← if f.size = 7 then readG (f.dst.toNat + 1) false else pure 0
  let a ← effAddr f
  let w64 := nbit f.aux.toNat 0
  let n := if w64 then 8 else 4
  if ret then
    let _ ← resolve a n n false false
  let ph ← resolve a n n true false
  notArmed ph.home n
  let d : Option RegRef := if ret then some (.g f.dst.toNat) else none
  let acc ← newAcc [ph.part a n 0] (.amo f.size w64 (nbit f.aux.toNat 2) x y d)
  if ret then emptyDst (.g f.dst.toNat)
  if (← getT).isM then sendAcc acc else buffer (.acc acc)
  pure .on

/-- The reduce-add of one word. -/
def redOne (f : FM) (x : Vec) (a : Word) (n : Nat) : M Unit := do
  let t ← getT
  let ph ← resolve a n n true false
  let acc ← newAcc [ph.part a n 0]
    (.red f.size x (BitVec.ofNat 3 t.csr.mode) (BitVec.ofNat 32 t.csr.srseed.toNat))
  if t.isM then sendAcc acc else buffer (.acc acc)

/-- Check one access of a RED: the global window, then the alignment, which a vector form asks of its address (R189, R215, R231). -/
def needGlob (a : Word) (n : Nat) (aligned : Bool) : M Unit := do
  let s ← getS
  match steer s.cur (s.tile s.cur).csr.stkbase a n with
  | some (.glob _) => if aligned then pure () else trap 0x06 a
  | _ => trap 0x03 a
/-- The reduce-adds of the enabled lanes in increasing order, each an access that is checked by itself (R215, R231). -/
def redLanes (f : FM) (d : Vec) (a : Word) (m : BitVec 16) : List Nat → M Unit
  | [] => pure ()
  | i :: r =>
    if nbit m.toNat i then do
      let ai := a + BitVec.ofNat 64 (4 * i)
      needGlob ai 4 (a.toNat % 64 == 0)
      redOne f (BitVec.ofNat 512 (elemOf d.toNat 32 i)) ai 4
      redLanes f d a m r
    else redLanes f d a m r
/-- red (R231, R189): only in the global window; RMODEBAD comes before the checks of the address. DEDUCED: notes/assumptions/15.md;
DESIGN CHOICE: notes/assumptions/114.md. -/
def redM (f : FM) : M Go := do
  let body (m : BitVec 16) : M Go := do
    notReplay
    if f.size = 0 then needMode
    let d ← readData f
    let a ← effAddr f
    if f.dk then
      let n := if f.size = 2 then 8 else 4
      needGlob a n (a.toNat % n == 0)
      redOne f d a n
    else redLanes f d a m (List.range 16)
    pure .on
  if f.dk then whenBit0 f.p (body 0xFFFF) else whenLanes f.p body

/-- fence (R232), in M tasks only: it holds later accesses, not the core. -/
def fenceM (f : FM) : M Go := whenBit0 f.p do
  needM
  notReplay
  placeFence f.ord.toNat
  pure .on

/-- LD (R218). -/
def execLd (f : FM) (s : State) := issue (.ld f) (ldM f) s
/-- ST (R218). -/
def execSt (f : FM) (s : State) := issue (.st f) (stM f) s
/-- LDV (R218). -/
def execLdv (f : FM) (s : State) := issue (.ldv f) (ldvM f) s
/-- STV (R218). -/
def execStv (f : FM) (s : State) := issue (.stv f) (stvM f) s
/-- LDG (R220). -/
def execLdg (f : FM) (s : State) := issue (.ldg f) (ldgM f) s
/-- STG (R220). -/
def execStg (f : FM) (s : State) := issue (.stg f) (stgM f) s
/-- LDS (R222). -/
def execLds (f : FM) (s : State) := issue (.lds f) (ldsM f) s
/-- STF (R223). -/
def execStf (f : FM) (s : State) := issue (.stf f) (stfM f) s
/-- FECLR (R224). -/
def execFeclr (f : FM) (s : State) := issue (.feclr f) (feclrM f) s
/-- FETST (R225). -/
def execFetst (f : FM) (s : State) := issue (.fetst f) (fetstM f) s
/-- LDC (R228). -/
def execLdc (f : FM) (s : State) := issue (.ldc f) (ldcM f) s
/-- STC (R228). -/
def execStc (f : FM) (s : State) := issue (.stc f) (stcM f) s
/-- CHBIND (R227). -/
def execChbind (f : FE) (s : State) := issue (.chbind f) (chbindM f) s
/-- AMO (R230). -/
def execAmo (f : FM) (s : State) := issue (.amo f) (amoM f) s
/-- RED (R231). -/
def execRed (f : FM) (s : State) := issue (.red f) (redM f) s
/-- FENCE (R232). -/
def execFence (f : FM) (s : State) := issue (.fence f) (fenceM f) s

end Sys2Proof.Machine
end

