-- ==== Sys2Proof/Machine/Dispatch.lean ====
section
/-! DEFINITION. One arm per instruction or event, each a direct call of its meaning. -/

namespace Sys2Proof.Machine

open Sys2Proof

def exec (i : Instr) (s : State) : Host.Outcome State Fault Refusal :=
  match i with
  | .nop f => Sys2Proof.Machine.execNop f s
  | .add f => Sys2Proof.Machine.execAdd f s
  | .sub f => Sys2Proof.Machine.execSub f s
  | .mul f => Sys2Proof.Machine.execMul f s
  | .mulh f => Sys2Proof.Machine.execMulh f s
  | .mulhn f => Sys2Proof.Machine.execMulhn f s
  | .div f => Sys2Proof.Machine.execDiv f s
  | .divn f => Sys2Proof.Machine.execDivn f s
  | .rem f => Sys2Proof.Machine.execRem f s
  | .remn f => Sys2Proof.Machine.execRemn f s
  | .neg f => Sys2Proof.Machine.execNeg f s
  | .abs f => Sys2Proof.Machine.execAbs f s
  | .min f => Sys2Proof.Machine.execMin f s
  | .max f => Sys2Proof.Machine.execMax f s
  | .minn f => Sys2Proof.Machine.execMinn f s
  | .maxn f => Sys2Proof.Machine.execMaxn f s
  | .and f => Sys2Proof.Machine.execAnd f s
  | .or f => Sys2Proof.Machine.execOr f s
  | .xor f => Sys2Proof.Machine.execXor f s
  | .andn f => Sys2Proof.Machine.execAndn f s
  | .orn f => Sys2Proof.Machine.execOrn f s
  | .not f => Sys2Proof.Machine.execNot f s
  | .shl f => Sys2Proof.Machine.execShl f s
  | .shr f => Sys2Proof.Machine.execShr f s
  | .sra f => Sys2Proof.Machine.execSra f s
  | .rol f => Sys2Proof.Machine.execRol f s
  | .clz f => Sys2Proof.Machine.execClz f s
  | .ctz f => Sys2Proof.Machine.execCtz f s
  | .popc f => Sys2Proof.Machine.execPopc f s
  | .brev f => Sys2Proof.Machine.execBrev f s
  | .bext f => Sys2Proof.Machine.execBext f s
  | .bins f => Sys2Proof.Machine.execBins f s
  | .sext f => Sys2Proof.Machine.execSext f s
  | .zext f => Sys2Proof.Machine.execZext f s
  | .cmp f => Sys2Proof.Machine.execCmp f s
  | .sel f => Sys2Proof.Machine.execSel f s
  | .mov f => Sys2Proof.Machine.execMov f s
  | .movi f => Sys2Proof.Machine.execMovi f s
  | .movhi f => Sys2Proof.Machine.execMovhi f s
  | .addi f => Sys2Proof.Machine.execAddi f s
  | .lea f => Sys2Proof.Machine.execLea f s
  | .sadd f => Sys2Proof.Machine.execSadd f s
  | .ssub f => Sys2Proof.Machine.execSsub f s
  | .fadd f => Sys2Proof.Machine.execFadd f s
  | .fsub f => Sys2Proof.Machine.execFsub f s
  | .fmul f => Sys2Proof.Machine.execFmul f s
  | .fma f => Sys2Proof.Machine.execFma f s
  | .fms f => Sys2Proof.Machine.execFms f s
  | .fnma f => Sys2Proof.Machine.execFnma f s
  | .fmin f => Sys2Proof.Machine.execFmin f s
  | .fmax f => Sys2Proof.Machine.execFmax f s
  | .fminp f => Sys2Proof.Machine.execFminp f s
  | .fmaxp f => Sys2Proof.Machine.execFmaxp f s
  | .fabs f => Sys2Proof.Machine.execFabs f s
  | .fneg f => Sys2Proof.Machine.execFneg f s
  | .fsgn f => Sys2Proof.Machine.execFsgn f s
  | .fcmp f => Sys2Proof.Machine.execFcmp f s
  | .fclass f => Sys2Proof.Machine.execFclass f s
  | .frcp f => Sys2Proof.Machine.execFrcp f s
  | .frsq f => Sys2Proof.Machine.execFrsq f s
  | .fsqrt f => Sys2Proof.Machine.execFsqrt f s
  | .fdiv f => Sys2Proof.Machine.execFdiv f s
  | .fexp2 f => Sys2Proof.Machine.execFexp2 f s
  | .flog2 f => Sys2Proof.Machine.execFlog2 f s
  | .fsin f => Sys2Proof.Machine.execFsin f s
  | .fcos f => Sys2Proof.Machine.execFcos f s
  | .fsinpi f => Sys2Proof.Machine.execFsinpi f s
  | .fcospi f => Sys2Proof.Machine.execFcospi f s
  | .ftanh f => Sys2Proof.Machine.execFtanh f s
  | .fsigm f => Sys2Proof.Machine.execFsigm f s
  | .frnd f => Sys2Proof.Machine.execFrnd f s
  | .cvt f => Sys2Proof.Machine.execCvt f s
  | .fscale f => Sys2Proof.Machine.execFscale f s
  | .fgetexp f => Sys2Proof.Machine.execFgetexp f s
  | .vperm f => Sys2Proof.Machine.execVperm f s
  | .vbcast f => Sys2Proof.Machine.execVbcast f s
  | .vrot f => Sys2Proof.Machine.execVrot f s
  | .vslide f => Sys2Proof.Machine.execVslide f s
  | .vred f => Sys2Proof.Machine.execVred f s
  | .vredx f => Sys2Proof.Machine.execVredx f s
  | .vscan f => Sys2Proof.Machine.execVscan f s
  | .vcmpr f => Sys2Proof.Machine.execVcmpr f s
  | .vxpd f => Sys2Proof.Machine.execVxpd f s
  | .vlane f => Sys2Proof.Machine.execVlane f s
  | .kand f => Sys2Proof.Machine.execKand f s
  | .kor f => Sys2Proof.Machine.execKor f s
  | .kxor f => Sys2Proof.Machine.execKxor f s
  | .knot f => Sys2Proof.Machine.execKnot f s
  | .kpop f => Sys2Proof.Machine.execKpop f s
  | .kfirst f => Sys2Proof.Machine.execKfirst f s
  | .kmov f => Sys2Proof.Machine.execKmov f s
  | .vpack f => Sys2Proof.Machine.execVpack f s
  | .vunpk f => Sys2Proof.Machine.execVunpk f s
  | .vmxq f => Sys2Proof.Machine.execVmxq f s
  | .vmxd f => Sys2Proof.Machine.execVmxd f s
  | .vdot f => Sys2Proof.Machine.execVdot f s
  | .wadd f => Sys2Proof.Machine.execWadd f s
  | .wrnd f => Sys2Proof.Machine.execWrnd f s
  | .wclr f => Sys2Proof.Machine.execWclr f s
  | .wmov f => Sys2Proof.Machine.execWmov f s
  | .ld f => Sys2Proof.Machine.execLd f s
  | .st f => Sys2Proof.Machine.execSt f s
  | .ldv f => Sys2Proof.Machine.execLdv f s
  | .stv f => Sys2Proof.Machine.execStv f s
  | .ldg f => Sys2Proof.Machine.execLdg f s
  | .stg f => Sys2Proof.Machine.execStg f s
  | .lds f => Sys2Proof.Machine.execLds f s
  | .stf f => Sys2Proof.Machine.execStf f s
  | .feclr f => Sys2Proof.Machine.execFeclr f s
  | .fetst f => Sys2Proof.Machine.execFetst f s
  | .ldc f => Sys2Proof.Machine.execLdc f s
  | .stc f => Sys2Proof.Machine.execStc f s
  | .chbind f => Sys2Proof.Machine.execChbind f s
  | .amo f => Sys2Proof.Machine.execAmo f s
  | .red f => Sys2Proof.Machine.execRed f s
  | .fence f => Sys2Proof.Machine.execFence f s
  | .spbind f => Sys2Proof.Machine.execSpbind f s
  | .spgo f => Sys2Proof.Machine.execSpgo f s
  | .sphalt f => Sys2Proof.Machine.execSphalt f s
  | .sppos f => Sys2Proof.Machine.execSppos f s
  | .cpa f => Sys2Proof.Machine.execCpa f s
  | .cp2d f => Sys2Proof.Machine.execCp2d f s
  | .hdinit f => Sys2Proof.Machine.execHdinit f s
  | .hdarr f => Sys2Proof.Machine.execHdarr f s
  | .hdwait f => Sys2Proof.Machine.execHdwait f s
  | .hdtest f => Sys2Proof.Machine.execHdtest f s
  | .hdkill f => Sys2Proof.Machine.execHdkill f s
  | .dreq f => Sys2Proof.Machine.execDreq f s
  | .mxcfg f => Sys2Proof.Machine.execMxcfg f s
  | .mxwld f => Sys2Proof.Machine.execMxwld f s
  | .mxwsw f => Sys2Proof.Machine.execMxwsw f s
  | .mxsc f => Sys2Proof.Machine.execMxsc f s
  | .mxrun f => Sys2Proof.Machine.execMxrun f s
  | .mxdrn f => Sys2Proof.Machine.execMxdrn f s
  | .mxclr f => Sys2Proof.Machine.execMxclr f s
  | .mxrgn f => Sys2Proof.Machine.execMxrgn f s
  | .mxring f => Sys2Proof.Machine.execMxring f s
  | .mxlap f => Sys2Proof.Machine.execMxlap f s
  | .mxrec f => Sys2Proof.Machine.execMxrec f s
  | .mxcmd f => Sys2Proof.Machine.execMxcmd f s
  | .mxst f => Sys2Proof.Machine.execMxst f s
  | .br f => Sys2Proof.Machine.execBr f s
  | .bc f => Sys2Proof.Machine.execBc f s
  | .jal f => Sys2Proof.Machine.execJal f s
  | .jr f => Sys2Proof.Machine.execJr f s
  | .loop f => Sys2Proof.Machine.execLoop f s
  | .lbrk f => Sys2Proof.Machine.execLbrk f s
  | .snd f => Sys2Proof.Machine.execSnd f s
  | .rcv f => Sys2Proof.Machine.execRcv f s
  | .qpk f => Sys2Proof.Machine.execQpk f s
  | .qcnt f => Sys2Proof.Machine.execQcnt f s
  | .eod f => Sys2Proof.Machine.execEod f s
  | .qpsn f => Sys2Proof.Machine.execQpsn f s
  | .spawn f => Sys2Proof.Machine.execSpawn f s
  | .tdec f => Sys2Proof.Machine.execTdec f s
  | .tend f => Sys2Proof.Machine.execTend f s
  | .gform f => Sys2Proof.Machine.execGform f s
  | .gend f => Sys2Proof.Machine.execGend f s
  | .gsync f => Sys2Proof.Machine.execGsync f s
  | .car f => Sys2Proof.Machine.execCar f s
  | .cbc f => Sys2Proof.Machine.execCbc f s
  | .crd f => Sys2Proof.Machine.execCrd f s
  | .cbar f => Sys2Proof.Machine.execCbar f s
  | .csrr f => Sys2Proof.Machine.execCsrr f s
  | .csrw f => Sys2Proof.Machine.execCsrw f s
  | .csrs f => Sys2Proof.Machine.execCsrs f s
  | .csrc f => Sys2Proof.Machine.execCsrc f s
  | .trap f => Sys2Proof.Machine.execTrap f s
  | .eret f => Sys2Proof.Machine.execEret f s
  | .brk f => Sys2Proof.Machine.execBrk f s
  | .hgrpSet f => Sys2Proof.Machine.execHgrpSet f s
  | .hgrpHalt f => Sys2Proof.Machine.execHgrpHalt f s
  | .hgrpRes f => Sys2Proof.Machine.execHgrpRes f s
  | .hgrpStep f => Sys2Proof.Machine.execHgrpStep f s
  | .hgrpRestile f => Sys2Proof.Machine.execHgrpRestile f s
  | .hgrpStat f => Sys2Proof.Machine.execHgrpStat f s
  | .hgrpRead f => Sys2Proof.Machine.execHgrpRead f s
  | .wfe f => Sys2Proof.Machine.execWfe f s
  | .rdtime f => Sys2Proof.Machine.execRdtime f s
  | .rdperf f => Sys2Proof.Machine.execRdperf f s
  | .attq f => Sys2Proof.Machine.execAttq f s
  | .seal f => Sys2Proof.Machine.execSeal f s
  | .unseal f => Sys2Proof.Machine.execUnseal f s
  | .capset f => Sys2Proof.Machine.execCapset f s
  | .capclr f => Sys2Proof.Machine.execCapclr f s
  | .dgopen f => Sys2Proof.Machine.execDgopen f s
  | .dgclose f => Sys2Proof.Machine.execDgclose f s
  | .dgsnap f => Sys2Proof.Machine.execDgsnap f s
  | .dgver f => Sys2Proof.Machine.execDgver f s
  | .fnrect f => Sys2Proof.Machine.execFnrect f s
  | .fnrectRel f => Sys2Proof.Machine.execFnrectRel f s
  | .tkillTask f => Sys2Proof.Machine.execTkillTask f s
  | .tkillConfig f => Sys2Proof.Machine.execTkillConfig f s
  | .tkillContext f => Sys2Proof.Machine.execTkillContext f s
  | .prempSave f => Sys2Proof.Machine.execPrempSave f s
  | .prempRestore f => Sys2Proof.Machine.execPrempRestore f s
  | .prempRemap f => Sys2Proof.Machine.execPrempRemap f s
  | .unassignedOpcode w => Sys2Proof.Machine.execUnassignedOpcode w s
  | .longLatencyFill t n => Sys2Proof.Machine.execLongLatencyFill t n s
  | .ldsWake t n => Sys2Proof.Machine.execLdsWake t n s
  | .performAtHome t n => Sys2Proof.Machine.execPerformAtHome t n s
  | .atomicAtHome t n => Sys2Proof.Machine.execAtomicAtHome t n s
  | .redArrival t n => Sys2Proof.Machine.execRedArrival t n s
  | .chainArrival t n => Sys2Proof.Machine.execChainArrival t n s
  | .chainRetry t n => Sys2Proof.Machine.execChainRetry t n s
  | .engineGranuleWrite t => Sys2Proof.Machine.execEngineGranuleWrite t s
  | .dreqReply t n => Sys2Proof.Machine.execDreqReply t n s
  | .streamElement t p => Sys2Proof.Machine.execStreamElement t p s
  | .patchCommand t => Sys2Proof.Machine.execPatchCommand t s
  | .pacerGrant f => Sys2Proof.Machine.execPacerGrant f s
  | .pacerStop f => Sys2Proof.Machine.execPacerStop f s
  | .runComplete t => Sys2Proof.Machine.execRunComplete t s
  | .firing t => Sys2Proof.Machine.execFiring t s
  | .taskStart t => Sys2Proof.Machine.execTaskStart t s
  | .actorClose t => Sys2Proof.Machine.execActorClose t s
  | .tokenArrival t q => Sys2Proof.Machine.execTokenArrival t q s
  | .recordArrival t => Sys2Proof.Machine.execRecordArrival t s
  | .tdecArrival t => Sys2Proof.Machine.execTdecArrival t s
  | .configStart sq => Sys2Proof.Machine.execConfigStart sq s
  | .endNotice sq => Sys2Proof.Machine.execEndNotice sq s
  | .launchPacket ctx => Sys2Proof.Machine.execLaunchPacket ctx s
  | .launchRecord t => Sys2Proof.Machine.execLaunchRecord t s
  | .engfault t => Sys2Proof.Machine.execEngfault t s
  | .engineFault t e => Sys2Proof.Machine.execEngineFault t e s
  | .digestScan ctx rg => Sys2Proof.Machine.execDigestScan ctx rg s
  | .partitionCreate p => Sys2Proof.Machine.execPartitionCreate p s
  | .powerOn b => Sys2Proof.Machine.execPowerOn b s
  | .softError e => Sys2Proof.Machine.execSoftError e s
  | .heartbeat t => Sys2Proof.Machine.execHeartbeat t s
  | .deadDeclaration t => Sys2Proof.Machine.execDeadDeclaration t s
  | .collectiveComplete g others => Sys2Proof.Machine.execCollectiveComplete g others s
  | .hostCxlMemAccess pa data wr => Sys2Proof.Machine.execHostCxlMemAccess pa data wr s
  | .sqtailDoorbell ctx v => Sys2Proof.Machine.execSqtailDoorbell ctx v s
  | .csrWrite r v => Sys2Proof.Machine.execCsrWrite r v s
  | .remoteCommandArrival t => Sys2Proof.Machine.execRemoteCommandArrival t s
  | .wakeAdmit f => Sys2Proof.Machine.execWakeAdmit f s
  | .powerGate t => Sys2Proof.Machine.execPowerGate t s
  | .engstFaultClear t => Sys2Proof.Machine.execEngstFaultClear t s
  | .savebaseWrite ctx v => Sys2Proof.Machine.execSavebaseWrite ctx v s
  | .redctlWrite ctx v => Sys2Proof.Machine.execRedctlWrite ctx v s
  | .cqheadWrite ctx v => Sys2Proof.Machine.execCqheadWrite ctx v s
  | .tmtailWrite v => Sys2Proof.Machine.execTmtailWrite v s
  | .stageTimeout sq => Sys2Proof.Machine.execStageTimeout sq s
  | .digestVerdict sq others => Sys2Proof.Machine.execDigestVerdict sq others s
  | .verdictTimeout sq => Sys2Proof.Machine.execVerdictTimeout sq s
  | .reservedTag t q => Sys2Proof.Machine.execReservedTag t q s
  | .chainConfirmation t => Sys2Proof.Machine.execChainConfirmation t s
  | .chainCancellation t => Sys2Proof.Machine.execChainCancellation t s
  | .chgap slice ch => Sys2Proof.Machine.execChgap slice ch s
  | .shootDown ctx va => Sys2Proof.Machine.execShootDown ctx va s
  | .pageMigration m => Sys2Proof.Machine.execPageMigration m s
  | .sensorSample t sm => Sys2Proof.Machine.execSensorSample t sm s
  | .throttleStep f => Sys2Proof.Machine.execThrottleStep f s
  | .networkGovernor f occ => Sys2Proof.Machine.execNetworkGovernor f occ s
  | .stopwatchRecord f => Sys2Proof.Machine.execStopwatchRecord f s
  | .powerKill f => Sys2Proof.Machine.execPowerKill f s
  | .deadReturn t n => Sys2Proof.Machine.execDeadReturn t n s
  | .dueErrorReply t n => Sys2Proof.Machine.execDueErrorReply t n s
  | .rejectReply t n => Sys2Proof.Machine.execRejectReply t n s
  | .rebalanceWindow o => Sys2Proof.Machine.execRebalanceWindow o s
  | .rebalanceMove o => Sys2Proof.Machine.execRebalanceMove o s
  | .drainTimeout t => Sys2Proof.Machine.execDrainTimeout t s
  | .escapeEntry f n => Sys2Proof.Machine.execEscapeEntry f n s
  | .redundantCompare sq => Sys2Proof.Machine.execRedundantCompare sq s
  | .linkTagFailure p => Sys2Proof.Machine.execLinkTagFailure p s
  | .linkRekey p => Sys2Proof.Machine.execLinkRekey p s
  | .sessionNonce o nt => Sys2Proof.Machine.execSessionNonce o nt s
  | .sessionCiphertext o ct => Sys2Proof.Machine.execSessionCiphertext o ct s
  | .unfreeze o tag => Sys2Proof.Machine.execUnfreeze o tag s
  | .alarm src at_ => Sys2Proof.Machine.execAlarm src at_ s
  | .partitionDestroy o => Sys2Proof.Machine.execPartitionDestroy o s
  | .mgmtAssignGroup n v => Sys2Proof.Machine.execMgmtAssignGroup n v s
  | .tileStateRequest t spare => Sys2Proof.Machine.execTileStateRequest t spare s
  | .stagedReleaseOrCancel sq release => Sys2Proof.Machine.execStagedReleaseOrCancel sq release s
  | .rebalanceSample f => Sys2Proof.Machine.execRebalanceSample f s
  | .lostClockOrSupply t => Sys2Proof.Machine.execLostClockOrSupply t s
  | .linkTraining p up => Sys2Proof.Machine.execLinkTraining p up s
  | .debugUnlock ok o digest => Sys2Proof.Machine.execDebugUnlock ok o digest s
  | .powerLoss retention => Sys2Proof.Machine.execPowerLoss retention s
  | .wfeTimeout t => Sys2Proof.Machine.execWfeTimeout t s
  | .sequencedMessage => Sys2Proof.Machine.execSequencedMessage s
  | .quoteComplete => Sys2Proof.Machine.execQuoteComplete s
  | .mgmtReadStopwatch => Sys2Proof.Machine.execMgmtReadStopwatch s
  | .mgmtReadSecurityLog => Sys2Proof.Machine.execMgmtReadSecurityLog s
  | .mgmtReadLinkst => Sys2Proof.Machine.execMgmtReadLinkst s
  | .migrationCancel => Sys2Proof.Machine.execMigrationCancel s
  | .ideKeyExchange => Sys2Proof.Machine.execIdeKeyExchange s

end Sys2Proof.Machine
end

