-- ==== Sys2Proof/Machine/Step.lean ====
section
/-! DEFINITION. One step of the module: the next deed of `nextDeed`, executed. -/

namespace Sys2Proof.Machine

/-- One step, with three outcomes. -/
def step (s : State) : Host.Outcome State Fault Refusal :=
  match nextDeed s with
  | .run i s => exec i s
  | .done s => .next s
  | .dead => .fault .heldInReset

/-- The same state with an instruction word placed where the next step fetches; one word is the whole instruction. DESIGN CHOICE: notes/assumptions/2.md. -/
def State.withFetchWord (s : State) (_nbits w : Nat) : State := placeWord s (BitVec.ofNat 64 w)

end Sys2Proof.Machine
end

