-- ==== Sys2Proof/Certificates/Slice0/Obligations.lean ====
section
/-! DEFINITION. The statements for the provers. Their vocabulary stands in namespace Sys2Proof.Spec, each statement after it.
A statement that an instruction completes gives its next state whole, as an equation, wherever it can: what the equation does not
change is the frame. -/

namespace Sys2Proof.Spec

open Sys2Proof.Machine

/-! ## Vocabulary: when an instruction issues, and what it leaves -/

/-- The tile that executes. -/
def here (s : State) : Tile := s.tile s.cur
/-- The tile issues for itself: it is in no formed gang, no referee steps it, and it does not halt behind a request that it still
waits for (R267, R399, R400). -/
def Alone (s : State) : Prop := (here s).gang = none ∧ (here s).sch.stepping = false ∧ (here s).sch.halted = none
/-- A register that a predicate names can be read: k0, or one of good parity (R15, R50). -/
def maskGood (p : Pred) (r : Regs) : Bool := p.pk == 0 || !r.parity.contains (.k, p.pk.toNat)
/-- Bit 0 of the predicate, which can be read, is set (R50). -/
def On (p : Pred) (s : State) : Prop := (nbit (Pred.mask p (here s).regs).toNat 0 && maskGood p (here s).regs) = true
/-- The predicate, which can be read, enables the lanes of a mask, one at least (R50). -/
def Lanes (p : Pred) (s : State) (m : BitVec 16) : Prop := Pred.mask p (here s).regs = m ∧ m ≠ 0 ∧ maskGood p (here s).regs = true
/-- A register of a file has good parity (R15). -/
abbrev Good (s : State) (k : RegKind) (i : Nat) : Prop := (k, i) ∉ (here s).regs.parity
/-- Reading a source gives a value and the state after it: a window's head is popped (R40), a register, a constant and a
literal leave the state as it was (R37, R46, R47). -/
def Gives (m : M α) (s : State) (a : α) (s' : State) : Prop := m s = .ok (a, s')
/-- The destination is not empty, or its output queue has a slot (R37, R40); where the mask leaves lanes as they are, they can be read
(R15, R50). -/
def Free (scalar : Bool) (d : BitVec 8) (s : State) (m : BitVec 16 := 0xFFFF) : Prop := dstReady scalar d.toNat m s = .ok ((), s)
/-- A g register that holds its value: full, with good parity, and no window (R37, R41). -/
def Holds (s : State) (r : BitVec 8) (v : Word) : Prop :=
  r.toNat < 56 ∧ tget .full (here s).regs.gFe r.toNat = .full ∧ Good s .g r.toNat ∧
    (here s).regs.getG r.toNat = v
/-- A g register that is not empty (R37). -/
def Ready (s : State) (r : BitVec 8) : Prop := r.toNat < 56 ∧ tget .full (here s).regs.gFe r.toNat ≠ .empty
/-- The current tile changed, its instruction retired: the next index or the loop's (R14, R289), one more in the counter. -/
def done (s : State) (f : Tile → Tile) (g : Go := .on) : State := s.modTile s.cur fun x => (f x).retire g
/-- A scalar result: in its g register, full, or as a token on the queue of a window (R36, R37, R40). -/
def putScalar (x : Tile) (d : BitVec 8) (v : Word) : Tile :=
  if d.toNat < 56 then { x with regs := x.regs.putG d.toNat v } else x.push (queueOf x false (d.toNat - 56)) (.scalar v)
/-- A vector result: the enabled lanes of its v register, or a token whose disabled lanes are zero (R40, R50). -/
def putVector (x : Tile) (d : BitVec 8) (m : BitVec 16) (v : Vec) : Tile :=
  if d.toNat < 248 then { x with regs := x.regs.putV d.toNat (mergeLanes m (x.regs.getV d.toNat) v) }
  else x.push (queueOf x true (d.toNat - 248)) (.vec (mergeLanes m 0 v))
/-- A register emptied (R37). -/
def emptied (x : Tile) (r : RegRef) : Tile := { x with regs := match r with
  | .g i => x.regs.emptyG i
  | .v i => x.regs.emptyV i
  | .win _ _ => x.regs }
/-- A result on its way: its register is empty until LONG_LATENCY_FILL (R37, R57); the next access is issued after it (R176). -/
def later (x : Tile) (r : RegRef) (v : Vec) (fl : Flags) : Tile :=
  { emptied x r with pend := x.pend ++ [{ dst := r, what := .value v fl, stamp := x.nextAcc }] }
/-- A value that an access delivers to a register is on its way. -/
def coming (x : Tile) (d : RegRef) (v : Vec) : Tile := { x with pend := x.pend ++ [{ dst := d, what := .value v 0 }] }
/-- The scalar and the vector destination as a place for a result on its way. -/
def scalarRef (x : Tile) (d : BitVec 8) : RegRef := if d.toNat < 56 then .g d.toNat else .win (queueOf x false (d.toNat - 56)) false
def vectorRef (x : Tile) (d : BitVec 8) : RegRef := if d.toNat < 248 then .v d.toNat else .win (queueOf x true (d.toNat - 248)) true
/-- No flag raised is enabled in FTRAP (R83). -/
def Quiet (s : State) (fl : Flags) : Prop := fl &&& (here s).csr.ftrap.setWidth 7 = 0

/-! ## Vocabulary: element-wise instructions (R45, R92) -/

/-- A code with its flags. -/
abbrev Out := Nat × Flags
/-- One element from up to three, under the CSRs, at its index. -/
abbrev Op := Csrs → Nat → Nat → Nat → Nat → Out
/-- The lane of element j is enabled. -/
def Enabled (m : BitVec 16) (w j : Nat) : Bool := m.getLsbD (w * j / 32)
/-- The flags of the enabled elements below k. -/
def elementFlags (m : BitVec 16) (w k : Nat) (op : Nat → Out) : Flags :=
  ((List.range k).filter (Enabled m w)).foldl (fun fl j => fl ||| (op j).2) 0
/-- A vector whose enabled elements are those of op. -/
def Elements (m : BitVec 16) (w k : Nat) (op : Nat → Out) (d : Vec) : Prop :=
  ∀ j, j < k → Enabled m w j = true → elemOf d.toNat w j = (op j).1 % 2 ^ w
/-- The n sources of a scalar execution read as elements a, b and c, in order. -/
def ScalarSources (f : FA) (n : Nat) (s : State) (a b c : Nat) (s' : State) : Prop :=
  ∃ s1 s2, Gives (readElem f.ty f.a) s a s1 ∧
    (if 2 ≤ n then Gives (readElem f.ty f.b) s1 b s2 else b = 0 ∧ s2 = s1) ∧
    (if 3 ≤ n then Gives (readElem f.ty f.c) s2 c s' else c = 0 ∧ s' = s2)
/-- The n sources of a vector execution as lists of elements. -/
def VectorSources (f : FA) (n : Nat) (s : State) (a b c : List Nat) (s' : State) : Prop :=
  ∃ s1 s2, Gives (readElems f.ty (512 / tyWidth f.ty) f.a) s a s1 ∧
    (if 2 ≤ n then Gives (readElems f.ty (512 / tyWidth f.ty) f.b) s1 b s2 else b = [] ∧ s2 = s1) ∧
    (if 3 ≤ n then Gives (readElems f.ty (512 / tyWidth f.ty) f.c) s2 c s' else c = [] ∧ s' = s2)
/-- The mode is none of 6 and 7 where the instruction rounds (R72). -/
def ModeOk (rounds : Bool) (s : State) : Prop := rounds = true → (here s).csr.mode < 6

/-- The scalar execution of an element-wise instruction: one element of each source, the result put by `put`. -/
def ScalarResult (i : Instr) (f : FA) (n : Nat) (rounds : Bool) (pre : State → List Nat → Prop) (op : Op)
    (put : Csrs → Tile → Out → Tile) : Prop :=
  f.dk = true → ∀ s s' a b c, Alone s → On f.p s → Free true f.dst s → ScalarSources f n s a b c s' → ModeOk rounds s →
    pre s [b] → Quiet s (op (here s).csr 0 a b c).2 →
    exec i s = .next (done s' fun x => put (here s).csr x (op (here s).csr 0 a b c))
/-- The vector execution: every enabled element, with the flags of all. -/
def VectorResult (i : Instr) (f : FA) (n : Nat) (rounds : Bool) (pre : State → List Nat → Prop) (op : Op)
    (put : Csrs → Tile → BitVec 16 → Vec → Flags → Tile) : Prop :=
  f.dk = false → ∀ s s' a b c m, Alone s → Lanes f.p s m → Free false f.dst s m → VectorSources f n s a b c s' →
    ModeOk rounds s → pre s b →
    let w := tyWidth f.ty
    let o (j : Nat) : Out := op (here s).csr j (el a j) (el b j) (el c j)
    let fl := elementFlags m w (512 / w) o
    Quiet s fl → ∃ d, Elements m w (512 / w) o d ∧ exec i s = .next (done s' fun x => put (here s).csr x m d fl)

/-- Both executions of an instruction that writes its destination at once, its flags with it (R57, R82, R85). -/
def Elementwise (i : Instr) (f : FA) (n : Nat) (rounds : Bool) (op : Op) : Prop :=
  ScalarResult i f n rounds (fun _ _ => True) op (fun _ x o => putScalar (x.raise o.2) f.dst (widen f.ty o.1)) ∧
  VectorResult i f n rounds (fun _ _ => True) op (fun _ x m d fl => putVector (x.raise fl) f.dst m d)
/-- What a vector register holds before, zero for a window. -/
def oldVector (x : Tile) (d : BitVec 8) : Vec := if d.toNat < 248 then x.regs.getV d.toNat else 0
/-- Both executions of a long-latency producer: with FTRAP zero the result and its flags come later, else at once (R57, R85). -/
def ElementwiseLater (i : Instr) (f : FA) (n : Nat) (rounds : Bool) (op : Op) : Prop :=
  ScalarResult i f n rounds (fun _ _ => True) op (fun c x o =>
    if c.ftrap.setWidth 7 = (0 : Flags) then later x (scalarRef x f.dst) ((widen f.ty o.1).setWidth 512) o.2
    else putScalar (x.raise o.2) f.dst (widen f.ty o.1)) ∧
  VectorResult i f n rounds (fun _ _ => True) op (fun c x m d fl =>
    if c.ftrap.setWidth 7 = (0 : Flags) then later x (vectorRef x f.dst) (mergeLanes m (oldVector x f.dst) d) fl
    else putVector (x.raise fl) f.dst m d)

/-! ## Vocabulary: integers (R68, R69) -/

/-- The number that an element is, by the signedness of its type. -/
def intOf (ty : BitVec 4) (x : Nat) : Int :=
  if tySigned ty then (BitVec.ofNat (tyWidth ty) x).toInt else (BitVec.ofNat (tyWidth ty) x).toNat
/-- The ends of a type's range. -/
def intMin (ty : BitVec 4) : Int := if tySigned ty then -(2 ^ (tyWidth ty - 1)) else 0
def intMax (ty : BitVec 4) : Int := if tySigned ty then 2 ^ (tyWidth ty - 1) - 1 else 2 ^ tyWidth ty - 1
/-- An exact result in its type (R69): wrapped with no flag, or with the saturate bit at the nearest end of the range with SA. -/
def narrow (ty : BitVec 4) (sat : Bool) (z : Int) : Out :=
  let code (y : Int) : Nat := (BitVec.ofInt (tyWidth ty) y).toNat
  if sat = false then (code z, 0)
  else if z < intMin ty then (code (intMin ty), SA)
  else if intMax ty < z then (code (intMax ty), SA)
  else (code z, 0)
/-- An integer operation on two elements as exact numbers. -/
def exactly (f : FA) (g : Int → Int → Int) : Op := fun _ _ a b _ => narrow f.ty f.sat (g (intOf f.ty a) (intOf f.ty b))
/-- Instructions whose result is an exact integer in its type: the constructor, its sources and the number (R96). -/
def integerRows : List ((FA → Instr) × Nat × (FA → Int → Int → Int)) := [
  (.add, 2, fun _ a b => a + b), (.sub, 2, fun _ a b => a - b), (.mul, 2, fun _ a b => a * b),
  (.mulh, 2, fun f a b => a * b / 2 ^ tyWidth f.ty), (.mulhn, 2, fun f a b => a * b / 2 ^ tyWidth f.ty),
  (.neg, 1, fun _ a _ => -a), (.abs, 1, fun _ a _ => |a|),
  (.min, 2, fun _ a b => Min.min a b), (.max, 2, fun _ a b => Max.max a b),
  (.minn, 2, fun _ a b => Min.min a b), (.maxn, 2, fun _ a b => Max.max a b)]

/-! ## Vocabulary: bits (R96, R98-R100) -/

/-- An operation on the w bits of up to three elements. -/
def bitwise (f : FA) (g : (w : Nat) → BitVec w → BitVec w → BitVec w → BitVec w) : Op := fun _ _ a b c =>
  let w := tyWidth f.ty
  ((g w (BitVec.ofNat w a) (BitVec.ofNat w b) (BitVec.ofNat w c)).toNat, 0)
/-- Zeros above the highest one, and below the lowest one, of w bits. -/
def leadingZeros (w : Nat) (a : BitVec w) : Nat := ((List.range w).takeWhile fun i => !a.getMsbD i).length
def trailingZeros (w : Nat) (a : BitVec w) : Nat := ((List.range w).takeWhile fun i => !a.getLsbD i).length
def onesOf (w : Nat) (a : BitVec w) : Nat := ((List.range w).filter fun i => a.getLsbD i).length
/-- The first bit and the length of the field that a descriptor names in w bits (R99). -/
def fieldPos (w : Nat) (d : BitVec w) : Nat := d.toNat % 256
def fieldLen (w : Nat) (d : BitVec w) : Nat := Nat.min (fieldPos w d + d.toNat / 256 % 256) w - fieldPos w d
/-- The bits of a field of w bits. -/
def fieldMask (w pos len : Nat) : BitVec w := BitVec.ofNat w ((2 ^ len - 1) * 2 ^ pos)
/-- Instructions whose result is a function of the elements' bits, with no flag: the constructor, its sources, the bits. -/
def bitRows : List ((FA → Instr) × Nat × (FA → (w : Nat) → BitVec w → BitVec w → BitVec w → BitVec w)) := [
  (.and, 2, fun _ _ a b _ => a &&& b), (.or, 2, fun _ _ a b _ => a ||| b), (.xor, 2, fun _ _ a b _ => a ^^^ b),
  (.andn, 2, fun _ _ a b _ => a &&& ~~~ b), (.orn, 2, fun _ _ a b _ => a ||| ~~~ b), (.not, 1, fun _ _ a _ _ => ~~~ a),
  (.shr, 2, fun _ _ a b _ => a >>> b.toNat), (.sra, 2, fun _ _ a b _ => a.sshiftRight b.toNat),
  (.rol, 2, fun _ _ a b _ => a.rotateLeft b.toNat), (.mov, 1, fun _ _ a _ _ => a),
  (.sel, 3, fun _ _ a b c => if c ≠ 0 then a else b),
  (.clz, 1, fun _ w a _ _ => BitVec.ofNat w (leadingZeros w a)), (.ctz, 1, fun _ w a _ _ => BitVec.ofNat w (trailingZeros w a)),
  (.popc, 1, fun _ w a _ _ => BitVec.ofNat w (onesOf w a)), (.brev, 1, fun _ _ a _ _ => a.reverse),
  (.sext, 1, fun f w a _ _ => (a.setWidth (8 * 2 ^ f.m.toNat)).signExtend w),
  (.zext, 1, fun f w a _ _ => (a.setWidth (8 * 2 ^ f.m.toNat)).setWidth w),
  (.bext, 2, fun f w a d _ =>
    let x : BitVec (fieldLen w d) := a.extractLsb' (fieldPos w d) (fieldLen w d)
    if tySigned f.ty then x.signExtend w else x.setWidth w),
  (.bins, 3, fun _ w a b d =>
    let k := fieldMask w (fieldPos w d) (fieldLen w d)
    (a &&& ~~~ k) ||| (b <<< fieldPos w d &&& k))]
/-- shl (R98): a shift by the width or more leaves zero; saturating, the exact product clamped. -/
def shifted (f : FA) : Op := fun _ _ a b _ =>
  let w := tyWidth f.ty
  if f.sat then narrow f.ty true (intOf f.ty a * 2 ^ b) else ((BitVec.ofNat w a <<< b).toNat, 0)
/-- sadd and ssub (R102): saturated, or halved toward −∞, or halved after adding one. -/
def halved (f : FA) (sub : Bool) : Op := fun _ _ a b _ =>
  let x := if sub then intOf f.ty a - intOf f.ty b else intOf f.ty a + intOf f.ty b
  match f.m.toNat with
  | 0 => narrow f.ty true x
  | 1 => narrow f.ty false (x / 2)
  | _ => narrow f.ty false ((x + 1) / 2)
/-- A condition as an element: 1 in a scalar execution, all ones in a vector one (R101). -/
def condition (f : FA) (p : Prop) [Decidable p] (fl : Flags) : Out :=
  (if p then (if f.dk then 1 else 2 ^ tyWidth f.ty - 1) else 0, fl)
/-- The conditions of cmp (R101). -/
def compares (f : FA) (a b : Nat) : Prop :=
  match f.m.toNat with
  | 0 => intOf f.ty a = intOf f.ty b
  | 1 => intOf f.ty a ≠ intOf f.ty b
  | 2 => intOf f.ty a < intOf f.ty b
  | _ => intOf f.ty a ≤ intOf f.ty b

/-! ## Vocabulary: floating point (R60-R90, R104) -/

/-- A function of the values of up to three elements, rounded under the sampled mode with the element's own rnd (R77). -/
def rounded (f : FA) (g : Rm → Val → Val → Val → Res) : Op := fun c j a b d =>
  let r := g (rmOf c f.dk f.dst j) (decodeVal (fOf f) a) (decodeVal (fOf f) b) (decodeVal (fOf f) d)
  (r.code, r.fl)
/-- Instructions that round and write at once (R105). -/
def roundedRows : List ((FA → Instr) × Nat × (FA → Rm → Val → Val → Val → Res)) := [
  (.fadd, 2, fun f rm x y _ => addVal (fOf f) rm f.sat false x y), (.fsub, 2, fun f rm x y _ => addVal (fOf f) rm f.sat true x y),
  (.fmul, 2, fun f rm x y _ => mulVal (fOf f) rm f.sat x y), (.fma, 3, fun f rm x y z => fmaVal (fOf f) rm f.sat false false x y z),
  (.fms, 3, fun f rm x y z => fmaVal (fOf f) rm f.sat false true x y z),
  (.fnma, 3, fun f rm x y z => fmaVal (fOf f) rm f.sat true false x y z)]
/-- Long-latency producers that round (R105, R110, R111). -/
def laterRows : List ((FA → Instr) × Nat × (FA → Rm → Val → Val → Val → Res)) := [
  (.fdiv, 2, fun f rm x y _ => divVal (fOf f) rm f.sat x y), (.frcp, 1, fun f rm x _ _ => rcpVal (fOf f) rm f.sat x),
  (.frsq, 1, fun f rm x _ _ => rsqrtVal (fOf f) rm x), (.fsqrt, 1, fun f rm x _ _ => sqrtVal (fOf f) rm x),
  (.fexp2, 1, fun f rm x _ _ => realVal (fOf f) rm .exp2 f.sat x), (.flog2, 1, fun f rm x _ _ => realVal (fOf f) rm .log2 f.sat x),
  (.fsin, 1, fun f rm x _ _ => realVal (fOf f) rm .sin f.sat x), (.fcos, 1, fun f rm x _ _ => realVal (fOf f) rm .cos f.sat x),
  (.fsinpi, 1, fun f rm x _ _ => realVal (fOf f) rm .sinpi f.sat x), (.fcospi, 1, fun f rm x _ _ => realVal (fOf f) rm .cospi f.sat x),
  (.ftanh, 1, fun f rm x _ _ => realVal (fOf f) rm .tanh f.sat x), (.fsigm, 1, fun f rm x _ _ => realVal (fOf f) rm .sigm f.sat x)]
/-- Instructions that act on codes and round nothing under the sampled mode (R106, R107, R109, R113): what each makes of the
codes a and b. -/
def codeRows : List ((FA → Instr) × Nat × (FA → Nat → Nat → Out)) := [
  (.fmin, 2, fun f a b => let r := minmaxVal (fOf f) true false (decodeVal (fOf f) a) (decodeVal (fOf f) b) a b; (r.code, r.fl)),
  (.fmax, 2, fun f a b => let r := minmaxVal (fOf f) false false (decodeVal (fOf f) a) (decodeVal (fOf f) b) a b; (r.code, r.fl)),
  (.fminp, 2, fun f a b => let r := minmaxVal (fOf f) true true (decodeVal (fOf f) a) (decodeVal (fOf f) b) a b; (r.code, r.fl)),
  (.fmaxp, 2, fun f a b => let r := minmaxVal (fOf f) false true (decodeVal (fOf f) a) (decodeVal (fOf f) b) a b; (r.code, r.fl)),
  (.fabs, 1, fun f a _ => (a % 2 ^ (tyWidth f.ty - 1), 0)),
  (.fneg, 1, fun f a _ => (a % 2 ^ (tyWidth f.ty - 1) + (if nbit a (tyWidth f.ty - 1) then 0 else 2 ^ (tyWidth f.ty - 1)), 0)),
  (.fsgn, 2, fun f a b => (a % 2 ^ (tyWidth f.ty - 1) + (if nbit b (tyWidth f.ty - 1) then 2 ^ (tyWidth f.ty - 1) else 0), 0)),
  (.fclass, 1, fun f a _ => (2 ^ fclassBit (fOf f) (decodeVal (fOf f) a), 0)),
  (.fgetexp, 1, fun f a _ => let r := fgetexpVal (fOf f) (decodeVal (fOf f) a) a; (r.code, r.fl)),
  (.fcmp, 2, fun f a b =>
    let r := fcmpVal f.m.toNat (decodeVal (fOf f) a) (decodeVal (fOf f) b)
    condition f (r.1 = true) r.2)]
/-- The exact value of a finite number. -/
def ratOf (d : Dy) : Rat := (if d.s then -1 else 1) * (d.m : Rat) * (2 : Rat) ^ d.e
/-- The formats with a sign (R60). -/
def formats : List Fmt := [f32, bf16, f16, e4m3, e5m2, e2m1]
/-- What rounding x into a format may give: y is the value of a code, no code's value lies strictly between x and y, and the
mode picks the side (R74): RNE the nearer, RTZ toward zero, RDN below, RUP above, RNA the nearer. -/
def Rounds (f : Fmt) (mode : Nat) (x y : Rat) : Prop :=
  (∀ code z, decodeVal f code = .fin z → ¬ (x < ratOf z ∧ ratOf z < y) ∧ ¬ (y < ratOf z ∧ ratOf z < x)) ∧
  ((mode = 0 ∨ mode = 4) → ∀ code z, decodeVal f code = .fin z → |y - x| ≤ |ratOf z - x|) ∧
  (mode = 1 → |y| ≤ |x|) ∧ (mode = 2 → y ≤ x) ∧ (mode = 3 → x ≤ y)

/-! ## Vocabulary: moves of elements (R117, R118) -/

/-- The permutes: the constructor, whether B is a vector of indices, whether C is read, and element j of n (R117). -/
def permuteRows : List ((FA → Instr) × Bool × Bool × (Nat → (Nat → Nat) → (Nat → Nat) → (Nat → Nat) → Nat → Nat)) := [
  (.vperm, true, false, fun n a b _ j => a (b j % n)), (.vbcast, false, false, fun n a b _ _ => a (b 0 % n)),
  (.vrot, false, false, fun n a b _ j => a ((j + (n - b 0 % n)) % n)),
  (.vslide, false, true, fun n a b c j => if j + b 0 < n then a (j + b 0) else c (j + Nat.min (b 0) n - n))]
/-- Selected lanes below lane i. -/
def below (sel : BitVec 16) (i : Nat) : Nat := ((List.range i).filter fun k => sel.getLsbD k).length
/-- Element j of a list as a function. -/
def at_ (l : List Nat) (j : Nat) : Nat := el l j
/-- One source of a permute's B: a vector of indices or one amount (R117). -/
def ReadsB (f : FA) (vec : Bool) (s : State) (b : List Nat) (s' : State) : Prop :=
  if vec then Gives (readElems (intTy f.ty) (512 / tyWidth f.ty) f.b) s b s'
  else ∃ x, Gives (readElem (intTy f.ty) f.b) s x s' ∧ b = [x]

/-! ## Vocabulary: results with one value -/

/-- A long-latency scalar result, and a vector result, as they are delivered (R57, R85). -/
def deliverScalar (c : Csrs) (x : Tile) (d : BitVec 8) (v : Word) (fl : Flags) : Tile :=
  if c.ftrap.setWidth 7 = (0 : Flags) then later x (scalarRef x d) (v.setWidth 512) fl else putScalar (x.raise fl) d v
def deliverVector (c : Csrs) (x : Tile) (d : BitVec 8) (m : BitVec 16) (v : Vec) (fl : Flags) : Tile :=
  if c.ftrap.setWidth 7 = (0 : Flags) then later x (vectorRef x d) (mergeLanes m (oldVector x d) v) fl
  else putVector (x.raise fl) d m v
/-- A reduction's result: in g, or in element 0 of v with zeros above (R119). -/
def deliverReduction (c : Csrs) (f : FA) (x : Tile) (code : Nat) (fl : Flags) : Tile :=
  if f.dk then deliverScalar c x f.dst (widen f.ty code) fl
  else deliverVector c x f.dst 0xFFFF (BitVec.ofNat 512 (code % 2 ^ tyWidth f.ty)) fl
/-- The elements of a list whose lanes are enabled, as integers of the type. -/
def enabledInts (f : FA) (m : BitVec 16) (a : List Nat) : List Int :=
  ((List.range a.length).filter (Enabled m (tyWidth f.ty))).map fun j => intOf f.ty (el a j)
/-- A predicate source (R122). -/
def PredSource (a : Src) (s : State) (k : BitVec 16) : Prop :=
  match a with
  | .g i _ => (i.toNat ≠ 0 → Good s .k i.toNat) ∧ k = (here s).regs.getK i.toNat
  | .c i => Good s .c i.toNat ∧ k = (tget 0 (here s).regs.c i.toNat).setWidth 16
  | .lit c => k = c.signExtend 16
  | .v _ _ => False
/-- A vector source. -/
def VectorSource (a : Src) (s : State) (v : Vec) (s' : State) : Prop :=
  match a with
  | .v i w => Gives (readV i.toNat w) s v s'
  | _ => False
/-- The i-th signed or unsigned element of width w of a vector. -/
def wideInt (f : FA) (w : Nat) (v : Vec) (j : Nat) : Int :=
  if tySigned f.ty then (BitVec.ofNat w (elemOf v.toNat w j)).toInt else elemOf v.toNat w j


/-! ## Vocabulary: memory (R22-R28, R162, R178) -/

/-- The byte that stands at a home. -/
def byteAt (s : State) (h : Home) : Byte := tget 0 (s.homeStore h).1.bytes (s.homeStore h).2
/-- Every store lists its bytes in rising order, none of them zero; the tiles stand in rising order. -/
def StoresCanonical (s : State) : Prop :=
  trises 0 s.tiles = true ∧ s.dram.bytes.wf = true ∧ s.hostMem.wf = true ∧ (∀ e ∈ s.tiles, e.2.store.bytes.wf = true) ∧
    ∀ c ∈ s.ctxs, ∀ k ∈ c.2.saved, ∀ e ∈ k.tiles, e.2.store.bytes.wf = true
/-- n bytes at a home meet no other home than these. -/
def Outside (h : Home) (n : Nat) (k : Home) : Prop := ∀ i, i < n → k ≠ h.add i
/-- The address of a format M instruction: base plus the sign-extended offset (R52). -/
def Address (f : FM) (s : State) (a : Word) : Prop := ∃ b, Holds s f.base b ∧ a = b + f.off.signExtend 64
/-- An address leads to an offset of the own tile store, on every spelling of it, for n bytes aligned to n (R22-R24, R215). -/
def Own (s : State) (a : Word) (n off : Nat) : Prop := steer s.cur (here s).csr.stkbase a n = some (.tile s.cur off) ∧ a.toNat % n = 0
/-- An access of the core numbered id to n bytes of the own store has its turn: no earlier one to a line of theirs is outstanding, no
fence holds it back, and every claim issued before it has its token (R163, R176, R219, R232). -/
def HasTurn (s : State) (id off n : Nat) : Prop :=
  portBusy s s.cur id ⟨.tile s.cur off, 0, n, 0, 0, 0⟩ = false ∧ fenceOk s s.cur id = true ∧ (here s).acquired id = true
/-- The core's next access has its turn. -/
def PortFree (s : State) (off n : Nat) : Prop := HasTurn s (here s).nextAcc off n
/-- The running task is an M task. -/
def MTask (s : State) : Prop := (here s).isM = true
def ITask (s : State) : Prop := (here s).isM = false
/-- No hurdle word that is armed meets n bytes (R247). -/
def Unarmed (s : State) (off n : Nat) : Prop := armedAt (here s) off n = none
/-- Every hurdle word is one aligned 8-byte unit, as HDINIT binds it (R246). -/
def HurdlesAligned (s : State) : Prop := ∀ e ∈ (here s).eng.hds, ∀ o, e.2.bound = some o → o % 8 = 0
/-- No hurdle of the tile has its word among n bytes. -/
def NoHurdle (s : State) (off n : Nat) : Prop :=
  ∀ e ∈ (here s).eng.hds, ∀ o, e.2.bound = some o → o + 8 ≤ off ∨ off + n ≤ o
/-- The low n bytes of a value. -/
def lowBytes (n : Nat) (v : Nat) : List Byte := (List.range n).map (byteOf v)
/-- The number in n bytes of the own store. -/
def ownNumber (s : State) (off n : Nat) : Nat := ofBytes (readBytes (here s).store.bytes off n)
/-- A store in which at most soft errors are corrected. -/
def Corrected (a b : Store) : Prop := b.bytes = a.bytes ∧ b.fe = a.fe ∧ b.bad2 = a.bad2 ∧ ∀ u ∈ b.bad1, u ∈ a.bad1
/-- The data register of a store (R52, R218). -/
def Data (f : FM) (s : State) (d : Vec) : Prop :=
  if f.dk then ∃ v, Holds s f.dst v ∧ d = v.setWidth 512
  else Gives (readV f.dst.toNat false) s d s
/-- The 32-bit lane i of a vector. -/
def lane (v : Vec) (i : Nat) : Nat := elemOf v.toNat 32 i
/-- The next access number taken. -/
def numbered (x : Tile) : Tile := { x with nextAcc := x.nextAcc + 1 }
/-- A fence of a scope behind what the core has issued; those that wait for nothing any more are forgotten (R232). -/
def fenced (s : State) (scope : Nat) (x : Tile) : Tile := { x with sch := { x.sch with
  fences := (x.sch.fences.filter fun e => !scopeClear s s.cur e.1 e.2) ++ [(scope, x.nextAcc)] } }
/-- The fence of wafer scope of `.acq` and `.rel` (R219). -/
def ordered (s : State) (on : Bool) (x : Tile) : Tile := if on then fenced s 2 x else x
/-- A load whose value has come: the register is empty until LONG_LATENCY_FILL (R57). -/
def loaded (x : Tile) (r : RegRef) (v : Vec) (st : Store) : Tile := { coming (emptied (numbered x) r) r v with store := st }
/-- What an atomic makes of the word x at its home, from operand a and comparand y (R230). -/
def atomic (op : BitVec 3) (uns : Bool) (w : Nat) (x a y : BitVec w) : BitVec w :=
  match op.toNat with
  | 0 => x + a
  | 1 => x &&& a
  | 2 => x ||| a
  | 3 => x ^^^ a
  | 4 => if (if uns then decide (x.toNat < a.toNat) else decide (x.toInt < a.toInt)) then x else a
  | 5 => if (if uns then decide (x.toNat < a.toNat) else decide (x.toInt < a.toInt)) then a else x
  | 6 => a
  | _ => if x = a then y else x
/-- An entry added to the store buffer. -/
def buffered (x : Tile) (b : BufItem) : Tile := { x with sch := { x.sch with fx := { x.sch.fx with sb := x.sch.fx.sb ++ [b] } } }
/-- The store buffer has room for an entry (R165). -/
def Room (s : State) (b : BufItem) : Prop := sbSize (here s).sch.fx.sb + b.size ≤ Config.storeBufferBytes
/-- An access on its way to its home: in the network, counted (R162, R404). -/
def sent (x : Tile) (a : Acc) : Tile := ({ x with net := x.net ++ [a] } : Tile).perfAdd 5 1
/-- An access to the own store that waits for its turn: no message (R163, R404). -/
def waiting (x : Tile) (a : Acc) : Tile := ({ x with net := x.net ++ [a] } : Tile).perfAdd 5 0
/-- An access of one part of the own store. -/
def ownAcc (s : State) (op : AccOp) (a : Word) (n off : Nat) : Acc :=
  { id := (here s).nextAcc, parts := [⟨.tile s.cur off, a, n, 0, 0, 0⟩], op := op, issued := (here s).nextAcc }
/-- An access of one part at the home that a translation gives. -/
def farAcc (s : State) (op : AccOp) (ph : Phys) (a : Word) (n : Nat) : Acc :=
  { id := (here s).nextAcc, parts := [ph.part a n 0], op := op, issued := (here s).nextAcc }
/-- A feclr of n bytes from a home, line by line. -/
def clearAcc (s : State) (ph : Phys) (a : Word) (n : Nat) : Acc :=
  { id := (here s).nextAcc, parts := feclrParts ph a n, op := .feclr, issued := (here s).nextAcc }
/-- A lane's address in a gather or scatter (R220). -/
def laneAddr (f : FM) (b : Word) (ix : Vec) (i : Nat) : Word :=
  b + BitVec.ofInt 64 ((BitVec.ofNat 32 (lane ix i)).toInt * 2 ^ (f.aux.toNat % 4))
/-- Chain link values that a sequence pair of registers holds (R226). -/
def Pair (f : FM) (s : State) (slice ch : Nat) (sn pn nn : BitVec 24) : Prop :=
  ∃ x y, Holds s (BitVec.ofNat 8 (2 * f.aux.toNat)) x ∧ Holds s (BitVec.ofNat 8 (2 * f.aux.toNat + 1)) y ∧
    x.toNat = sn.toNat + 2 ^ 24 * pn.toNat ∧ (∃ h, y.toNat = nn.toNat + 2 ^ 24 * h ∧ h < 16 ∧
      tget none (here s).eng.handles h = some (slice, ch)) ∧ sn ≠ 0xFFFFFF ∧ pn ≠ 0xFFFFFF
/-- The actor does not replay, and its configuration is not redundant (R384, R394). -/
def NoReplay (s : State) : Prop := ((s.actorDecl s.cur).map (·.replay)).getD false = false
def NotRedundant (s : State) : Prop := runOf s s.cur = none

/-- The size code of PGSZ, and the bytes of a page (R171). -/
def pageCode (s : State) : BitVec 2 := (here s).csr.pgsz.setWidth 2
/-- A memory instruction that has come to the checks of its access to n bytes at an address: whether the access is aligned as its form
asks, whether it writes, and whether it may name a page of the host's memory (R174, R215-R230). -/
def AccessForm (i : Instr) (f : FM) (s : State) (a : Word) (n : Nat) (aligned writes host : Bool) : Prop :=
  let plain := aligned = decide (a.toNat % n = 0)
  (i = .ld f ∧ n = sizeBytes f.size ∧ f.size.toNat < 4 ∧ plain ∧ writes = false ∧ host = true ∧ (f.ord = 1 → MTask s) ∧ Free true f.dst s) ∨
  (i = .st f ∧ n = sizeBytes f.size ∧ f.size.toNat < 4 ∧ plain ∧ writes = true ∧ host = true ∧ f.dk = true ∧ (f.ord = 2 → MTask s) ∧
    ∃ d, Data f s d) ∨
  (i = .stf f ∧ n = 64 ∧ f.size = 4 ∧ plain ∧ writes = true ∧ host = false ∧ f.dk = false ∧ ∃ d, Data f s d) ∨
  (i = .lds f ∧ n = sizeBytes f.size ∧ plain ∧ writes = false ∧ host = false ∧ (f.aux.getLsbD 0 = true → MTask s) ∧ Free f.dk f.dst s) ∨
  (i = .fetst f ∧ n = 1 ∧ plain ∧ writes = false ∧ host = false ∧ Free true f.dst s) ∨
  (i = .amo f ∧ n = (if f.aux.getLsbD 0 then 8 else 4) ∧ plain ∧ writes = true ∧ host = false ∧ f.aux.getLsbD 3 = false ∧ NoReplay s ∧
    ∃ x y, Holds s f.dst x ∧ (f.size = 7 → Holds s (BitVec.ofNat 8 (f.dst.toNat + 1)) y)) ∨
  (i = .feclr f ∧ writes = true ∧ host = false ∧ 0 < n ∧ (∃ x, Holds s f.dst x ∧ n = x.toNat) ∧
    aligned = match steer s.cur (here s).csr.stkbase a n with
      | some (.tile _ _) => decide (a.toNat % 4 = 0 ∧ n % 4 = 0 ∧ n < 2 ^ 24)
      | some (.glob _) => decide (a.toNat % 64 = 0 ∧ n % 64 = 0 ∧ n < 2 ^ 24 ∧
          a.toNat / pageBytes (pageCode s) = (a.toNat + n - 1) / pageBytes (pageCode s))
      | none => true)

/-! ## Vocabulary: engines and patch (R144, R238-R250) -/

/-- The tile that executes stands in the list of tiles. -/
def Listed (s : State) : Prop := s.setTile s.cur (here s) = s
/-- No memory error stands in the own store, and the tile is listed. -/
def Whole (s : State) : Prop := Listed s ∧ (here s).store.bad1 = [] ∧ (here s).store.bad2 = []
/-- The core's access to the word of a bound hurdle entry has its turn and meets no error (R15, R163, R232). -/
def HurdleTurn (s : State) (h : Nat) : Prop := Whole s ∧ ∀ o, ((here s).hd h).bound = some o → PortFree s o 8
/-- n bytes of the own store from a 64-byte multiple, under any of its spellings (R24, R141). -/
def OwnBlock (s : State) (a : Word) (n align off : Nat) : Prop :=
  steer s.cur (here s).csr.stkbase a n = some (.tile s.cur off) ∧ a.toNat % align = 0
/-- n bytes of the own store that the core port reads plainly: it has its turn, no store buffer over them, no error under them. -/
def Plain (s : State) (off n : Nat) : Prop :=
  PortFree s off n ∧ (here s).sch.fx.sb = [] ∧ (here s).store.bad1 = [] ∧ (here s).store.bad2 = []
/-- The task that issues an engine operation owns it while it is an I task (R237). -/
def byTask (s : State) : Bool := !(here s).isM
/-- An address in the spelling of the own store or of the stack window (R22). -/
def LocalSpelling (a : Word) : Prop := a.toNat < 0x180000 ∨ (0x1000000 ≤ a.toNat ∧ a.toNat < 0x1010000)
/-- One end of a row that a copy takes: aligned, its owner the tile's, whole lines at a global destination (R244). -/
def RowOk (s : State) (a : Word) (n : Nat) (dst : Bool) : Prop :=
  a.toNat % 4 = 0 ∧ match steer s.cur (here s).csr.stkbase a n with
    | none => False
    | some (.tile u _) => u = s.cur ∨ s.ownerOf u = s.ownerOf s.cur
    | some (.glob _) => dst = true → a.toNat % 64 = 0 ∧ n % 64 = 0
/-- What a copy needs to start (R238, R244, R248). -/
structure CopyOk (s : State) (o : CopyOp) : Prop where
  size : o.rb % 4 = 0 ∧ 1 ≤ o.rows ∧ o.rows ≤ 65535 ∧ 4 ≤ o.rb * o.rows ∧ o.rb * o.rows ≤ 2 ^ 24
  localDst : ITask s → ∀ r, r < o.rows → LocalSpelling (o.dstRow r)
  hurdle : ∀ h, o.hd = some h → (here s).armed h ≠ none ∧ Whole s
  apart : ∀ r q, r < o.rows → q < o.rows →
    rowsMeet s.cur (here s).csr.stkbase (o.srcRow r) (o.dstRow q) o.rb o.rowBytes = false
  mode : ModeOk (o.cvt != 0) s
  rows : ∀ r, r < o.rows → RowOk s (o.srcRow r) o.rb false ∧ RowOk s (o.dstRow r) o.rowBytes true
  room : (here s).eng.copies.length < 8
/-- A copy at the end of the engine's queue: its hurdle counts it, its destination is empty (R178, R244, R248). -/
def copying (s : State) (o : CopyOp) : State :=
  let s1 := match o.hd with
    | some h => pendBy s s.cur h true o.byTask
    | none => s
  let s2 := (List.range o.rows).foldl (fun a r =>
    emptyRange a s.cur o.ctx o.car.stkbase o.pgsz (pagesOf o.rowBytes) (o.dstRow r) o.rowBytes) s1
  s2.modTile s.cur fun x => { x with eng := { x.eng with copies := x.eng.copies ++ [o] } }
/-- HD and CVT of a copy (R239). -/
def hdOf (f : FE) : Option Nat := if f.cmd.getLsbD 0 then some f.ix.toNat else none
def cvtOf (f : FE) : BitVec 2 := (f.cmd >>> 1).setWidth 2
/-- In an I task no command enters the patch while region or ring mode is on (R145). -/
def PlainPatch (s : State) : Prop := ITask s → (here s).view.rgn = false ∧ (here s).view.ring = false
/-- The command queue has room (R144). -/
def CmdRoom (s : State) : Prop := (here s).pu.q.length < 16
/-- A command of the running task at the end of the patch's queue, with the CSRs it carries and its priority (R71, R144, R146). -/
def queued (s : State) (c : PCmd) : State :=
  enqueueCmd s s.cur { cmd := c, car := (here s).csr.carry, pri := ((here s).sch.task.map (·.pri)).getD 0, byTask := true }
/-- The store address of a command: an operand where it names one, of n bytes that the own store holds (R141). -/
def CmdAddr (s : State) (named : Bool) (r : BitVec 8) (n : Nat) (a : Word) : Prop :=
  if named then Holds s r a ∧ ∃ off, OwnBlock s a n 64 off else a = 0

/-! ## Vocabulary: control, queues, tasks (R284-R312) -/

/-- An output queue takes a token now: it has a slot that no held push and no result on its way reserves (R40, R257, R294). -/
def Slot (s : State) (q : Nat) : Prop :=
  q < 16 ∧ 0 < ((here s).outQ q).depth ∧ 0 < (here s).outFree q ∧ (here s).winPend q = 0
/-- An input queue that the actor declares. -/
def Declared (s : State) (q : Nat) : Prop := q < 16 ∧ 0 < ((here s).inQ q).depth
/-- A register that waits for something: it is empty until then (R37). -/
def awaits (x : Tile) (r : RegRef) (w : PendWhat) : Tile :=
  { emptied x r with pend := x.pend ++ [{ dst := r, what := w, stamp := x.nextAcc }] }
/-- The index off32 instructions on (R53). -/
def target (s : State) (off : BitVec 32) : Nat := (BitVec.ofNat 64 (here s).regs.pc + off.signExtend 64).toNat
/-- The conditions of bc (R286). -/
def Branches (f : FC) (g : Word) : Prop :=
  match f.aux.toNat % 8 with
  | 0 => g = 0
  | 1 => g ≠ 0
  | 2 => g.toInt < 0
  | 3 => 0 ≤ g.toInt
  | 4 => g.toInt ≤ 0
  | _ => 0 < g.toInt
/-- Loops left when loop k ends: those started before it (R288, R290). -/
def loopsLeft (k : Nat) (l : List Nat) : List Nat := if k ∈ l then endLoops k l else l
/-- A message held until the task commits (R300, R301). -/
def messaged (x : Tile) (m : Msg) : Tile :=
  { x with sch := { x.sch with fx := { x.sch.fx with heldMsg := x.sch.fx.heldMsg ++ [m] } } }
/-- The actor stands on one tile. -/
def Single (s : State) : Prop := team s s.cur = [s.cur]
/-- Every result on its way to a window is a claim, which outlives its task; another one would still be a push of it (R257, R295). -/
def Settled (s : State) : Prop :=
  ∀ p ∈ (here s).pend, ∀ q b, p.dst = .win q b → ∃ c any word lanes, p.what = .claim c any word lanes
/-- A formed gang of n tiles whose anchor executes (R267, R304). -/
structure Members (s : State) (n : Nat) : Prop where
  some_ : 0 < n
  member : ∀ i, i < n → (s.tile (s.cur + i)).gang = some ⟨s.cur, i, n⟩
  plain : ∀ i, i < n → (s.tile (s.cur + i)).sch.stepping = false ∧ (s.tile (s.cur + i)).sch.halted = none
/-- The same, every member's predicate on. -/
structure Formed (p : Pred) (s : State) (n : Nat) : Prop extends Members s n where
  on : ∀ i, i < n → (nbit (Pred.mask p (s.tile (s.cur + i)).regs).toNat 0 && maskGood p (s.tile (s.cur + i)).regs) = true
/-- The group that a collective names, and its word (R308). -/
def groupWord (s : State) (f : FE) : Word := tget 0 s.coll.grp f.ix.toNat
/-- What a collective needs to be issued (R309). -/
structure CollOk (f : FE) (kind : BitVec 2) (s : State) (a : Word) (n root : Nat) : Prop where
  root_ : (kind = 0 ∧ root = 0) ∨ (kind ≠ 0 ∧ ∃ r, Holds s f.gc r ∧ root = r.toNat ∧ root < grpNr (groupWord s f))
  count : 16 ≤ n ∧ n ≤ 2 ^ 24 ∧ n * (if kind = 1 then 4 else collWidth (f.cmd.setWidth 4)) % 64 = 0
  group : grpOk s f.ix.toNat = true
  hurdle : f.cmd.getLsbD 7 = true →
    Whole s ∧ ∃ o x, (here s).armed (f.cmd.toNat / 256 % 32) = some (o, x) ∧ x / 2 ^ 34 % 2 = 1
  photo : f.cmd.getLsbD 6 = true → hasDg s = false
  buffer : ∃ va, steer s.cur 0 a (n * if kind = 1 then 4 else collWidth (f.cmd.setWidth 4)) = some (.glob va)
  aligned : a.toNat % 64 = 0
  mode : ModeOk (kind != 1 && (f.cmd.setWidth 4 : BitVec 4) != 0) s
  room : f.ix.toNat ∉ s.coll.stopped ∧ s.coll.out.length < 8
/-- The oldest collective of a group of two ranks, this module's being 0, is not a barrier, and the other rank's side has come over a link
that is up and agrees with it; no hurdle counts its lines, and what its task issued before it has been acknowledged (R310, R312). -/
structure Completes (s : State) (g : Nat) (c : Coll) (d : CollSide) : Prop where
  oldest : s.coll.out.find? (·.g == g) = some c
  open_ : s.written c.tile = false ∧ g ∉ s.coll.stopped
  ranks : grpNr c.grp = 2 ∧ grpRank c.grp = 0 ∧ d.rank = 1
  linked : ∃ e ∈ s.links, e.2.st = 2
  agree : agrees d (ownSide c []) = true
  kind : c.kind ≠ 3 ∧ c.hd = none
  ready : ∀ a ∈ outstanding s c.tile, c.stamp ≤ a.id
/-- Both walks of a collective's buffer go through, the first giving its pages, and leave the tile and the collectives as they were
(R309). -/
def Walked (s : State) (a : Word) (bytes : Nat) (writes : Bool) (parts : List Part) : Prop :=
  let size := pageBytes (pageCode s)
  let pages := (a.toNat + bytes - 1) / size - a.toNat / size + 1
  ∃ s1 s2 ps, Gives (bufferParts a bytes false size pages) s parts s1 ∧
    (if writes then Gives (bufferParts a bytes true size pages) s1 ps s2 else s2 = s1) ∧
    s2.cur = s.cur ∧ here s2 = here s ∧ s2.coll = s.coll

/-! ## Vocabulary: system instructions (R345, R365, R371-R377, R402-R407) -/

/-- The tile runs at referee level (R345). -/
def Referee (s : State) : Prop := s.refLevel s.cur = true
/-- A CSR that the tile's level may access (R402, R425). -/
def CsrOpen (s : State) (n : Nat) : Prop :=
  csrLevel n = some .user ∨ csrLevel n = some .userRo ∨ (csrLevel n ≠ none ∧ Referee s)
/-- An access of FFLAGS has no flags to wait for (R85). -/
def FlagsCome (s : State) (n : Nat) : Prop := n = 1 → ∀ p ∈ (here s).pend, ∀ v fl, p.what ≠ .value v fl
/-- A loop counter that an access of its CSR reads has good parity (R15, R287). -/
def CounterGood (s : State) (n : Nat) : Prop := ∀ k, k < 3 → n = 8 + k → Good s .lc k
/-- The CSR number of a CSR instruction (R402). -/
def csrOf (f : FI) : Nat := f.imm.toNat % 4096
/-- CSRs that hold what is written to them under a mask (R425). -/
def maskedCsrs : List (Nat × Word) := [
  (0x000, 0xF), (0x001, 0x7F), (0x002, 0x7F), (0x004, 0xFFFFFFFF), (0x005, 0xFFFFFFFFFFFFFFFF), (0x007, 0x1F0000), (0x020, 0xFF),
  (0x021, 0x1FFF), (0x022, 0xFFFFFFFFFFFFFFFF), (0x023, 0x9FFF)]
/-- CSRs that ignore a write of an instruction (R402, R425). -/
def fixedCsrs : List Nat := [0x010, 0x011, 0x012, 0x013, 0x014, 0x019, 0x025, 0x10B, 0x180, 0x181, 0x182, 0x183, 0x184, 0x185, 0x186]
/-- CSRs of a partition and the collective groups' that hold what is written to them under a mask (R183, R264, R272, R277, R308, R376,
R387, R425). -/
def refereeCsrs : List (Nat × Word) :=
  [(0x101, 0x1FE001), (0x103, 0xFF), (0x105, 0xFFFF), (0x106, 0xFFF), (0x107, 0xFF), (0x108, 0xFFFF), (0x109, 0xFFFFFF01),
   (0x10A, 0xFFFFFFFF)] ++ (List.range 16).map fun g => (0x110 + g, 0x80FFF7FFFFFFFFFF)
/-- The partition whose CSRs a tile reaches. -/
def ReachesPart (s : State) (t : Nat) (p : Partition) : Prop := s.partOf t = some p ∧ s.part p.owner = some p
/-- Referee-level instructions of format E (R345, R425). -/
def refereeRows : List (FE → Instr) := [
  .hgrpSet, .hgrpHalt, .hgrpRes, .hgrpStep, .hgrpRestile, .hgrpStat, .hgrpRead, .capset, .capclr, .fnrect, .fnrectRel, .tkillTask,
  .tkillConfig, .tkillContext, .prempSave, .prempRestore, .prempRemap]
/-- A tile of the referee's own partition (R346). -/
def Mine (s : State) (a : Word) : Prop := a.toNat < 9216 ∧ s.ownerOf a.toNat = s.ownerOf s.cur
/-- A tile that answers (R34, R381). -/
def Answers (s : State) (a : Word) : Prop := s.unreachable a.toNat = false ∧ (s.tile a.toNat).failStop = false
/-- The slices that hold a global region of k words, by its stretches (R27, R28, R193). -/
def regionSlices (k : Nat) (homes : List (Nat × Phys)) : List Nat :=
  ((homes.zipIdx.map fun e => stretchSlices e.1.2.home e.1.2.slice e.1.2.sl
    (((homes[e.2 + 1]?.map (·.1)).getD k) - e.1.1)).flatten).eraseDups
/-- An event waits in the ring of the tile's partition (R405). -/
def EventWaits (s : State) : Prop := ∃ p, s.partOf s.cur = some p ∧ p.evhead.toNat % 256 ≠ p.evtail.toNat % 256
/-- The 32 bytes of an event's record as one number: TYPE, CAUSE, TILE, MS, CTX, zero, SLOT, zero, DATA0, DATA1 (R377). -/
def eventRecord (typ cause tile ms ctx slot : Nat) (d0 d1 : Word) : Nat :=
  typ % 2 ^ 8 + 2 ^ 8 * (cause % 2 ^ 8) + 2 ^ 16 * (tile % 2 ^ 16) + 2 ^ 32 * (ms % 2 ^ 32) + 2 ^ 64 * (ctx % 2 ^ 8) +
    2 ^ 80 * (slot % 2 ^ 16) + 2 ^ 128 * d0.toNat + 2 ^ 192 * d1.toNat
/-- The tile after taking a trap. -/
def trapped (s : State) (t : Nat) (c : Byte) (a : Word) : Tile := (takeTrap s t c a).tile t
/-- The reply of the starters reaches the register, and the request is over (R407). -/
def answered (x : Tile) (d : BitVec 8) (v : Nat) : Tile :=
  putScalar { x with sch := { x.sch with starter := none } } d (BitVec.ofNat 64 v)
/-- The core holds for the starters. -/
def startersAsked (s : State) : State := s.modTile s.cur fun x => { x with sch := { x.sch with starter := some none } }

/-! ## Vocabulary: events -/

/-- A value reaches its register, full, or its window as a token, with its flags (R37, R40, R85). -/
def delivered (x : Tile) (d : RegRef) (v : Vec) (fl : Flags) : Tile :=
  let x := x.raise fl
  match d with
  | .g i => { x with regs := x.regs.putG i (v.setWidth 64) }
  | .v i => { x with regs := x.regs.putV i v }
  | .win q vector => x.push q (if vector then .vec v else .scalar (v.setWidth 64))
/-- An error mark reaches its register; where the result has only a window, the cause is taken at the next boundary (R38). -/
def marked (x : Tile) (d : RegRef) (c : Byte) (a : Word) : Tile :=
  match d with
  | .g i => { x with regs := { x.regs with gFe := tput x.regs.gFe i (.mark c a) } }
  | .v i => { x with regs := { x.regs with vFe := tput x.regs.vFe i (.mark c a) } }
  | .win _ _ => { x with sch := { x.sch with late := x.sch.late ++ [(c, a)] } }
/-- The n-th result of a tile that is on its way, of a task that still runs or, ended, of one that has ended; no save of the tile is being
written (R389). -/
def Due (s : State) (t n : Nat) (d : RegRef) (w : PendWhat) (ended : Bool := false) : Prop :=
  (s.tile t).failStop = false ∧ s.written t = false ∧ ∃ k, (s.tile t).pend[n]? = some { dst := d, what := w, ended := ended, stamp := k }
/-- Nothing stands before an access of a tile, no home refuses it, and its tile's commit has not been silenced (R163, R347, R381). -/
def Next (s : State) (t : Nat) (a : Acc) : Prop := accFree s t a = true ∧ a.miss s t = none ∧ mute (s.tile t) = false
/-- The n-th access in a tile's network may perform. -/
def Netted (s : State) (t n : Nat) (a : Acc) : Prop := (s.tile t).net[n]? = some a ∧ Next s t a
/-- The u-th unit that may perform by itself in a tile's network is part k of its n-th access, or that access whole (R163). -/
def UnitAt (s : State) (t u n k : Nat) (a : Acc) : Prop :=
  (netUnits (s.tile t))[u]? = some (n, k) ∧ (s.tile t).net[n]? = some a ∧ mute (s.tile t) = false
/-- Part k of an access may perform: nothing stands before it and its home takes it. -/
def PartNext (s : State) (t : Nat) (a : Acc) (k : Nat) (p : Part) : Prop :=
  a.parts[k]? = some p ∧ partFree s t a (a.parts.take k) p = true ∧ partMiss s t p = .ok ∧ p.own t = false
/-- No reduce window is open over n bytes at a home, and no error stands in its store (R15, R190). -/
def Quiescent (s : State) (h : Home) (n : Nat) : Prop :=
  touchWindows s h n = s ∧ (s.homeStore h).1.bad1 = [] ∧ (s.homeStore h).1.bad2 = []
/-- An access of one part at a DRAM home, and the place of the entry that translated it. -/
def OnePart (a : Acc) (pa : Nat) (va : Word) (n slice at_ : Nat) : Prop := a.parts = [⟨.dram pa, va, n, 0, slice, at_⟩]
/-- The n-th access of a tile has been answered and is gone from its network; its packet has left the escape channel (R163, R279,
R404). -/
def answeredAcc (s : State) (t n : Nat) (a : Acc) (f : Tile → Tile := id) : State :=
  (leaveMesh s t a.id).modTile t fun x => ({ f x with net := (f x).net.eraseIdx n } : Tile).perfAdd 6 1
/-- A claim receives its token (R292, R293, R295): the token is popped, an ended task's claim takes it for good; a vector destination
takes it in the lanes of the claim, the others with their parity as they were; POISON and, without ANY, a control token mark it. A claim
whose task has ended gives its token to a window only: its register is the next task's (R42). -/
def received (x : Tile) (d : RegRef) (q : Nat) (any : Bool) (word : Word) (lanes : BitVec 16) (ended : Bool) (tok : Token) : Tile :=
  let i := x.inQ q
  let y := if ended then x.setInQ q { i with
    toks := i.toks.eraseIdx i.popped
    mark := (i.mark.filter (· != i.popped)).map fun k => if i.popped < k then k - 1 else k } else x.pop q
  let give (v : Vec) : Tile :=
    match ended, d with
    | true, .win k vector => y.emit k 0 (if vector then .vec (mergeLanes lanes 0 v) else .scalar (v.setWidth 64))
    | true, _ => y
    | false, .g _ => delivered y d v 0
    | false, .v i =>
      let z := delivered y d (mergeLanes lanes (y.regs.getV i) v) 0
      if lanes ≠ 0xFFFF ∧ (.v, i) ∈ y.regs.parity then { z with regs := { z.regs with parity := (.v, i) :: z.regs.parity } } else z
    | false, .win _ vector => delivered y d (if vector then mergeLanes lanes 0 v else v) 0
  let mark (c : Byte) (a : Word) : Tile := if ended then y else marked y d c a
  match tok with
  | .vec v => give v
  | .scalar v => give (v.setWidth 512)
  | .poison c => mark 0x09 (BitVec.ofNat 64 (c.toNat + 256 * q))
  | _ => if any then give 0 else mark 0x01 word
/-- The first message that a tile has sent has reached a slot's tile (R260, R404). -/
def handed (s : State) (t u k : Nat) : State :=
  (s.modTile t fun x => ({ x with sch := { x.sch with
    sent := x.sch.sent.drop 1, msgOut := tset 0 x.sch.msgOut k (tget 0 x.sch.msgOut k + 1) } } : Tile).perfAdd 5 1).modTile u (·.perfAdd 6 1)
/-- The number in n bytes at a home. -/
def numberAt (s : State) (h : Home) (n : Nat) : Nat := ofBytes ((List.range n).map fun i => byteAt s (h.add i))
/-- The head of a patch's command queue, which may act: cells awake, a start granted, every accumulator it reads good (R15, R143, R323,
R328). -/
def HeadCmd (s : State) (t : Nat) (e : PEntry) (rest : List PEntry) : Prop :=
  (s.tile t).pu.q = e :: rest ∧ enginesRun s t = true ∧ (∃ n, (s.tile t).pu.gate = .awake n ∧ n ≤ s.now) ∧
    (e.cmd.starts = true → e.granted = true) ∧ e.byTask = false ∧ paDue s t e = none
/-- A tile whose actor lives: its configuration runs, nothing has stopped it (R253). -/
def Lives (s : State) (t : Nat) (d : ActorDecl) (a : ActorRef) : Prop :=
  s.actorDecl t = some d ∧ (s.tile t).sch.actor = some a ∧ tileLive s t = true

/-! ## Vocabulary: reset, turns, words -/

/-- CSRs with the value that the manual gives at reset: all that it gives one (R25, R39, R66, R70, R76, R82, R83, R171, R183, R234, R264,
R272, R277, R280, R287, R308, R322, R327, R332, R368, R371, R373, R376, R382, R387, R392, R393, R399, R422). -/
def resetCsrs : List (Nat × Word) := [
  (0x000, 0), (0x001, 0), (0x002, 0), (0x003, 0x4), (0x004, 0), (0x005, 0xFEDCBA9876543210), (0x006, 0), (0x007, 0x170000),
  (0x008, 0), (0x009, 0), (0x00A, 0), (0x018, 0), (0x019, 0), (0x020, 0), (0x021, 0), (0x022, 0), (0x023, 0), (0x024, 0x712), (0x025, 0),
  (0x026, 0), (0x100, 0), (0x101, 0), (0x102, 0), (0x103, 0), (0x104, 0), (0x105, 0x64), (0x106, 0x310), (0x107, 0), (0x108, 0xA),
  (0x109, 0x64C001), (0x10A, 0x10000), (0x10B, 0x400910), (0x180, 0x1000BE0), (0x181, 0x407D0), (0x182, 0x322328), (0x183, 0x4000A),
  (0x184, 0x100), (0x185, 0x20), (0x186, 0)] ++ (List.range 16).map fun g => (0x110 + g, 0)
/-- The state in which a tile's turn finds the module: time has passed, its agenda is the rest, its clock has run (R5, R14, R404). -/
def turn (s : State) (rest : List Turn) (t : Nat) : State := passCycles { passTime s with agenda := rest, cur := t } t
/-- A tile that executes: it runs a task, nothing stops it, and it waits for the reply to a request of its instruction, or nothing is due
at the boundary in any member of its gang (R14, R38, R380, R389, R438). -/
structure Runs (u : State) (t : Nat) : Prop where
  live : tileIdle u t = false
  task : (u.tile t).sch.task ≠ none
  due : (u.tile t).sch.asked = true ∨
    (lateOf u t = none ∧ (((gangTiles u t).find? fun m => (u.tile m).eng.stat.due) = none ∨ (stepper u t).isSome = true))
/-- An operand that names nothing, and no predicate. -/
def z : Src := .v 0 false
def always : Pred := ⟨0, false⟩

end Sys2Proof.Spec

open Sys2Proof Sys2Proof.Machine Sys2Proof.Spec

/-! # The machine -/

/-- R25, R39, R66, R70, R76, R82, R83, R171, R183, R234, R264, R272, R277, R280, R287, R308, R322, R327, R332, R368, R371, R373, R376,
R382, R387, R392, R393, R399, R422, R425: what reset leaves: each CSR to which the spec gives a reset value at that value on every tile,
SAVEBASE and REDCTL of every context zero, k0 all ones, no partition, configuration, chain or access, the island not yet brought up; and, the
model's choice, the handler store reading all ones.
The model's own readings in it: notes/assumptions/3, 4, 116. -/
def Obligations.ResetValues : Prop :=
  (∀ e ∈ resetCsrs, ∀ t, csrRead State.reset t e.1 = e.2) ∧
  (∀ t, (State.reset.tile t).regs.getK 0 = 0xFFFF ∧ (State.reset.tile t).regs.loops = [] ∧ (State.reset.tile t).gang = none ∧
    (State.reset.tile t).sch.task = none ∧ (State.reset.tile t).sch.halted = none ∧ (State.reset.tile t).failStop = false ∧
    (∀ c, (State.reset.ctx c).savebase = 0 ∧ (State.reset.ctx c).redctl = 0) ∧
    (State.reset.tile t).eng.caps = [] ∧ (State.reset.tile t).net = [] ∧ (State.reset.tile t).sch.fx = {} ∧
    ∀ i, (State.reset.tile t).codeAt i = 0xFFFFFFFFFFFFFFFF) ∧
  (∀ n ch, (State.reset.slice n).chain ch = none) ∧ (∀ pa, granOwnerOf State.reset pa = 0) ∧
  State.reset.parts = [] ∧ State.reset.cfgs = [] ∧ State.reset.sec.boot = 0 ∧ State.reset.linkst = 0 ∧ State.reset.tm = {}

/-- The invariant: in reset every store is in its canonical form.
The model's own readings in it: notes/assumptions/5. -/
def Obligations.ResetCanonical : Prop :=
 StoresCanonical State.reset

/-- R14, R56, R367, R423: a step executes the instruction that the word at the pc of the tile whose turn it is decodes to; a word that no
instruction has takes the unassigned opcode's meaning; an event on the agenda occurs; an alarm source that has met its condition fires
first; a module held in reset stops on anything but power-on. With nothing on the agenda and nothing due, the next tile has its turn (the
model's order).
The model's own readings in it, the order of the turns, the hold in reset and the alarm that comes first: notes/assumptions/1, 50, 55. -/
def Obligations.StepExecutes : Prop :=
  (∀ s t rest, s.agenda = .tile t :: rest → s.sec.held = false → s.sec.erased = false → s.sec.due = [] →
    let u := turn s rest t
    let x := u.tile t
    Runs u t → x.regs.pc < 6144 → x.regs.pc ∉ x.codeBad →
    (∀ i, decode (x.codeAt x.regs.pc) = some i → step s = exec i u) ∧
    (decode (x.codeAt x.regs.pc) = none → step s = exec (.unassignedOpcode (x.codeAt x.regs.pc)) u)) ∧
  (∀ s i, s.agenda = [] → s.sec.held = false → s.sec.erased = false → s.sec.due = [] → tileWork (passTime s) s.cur = none →
    moduleWork (passTime s) = none →
    let t := nextTile s
    let u := turn s [] t
    let x := u.tile t
    Runs u t → x.regs.pc < 6144 → x.regs.pc ∉ x.codeBad → decode (x.codeAt x.regs.pc) = some i → step s = exec i u) ∧
  (∀ s i rest, s.agenda = .ev i :: rest → s.sec.held = false → s.sec.erased = false → s.sec.due = [] →
    step s = exec i { passTime s with agenda := rest }) ∧
  (∀ s src at_ rest, (∀ b r, s.agenda ≠ .ev (.powerOn b) :: r) → s.sec.held = false → s.sec.erased = false →
    s.sec.due = (src, at_) :: rest → step s = exec (.alarm src at_) { passTime s with sec := { s.sec with due := rest } }) ∧
  (∀ s b rest, s.agenda = .ev (.powerOn b) :: rest → step s = exec (.powerOn b) { passTime s with agenda := rest }) ∧
  (∀ s, s.sec.held = true → (∀ b rest, s.agenda ≠ .ev (.powerOn b) :: rest) → step s = .fault .heldInReset)

/-- R43-R56: words written out from the encoding tables decode to the instruction they stand for. -/
def Obligations.WordsDecode : Prop :=
  decode 0x0000000000000000 = some (.nop ⟨always, false, 0, z, z, z, 0, false, 0⟩) ∧
  decode 0x20C8030030471E40 = some (.fma ⟨⟨2, false⟩, false, 3, .v 1 false, .c 0x11, .lit 0x3C, 8, false, 0⟩) ∧
  decode 0x094104001FFFFFFB = some (.movi ⟨always, true, 4, z, 0x1FFFFFFB⟩) ∧
  decode 0x270002002000045C = some (.cvt ⟨always, false, 2, .v 1 false, z, .v 8 false, 11, true, 0⟩) ∧
  decode 0x6001050620000800 = some (.ld ⟨always, true, 5, 6, false, 2, 0, 0x40, 0⟩) ∧
  decode 0x63C0000004000000 = some (.fence ⟨always, false, 0, 0, false, 0, 2, 0, 0⟩) ∧
  decode 0x810030A0B0C00001 = some (.cpa ⟨always, 3, 10, 11, 12, 1⟩) ∧
  decode 0xA149015011700009 = some (.mxdrn ⟨⟨2, false⟩, 16, 0x15, 1, 0x17, 9⟩) ∧
  decode 0xC0400A01FFFFFFFD = some (.bc ⟨always, 5, 1, 0xFFFFFFFD⟩) ∧
  decode 0xC1C106C040000000 = some (.rcv ⟨always, true, 6, .lit 2, z, z, 0, false, 0⟩) ∧
  decode 0xC48020A0B0000048 = some (.car ⟨always, 2, 10, 11, 0, 0x48⟩) ∧
  decode 0xE040004120000024 = some (.csrw ⟨always, false, 0, .g 9 false, 0x24⟩) ∧
  decode 0xFFFFFFFFFFFFFFFF = some (.unassignedOpcode 0xFFFFFFFFFFFFFFFF) ∧ decode 0x0002000000000000 = none

/-- R43, R56: the word of every well-formed instruction decodes to it, every operand at every value; and a word decodes only to the
instruction whose word it is, so each word has one meaning. -/
def Obligations.EncodeDecode : Prop :=
  (∀ i w, i.wellFormed = true → i.legal = true → encode i = some w → decode w = some i) ∧
  (∀ w i, decode w = some i → encode i = some w ∧ i.wellFormed = true ∧ i.legal = true)

/-- R3: every step keeps the canonical form of every store of the module and of the host, and of every saved tile store, so that equal
memories are equal data. -/
def Obligations.StepKeepsStores : Prop :=
 ∀ s t, StoresCanonical s → step s = .next t → StoresCanonical t

/-! # Integer and bit results -/

/-- R69, R96: the integer instructions give their exact result narrowed to the type, wrapped or saturated, in every execution. -/
def Obligations.IntegerResults : Prop :=
 ∀ r ∈ integerRows, ∀ f, Elementwise (r.1 f) f r.2.1 false (exactly f (r.2.2 f))

/-- R96, R98-R100, R102: the logic, shift, count, field, extension and move instructions give their bits; sadd and ssub saturate or halve.
The model's own readings in it: notes/assumptions/88. -/
def Obligations.BitResults : Prop :=
  (∀ r ∈ bitRows, ∀ f, Elementwise (r.1 f) f r.2.1 false (bitwise f (r.2.2 f))) ∧
  (∀ f, Elementwise (.shl f) f 2 false (shifted f)) ∧
  (∀ f, Elementwise (.sadd f) f 2 false (halved f false)) ∧ (∀ f, Elementwise (.ssub f) f 2 false (halved f true))

/-- R97: division truncates toward zero, the remainder has the sign of the dividend, the result is on its way; a zero divisor in an enabled
element traps DIVZERO at issue, TADDR naming the lanes, and nothing is written. -/
def Obligations.DivisionResults : Prop :=
  (∀ r ∈ ([(.div, Int.tdiv), (.divn, Int.tdiv), (.rem, fun a b => a - b * Int.tdiv a b), (.remn, fun a b => a - b * Int.tdiv a b)] :
      List ((FA → Instr) × (Int → Int → Int))), ∀ f,
    ScalarResult (r.1 f) f 2 false (fun _ b => el b 0 ≠ 0) (exactly f r.2)
      (fun _ x o => later (x.raise o.2) (scalarRef x f.dst) ((widen f.ty o.1).setWidth 512) 0) ∧
    VectorResult (r.1 f) f 2 false
      (fun s b => ∀ j, j < b.length → Enabled (Pred.mask f.p (here s).regs) (tyWidth f.ty) j = true → el b j ≠ 0) (exactly f r.2)
      (fun _ x m d fl => later (x.raise fl) (vectorRef x f.dst) (mergeLanes m (oldVector x f.dst) d) 0)) ∧
  (∀ mk ∈ ([.div, .divn, .rem, .remn] : List (FA → Instr)), ∀ f s s' a, f.dk = true → Alone s → On f.p s → Free true f.dst s →
    ScalarSources f 2 s a 0 0 s' → exec (mk f) s = .next (takeTrap s s.cur 0x08 0x10000)) ∧
  (∀ mk ∈ ([.div, .divn, .rem, .remn] : List (FA → Instr)), ∀ f s s' a b m, f.dk = false → Alone s → Lanes f.p s m →
    Free false f.dst s m → VectorSources f 2 s a b [] s' →
    let zero (j : Nat) : Prop := j < 512 / tyWidth f.ty ∧ Enabled m (tyWidth f.ty) j = true ∧ el b j = 0
    (∃ j, zero j) → ∃ k : Word, (∀ i, i < 64 → (k.getLsbD i = true ↔ 16 ≤ i ∧ ∃ j, zero j ∧ tyWidth f.ty * j / 32 = i - 16)) ∧
      exec (mk f) s = .next (takeTrap s s.cur 0x08 k))

/-- R101: cmp gives one or all ones where its condition holds. -/
def Obligations.CompareResults : Prop :=
  ∀ f, Elementwise (.cmp f) f 2 false (fun _ _ a b _ =>
    (open Classical in condition f (compares f a b) 0))

/-- R59, R103: the immediate instructions, lea and nop. -/
def Obligations.ImmediateResults : Prop :=
  (∀ f s, Alone s → exec (.nop f) s = .next (done s id)) ∧
  (∀ f s, f.dk = true → Alone s → On f.p s → Free true f.dst s →
    exec (.movi f) s = .next (done s fun x => putScalar x f.dst (f.imm.signExtend 64))) ∧
  (∀ f s m, f.dk = false → Alone s → Lanes f.p s m → Free false f.dst s m →
    ∃ d, (∀ i, i < 16 → elemOf d.toNat 32 i = (f.imm.signExtend 32).toNat) ∧
      exec (.movi f) s = .next (done s fun x => putVector x f.dst m d)) ∧
  (∀ f s s' a, Alone s → On f.p s → Free true f.dst s → Gives (readScalar f.a) s a s' →
    exec (.movhi f) s = .next (done s' fun x => putScalar x f.dst (f.imm.signExtend 64 <<< 29 ||| (a.setWidth 29).setWidth 64))) ∧
  (∀ f s s' a, f.dk = true → Alone s → On f.p s → Free true f.dst s → Gives (readScalar f.a) s a s' →
    exec (.addi f) s = .next (done s' fun x => putScalar x f.dst (a + f.imm.signExtend 64))) ∧
  (∀ f s s' a m, f.dk = false → Alone s → Lanes f.p s m → Free false f.dst s m → Gives (readElems 0 16 f.a) s a s' →
    ∃ d, (∀ i, i < 16 → elemOf d.toNat 32 i = (BitVec.ofNat 32 (el a i) + f.imm.signExtend 32).toNat) ∧
      exec (.addi f) s = .next (done s' fun x => putVector x f.dst m d)) ∧
  (∀ f s s' b, Alone s → On f.p s → Free true f.dst s → Gives (readG f.base.toNat f.bw) s b s' →
    exec (.lea f) s = .next (done s' fun x => putScalar x f.dst (b + f.off.signExtend 64)))

/-! # Floating point -/

/-- R105: each of the six is one exact computation and one rounding, with the flags of that rounding. -/
def Obligations.RoundedResults : Prop :=
 ∀ r ∈ roundedRows, ∀ f, Elementwise (r.1 f) f r.2.1 true (rounded f (r.2.2 f))

/-- R110, R111: the long-latency producers deliver their rounded value with its flags, later where FTRAP is zero.
The model's own readings in it: notes/assumptions/10. -/
def Obligations.LongLatencyResults : Prop :=
 ∀ r ∈ laterRows, ∀ f, ElementwiseLater (r.1 f) f r.2.1 true (rounded f (r.2.2 f))

/-- R106-R109, R112, R113: minimum, maximum, sign, class, comparison, integral rounding, scale and exponent. -/
def Obligations.CodeResults : Prop :=
  (∀ r ∈ codeRows, ∀ f, Elementwise (r.1 f) f r.2.1 false (fun _ _ a b _ => r.2.2 f a b)) ∧
  (∀ f, Elementwise (.frnd f) f 1 true fun c j a _ _ =>
    let r := frndVal (fOf f) (rmOf c f.dk f.dst j) (f.m == 1) (decodeVal (fOf f) a) a
    (r.code, r.fl)) ∧
  (∀ f s s1 s2 a b, f.dk = true → Alone s → On f.p s → Free true f.dst s → ModeOk true s → Gives (readElem f.ty f.a) s a s1 →
    Gives (readElem (intTy f.ty) f.b) s1 b s2 →
    let r := fscaleVal (fOf f) (rmOf (here s).csr true f.dst 0) f.sat (decodeVal (fOf f) a) (BitVec.ofNat (tyWidth f.ty) b).toInt
    Quiet s r.fl → exec (.fscale f) s = .next (done s2 fun x => putScalar (x.raise r.fl) f.dst (widen f.ty r.code))) ∧
  (∀ f s s1 s2 a b m, f.dk = false → Alone s → Lanes f.p s m → Free false f.dst s m → ModeOk true s →
    Gives (readElems f.ty (512 / tyWidth f.ty) f.a) s a s1 → Gives (readElems (intTy f.ty) (512 / tyWidth f.ty) f.b) s1 b s2 →
    let w := tyWidth f.ty
    let o (j : Nat) : Out :=
      let r := fscaleVal (fOf f) (rmOf (here s).csr false f.dst j) f.sat (decodeVal (fOf f) (el a j)) (BitVec.ofNat w (el b j)).toInt
      (r.code, r.fl)
    let fl := elementFlags m w (512 / w) o
    Quiet s fl → ∃ d, Elements m w (512 / w) o d ∧ exec (.fscale f) s = .next (done s2 fun x => putVector (x.raise fl) f.dst m d))

/-- R74, R75: a finite number rounds to a code that brackets it with no code between, on the side of its mode; a number that a
code has rounds to its value with no flag. -/
def Obligations.RoundingBrackets : Prop :=
 ∀ f ∈ formats, ∀ x : Dy, x.m ≠ 0 → ∀ mode sat rnd,
  (mode ≤ 4 → (roundTo f ⟨mode, rnd⟩ sat x).fl &&& OF = 0 →
    ∃ y, decodeVal f (roundTo f ⟨mode, rnd⟩ sat x).code = .fin y ∧ Rounds f mode (ratOf x) (ratOf y)) ∧
  (∀ code y, decodeVal f code = .fin y → ratOf y = ratOf x →
    ∃ z, roundTo f ⟨mode, rnd⟩ sat x = ⟨(roundTo f ⟨mode, rnd⟩ sat x).code, 0⟩ ∧
      decodeVal f (roundTo f ⟨mode, rnd⟩ sat x).code = .fin z ∧ ratOf z = ratOf x)

/-- R114, R115: cvt converts each element of the part it selects and leaves the rest of the destination.
The model's own readings in it: notes/assumptions/89. -/
def Obligations.ConversionResults : Prop :=
  (∀ f s s' a, f.dk = true → Alone s → On f.p s → Free true f.dst s →
    ModeOk (decide (8 ≤ (cvtS f).toNat) || decide (8 ≤ f.ty.toNat)) s → Gives (readElem (cvtS f) f.a) s a s' →
    let r := convElem f.ty (cvtS f) (here s).csr.fmt8 (rmOf (here s).csr true f.dst 0) f.sat a
    Quiet s r.fl → exec (.cvt f) s = .next (done s' fun x => putScalar (x.raise r.fl) f.dst (widen f.ty r.code))) ∧
  (∀ f s s' a m, f.dk = false → Alone s → Lanes f.p s m → Free false f.dst s (if tyWidth f.ty < tyWidth (cvtS f) then 0 else m) →
    ModeOk (decide (8 ≤ (cvtS f).toNat) || decide (8 ≤ f.ty.toNat)) s →
    Gives (readElems (cvtS f) (512 / tyWidth (cvtS f)) f.a) s a s' →
    let wd := tyWidth f.ty
    let ws := tyWidth (cvtS f)
    let n := 512 / Nat.max wd ws
    let first := if wd < ws then f.m.toNat * n else 0
    let from_ := if ws < wd then f.m.toNat * n else 0
    let o (k : Nat) : Out :=
      let r := convElem f.ty (cvtS f) (here s).csr.fmt8 (rmOf (here s).csr false f.dst k) f.sat (el a (from_ + (k - first)))
      (r.code, r.fl)
    let part (k : Nat) : Bool := decide (first ≤ k) && decide (k < first + n) && Enabled m wd k
    let fl := ((List.range (512 / wd)).filter part).foldl (fun fl k => fl ||| (o k).2) 0
    (first + n) * wd ≤ 512 → wd ≤ 32 → Quiet s fl →
    ∃ d, (∀ k, k < 512 / wd → elemOf d.toNat wd k =
        if part k then (o k).1 % 2 ^ wd else elemOf (oldVector (here s) f.dst).toNat wd k) ∧
      exec (.cvt f) s = .next (done s' fun x => putVector (x.raise fl) f.dst 0xFFFF d))

/-! # Moves, reductions, predicates, packing, products, wide accumulators -/

/-- R117, R118: the permutes move elements by index, amount or slide; vcmpr packs the selected lanes at the bottom, vxpd spreads them
again, vlane reads or replaces one lane; the disabled lanes stay. -/
def Obligations.MoveResults : Prop :=
  (∀ r ∈ permuteRows, ∀ f s s1 s2 s3 a b c m, Alone s → Lanes f.p s m → Free false f.dst s m →
    Gives (readElems f.ty (512 / tyWidth f.ty) f.a) s a s1 → ReadsB f r.2.1 s1 b s2 →
    (if r.2.2.1 then Gives (readElems f.ty (512 / tyWidth f.ty) f.c) s2 c s3 else c = [] ∧ s3 = s2) →
    ∃ d, Elements m (tyWidth f.ty) (512 / tyWidth f.ty)
        (fun j => (r.2.2.2 (512 / tyWidth f.ty) (at_ a) (at_ b) (at_ c) j, 0)) d ∧
      exec (r.1 f) s = .next (done s3 fun x => putVector x f.dst m d)) ∧
  ((∀ f s s1 s2 a b m, Alone s → Lanes f.p s m → Free false f.dst s m → Gives (readElems 0 (512 / tyWidth 0) f.a) s a s1 →
    Gives (readElem 0 f.b) s1 b s2 →
    ∃ d, (∀ i, i < 16 → (BitVec.ofNat 16 b).getLsbD i = true → elemOf d.toNat 32 (below (BitVec.ofNat 16 b) i) = el a i % 2 ^ 32) ∧
      (∀ i, below (BitVec.ofNat 16 b) 16 ≤ i → i < 16 → elemOf d.toNat 32 i = 0) ∧
      exec (.vcmpr f) s = .next (done s2 fun x => putVector x f.dst m d)) ∧
  (∀ f s s1 s2 a b m, Alone s → Lanes f.p s m → Free false f.dst s m → Gives (readElems 0 (512 / tyWidth 0) f.a) s a s1 →
    Gives (readElem 0 f.b) s1 b s2 →
    ∃ d, (∀ i, i < 16 → elemOf d.toNat 32 i =
        if (BitVec.ofNat 16 b).getLsbD i then el a (below (BitVec.ofNat 16 b) i) % 2 ^ 32 else 0) ∧
      exec (.vxpd f) s = .next (done s2 fun x => putVector x f.dst m d)) ∧
  (∀ f s s1 s2 a b, f.dk = true → Alone s → On f.p s → Free true f.dst s → Gives (readElems 0 (512 / tyWidth 0) f.a) s a s1 →
    Gives (readElem 0 f.b) s1 b s2 →
    exec (.vlane f) s = .next (done s2 fun x => putScalar x f.dst (widen f.ty (el a (b % 16))))) ∧
  (∀ f s s1 s2 s3 a b c m, f.dk = false → Alone s → Lanes f.p s m → Free false f.dst s m →
    Gives (readElems 0 (512 / tyWidth 0) f.a) s a s1 → Gives (readElem 0 f.b) s1 b s2 → Gives (readElem f.ty f.c) s2 c s3 →
    ∃ d, (∀ i, i < 16 → elemOf d.toNat 32 i = if i = b % 16 then c % 2 ^ 32 else el a i % 2 ^ 32) ∧
      exec (.vlane f) s = .next (done s3 fun x => putVector x f.dst m d)))

/-- R119-R121: an integer vred gives the exact sum narrowed, the maximum or the minimum of the enabled elements; a
floating-point one follows the fixed tree; vredx sums exactly and rounds once; vscan gives the prefixes in order.
The model's own readings in it: notes/assumptions/87. -/
def Obligations.ReductionResults : Prop :=
  (∀ f s s' a m, fmtOf f.ty 0 = none → Alone s → Lanes f.p s m → Free f.dk f.dst s →
    Gives (readElems f.ty (512 / tyWidth f.ty) f.a) s a s' →
    let l := enabledInts f m a
    let r : Out := match f.m.toNat with
      | 0 => narrow f.ty f.sat l.sum
      | 1 => narrow f.ty false (l.max?.getD 0)
      | _ => narrow f.ty false (l.min?.getD 0)
    Quiet s r.2 → exec (.vred f) s = .next (done s' fun x => deliverReduction (here s).csr f x r.1 r.2)) ∧
  (∀ f s s' a m, (fmtOf f.ty 0).isSome = true → Alone s → Lanes f.p s m → Free f.dk f.dst s →
    Gives (readElems f.ty (512 / tyWidth f.ty) f.a) s a s' → ModeOk (f.m == 0) s →
    let leaves := (List.range a.length).map fun j => if Enabled m (tyWidth f.ty) j then some (el a j : Int) else none
    let r := treeRed (fun idx => combine f f.m.toNat (rmOf (here s).csr f.dk f.dst idx)) (512 / tyWidth f.ty).log2 1 leaves
    let v := lone f (r.1.getD 0)
    let fl := v.fl ||| r.2
    Quiet s fl → exec (.vred f) s = .next (done s' fun x => deliverReduction (here s).csr f x v.v.toNat fl)) ∧
  (∀ f s s' a m, Alone s → Lanes f.p s m → Free f.dk f.dst s → Gives (readElems f.ty (512 / tyWidth f.ty) f.a) s a s' →
    ModeOk true s →
    let vs := ((List.range a.length).filter (Enabled m (tyWidth f.ty))).map fun j => decodeVal (fOf f) (el a j)
    let r := exactSum (fOf f) (rmOf (here s).csr f.dk f.dst 0) vs
    Quiet s r.fl → exec (.vredx f) s = .next (done s' fun x => deliverReduction (here s).csr f x r.code r.fl)) ∧
  (∀ f s s' a m, Alone s → Lanes f.p s m → Free false f.dst s m → Gives (readElems f.ty (512 / tyWidth f.ty) f.a) s a s' →
    ModeOk ((fmtOf f.ty 0).isSome && decide (f.m.toNat < 2)) s →
    let e := scanElems f (here s).csr m 0 none a
    Quiet s e.fl → exec (.vscan f) s =
      .next (done s' fun x => deliverVector (here s).csr x f.dst m (vecOf (tyWidth f.ty) e.codes) e.fl))

/-- R122, R123: predicate logic, counts and moves; a write of k0 is ignored. -/
def Obligations.PredicateResults : Prop :=
  (∀ r ∈ ([(.kand, fun a b => a &&& b), (.kor, fun a b => a ||| b), (.kxor, fun a b => a ^^^ b)] :
      List ((FA → Instr) × (BitVec 16 → BitVec 16 → BitVec 16))), ∀ f s a b, Alone s → On f.p s → PredSource f.a s a →
    PredSource f.b s b → exec (r.1 f) s = .next (done s fun x => { x with regs := x.regs.putK f.dst.toNat (r.2 a b) })) ∧
  (∀ f s a, Alone s → On f.p s → PredSource f.a s a →
    exec (.knot f) s = .next (done s fun x => { x with regs := x.regs.putK f.dst.toNat (~~~ a) })) ∧
  (∀ f s a, Alone s → On f.p s → Free true f.dst s → PredSource f.a s a →
    exec (.kpop f) s = .next (done s fun x => putScalar x f.dst (BitVec.ofNat 64 (onesOf 16 a)))) ∧
  (∀ f s a, Alone s → On f.p s → Free true f.dst s → PredSource f.a s a →
    exec (.kfirst f) s = .next (done s fun x => putScalar x f.dst (BitVec.ofNat 64 (trailingZeros 16 a)))) ∧
  (∀ f s a, f.m = 0 → Alone s → On f.p s → PredSource f.a s a →
    exec (.kmov f) s = .next (done s fun x => { x with regs := x.regs.putK f.dst.toNat a })) ∧
  (∀ f s s' a, f.m = 1 → Alone s → On f.p s → Gives (readScalar f.a) s a s' →
    exec (.kmov f) s = .next (done s' fun x => { x with regs := x.regs.putK f.dst.toNat (a.setWidth 16) })) ∧
  (∀ f s s' v, f.m = 2 → Alone s → On f.p s → VectorSource f.a s v s' →
    ∃ k : BitVec 16, (∀ i, i < 16 → k.getLsbD i = (elemOf v.toNat 32 i != 0)) ∧
      exec (.kmov f) s = .next (done s' fun x => { x with regs := x.regs.putK f.dst.toNat k })) ∧
  (∀ f s a, f.m = 3 → Alone s → On f.p s → Free true f.dst s → PredSource f.a s a →
    exec (.kmov f) s = .next (done s fun x => putScalar x f.dst (a.setWidth 64)))

/-- R124-R126, R128: vpack narrows the elements of A, then those of B; vunpk widens one half of A; MX blocks and dot products: an integer
dot product is the exact C plus the products, narrowed to i32.
The model's own readings in it: notes/assumptions/30, 65. -/
def Obligations.PackAndBlockResults : Prop :=
  ((∀ f s s1 s2 va vb m, Alone s → Lanes f.p s m → Free false f.dst s m → VectorSource f.a s va s1 → VectorSource f.b s1 vb s2 →
    let w := if f.m = 1 then 4 else tyWidth f.ty
    let half := 512 / (2 * w)
    let o (j : Nat) : Out :=
      let r := fitInt w (tySigned f.ty) f.sat (if j < half then wideInt f (2 * w) va j else wideInt f (2 * w) vb (j - half))
      (r.code, r.fl)
    let fl := elementFlags m w (512 / w) o
    Quiet s fl → ∃ d, Elements m w (512 / w) o d ∧ exec (.vpack f) s = .next (done s2 fun x => putVector (x.raise fl) f.dst m d)) ∧
  (∀ f s s' v m, Alone s → Lanes f.p s m → Free false f.dst s m → VectorSource f.a s v s' →
    let w := if f.m.getLsbD 1 then 4 else tyWidth f.ty
    let n := 512 / (2 * w)
    ∃ d, Elements m (2 * w) n (fun j => ((BitVec.ofInt (2 * w) (wideInt f w v (j + if f.m.getLsbD 0 then n else 0))).toNat, 0)) d ∧
      exec (.vunpk f) s = .next (done s' fun x => putVector x f.dst m d))) ∧
  ((∀ f s s1 s2 a b, Alone s → Lanes f.p s 0xFFFF → Free false f.dst s → Gives (readElems 8 (512 / tyWidth 8) f.a) s a s1 →
    Gives (readElems 8 16 f.b) s1 b s2 → ModeOk true s →
    (∀ x ∈ a ++ b, ∃ d, decodeVal f32 x = .fin d) →
    let ds := (a ++ b).filterMap fun x => match decodeVal f32 x with | .fin d => some d | _ => none
    let e := mxExp f.ty ds
    let r := mapElems (here s).csr.enabled 0xFFFF (fOf f).w (fun j => match ds[j]? with
      | some d => roundTo (fOf f) (rmOf (here s).csr false f.dst j) f.sat { d with e := d.e - e }
      | none => ⟨0, 0⟩) 32 0
    Quiet s r.fl → exec (.vmxq f) s = .next (done s2 fun x => deliverVector (here s).csr x f.dst 0xFFFF
      (BitVec.ofNat 512 (ofElems (fOf f).w r.codes + (e + 127).toNat * 2 ^ mxScaleAt f.ty)) r.fl)) ∧
  (∀ f s s' v m, Alone s → Lanes f.p s m → Free false f.dst s m → VectorSource f.a s v s' → ModeOk true s →
    nfld v.toNat (mxScaleAt f.ty) 8 ≠ 0xFF →
    let o (j : Nat) : Out :=
      let r := match decodeVal (fOf f) (elemOf v.toNat (fOf f).w (j + if f.m = 1 then 16 else 0)) with
        | .fin d => roundTo f32 (rmOf (here s).csr false f.dst j) false { d with e := d.e + nfld v.toNat (mxScaleAt f.ty) 8 - 127 }
        | x => convVal f32 (rmOf (here s).csr false f.dst j) false x
      (r.code, r.fl)
    let fl := elementFlags m 32 16 o
    Quiet s fl → ∃ d, Elements m 32 16 o d ∧ exec (.vmxd f) s = .next (done s' fun x => putVector (x.raise fl) f.dst m d)) ∧
  (∀ f s s1 s2 s3 a b c m, Alone s → Lanes f.p s m → Free false f.dst s m →
    Gives (readElems f.ty (512 / tyWidth f.ty) f.a) s a s1 → Gives (readElems f.ty (512 / tyWidth f.ty) f.b) s1 b s2 →
    Gives (readElems (if 8 ≤ f.ty.toNat then 8 else 0) 16 f.c) s2 c s3 → ModeOk (decide (8 ≤ f.ty.toNat)) s →
    let k := 32 / tyWidth f.ty
    let o (i : Nat) : Out := match fmtOf f.ty (here s).csr.fmt8 with
      | none => narrow 0 f.sat (intOf 0 (el c i) +
          ((List.range k).map fun j => intOf f.ty (el a (i * k + j)) * intOf f.ty (el b (i * k + j))).sum)
      | some g =>
        let r := dotVal (rmOf (here s).csr false f.dst i) f.sat (decodeVal f32 (el c i))
          ((List.range k).map fun j => (decodeVal g (el a (i * k + j)), decodeVal g (el b (i * k + j))))
        (r.code, r.fl)
    let fl := elementFlags m 32 16 o
    Quiet s fl → ∃ d, Elements m 32 16 o d ∧
      exec (.vdot f) s = .next (done s3 fun x => deliverVector (here s).csr x f.dst m d fl)))

/-- R127: finite elements add exactly to a wide accumulator that holds the sum; wclr clears it; wmov carries it out and back;
wrnd rounds it once.
The model's own readings in it: notes/assumptions/17, 30, 90, 91. -/
def Obligations.WideResults : Prop :=
  (∀ f s s' v m, Alone s → Lanes f.p s m → VectorSource f.a s v s' → Good s .wa f.m.toNat →
    let l := ((List.range (512 / tyWidth f.ty)).filter (Enabled m (tyWidth f.ty))).map fun j =>
      waddVal f (elemOf v.toNat (tyWidth f.ty) j)
    let r := ((here s).regs.getWa f.m.toNat).addAll l
    Quiet s r.2 → exec (.wadd f) s = .next (done s' fun x => { (x.raise r.2) with regs := x.regs.putWa f.m.toNat r.1 })) ∧
  (∀ f s s' a m, (∀ i w, f.a ≠ .v i w) → Alone s → Lanes f.p s m → Gives (readElem f.ty f.a) s a s' → Good s .wa f.m.toNat →
    let r := ((here s).regs.getWa f.m.toNat).add (waddVal f a)
    Quiet s r.2 → exec (.wadd f) s = .next (done s' fun x => { (x.raise r.2) with regs := x.regs.putWa f.m.toNat r.1 })) ∧
  (∀ (w : Wide) (d : Dy), w.W = 0 → -149 ≤ d.e → -(2 ^ 319) ≤ w.V.toInt + d.toInt (-149) → w.V.toInt + d.toInt (-149) < 2 ^ 319 →
    (w.add (.fin d)).2 = 0 ∧ (w.add (.fin d)).1.W = 0 ∧ (w.add (.fin d)).1.V.toInt = w.V.toInt + d.toInt (-149)) ∧
  (∀ (w : Wide) (neg : Bool), w.W = 0 → w.add (.inf neg) = ({ w with W := if neg then 2 else 1 }, 0)) ∧
  (∀ f s m, Alone s → Lanes f.p s m →
    exec (.wclr f) s = .next (done s fun x => { x with regs := x.regs.putWa f.m.toNat ⟨0, 0, 0⟩ })) ∧
  (∀ f s, f.dk = true → Alone s → On f.p s → Free true f.dst s → ModeOk true s → Good s .wa f.m.toNat →
    let r := ((here s).regs.getWa f.m.toNat).round (fOf f) (rmOf (here s).csr true f.dst 0) f.sat
    Quiet s r.fl → exec (.wrnd f) s = .next (done s fun x => deliverScalar (here s).csr x f.dst (widen f.ty r.code) r.fl)) ∧
  (∀ f s m, f.dk = false → Alone s → Lanes f.p s m → Free false f.dst s m → ModeOk true s → Good s .wa f.m.toNat →
    let r := ((here s).regs.getWa f.m.toNat).round (fOf f) (rmOf (here s).csr false f.dst 0) f.sat
    let fl := if m.getLsbD 0 then r.fl else 0
    Quiet s fl → exec (.wrnd f) s =
      .next (done s fun x => deliverVector (here s).csr x f.dst m (BitVec.ofNat 512 r.code) fl)) ∧
  (∀ f s, f.sat = false → Alone s → Lanes f.p s 0xFFFF → Free false f.dst s → Good s .wa f.m.toNat →
    exec (.wmov f) s = .next (done s fun x => deliverVector (here s).csr x f.dst 0xFFFF ((here s).regs.getWa f.m.toNat).toVec 0)) ∧
  (∀ f s s' v w, f.sat = true → Alone s → Lanes f.p s 0xFFFF → VectorSource f.a s v s' → Wide.ofVec v = some w →
    exec (.wmov f) s = .next (done s' fun x => { x with regs := x.regs.putWa f.m.toNat w })) ∧
  (∀ w : Wide, Wide.ofVec w.toVec = some w)

/-! # Memory -/

/-- R3, R15: bytes written at a home read back, and no byte outside them changes, in any store. -/
def Obligations.WrittenBytes : Prop :=
 ∀ (s : State) (h : Home) (bs : List Byte), StoresCanonical s →
  (∀ i (hi : i < bs.length), byteAt (rawWrite s h bs) (h.add i) = bs[i]) ∧
  (∀ k, Outside h bs.length k → byteAt (rawWrite s h bs) k = byteAt s k) ∧ StoresCanonical (rawWrite s h bs)

/-- R57, R164, R218: a load of the own store delivers the little-endian bytes at its address, extended; the destination empties until the
value arrives, and memory keeps every byte. A load of a task sees the bytes of its own buffered stores, the latest first.
The model's own readings in it: notes/assumptions/9, 14. -/
def Obligations.LoadResults : Prop :=
  ((∀ f s a off, f.size.toNat < 4 → (f.ord = 1 → MTask s) → Alone s → On f.p s → Free true f.dst s → f.dst.toNat < 56 →
    Address f s a → Own s a (sizeBytes f.size) off → PortFree s off (sizeBytes f.size) → (here s).sch.fx.sb = [] →
    (here s).store.badRead off (sizeBytes f.size) = none →
    let n := sizeBytes f.size
    let u := BitVec.ofNat (8 * n) (ownNumber s off n)
    let v : Word := if f.aux.getLsbD 0 then u.signExtend 64 else u.setWidth 64
    ∃ st, Corrected (here s).store st ∧
      exec (.ld f) s = .next (done s fun x => ordered s (f.ord == 1) (loaded x (.g f.dst.toNat) (v.setWidth 512) st))) ∧
  (∀ f s a off m, (f.ord = 1 → MTask s) → Alone s → Lanes f.p s m → Free false f.dst s m → f.dst.toNat < 248 →
    Address f s a → Own s a 64 off → PortFree s off 64 → (here s).sch.fx.sb = [] → (here s).store.bad2 = [] →
    ∃ v st, Corrected (here s).store st ∧
      (∀ i, i < 16 → lane v i = if m.getLsbD i then ownNumber s (off + 4 * i) 4 else lane ((here s).regs.getV f.dst.toNat) i) ∧
      exec (.ldv f) s = .next (done s fun x => ordered s (f.ord == 1) (loaded x (.v f.dst.toNat) v st))) ∧
  (∀ f s b ix m (offs : Nat → Nat), Alone s → Lanes f.p s m → Free false f.dst s m → f.dst.toNat < 247 → Address f s b →
    Gives (readV (f.dst.toNat + 1) false) s ix s →
    (∀ i, i < 16 → m.getLsbD i = true → Own s (laneAddr f b ix i) 4 (offs i) ∧ PortFree s (offs i) 4) →
    (here s).sch.fx.sb = [] → (here s).store.bad2 = [] →
    ∃ v st, Corrected (here s).store st ∧
      (∀ i, i < 16 → lane v i = if m.getLsbD i then ownNumber s (offs i) 4 else lane ((here s).regs.getV f.dst.toNat) i) ∧
      exec (.ldg f) s = .next (done s fun x => loaded x (.v f.dst.toNat) v st))) ∧
  (∀ f s a off, f.size.toNat < 4 → f.ord = 0 → Alone s → On f.p s → Free true f.dst s → f.dst.toNat < 56 → Address f s a →
    Own s a (sizeBytes f.size) off → PortFree s off (sizeBytes f.size) → (here s).store.bad2 = [] →
    let n := sizeBytes f.size
    let u := BitVec.ofNat (8 * n) (ofBytes ((List.range n).map fun i =>
      (sbByte (here s).sch.fx.sb (.tile s.cur (off + i))).getD (tget 0 (here s).store.bytes (off + i))))
    let v : Word := if f.aux.getLsbD 0 then u.signExtend 64 else u.setWidth 64
    ∃ st, Corrected (here s).store st ∧ exec (.ld f) s = .next (done s fun x => loaded x (.g f.dst.toNat) (v.setWidth 512) st))

/-- R218-R220: a store of an M task to the own store writes the register's low bytes at the address it computes; `.rel` places its
fence before it. One whose turn has not come waits at its port and nothing is written.
The model's own readings in it: notes/assumptions/9, 22. -/
def Obligations.StoreResults : Prop :=
  (∀ f s a off d, MTask s → Alone s → On f.p s → Data f s d → f.dk = true → Address f s a → f.size.toNat < 4 →
    Own s a (sizeBytes f.size) off → Unarmed s off (sizeBytes f.size) →
    let turn := PortFree s off (sizeBytes f.size) ∧ (f.ord = 2 → scopeClear s s.cur 2 (here s).nextAcc = true)
    (turn → (here s).store.badWrite off (sizeBytes f.size) = none → exec (.st f) s = .next (done
      (rawWrite s (.tile s.cur off) (lowBytes (sizeBytes f.size) d.toNat)) fun x => numbered (ordered s (f.ord == 2) x))) ∧
    (¬ turn → exec (.st f) s = .next (done s fun x =>
      waiting (numbered (ordered s (f.ord == 2) x)) (ownAcc s (.store d) a (sizeBytes f.size) off)))) ∧
  (∀ f s a off d, MTask s → Alone s → Lanes f.p s 0xFFFF → Data f s d → f.dk = false → Address f s a → Own s a 64 off →
    PortFree s off 64 → Unarmed s off 64 → HurdlesAligned s → (f.ord = 2 → scopeClear s s.cur 2 (here s).nextAcc = true) →
    exec (.stv f) s = .next (done (rawWrite s (.tile s.cur off) (lowBytes 64 d.toNat)) fun x =>
      numbered (ordered s (f.ord == 2) x))) ∧
  (∀ f s a off d m, MTask s → Alone s → Lanes f.p s m → m ≠ 0xFFFF → Data f s d → f.dk = false → Address f s a → Own s a 64 off →
    PortFree s off 64 → Unarmed s off 64 → HurdlesAligned s → (f.ord = 2 → scopeClear s s.cur 2 (here s).nextAcc = true) →
    (here s).store.bad2 = [] →
    exec (.stv f) s = .next (done (((List.range 16).filter m.getLsbD).foldl
      (fun u i => rawWrite u (.tile s.cur (off + 4 * i)) (lowBytes 4 (lane d i))) s) fun x =>
        numbered (ordered s (f.ord == 2) x))) ∧
  (∀ f s b ix d m (offs : Nat → Nat), MTask s → Alone s → Lanes f.p s m → f.dst.toNat < 247 → Gives (readV f.dst.toNat false) s d s →
    Address f s b → Gives (readV (f.dst.toNat + 1) false) s ix s →
    (∀ i, i < 16 → m.getLsbD i = true → Own s (laneAddr f b ix i) 4 (offs i) ∧ NoHurdle s (offs i) 4 ∧
      ∀ k, k ≤ i → HasTurn s ((here s).nextAcc + k) (offs i) 4) →
    (here s).store.bad2 = [] →
    exec (.stg f) s = .next (done (((List.range 16).filter m.getLsbD).foldl
      (fun u i => (rawWrite u (.tile s.cur (offs i)) (lowBytes 4 (lane d i))).modTile s.cur numbered) s) id))

/-- R178, R222-R225: full/empty bits. lds reads when its words are full and with `.take` empties them, waits when one is empty or its turn
has not come; stf stores and sets them full, a word or double form to global memory raising ALIGN; feclr empties a range, a length of 0
nothing; in an I task stf and feclr enter the store buffer, for another home an M task sends them; fetst reads the mask of its line,
through what the store buffer holds.
The model's own readings in it: notes/assumptions/15, 64. -/
def Obligations.FullEmptyResults : Prop :=
  (∀ f s a off, (f.aux.getLsbD 0 = true → MTask s) → Alone s → On f.p s → Free f.dk f.dst s → 2 ≤ f.size.toNat →
    f.dst.toNat < (if f.dk then 56 else 248) → Address f s a → Own s a (sizeBytes f.size) off → (here s).sch.fx.sb = [] →
    let n := sizeBytes f.size
    let full := (List.range (n / 4)).all fun i => (here s).store.full (off / 4 + i)
    let turn := ∀ i, i < n / 4 → PortFree s (off + 4 * i) 4
    (full = true → turn → (here s).store.badRead off n = none → ∃ st, Corrected (here s).store st ∧
      exec (.lds f) s = .next (done s fun x => loaded x (dataRef f) (BitVec.ofNat 512 (ownNumber s off n))
        (if f.aux.getLsbD 0 then st.setFes (off / 4) false (n / 4) else st))) ∧
    (full = false ∨ ¬ turn → exec (.lds f) s = .next (done s fun x => awaits (numbered x) (dataRef f) (.lds {
      id := x.nextAcc, op := .lds (dataRef f) (f.aux.getLsbD 0) [], issued := x.nextAcc
      parts := (List.range (n / 4)).map fun i => ⟨.tile s.cur (off + 4 * i), a + BitVec.ofNat 64 (4 * i), 4, 4 * i, 0, 0⟩ }
      (f.aux.getLsbD 0))))) ∧
  (∀ f s a off d, MTask s → Alone s → On f.p s → Data f s d → Address f s a → Own s a (sizeBytes f.size) off →
    Unarmed s off (sizeBytes f.size) →
    (PortFree s off (sizeBytes f.size) → (here s).store.badWrite off (sizeBytes f.size) = none → exec (.stf f) s = .next (done
      (setFull (rawWrite s (.tile s.cur off) (lowBytes (sizeBytes f.size) d.toNat)) (.tile s.cur off) (sizeBytes f.size) true)
      numbered)) ∧
    (¬ PortFree s off (sizeBytes f.size) → exec (.stf f) s = .next (done s fun x =>
      waiting (numbered x) (ownAcc s (.stf d) a (sizeBytes f.size) off)))) ∧
  (∀ f s s' a ph d, MTask s → Alone s → On f.p s → Data f s d → Address f s a →
    ((∃ va, steer s.cur (here s).csr.stkbase a (sizeBytes f.size) = some (.glob va)) → f.size = 4) →
    Gives (resolve a (sizeBytes f.size) (sizeBytes f.size) true false) s ph s' → s'.cur = s.cur → here s' = here s →
    (∀ off, ph.home ≠ .tile s.cur off) →
    exec (.stf f) s = .next (done s' fun x => sent (numbered x) (farAcc s (.stf d) ph a (sizeBytes f.size)))) ∧
  (∀ f s a va d, Alone s → On f.p s → Data f s d → Address f s a → f.size ≠ 4 →
    steer s.cur (here s).csr.stkbase a (sizeBytes f.size) = some (.glob va) → exec (.stf f) s = .next (takeTrap s s.cur 0x06 a)) ∧
  (∀ f s a off d, ITask s → Alone s → On f.p s → Data f s d → Address f s a → Own s a (sizeBytes f.size) off →
    Unarmed s off (sizeBytes f.size) →
    let b := BufItem.acc (ownAcc s (.stf d) a (sizeBytes f.size) off)
    Room s b → exec (.stf f) s = .next (done s fun x => buffered (numbered x) b)) ∧
  (∀ f s a off n, MTask s → Alone s → On f.p s → Holds s f.dst n → Address f s a → 1 ≤ n.toNat → n.toNat < 2 ^ 24 → n.toNat % 4 = 0 →
    a.toNat % 4 = 0 → steer s.cur (here s).csr.stkbase a n.toNat = some (.tile s.cur off) → PortFree s off n.toNat →
    exec (.feclr f) s = .next (done (setFull s (.tile s.cur off) n.toNat false) numbered)) ∧
  (∀ f s s' a n ph va, MTask s → Alone s → On f.p s → Holds s f.dst n → Address f s a → 1 ≤ n.toNat → n.toNat < 2 ^ 24 →
    n.toNat % 64 = 0 → a.toNat % 64 = 0 → steer s.cur (here s).csr.stkbase a n.toNat = some (.glob va) →
    a.toNat / pageBytes (pageCode s) = (a.toNat + n.toNat - 1) / pageBytes (pageCode s) →
    Gives (resolve a n.toNat 64 true false) s ph s' → s'.cur = s.cur → here s' = here s → (∀ u off, ph.home ≠ .tile u off) →
    exec (.feclr f) s = .next (done s' fun x =>
      ({ numbered x with net := x.net ++ [clearAcc s ph a n.toNat] } : Tile).perfAdd 5 (feclrParts ph a n.toNat).length)) ∧
  (∀ f s a off n, ITask s → Alone s → On f.p s → Holds s f.dst n → Address f s a → 1 ≤ n.toNat → n.toNat < 2 ^ 24 → n.toNat % 4 = 0 →
    a.toNat % 4 = 0 → steer s.cur (here s).csr.stkbase a n.toNat = some (.tile s.cur off) →
    let b := BufItem.acc (clearAcc s ⟨.tile s.cur off, 0, false, 0⟩ a n.toNat)
    Room s b → exec (.feclr f) s = .next (done s fun x => buffered (numbered x) b)) ∧
  (∀ f s a, Alone s → On f.p s → Holds s f.dst 0 → Address f s a → exec (.feclr f) s = .next (done s id)) ∧
  (∀ f s a off, Alone s → On f.p s → Free true f.dst s → f.dst.toNat < 56 → Address f s a → Own s a 1 off →
    PortFree s (off / 64 * 64) 64 → ∃ k : BitVec 16, (∀ i, i < 16 → k.getLsbD i =
        ((here s).sch.fx.sb.reverse.findSome? (·.bitAt (.tile s.cur (off / 64 * 64 + 4 * i)))).getD
          ((here s).store.full (off / 64 * 16 + i))) ∧
      exec (.fetst f) s = .next (done s fun x =>
        coming (emptied (numbered x) (.g f.dst.toNat)) (.g f.dst.toNat) (k.setWidth 512)))

/-- R187, R230: an atomic of an M task on the own store is one read-modify-write; with RET the old value comes to the register.
The model's own readings in it: notes/assumptions/15. -/
def Obligations.AtomicResults : Prop :=
  ∀ f s a off x y, MTask s → NoReplay s → Alone s → On f.p s → Holds s f.dst x →
    (if f.size = 7 then Holds s (BitVec.ofNat 8 (f.dst.toNat + 1)) y else y = 0) → Address f s a →
    let n := if f.aux.getLsbD 0 then 8 else 4
    Own s a n off → PortFree s off n → Unarmed s off n → (here s).store.bad1 = [] → (here s).store.bad2 = [] →
    let new := lowBytes n (atomic f.size (f.aux.getLsbD 2) (8 * n) (BitVec.ofNat (8 * n) (ownNumber s off n))
      (x.setWidth (8 * n)) (y.setWidth (8 * n))).toNat
    exec (.amo f) s = .next (done (rawWrite s (.tile s.cur off) new) fun t =>
      if f.aux.getLsbD 3 then coming (emptied (numbered t) (.g f.dst.toNat)) (.g f.dst.toNat) (BitVec.ofNat 512 (ownNumber s off n))
      else numbered t)

/-- R162, R164, R189, R216, R231: an access whose home lies elsewhere is sent to it when an M task issues it; a store, atomic or feclr of
an I task enters the store buffer, a store whether its home is the own store or lies elsewhere, and the home does not change. A scalar reduce-add of an M task leaves for its global home with the mode
and seed it samples; a tile address is an ADDRFAULT.
The model's own readings in it: notes/assumptions/9. -/
def Obligations.AccessesLeave : Prop :=
  ((∀ f s s' a ph, (f.ord = 1 → MTask s) → f.size.toNat < 4 → Alone s → On f.p s → Free true f.dst s → f.dst.toNat < 56 → Address f s a →
    Gives (resolve a (sizeBytes f.size) (sizeBytes f.size) false true) s ph s' → s'.cur = s.cur → here s' = here s →
    (∀ off, ph.home ≠ .tile s.cur off) → (here s).sch.fx.sb = [] →
    let u := s'.modTile s.cur fun x => sent { (numbered x) with regs := x.regs.emptyG f.dst.toNat }
      (farAcc s (.load (.g f.dst.toNat) 0 (sizeBytes f.size) (f.aux.getLsbD 0) []) ph a (sizeBytes f.size))
    exec (.ld f) s = .next (done u (ordered u (f.ord == 1)))) ∧
  (∀ f s s' a ph d, MTask s → Alone s → On f.p s → Data f s d → f.dk = true → Address f s a →
    Gives (resolve a (sizeBytes f.size) (sizeBytes f.size) true true) s ph s' → s'.cur = s.cur → here s' = here s →
    (∀ off, ph.home ≠ .tile s.cur off) →
    exec (.st f) s = .next (done s' fun x => sent (numbered (ordered s' (f.ord == 2) x)) (farAcc s (.store d) ph a (sizeBytes f.size)))) ∧
  (∀ f s a off d, f.ord ≠ 2 → ITask s → Alone s → On f.p s → Data f s d → f.dk = true → Address f s a → f.size.toNat < 4 →
    Own s a (sizeBytes f.size) off → Unarmed s off (sizeBytes f.size) →
    let b := BufItem.acc (ownAcc s (.store d) a (sizeBytes f.size) off)
    Room s b → exec (.st f) s = .next (done s fun x => buffered (numbered x) b)) ∧
  (∀ f s a off x y, f.aux.getLsbD 3 = false → ITask s → NoReplay s → Alone s → On f.p s → Holds s f.dst x →
    (if f.size = 7 then Holds s (BitVec.ofNat 8 (f.dst.toNat + 1)) y else y = 0) → Address f s a →
    let n := if f.aux.getLsbD 0 then 8 else 4
    Own s a n off → Unarmed s off n →
    let b := BufItem.acc (ownAcc s (.amo f.size (f.aux.getLsbD 0) (f.aux.getLsbD 2) x y none) a n off)
    Room s b → exec (.amo f) s = .next (done s fun t => buffered (numbered t) b)) ∧
  (∀ f s a off n, ITask s → Alone s → On f.p s → Holds s f.dst n → Address f s a → 1 ≤ n.toNat → n.toNat < 2 ^ 24 → n.toNat % 4 = 0 →
    a.toNat % 4 = 0 → steer s.cur (here s).csr.stkbase a n.toNat = some (.tile s.cur off) →
    let b := BufItem.acc (clearAcc s ⟨.tile s.cur off, 0, false, 0⟩ a n.toNat)
    Room s b → exec (.feclr f) s = .next (done s fun x => buffered (numbered x) b)) ∧
  (∀ f s s' a ph d, f.ord ≠ 2 → ITask s → Alone s → On f.p s → Data f s d → f.dk = true → Address f s a → f.size.toNat < 4 →
    Gives (resolve a (sizeBytes f.size) (sizeBytes f.size) true true) s ph s' → s'.cur = s.cur → here s' = here s →
    (∀ off, ph.home ≠ .tile s.cur off) →
    let b := BufItem.acc (farAcc s (.store d) ph a (sizeBytes f.size))
    Room s b → exec (.st f) s = .next (done s' fun x => buffered (numbered x) b))) ∧
  ((∀ f s s' a ph d, f.dk = true → MTask s → NoReplay s → Alone s → On f.p s → Data f s d → Address f s a → ModeOk (f.size == 0) s →
    let n := if f.size = 2 then 8 else 4
    (∃ va, steer s.cur (here s).csr.stkbase a n = some (.glob va)) → a.toNat % n = 0 →
    Gives (resolve a n n true false) s ph s' → s'.cur = s.cur → here s' = here s → (∀ off, ph.home ≠ .tile s.cur off) →
    exec (.red f) s = .next (done s' fun x => sent (numbered x)
      (farAcc s (.red f.size d (BitVec.ofNat 3 x.csr.mode) (x.csr.srseed.setWidth 32)) ph a n))) ∧
  (∀ f s a d u off, f.dk = true → MTask s → NoReplay s → Alone s → On f.p s → Data f s d → Address f s a → ModeOk (f.size == 0) s →
    steer s.cur (here s).csr.stkbase a (if f.size = 2 then 8 else 4) = some (.tile u off) →
    exec (.red f) s = .next (takeTrap s s.cur 0x03 a)))

/-- R176, R232: a fence goes by at once and holds no other instruction back; while something issued before it is outstanding in its scope,
a later access does not perform; once nothing is, it is held back no longer.
The model's own readings in it, the unit that performs and the event that is not enabled: notes/assumptions/9, 66. -/
def Obligations.FenceCompletes : Prop :=
  (∀ f s, MTask s → NoReplay s → Alone s → On f.p s → exec (.fence f) s = .next (done s (fenced s f.ord.toNat))) ∧
  (∀ s t e id, e ∈ (s.tile t).sch.fences → e.2 ≤ id →
    (scopeClear s t e.1 e.2 = false → fenceOk s t id = false) ∧
    ((∀ d ∈ (s.tile t).sch.fences, d ≠ e → id < d.2) → scopeClear s t e.1 e.2 = true → fenceOk s t id = true)) ∧
  (∀ s t n i k a, (netUnits (s.tile t))[n]? = some (i, k) → (s.tile t).net[i]? = some a → fenceOk s t a.id = false → a.parts ≠ [] →
    exec (.performAtHome t n) s = .next s)

/-- R183, R227, R228: chbind binds a handle, starting a chain that no one holds; a chained access of an M task is sent to its slice and
holds the core until the slice has taken it; a stc of an I task enters the store buffer.
The model's own readings in it: notes/assumptions/41. -/
def Obligations.ChainIssue : Prop :=
  (∀ f s a b, NoReplay s → NotRedundant s → Alone s → On f.p s → Holds s f.ga a → Holds s f.gb b → a.toNat < 4096 →
    b.toNat < 0xFFFFFF → ((s.slice (a.toNat / 16)).chains.find? fun e => e.1 == a.toNat % 16) = none →
    exec (.chbind f) s = .next (done (s.modSlice (a.toNat / 16) fun y => { y with
        chains := tput y.chains (a.toNat % 16) ⟨s.sqOf s.cur, b.setWidth 24, 0xFFFFFF, none, false, none⟩ }) fun x =>
      { x with eng := { x.eng with handles := tput x.eng.handles f.ix.toNat (some (a.toNat / 16, a.toNat % 16)) } })) ∧
  (∀ f s s' a ph slice ch sn pn nn, f.dk = true → f.size.toNat < 4 → MTask s → NoReplay s → NotRedundant s → Alone s → On f.p s →
    Free true f.dst s → f.dst.toNat < 56 → (here s).sch.chOut = none → Pair f s slice ch sn pn nn → Address f s a →
    Gives (resolve a (sizeBytes f.size) (sizeBytes f.size) false false) s ph s' →
    ph.sl = true → ph.slice = slice → s'.cur = s.cur → here s' = here s →
    exec (.ldc f) s = .next (s'.modTile s.cur fun x =>
      { (sent { (numbered x) with regs := x.regs.emptyG f.dst.toNat }
          (farAcc s (.chLoad ⟨slice, ch, sn, pn, nn⟩ (.g f.dst.toNat) (sizeBytes f.size)) ph a (sizeBytes f.size))) with
        sch := { ((numbered x).perfAdd 5 1).sch with chOut := some x.nextAcc } })) ∧
  (∀ f s s' a ph d slice ch sn pn nn, f.dk = true → f.size.toNat < 4 → MTask s → NoReplay s → NotRedundant s → Alone s → On f.p s →
    (here s).sch.chOut = none → Pair f s slice ch sn pn nn → Data f s d → Address f s a →
    Gives (resolve a (sizeBytes f.size) (sizeBytes f.size) true false) s ph s' → ph.sl = true → ph.slice = slice → s'.cur = s.cur →
    here s' = here s →
    exec (.stc f) s = .next (s'.modTile s.cur fun x =>
      { (sent (numbered x) (farAcc s (.chStore ⟨slice, ch, sn, pn, nn⟩ d) ph a (sizeBytes f.size))) with
        sch := { ((numbered x).perfAdd 5 1).sch with chOut := some x.nextAcc } })) ∧
  (∀ mk ∈ ([.ldc, .stc] : List (FM → Instr)), ∀ f s id, MTask s → NoReplay s → NotRedundant s → Alone s → On f.p s →
    (here s).sch.chOut = some id →
    ((here s).net.any (·.id == id) = false →
      exec (mk f) s = .next (done s fun x => { x with sch := { x.sch with chOut := none } })) ∧
    ((here s).net.any (·.id == id) = true → exec (mk f) s = .next s)) ∧
  (∀ f s s' a ph d slice ch sn pn nn, f.dk = true → f.size.toNat < 4 → ITask s → NoReplay s → NotRedundant s → Alone s → On f.p s →
    Pair f s slice ch sn pn nn → Data f s d → Address f s a →
    Gives (resolve a (sizeBytes f.size) (sizeBytes f.size) true false) s ph s' → ph.sl = true → ph.slice = slice → s'.cur = s.cur →
    here s' = here s →
    let b := BufItem.acc (farAcc s (.chStore ⟨slice, ch, sn, pn, nn⟩ d) ph a (sizeBytes f.size))
    Room s b → exec (.stc f) s = .next (done s' fun x => buffered (numbered x) b))

/-- R22-R25, R170, R215, R346: the checks of an access in their order, for the scalar loads and stores, the atomics and the full/empty
forms. An address in no aperture is an ADDRFAULT; then an access that is not aligned as its form asks is an ALIGN; then a tile of another
owner is an OWNER trap; then a translation that fails is its PAGEFAULT, PROTECT or DUE, where an entry without the permission, of a page
that the level or the form may not use, is a PROTECT; then an uncorrectable unit of the own store is a DUE.
The model's own readings in it: notes/assumptions/14, 24. -/
def Obligations.AccessChecks : Prop :=
  (∀ i f s a n aligned writes host, AccessForm i f s a n aligned writes host → Alone s → On f.p s → Address f s a →
    let p := steer s.cur (here s).csr.stkbase a n
    (p = none → exec i s = .next (takeTrap s s.cur 0x03 a)) ∧
    (p ≠ none → aligned = false → exec i s = .next (takeTrap s s.cur 0x06 a)) ∧
    (∀ u off, p = some (.tile u off) → aligned = true → s.ownerOf u ≠ s.ownerOf s.cur → exec i s = .next (takeTrap s s.cur 0x0F a)) ∧
    (∀ va e, p = some (.glob va) → aligned = true → migrating s (s.ctxOf s.cur) va = false →
      translate s s.cur (s.ctxOf s.cur) (s.refLevel s.cur) (pageCode s) va writes host = .error e →
      exec i s = .next (if e = 0 then s else takeTrap s s.cur (BitVec.ofNat 8 e) (walkTaddr e va)))) ∧
  (∀ s t c ref pg va writes host,
    (∀ e, tlbFind s (fieldOf t) c pg va = .error e → translate s t c ref pg va writes host = .error e) ∧
    (∀ e u, tlbFind s (fieldOf t) c pg va = .ok (e, u) →
      e.pte.getLsbD (if writes then 5 else 4) = false ∨ (e.pte.getLsbD 3 = false ∧ ref = false) ∨ (e.pte.getLsbD 10 = true ∧ host = false) →
      translate s t c ref pg va writes host = .error 5)) ∧
  (∀ f s a off u, (f.ord = 1 → MTask s) → f.size.toNat < 4 → Alone s → On f.p s → Free true f.dst s → f.dst.toNat < 56 → Address f s a →
    Own s a (sizeBytes f.size) off → PortFree s off (sizeBytes f.size) → (here s).sch.fx.sb = [] →
    (here s).store.badRead off (sizeBytes f.size) = some u → exec (.ld f) s = .next (takeTrap s s.cur 0x10 (BitVec.ofNat 64 (8 * u)))) ∧
  (∀ f s a off d u, MTask s → f.ord = 0 → f.dk = true → f.size.toNat < 4 → Alone s → On f.p s → Data f s d → Address f s a →
    Own s a (sizeBytes f.size) off → PortFree s off (sizeBytes f.size) → Unarmed s off (sizeBytes f.size) →
    (here s).store.badWrite off (sizeBytes f.size) = some u → exec (.st f) s = .next (takeTrap s s.cur 0x10 (BitVec.ofNat 64 (8 * u)))) ∧
  (∀ t stk (a : Word) n, 0 < n → (a.toNat + n ≤ 0x180000 → steer t stk a n = some (.tile t a.toNat)) ∧
    (0x100000000000000 ≤ a.toNat → steer t stk a n = none))

/-- R162, R178, R216, R218, R230: what a load, a store, an atomic or a full/empty instruction of the own store leaves. A store or an
atomic of an M task changes the bytes that its address and size give and no others, in any store of the module, and no other tile; a
load, a feclr, and a store, an atomic or a feclr of an I task, which enters the store buffer, change no byte anywhere. -/
def Obligations.MemoryFrame : Prop :=
  (∀ mk ∈ ([.st, .stf] : List (FM → Instr)), ∀ f s t a off d, StoresCanonical s → MTask s → Alone s → On f.p s → f.ord = 0 →
    Data f s d → f.dk = true → Address f s a → f.size.toNat < 4 → Own s a (sizeBytes f.size) off → PortFree s off (sizeBytes f.size) →
    Unarmed s off (sizeBytes f.size) → (here s).store.badWrite off (sizeBytes f.size) = none → exec (mk f) s = .next t →
    (∀ k, Outside (.tile s.cur off) (sizeBytes f.size) k → byteAt t k = byteAt s k) ∧
    (∀ i, i < sizeBytes f.size → byteAt t (.tile s.cur (off + i)) = byteOf d.toNat i) ∧
    (∀ u, u ≠ s.cur → t.tile u = s.tile u) ∧ (here t).regs.g = (here s).regs.g ∧ (here t).regs.v = (here s).regs.v ∧
    (here t).regs.k = (here s).regs.k ∧ (here t).regs.wa = (here s).regs.wa ∧ (here t).csr = (here s).csr ∧
    (here t).inq = (here s).inq ∧ (here t).outq = (here s).outq ∧ t.parts = s.parts ∧ t.sec = s.sec) ∧
  (∀ mk ∈ ([.stv, .stf] : List (FM → Instr)), ∀ f s t a off d, StoresCanonical s → MTask s → Alone s → Lanes f.p s 0xFFFF → f.ord = 0 →
    Data f s d → f.dk = false → Address f s a → f.size = 4 → Own s a 64 off → PortFree s off 64 → Unarmed s off 64 → HurdlesAligned s →
    (here s).store.bad2 = [] → exec (mk f) s = .next t →
    (∀ k, Outside (.tile s.cur off) 64 k → byteAt t k = byteAt s k) ∧
    (∀ i, i < 64 → byteAt t (.tile s.cur (off + i)) = byteOf d.toNat i) ∧ (∀ u, u ≠ s.cur → t.tile u = s.tile u) ∧
    (here t).csr = (here s).csr ∧ (here t).regs.g = (here s).regs.g ∧ (here t).regs.v = (here s).regs.v) ∧
  (∀ f s t a off x y, StoresCanonical s → MTask s → NoReplay s → Alone s → On f.p s → Holds s f.dst x →
    (f.size = 7 → Holds s (BitVec.ofNat 8 (f.dst.toNat + 1)) y) → Address f s a →
    let n := if f.aux.getLsbD 0 then 8 else 4
    Own s a n off → PortFree s off n → Unarmed s off n → (here s).store.bad2 = [] → exec (.amo f) s = .next t →
    (∀ k, Outside (.tile s.cur off) n k → byteAt t k = byteAt s k) ∧ (∀ u, u ≠ s.cur → t.tile u = s.tile u) ∧
    (here t).csr = (here s).csr ∧ (here t).regs.g = (here s).regs.g ∧ (here t).regs.v = (here s).regs.v) ∧
  (∀ mk ∈ ([.ld, .lds] : List (FM → Instr)), ∀ f s t a off, StoresCanonical s → (f.ord = 1 → MTask s) →
    (f.aux.getLsbD 0 = true → MTask s) → Alone s → On f.p s → f.dk = true → Free true f.dst s → f.dst.toNat < 56 → Address f s a →
    Own s a (sizeBytes f.size) off → (here s).sch.fx.sb = [] → (here s).store.bad2 = [] → exec (mk f) s = .next t →
    (∀ k, byteAt t k = byteAt s k) ∧ (∀ u, u ≠ s.cur → t.tile u = s.tile u) ∧
    (here t).csr = (here s).csr ∧ (here t).regs.g = (here s).regs.g ∧ (here t).regs.v = (here s).regs.v) ∧
  (∀ f s t a off n, StoresCanonical s → Alone s → On f.p s → Holds s f.dst n → Address f s a → 1 ≤ n.toNat → n.toNat < 2 ^ 24 →
    n.toNat % 4 = 0 → a.toNat % 4 = 0 → steer s.cur (here s).csr.stkbase a n.toNat = some (.tile s.cur off) →
    (ITask s → Room s (.acc (clearAcc s ⟨.tile s.cur off, 0, false, 0⟩ a n.toNat))) → exec (.feclr f) s = .next t →
    (∀ k, byteAt t k = byteAt s k) ∧ (∀ u, u ≠ s.cur → t.tile u = s.tile u) ∧
    (here t).csr = (here s).csr ∧ (here t).regs.g = (here s).regs.g ∧ (here t).regs.v = (here s).regs.v) ∧
  (∀ mk ∈ ([.st, .stf] : List (FM → Instr)), ∀ f s t a off d, StoresCanonical s → ITask s → Alone s → On f.p s → f.ord ≠ 2 →
    Data f s d → Address f s a → Own s a (sizeBytes f.size) off → Unarmed s off (sizeBytes f.size) →
    Room s (.acc (ownAcc s (.store d) a (sizeBytes f.size) off)) → exec (mk f) s = .next t →
    (∀ k, byteAt t k = byteAt s k) ∧ (∀ u, u ≠ s.cur → t.tile u = s.tile u) ∧
    (here t).csr = (here s).csr ∧ (here t).regs.g = (here s).regs.g ∧ (here t).regs.v = (here s).regs.v) ∧
  (∀ f s t a off x y, f.aux.getLsbD 3 = false → StoresCanonical s → ITask s → NoReplay s → Alone s → On f.p s → Holds s f.dst x →
    (f.size = 7 → Holds s (BitVec.ofNat 8 (f.dst.toNat + 1)) y) → Address f s a →
    let n := if f.aux.getLsbD 0 then 8 else 4
    Own s a n off → Unarmed s off n →
    Room s (.acc (ownAcc s (.amo f.size (f.aux.getLsbD 0) (f.aux.getLsbD 2) x y none) a n off)) → exec (.amo f) s = .next t →
    (∀ k, byteAt t k = byteAt s k) ∧ (∀ u, u ≠ s.cur → t.tile u = s.tile u) ∧
    (here t).csr = (here s).csr ∧ (here t).regs.g = (here s).regs.g ∧ (here t).regs.v = (here s).regs.v)

/-! # Engines -/

/-- R241-R243: binding a port, starting it at its first or its next element, halting it after its element in progress and the control
token which that owes, reading its position.
The model's own readings in it: notes/assumptions/28. -/
def Obligations.PortResults : Prop :=
  (∀ f s a off, MTask s → Alone s → On f.p s → Holds s f.ga a → ((here s).port f.ix.toNat).st ≠ 1 → OwnBlock s a 64 64 off →
    Plain s off 64 → ∃ d : Tbl Word, (∀ i, i < 8 → tget 0 d i = BitVec.ofNat 64 (ownNumber s (off + 8 * i) 8)) ∧
      let y : Port := { (here s).port f.ix.toNat with desc := d }
      (y.legal (here s) = true → exec (.spbind f) s = .next (done (endRun s s.cur f.ix.toNat) fun x =>
        x.setPort f.ix.toNat { x.port f.ix.toNat with
          desc := d, pos := 0, st := 0, pack := 0, packN := 0, eodDue := none, resume := false, acc := none, halting := false })) ∧
      (y.legal (here s) = false → exec (.spbind f) s = .next (takeTrap s s.cur 0x01 (wordOf (.spbind f))))) ∧
  (∀ f s, MTask s → Alone s → On f.p s →
    let y := (here s).port f.ix.toNat
    y.st ≠ 1 → ModeOk (y.conv != 0) s → (y.isWrite = true → y.hden = true → (here s).armed y.hdx ≠ none ∧ Whole s) →
    exec (.spgo f) s = .next (done (startPort s s.cur f.ix.toNat (s.ctxOf s.cur) (f.cmd.getLsbD 0) (here s).csr.carry true) id)) ∧
  (∀ s t p c car, let y := (s.tile t).port p
    y.isWrite = false → y.pendHd = none →
    (startPort s t p c true car false) = settlePort (s.modTile t fun x => x.setPort p
      { y with st := 1, car := car, ctx := c, acc := none, halting := false }) t p ∧
    (startPort s t p c false car false) = settlePort (s.modTile t fun x => x.setPort p
      { y with st := 1, car := car, ctx := c, acc := none, halting := false, pos := 0, pack := 0, packN := 0, eodDue := none }) t p) ∧
  (∀ f s, MTask s → Alone s → On f.p s → ((here s).port f.ix.toNat).st = 1 →
    exec (.spgo f) s = .next s ∧
    (((here s).port f.ix.toNat).acc = none → ((here s).port f.ix.toNat).eodDue = none →
      exec (.sphalt f) s = .next (done s fun x => x.setPort f.ix.toNat { x.port f.ix.toNat with st := 2, halting := false })) ∧
    (((here s).port f.ix.toNat).acc ≠ none ∨ ((here s).port f.ix.toNat).eodDue ≠ none →
      exec (.sphalt f) s = .next (done s fun x => x.setPort f.ix.toNat { x.port f.ix.toNat with halting := true }))) ∧
  (∀ s t p, let y := (s.tile t).port p
    y.st = 1 → y.acc = none → y.eodDue = none →
    (y.halting = true → settlePort s t p = s.modTile t fun x => x.setPort p { x.port p with st := 2, halting := false }) ∧
    (y.halting = false → y.total ≤ y.pos → settlePort s t p = endRun s t p)) ∧
  (∀ f s, MTask s → Alone s → On f.p s → ((here s).port f.ix.toNat).st ≠ 1 → exec (.sphalt f) s = .next (done s id)) ∧
  (∀ f s, Alone s → On f.p s → Ready s f.ga →
    let y := (here s).port f.ix.toNat
    exec (.sppos f) s = .next (done s fun x =>
      later x (.g f.ga.toNat) (BitVec.ofNat 512 (y.pos % 2 ^ 32 + y.st.toNat * 2 ^ 32)) 0))

/-- R178, R239, R244, R250: a copy, plain or of rows, enters the copy engine's queue; a DREQ enters the reply port's.
The model's own readings in it: notes/assumptions/28, 75. -/
def Obligations.CopyResults : Prop :=
  (∀ f s d a n, Alone s → On f.p s → Holds s f.ga d → Holds s f.gb a → Holds s f.gc n →
    let o : CopyOp := {
      dst := d, src := a, rb := n.toNat, rows := 1, sstr := 0, dstr := 0, cvt := cvtOf f, hd := hdOf f
      car := (here s).csr.carry, pgsz := pageCode s, ctx := s.ctxOf s.cur, byTask := byTask s }
    CopyOk s o → exec (.cpa f) s = .next (done (copying s o) id)) ∧
  (∀ f s a off, Listed s → Alone s → On f.p s → Holds s f.ga a → OwnBlock s a 32 32 off → Plain s off 32 →
    let o : CopyOp := {
      dst := BitVec.ofNat 64 (ownNumber s off 8), src := BitVec.ofNat 64 (ownNumber s (off + 8) 8)
      rb := ownNumber s (off + 16) 4, rows := ownNumber s (off + 20) 4
      dstr := (BitVec.ofNat 32 (ownNumber s (off + 24) 4)).toInt, sstr := (BitVec.ofNat 32 (ownNumber s (off + 28) 4)).toInt
      cvt := cvtOf f, hd := hdOf f, car := (here s).csr.carry, pgsz := pageCode s, ctx := s.ctxOf s.cur, byTask := byTask s }
    CopyOk s o → exec (.cp2d f) s = .next (done (copying s o) id)) ∧
  (∀ f s s' a n va pa slice sl at_, f.cmd.getLsbD 0 = false → Alone s → On f.p s → Holds s f.ga a → Holds s f.gb n →
    n.toNat % 64 = 0 → 64 ≤ n.toNat → n.toNat ≤ 4096 →
    let k := n.toNat / 64 + if f.cmd.getLsbD 1 then 1 else 0
    k ≤ ((here s).inQ f.ix.toNat).depth → steer s.cur (here s).csr.stkbase a n.toNat = some (.glob va) → a.toNat % 64 = 0 →
    a.toNat / pageBytes (pageCode s) = (a.toNat + n.toNat - 1) / pageBytes (pageCode s) →
    Gives (resolve a n.toNat 64 false false) s ⟨.dram pa, slice, sl, at_⟩ s' → s'.cur = s.cur → here s' = here s →
    (here s).eng.dreqs.length < 16 → k ≤ (here s).inFree f.ix.toNat →
    exec (.dreq f) s = .next (done s' fun x =>
      let q := x.inQ f.ix.toNat
      let x := x.setInQ f.ix.toNat { q with resv := q.resv + k }
      { x with eng := { x.eng with dreqs := x.eng.dreqs ++ [{
        id := (here s).dreqId, mode1 := false, q := f.ix.toNat, va := a, bytes := n.toNat, dst := 0, eod := f.cmd.getLsbD 1
        pgsz := pageCode s, ctx := s.ctxOf s.cur, car := (here s).csr.carry, byTask := byTask s, pa := pa, slice := slice }] } })) ∧
  (∀ f s s' a n d va pa slice sl at_ off, f.cmd.getLsbD 0 = true → f.cmd.getLsbD 1 = false → Alone s → On f.p s →
    Holds s f.ga a → Holds s f.gb n → Holds s f.gc d → n.toNat % 64 = 0 → 64 ≤ n.toNat → n.toNat ≤ 4096 →
    (ITask s → LocalSpelling d) → (here s).armed f.ix.toNat ≠ none → Whole s →
    steer s.cur (here s).csr.stkbase a n.toNat = some (.glob va) → a.toNat % 64 = 0 →
    a.toNat / pageBytes (pageCode s) = (a.toNat + n.toNat - 1) / pageBytes (pageCode s) →
    Gives (resolve a n.toNat 64 false false) s ⟨.dram pa, slice, sl, at_⟩ s' → s'.cur = s.cur → here s' = here s →
    OwnBlock s d n.toNat 64 off → (here s).eng.dreqs.length < 16 →
    exec (.dreq f) s = .next (done (emptyRange (pendBy s' s.cur f.ix.toNat true (byTask s)) s.cur (s.ctxOf s.cur)
        (here s).csr.stkbase (pageCode s) (pagesOf n.toNat) d n.toNat) fun x =>
      { x with eng := { x.eng with dreqs := x.eng.dreqs ++ [{
        id := (here s).dreqId, mode1 := true, q := f.ix.toNat, va := a, bytes := n.toNat, dst := d, eod := false
        pgsz := pageCode s, ctx := s.ctxOf s.cur, car := (here s).csr.carry, byTask := byTask s, pa := pa, slice := slice }] } }))

/-- R246-R248: HDINIT arms a word, or says why not; HDARR arrives; HDWAIT and HDTEST compare the phase; HDKILL disarms; each as an access
of the core port that has its turn. -/
def Obligations.HurdleResults : Prop :=
  (∀ f s a n off, Alone s → On f.p s → Ready s f.ga → Holds s f.gb a → Holds s f.gc n → 1 ≤ n.toNat → n.toNat < 2 ^ 29 →
    OwnBlock s a 8 8 off → PortFree s off 8 →
    let taken := (here s).eng.hds.any fun e => e.1 != f.ix.toNat && e.2.bound == some off
    let covered := (here s).sch.fx.sb.any fun b => b.covers (.tile s.cur off) 8
    (0 < ((here s).hd f.ix.toNat).pend → exec (.hdinit f) s = .next (done s fun x => putScalar x f.ga 1)) ∧
    (((here s).hd f.ix.toNat).pend = 0 → (taken || covered) = true →
      exec (.hdinit f) s = .next (done s fun x => putScalar x f.ga 2)) ∧
    (((here s).hd f.ix.toNat).pend = 0 → (taken || covered) = false →
      exec (.hdinit f) s = .next (done (rawWrite (s.modTile s.cur (·.noteHurdle off)) (.tile s.cur off)
        (lowBytes 8 (n.toNat * 2 ^ 35 + (if f.cmd.getLsbD 0 then 2 ^ 34 else 0) + 2 ^ 33))) fun x =>
          putScalar (x.setHd f.ix.toNat ⟨some off, 0⟩) f.ga 0))) ∧
  (∀ f s c o w, Alone s → On f.p s → Holds s f.ga c → 1 ≤ c.toNat → c.toNat < 2 ^ 29 → (here s).armed f.ix.toNat = some (o, w) →
    w / 2 ^ 34 % 2 = 0 →
    (MTask s → HurdleTurn s f.ix.toNat → exec (.hdarr f) s = .next (done (rawWrite s (.tile s.cur o) (lowBytes 8 (hwArrive w c.toNat))) id)) ∧
    (ITask s → Whole s → Room s (.hdarr f.ix.toNat c.toNat (here s).nextAcc) →
      exec (.hdarr f) s = .next (done s fun x => buffered x (.hdarr f.ix.toNat c.toNat x.nextAcc)))) ∧
  (∀ f s p o w, Alone s → On f.p s → Holds s f.ga p → (here s).armed f.ix.toNat = some (o, w) → HurdleTurn s f.ix.toNat →
    let past := w / 2 ^ 32 % 2 ≠ p.toNat % 2
    (past → exec (.hdwait f) s = .next (done s id)) ∧ (¬ past → exec (.hdwait f) s = .next s) ∧
    (past → exec (.hdtest f) s = .next (done s fun x => later x (.g f.ga.toNat) 1 0)) ∧
    (¬ past → exec (.hdtest f) s = .next (done s fun x => later x (.g f.ga.toNat) 0 0))) ∧
  (∀ f s p, Alone s → On f.p s → Holds s f.ga p → (here s).armed f.ix.toNat = none →
    HurdleTurn s f.ix.toNat →
    exec (.hdwait f) s = .next (takeTrap s s.cur 0x01 (wordOf (.hdwait f))) ∧
    exec (.hdtest f) s = .next (takeTrap s s.cur 0x01 (wordOf (.hdtest f))) ∧
    exec (.hdkill f) s = .next (done s id)) ∧
  (∀ f s o w, Alone s → On f.p s → (here s).armed f.ix.toNat = some (o, w) → HurdleTurn s f.ix.toNat →
    exec (.hdkill f) s = .next (done (rawWrite (s.modTile s.cur (·.noteHurdle o)) (.tile s.cur o) (lowBytes 8 (w - 2 ^ 33))) id))

/-! # Patch -/

/-- R137-R145, R149-R153, R161: a patch command that its checks let through enters the patch's command queue with the operands it
has read; it holds at issue while the queue's 16 entries are taken. MXST enters it too, and its register is empty until the patch gives
it status (PATCH_COMMAND); MXRGN and MXRING name what the setup declares, or trap.
The model's own readings in it: notes/assumptions/75, 77, 94, 98, 99. -/
def Obligations.PatchCommands : Prop :=
  (∀ f s, Alone s → On f.p s → PlainPatch s → 16 ≤ (here s).pu.q.length →
    exec (.mxcfg f) s = .next s ∧ exec (.mxwsw f) s = .next s ∧ exec (.mxclr f) s = .next s ∧
    (Ready s f.ga → exec (.mxst f) s = .next s)) ∧
  (∀ f s, Alone s → On f.p s → PlainPatch s → Ready s f.ga → CmdRoom s →
    exec (.mxst f) s = .next (done (queued s (.st (f.cmd.getLsbD 0))) fun x => awaits x (.g f.ga.toNat) .status)) ∧
  (∀ f s, Alone s → On f.p s → PlainPatch s → CmdRoom s →
    exec (.mxcfg f) s = .next (done (queued s (.cfg f.ix.toNat (f.cmd.setWidth 4))) id) ∧
    exec (.mxwsw f) s = .next (done (queued s .wsw) id) ∧
    exec (.mxclr f) s = .next (done (queued s (.clr (f.cmd.getLsbD 0) (f.cmd.getLsbD 1))) id) ∧
    (f.cmd.getLsbD 0 = false → exec (.mxrec f) s = .next (done (queued s (.recur false 0)) id)) ∧
    (∀ d, f.cmd.getLsbD 0 = true → ModeOk true s → Holds s f.ga d → 1 ≤ d.toNat → d.toNat ≤ 16 →
      exec (.mxrec f) s = .next (done (queued s (.recur true d.toNat)) id))) ∧
  (∀ f s a, Alone s → On f.p s → PlainPatch s → CmdRoom s → (here s).view.ring = false →
    let ty := f.cmd.setWidth 4
    let sc := f.cmd.getLsbD 4
    let i4 := f.cmd.getLsbD 5
    (sc = true → 2 ≤ (here s).view.scq) → CmdAddr s (f.ix == 4) f.ga (512 * (if i4 then 4 else tyWidth ty)) a →
    exec (.mxwld f) s = .next (done (queued s (.wld f.ix.toNat a ty i4 sc)) id)) ∧
  (∀ f s n a, Alone s → On f.p s → PlainPatch s → CmdRoom s → Holds s f.gb n → 1 ≤ n.toNat → n.toNat ≤ 8 →
    (here s).view.scq + n.toNat ≤ 8 → CmdAddr s (f.ix == 4) f.ga (64 * n.toNat) a →
    exec (.mxsc f) s = .next (done (queued s (.sc f.ix.toNat a n.toNat)) id)) ∧
  (∀ f s rows r0 a, Alone s → On f.p s → PlainPatch s → CmdRoom s → Holds s f.gb rows → Holds s f.gc r0 →
    let src := f.ix.toNat
    runLegal s s.cur src rows.toNat r0.toNat (f.cmd.getLsbD 0) (f.cmd.getLsbD 1) (f.cmd.getLsbD 2) = true →
    CmdAddr s (f.ix == 4) f.ga (8 * rows.toNat * tyWidth (tget {} (here s).view.fmts src : ActFmt).ty) a →
    exec (.mxrun f) s = .next (done (queued s
      (.run src a rows.toNat r0.toNat (f.cmd.getLsbD 0) (f.cmd.getLsbD 1) (f.cmd.getLsbD 2))) id)) ∧
  (∀ f s first rows a, Alone s → On f.p s → PlainPatch s → CmdRoom s → Holds s f.gb first → Holds s f.gc rows →
    let ty := f.cmd.setWidth 4
    first.toNat + rows.toNat ≤ 64 → drainLegal (here s).view ty (f.cmd.getLsbD 4) = true → ModeOk (decide (8 ≤ ty.toNat)) s →
    let c (toQueue : Bool) : PCmd := .drn toQueue f.ix.toNat a ty (f.cmd.getLsbD 4) (f.cmd.getLsbD 5) (f.cmd.getLsbD 6)
      first.toNat rows.toNat
    let n := 8 * rows.toNat * tyWidth ty
    (f.ix ≠ 16 → 0 < ((here s).outQ f.ix.toNat).depth → a = 0 → exec (.mxdrn f) s = .next (done (queued s (c true)) id)) ∧
    (f.ix = 16 → CmdAddr s true f.ga n a →
      exec (.mxdrn f) s = .next (done (queued (emptyRange s s.cur 0 (here s).csr.stkbase 0 (pagesOf n) a n) (c false)) id))) ∧
  (∀ f s n, MTask s → Alone s → On f.p s → Holds s f.ga n →
    (∀ r, regionOf s s.cur = some (n.toNat, r) → (here s).view.rgn = !f.cmd.getLsbD 0 → CmdRoom s →
      exec (.mxrgn f) s = .next (done (queued s (.rgn (f.cmd.getLsbD 0) n.toNat)) id)) ∧
    ((∀ r, regionOf s s.cur ≠ some (n.toNat, r)) ∨ (here s).view.rgn = f.cmd.getLsbD 0 →
      exec (.mxrgn f) s = .next (takeTrap s s.cur 0x01 (wordOf (.mxrgn f)))) ∧
    (∀ r, ringOf s s.cur = some (n.toNat, r) → (here s).view.ring = !f.cmd.getLsbD 0 → CmdRoom s →
      exec (.mxring f) s = .next (done (queued s (.ring (f.cmd.getLsbD 0) n.toNat)) id)) ∧
    ((∀ r, ringOf s s.cur ≠ some (n.toNat, r)) ∨ (here s).view.ring = f.cmd.getLsbD 0 →
      exec (.mxring f) s = .next (takeTrap s s.cur 0x01 (wordOf (.mxring f))))) ∧
  (∀ f s, MTask s → Alone s → On f.p s → CmdRoom s →
    ((here s).view.ring = true → exec (.mxlap f) s = .next (done (queued s .lap) id)) ∧
    ((here s).view.ring = false → exec (.mxlap f) s = .next (takeTrap s s.cur 0x01 (wordOf (.mxlap f)))))

/-- R155, R156, R346, R347: MXCMD sends its request and holds; it completes on acceptance and traps CAPFAIL on a refusal; a target of
another owner is an OWNER trap, at issue and where the owner has changed when the command arrives. At the target the capability decides.
The model's own reading in it, the mode that the target is in: notes/assumptions/101. -/
def Obligations.RemoteCommands : Prop :=
  (∀ f s t n p, MTask s → Alone s → On f.p s → Holds s f.ga t → Holds s f.gb n → Holds s f.gc p → (here s).sch.cmdOut = none →
    (t.toNat < 9216 → s.ownerOf t.toNat = s.ownerOf s.cur →
      (f.cmd = 1 → 8 ≤ p.toNat % 16 → p.toNat % 16 ≤ 13 → ModeOk true s) →
      exec (.mxcmd f) s = .next (s.modTile s.cur fun x => ({ x with sch := { x.sch with cmdOut := some {
        target := t.toNat, cap := f.ix.toNat, nonce := n.setWidth 32, op := f.cmd.toNat, param := p
        car := x.csr.carry, pri := (x.sch.task.map (·.pri)).getD 0 } } } : Tile).perfAdd 5 1)) ∧
    ((9216 ≤ t.toNat ∨ s.ownerOf t.toNat ≠ s.ownerOf s.cur) →
      exec (.mxcmd f) s = .next (takeTrap s s.cur 0x0F (BitVec.ofNat 64 t.toNat)))) ∧
  (∀ f s r, MTask s → Alone s → On f.p s → (here s).sch.cmdOut = some r →
    (r.reply = none → exec (.mxcmd f) s = .next s) ∧
    (r.reply = some 1 → exec (.mxcmd f) s = .next (done s fun x => { x with sch := { x.sch with cmdOut := none } })) ∧
    (∀ v, r.reply = some v → v ≠ 1 → exec (.mxcmd f) s = .next (takeTrap s s.cur 0x0E
      (BitVec.ofNat 64 (r.target * 256 + r.cap + if v = 2 then 2 ^ 32 else 0))))) ∧
  (∀ s t r, (s.tile t).sch.cmdOut = some r → r.reply = none → s.ownerOf r.target ≠ s.ownerOf t →
    exec (.remoteCommandArrival t) s = .next (takeTrap (recordReject s t 2 0 (s.ownerOf r.target) r.target 0) t 0x0F
      (BitVec.ofNat 64 (2 ^ 63 + s.ownerOf r.target * 2 ^ 32 + r.target)))) ∧
  (∀ s t r c, (s.tile t).sch.cmdOut = some r → r.reply = none → s.ownerOf r.target = s.ownerOf t → s.unreachable r.target = false →
    (s.tile r.target).failStop = false → remoteCmd s r.target r = some c →
    let cap := tget 0 (s.tile r.target).eng.caps r.cap
    let answered (u : State) (v : BitVec 2) : State := u.modTile t fun x =>
      ({ x with sch := { x.sch with cmdOut := some { r with reply := some v } } } : Tile).perfAdd 6 1
    let granted := cap.getLsbD 63 = true ∧ cap.setWidth 32 = r.nonce ∧ cap.getLsbD (32 + r.op) = true ∧
      (s.tile r.target).view.rgn = false ∧ (s.tile r.target).view.ring = false
    (granted → (s.tile r.target).pu.q.length < 16 → exec (.remoteCommandArrival t) s =
      .next (answered (enqueueCmd s r.target { cmd := c, car := r.car, pri := r.pri, remote := true }) 1)) ∧
    (¬ granted → exec (.remoteCommandArrival t) s = .next (answered s 0)))

/-! # Control -/

/-- R14, R53, R284-R290: branches, jumps and loops; where an instruction goes on, the latest loop that ends there decides.
The model's own readings in it: notes/assumptions/61. -/
def Obligations.TransferResults : Prop :=
  (∀ f s, Alone s → On f.p s →
    let t := target s f.off
    (t < 6144 → exec (.br f) s = .next (done s id (.jump t))) ∧
    (6144 ≤ t → exec (.br f) s = .next (takeTrap s s.cur 0x03 (BitVec.ofNat 64 t))) ∧
    (∀ g, Holds s f.g g → (Branches f g → t < 6144 → exec (.bc f) s = .next (done s id (.jump t))) ∧
      (¬ Branches f g → exec (.bc f) s = .next (done s id))) ∧
    (Ready s f.g → t < 6144 →
      exec (.jal f) s = .next (done s (fun x => putScalar x f.g (BitVec.ofNat 64 ((here s).regs.pc + 1))) (.jump t))) ∧
    (∀ g, Holds s f.g g → (g.toNat < 6144 → exec (.jr f) s = .next (done s id (.jump g.toNat))) ∧
      (6144 ≤ g.toNat → exec (.jr f) s = .next (takeTrap s s.cur 0x03 g)))) ∧
  (∀ f s c, Alone s → On f.p s → Holds s f.g c →
    let k := f.aux.toNat % 4
    let n : BitVec 32 := c.setWidth 32
    let e := (here s).regs.pc + f.off.toNat
    let rest := loopsLeft k (here s).regs.loops
    (n ≠ 0 → e < 6144 → exec (.loop f) s = .next (done s fun x =>
      { x with regs := { x.regs.putLc k n with
        lp := tset (0, 0) x.regs.lp k ((here s).regs.pc + 1, e), loops := k :: rest } })) ∧
    (n ≠ 0 → 6144 ≤ e → exec (.loop f) s = .next (takeTrap s s.cur 0x03 (BitVec.ofNat 64 e))) ∧
    (n = 0 → e + 1 < 6144 → exec (.loop f) s = .next (done s (fun x =>
      { x with regs := { x.regs.putLc k 0 with loops := rest } }) (.jump (e + 1))))) ∧
  (∀ f s, Alone s → On f.p s →
    let k := f.aux.toNat % 4
    let e := ((here s).regs.span k).2
    (k ∈ (here s).regs.loops → Good s .lc k → e + 1 < 6144 → exec (.lbrk f) s = .next (done s (fun x =>
      { x with regs := { x.regs with loops := endLoops k x.regs.loops } }) (.jump (e + 1)))) ∧
    (k ∉ (here s).regs.loops → exec (.lbrk f) s = .next (takeTrap s s.cur 0x01 (wordOf (.lbrk f))))) ∧
  (∀ r : Regs, (∀ k ∈ r.loops, (r.span k).2 ≠ r.pc) → r.advance = { r with pc := r.pc + 1 }) ∧
  (∀ (r : Regs) k rest, r.loops = k :: rest → (r.span k).2 = r.pc → 1 < (r.getLc k).toNat →
    r.advance = { r.putLc k (r.getLc k - 1) with pc := (r.span k).1 }) ∧
  (∀ (r : Regs) k, r.loops = [k] → (r.span k).2 = r.pc → (r.getLc k).toNat ≤ 1 →
    r.advance = { r.putLc k 0 with pc := r.pc + 1, loops := [] })

/-- R291-R298: tokens sent, claimed, looked at and counted; control tokens.
The model's own readings in it: notes/assumptions/20. -/
def Obligations.QueueResults : Prop :=
  (∀ f s s' a, f.dk = true → Alone s → On f.p s → Slot s f.dst.toNat → Gives (readScalar f.a) s a s' →
    exec (.snd f) s = .next (done s' fun x => x.push f.dst.toNat (.scalar a))) ∧
  (∀ f s s' v m, f.dk = false → Alone s → Lanes f.p s m → Slot s f.dst.toNat → VectorSource f.a s v s' →
    exec (.snd f) s = .next (done s' fun x => x.push f.dst.toNat (.vec (mergeLanes m 0 v)))) ∧
  (∀ f s c, f.a = .lit c → Alone s → On f.p s → Declared s c.toNat →
    (f.dk = true → Free true f.dst s → exec (.rcv f) s = .next (done s fun x =>
      awaits x (scalarRef x f.dst) (.claim c.toNat (f.m.getLsbD 0) (wordOf (.rcv f)) 0xFFFF))) ∧
    (∀ tok, Free true f.dst s → (here s).head c.toNat = some tok → exec (.qpk f) s = .next (done s fun x => putScalar x f.dst
      (BitVec.ofNat 64 (tok.tag + 256 * (match tok with | .poison w => w.toNat | _ => 0))))) ∧
    (Free true f.dst s → (here s).head c.toNat = none → f.m.getLsbD 0 = true →
      exec (.qpk f) s = .next (done s fun x => putScalar x f.dst 0xF)) ∧
    (Free true f.dst s → (here s).head c.toNat = none → f.m.getLsbD 0 = false → exec (.qpk f) s = .next s) ∧
    (Free true f.dst s → f.m.getLsbD 0 = false →
      exec (.qcnt f) s = .next (done s fun x => putScalar x f.dst (BitVec.ofNat 64 ((here s).resident c.toNat))))) ∧
  (∀ f s c m, f.a = .lit c → f.dk = false → Alone s → Lanes f.p s m → Declared s c.toNat → Free false f.dst s m →
    exec (.rcv f) s = .next (done s fun x =>
      awaits x (vectorRef x f.dst) (.claim c.toNat (f.m.getLsbD 0) (wordOf (.rcv f)) m))) ∧
  (∀ f s c, f.a = .lit c → f.m.getLsbD 0 = true → Alone s → On f.p s → c.toNat < 16 → 0 < ((here s).outQ c.toNat).depth →
    Free true f.dst s → exec (.qcnt f) s = .next (done s fun x => putScalar x f.dst (BitVec.ofNat 64 ((here s).outFree c.toNat)))) ∧
  (∀ f s, Alone s → On f.p s → Slot s f.dst.toNat →
    exec (.eod f) s = .next (done s fun x => x.push f.dst.toNat (.eod f.m))) ∧
  (∀ f s s' c, f.m.getLsbD 0 = false → Alone s → On f.p s → Slot s f.dst.toNat → Gives (readScalar f.a) s c s' →
    1 ≤ c.toNat % 256 → c.toNat % 256 ≤ 0x1A →
    exec (.qpsn f) s = .next (done s' fun x => x.push f.dst.toNat (.poison (c.setWidth 8)))) ∧
  (∀ f s s' c, f.m.getLsbD 0 = true → Alone s → On f.p s → (here s).declOut.Nodup → (∀ q ∈ (here s).declOut, Slot s q) →
    Gives (readScalar f.a) s c s' → 1 ≤ c.toNat % 256 → c.toNat % 256 ≤ 0x1A →
    exec (.qpsn f) s = .next (done s' fun x => (here s).declOut.foldl (fun y q => y.push q (.poison (c.setWidth 8))) x))

/-- R299-R301: SPAWN and TDEC send a message; an I task holds it until its commit. -/
def Obligations.TaskMessages : Prop :=
  (∀ f s a k off d r, Alone s → On f.p s → Holds s f.ga a → Holds s f.gb k → slotDecl s k.toNat = some d →
    a.toNat + 32 ≤ 0x180000 → OwnBlock s a 32 32 off → Plain s off 32 → parseRecord (ownNumber s off 32) d.handlers.length = some r →
    roomAt s s.cur k.toNat = true →
    (MTask s → (here s).sch.retBuf.length < 16 → exec (.spawn f) s = .next (done s fun x => x.send (.spawn k.toNat r x.nextAcc))) ∧
    (ITask s → exec (.spawn f) s = .next (done s fun x => messaged x (.spawn k.toNat r 0)))) ∧
  (∀ f s k off amt, Alone s → On f.p s → Holds s f.ga k → Holds s f.gb off → Holds s f.gc amt → slotDecl s k.toNat ≠ none →
    off.toNat % 4 = 0 → off.toNat < 0x180000 → 1 ≤ amt.toNat → amt.toNat < 2 ^ 31 →
    (MTask s → (here s).sch.retBuf.length < 16 →
      exec (.tdec f) s = .next (done s fun x => x.send (.tdec k.toNat off.toNat amt.toNat x.nextAcc))) ∧
    (MTask s → 16 ≤ (here s).sch.retBuf.length → exec (.tdec f) s = .next s) ∧
    (ITask s → exec (.tdec f) s = .next (done s fun x => messaged x (.tdec k.toNat off.toNat amt.toNat 0))))

/-- R164, R257, R302-R307: TEND ends an M task once its accesses are acknowledged and its pushes made, and an I task once its commit has
performed; a gang forms, is synchronised, and disbands at its last member under its anchor's predicate.
The model's own readings in it: notes/assumptions/19, 26, 78. -/
def Obligations.TaskEndAndGangs : Prop :=
  (∀ f s, MTask s → Alone s → On f.p s → Single s →
    (Settled s → ownOutstanding s s.cur = [] → exec (.tend f) s = .next (done (endTask s s.cur) id .finish)) ∧
    (¬ Settled s ∨ ownOutstanding s s.cur ≠ [] → exec (.tend f) s = .next s)) ∧
  (∀ f s, ITask s → Alone s → On f.p s → Single s → Settled s → (here s).net = [] → (here s).sch.fx.sb = [] →
    (here s).sch.fx.phase = 0 → cancelling s s.cur = false → exec (.tend f) s = .next (done (endTask s s.cur) id .finish)) ∧
  (∀ f s s', ITask s → Alone s → On f.p s → Single s → Settled s →
    (commitStep s [s.cur] = (s', .done) → s'.cur = s.cur →
      exec (.tend f) s = .next (done (endTask s' s.cur) id .finish)) ∧
    (commitStep s [s.cur] = (s', .wait) → exec (.tend f) s = .next s')) ∧
  (∀ f s d, Alone s → On f.p s → s.actorDecl s.cur = some d → 1 < d.gang → team s s.cur = (List.range d.gang).map (s.cur + ·) →
    f.g.toNat < 56 → (∀ i, i < d.gang → tget .full (s.tile (s.cur + i)).regs.gFe f.g.toNat ≠ .empty) →
    ∃ t, exec (.gform f) s = .next t ∧ ∀ i, i < d.gang →
      (t.tile (s.cur + i)).gang = some ⟨s.cur, i, d.gang⟩ ∧ (t.tile (s.cur + i)).sch.task = (here s).sch.task ∧
      (t.tile (s.cur + i)).regs.g = tset 0 (s.tile (s.cur + i)).regs.g f.g.toNat (BitVec.ofNat 64 i)) ∧
  (∀ f s d i, Alone s → On f.p s → s.actorDecl s.cur = some d → 1 < d.gang → team s s.cur = (List.range d.gang).map (s.cur + ·) →
    f.g.toNat < 56 → i < d.gang → tget .full (s.tile (s.cur + i)).regs.gFe f.g.toNat = .empty → exec (.gform f) s = .next s) ∧
  (∀ f s n, Members s n →
    (On f.p s → ∃ t, exec (.gend f) s = .next t ∧ ∀ i, i < n →
      (t.tile (s.cur + i)).gang = none ∧ (t.tile (s.cur + i)).regs.pc = (here s).regs.advance.pc ∧
      (t.tile (s.cur + i)).sch.task = if i = 0 then (here s).sch.task else none) ∧
    (¬ On f.p s → ∃ t, exec (.gend f) s = .next t ∧ ∀ i, i < n →
      (t.tile (s.cur + i)).gang = some ⟨s.cur, i, n⟩ ∧ (t.tile (s.cur + i)).regs.pc = (here s).regs.advance.pc)) ∧
  (∀ f s n, Formed f.p s n → (∀ i, i < n → (s.tile (s.cur + i)).isM = true) →
    let clear (i : Nat) : Bool := scopeClear s (s.cur + i) 3 (s.tile (s.cur + i)).nextAcc
    ((∀ i, i < n → clear i = true) → ∃ t, exec (.gsync f) s = .next t ∧ ∀ i, i < n →
      (t.tile (s.cur + i)).gang = (s.tile (s.cur + i)).gang ∧ (t.tile (s.cur + i)).regs.pc = (here s).regs.advance.pc ∧
      (t.tile (s.cur + i)).store = (s.tile (s.cur + i)).store) ∧
    ((∃ i, i < n ∧ clear i = false) → ∃ t, exec (.gsync f) s = .next t ∧ ∀ i, i < n →
      (t.tile (s.cur + i)).regs.pc = (here s).regs.pc))

/-- R106, R308-R313: a collective that its checks let through is outstanding with the next ordinal of its group; a barrier is issued once and
holds until every rank has issued its match; a collective completes under the group's word of its issue: a CAR, and a CRD at its root,
write the reduction of every element, a CBC the root's element, and the other buffers stay as they were; i32 sums wrap, float sums are
exact with one rounding, maximum and minimum follow R106 in rank order; sides that do not agree stop the group.
The model's own readings in it: notes/assumptions/67. -/
def Obligations.Collectives : Prop :=
  ((∀ k ∈ ([(.car, 0), (.cbc, 1), (.crd, 2)] : List ((FE → Instr) × BitVec 2)), ∀ f s a n root, MTask s → NoReplay s →
    NotRedundant s → Alone s → On f.p s → Holds s f.ga a → Holds s f.gb n → CollOk f k.2 s a n.toNat root →
    let ty : BitVec 4 := f.cmd.setWidth 4
    let hd : Option Nat := if f.cmd.getLsbD 7 then some (f.cmd.toNat / 256 % 32) else none
    let rank := grpRank (groupWord s f)
    let writes : Bool := k.2 == 0 || (if k.2 = 1 then rank != root else rank == root)
    ∀ parts, Walked s a (n.toNat * if k.2 = 1 then 4 else collWidth ty) writes parts →
    ∃ t, exec (k.1 f) s = .next t ∧
      t.coll.out = s.coll.out ++ [{
        g := f.ix.toNat, n := tget 0 s.coll.ord f.ix.toNat, grp := groupWord s f, kind := k.2, ty := ty, op := (f.cmd >>> 4).setWidth 2
        dg := f.cmd.getLsbD 6, va := a, count := n.toNat, root := root, car := (here s).csr.carry, pgsz := pageCode s
        hd := hd, tile := s.cur, cfg := s.sqOf s.cur, ctx := s.ctxOf s.cur, stamp := (here s).nextAcc, pages := parts }] ∧
      tget 0 t.coll.ord f.ix.toNat = tget 0 s.coll.ord f.ix.toNat + 1 ∧ (here t).regs = (here s).regs.advance ∧
      ∀ h, hd = some h → ((here t).hd h).pend = ((here s).hd h).pend + 1) ∧
  (∀ f s, MTask s → NoReplay s → NotRedundant s → Alone s → On f.p s →
    ((here s).sch.bar = none → grpOk s f.ix.toNat = true → scopeClear s s.cur 3 (here s).nextAcc = true →
      f.ix.toNat ∉ s.coll.stopped → s.coll.out.length < 8 →
      let n := tget 0 s.coll.ord f.ix.toNat
      exec (.cbar f) s = .next (({ s with coll := { s.coll with ord := tput s.coll.ord f.ix.toNat (n + 1), out := s.coll.out ++ [{
          g := f.ix.toNat, n := n, grp := groupWord s f, kind := 3, ty := 0, op := 0, dg := false, va := 0, count := 0, root := 0, car := (here s).csr.carry, pgsz := 0
          hd := none, tile := s.cur, cfg := s.sqOf s.cur, ctx := s.ctxOf s.cur, stamp := 0 }] } } : State).modTile s.cur fun x =>
        { x with sch := { x.sch with bar := some (f.ix.toNat, n) } })) ∧
    (∀ h n, (here s).sch.bar = some (h, n) →
      (n < tget 0 s.coll.barDone h → exec (.cbar f) s = .next (done s fun x => { x with sch := { x.sch with bar := none } })) ∧
      (tget 0 s.coll.barDone h ≤ n → exec (.cbar f) s = .next s)))) ∧
  ((∀ s g c, s.coll.out.find? (·.g == g) = some c → s.written c.tile = false → c.kind = 3 → g ∉ s.coll.stopped → grpNr c.grp = 1 → grpRank c.grp = 0 →
    exec (.collectiveComplete g []) s =
      .next { s with coll := { s.coll with barDone := tput s.coll.barDone g (c.n + 1), out := s.coll.out.erase c } }) ∧
  (∀ s g c d, s.coll.out.find? (·.g == g) = some c → s.written c.tile = false → c.kind = 3 → g ∉ s.coll.stopped → grpNr c.grp = 2 →
    grpRank c.grp = 0 → d.rank = 1 → (∃ e ∈ s.links, e.2.st = 2) →
    (agrees d (ownSide c []) = true → exec (.collectiveComplete g [d]) s =
      .next { s with coll := { s.coll with barDone := tput s.coll.barDone g (c.n + 1), out := s.coll.out.erase c } }) ∧
    (agrees d (ownSide c []) = false → ∃ u, exec (.collectiveComplete g [d]) s = .next u ∧ u.coll.stopped = s.coll.stopped ++ [g])) ∧
  (∀ s g c d pa va slice at_, Completes s g c d → c.pages = [⟨.dram pa, va, c.bytes, 0, slice, at_⟩] → c.bytes % 64 = 0 →
    d.data.length = c.bytes → StoresCanonical s → Quiescent s (.dram pa) c.bytes → (at_ + 8 ≤ pa ∨ pa + c.bytes ≤ at_) →
    ∃ u, exec (.collectiveComplete g [d]) s = .next u ∧ u.coll.out = s.coll.out.erase c ∧
      (c.kind = 0 ∨ (c.kind = 2 ∧ c.root = 0) → ∀ j, j < c.count →
        let w := collWidth c.ty
        let rm : Rm := ⟨c.car.mode, if c.car.mode = 5 then srRnd c.car.seed (BitVec.ofNat 32 (w * j)) j else 0⟩
        numberAt u (.dram (pa + w * j)) w = (reduceElem c.ty c.op rm c.car.sat
          [numberAt s (.dram (pa + w * j)) w, elemOf (ofBytes d.data) (8 * w) j]).code % 2 ^ (8 * w)) ∧
      (c.kind = 1 → c.root = 1 → ∀ j, j < c.count → numberAt u (.dram (pa + 4 * j)) 4 = elemOf (ofBytes d.data) 32 j) ∧
      ((c.kind = 1 ∧ c.root = 0) ∨ (c.kind = 2 ∧ c.root = 1) → u.dram = s.dram))) ∧
  ((∀ rm sat x (xs : List Nat),
    let int (y : Nat) : Int := (BitVec.ofNat 32 y).toInt
    let all := x :: xs
    (reduceElem 0 0 rm sat all).code = (BitVec.ofInt 32 (all.map int).sum).toNat ∧
    (∃ y ∈ all, (reduceElem 0 1 rm sat all).code = y % 2 ^ 32 ∧ ∀ z ∈ all, int z ≤ int y) ∧
    (∃ y ∈ all, (reduceElem 0 2 rm sat all).code = y % 2 ^ 32 ∧ ∀ z ∈ all, int y ≤ int z) ∧
    (reduceElem 0 0 rm sat all).fl = 0 ∧ (reduceElem 0 1 rm sat all).fl = 0 ∧ (reduceElem 0 2 rm sat all).fl = 0) ∧
  (∀ ty ∈ ([8, 9] : List (BitVec 4)), ∀ rm sat x (xs : List Nat),
    let f := if ty = 9 then bf16 else f32
    let sum := ({} : Wide).addAll ((x :: xs).map (decodeVal f))
    (reduceElem ty 0 rm sat (x :: xs)).code = (sum.1.round f rm sat).code ∧
    (reduceElem ty 0 rm sat (x :: xs)).fl = (sum.1.round f rm sat).fl ||| sum.2 ∧
    (∀ op ∈ ([1, 2] : List (BitVec 2)), (reduceElem ty op rm sat [x]).code = x ∧ ∀ y,
      let r := reduceElem ty op rm sat (x :: xs)
      let m := minmaxVal f (op == 2) false (decodeVal f r.code) (decodeVal f y) r.code y
      (reduceElem ty op rm sat (x :: xs ++ [y])).code = m.code ∧ (reduceElem ty op rm sat (x :: xs ++ [y])).fl = r.fl ||| m.fl)) ∧
  (reduceElem 8 0 ⟨0, 0⟩ false [0x4B800000, 0x3F800000, 0x3F800000]).code = 0x4B800001)

/-! # System -/

/-- R39, R66, R171, R234, R264, R287, R308, R373, R376, R387, R402, R425: CSR accesses read, write, set and clear; each CSR keeps its
field rule: a mask, a value that is not stored, a field that a write of one clears, or none but reading; a CSR of a partition is reached
from its tiles. Time and counters are read (R404).
The model's own readings in it: notes/assumptions/31, 32. -/
def Obligations.CsrResults : Prop :=
  (∀ f s, CsrOpen s (csrOf f) → Alone s → On f.p s → Free true f.dst s → FlagsCome s (csrOf f) → CounterGood s (csrOf f) →
    exec (.csrr f) s = .next (done s fun x => putScalar x f.dst (csrRead s s.cur (csrOf f)))) ∧
  (∀ k ∈ ([(.csrw, .write), (.csrs, .set), (.csrc, .clear)] : List ((FI → Instr) × CsrOp)), ∀ f s s' a, CsrOpen s (csrOf f) →
    Alone s → On f.p s → FlagsCome s (csrOf f) → (f.dk = true ∨ k.2 ≠ .write → CounterGood s (csrOf f)) →
    Gives (readScalar f.a) s a s' →
    (f.dk = false → exec (k.1 f) s = .next (done (csrStore s' s.cur (csrOf f) k.2 a) id)) ∧
    (f.dk = true → Free true f.dst s → exec (k.1 f) s = .next (done (csrStore
      (s'.modTile s.cur fun x => putScalar x f.dst (csrRead s' s.cur (csrOf f))) s.cur (csrOf f) k.2 a) id))) ∧
  (∀ e ∈ maskedCsrs, ∀ s t a, csrRead (csrStore s t e.1 .write a) t e.1 = a &&& e.2 ∧
    csrRead (csrStore s t e.1 .set a) t e.1 = (csrRead s t e.1 ||| a) &&& e.2 ∧
    csrRead (csrStore s t e.1 .clear a) t e.1 = (csrRead s t e.1 &&& ~~~ a) &&& e.2) ∧
  (∀ n ∈ fixedCsrs, ∀ s t o a, csrRead (csrStore s t n o a) t n = csrRead s t n) ∧
  (∀ s t (a : Word), csrRead (csrStore s t 0x006 .write a) t 0x006 = if a &&& 3 = 3 then csrRead s t 0x006 else a &&& 3) ∧
  (∀ s t (a : Word), csrRead (csrStore s t 0x003 .write a) t 0x003 =
    if a &&& 7 = 0 then (a &&& 0x18) ||| (csrRead s t 0x003 &&& 7) else a &&& 0x1F) ∧
  (∀ s t (a : Word), csrRead (csrStore s t 0x008 .write a) t 0x008 = a &&& 0xFFFFFFFF ∧
    csrRead (csrStore s t 0x009 .write a) t 0x009 = a &&& 0xFFFFFFFF ∧ csrRead (csrStore s t 0x00A .write a) t 0x00A = a &&& 0xFFFFFFFF) ∧
  (∀ s t (a : Word),
    let x := s.tile t
    let y := (csrStore s t 0x018 .write a).tile t
    y.eng.stat.flags = x.eng.stat.flags &&& ~~~ a.setWidth 7 ∧ (a.getLsbD 28 = true → y.eng.stat.fault = false) ∧
    (a.getLsbD 28 = false → y.eng.stat = { x.eng.stat with flags := y.eng.stat.flags }) ∧
    csrRead (csrStore s t 0x018 .set a) t 0x018 = csrRead s t 0x018) ∧
  (∀ s t (a : Word), ∀ lo ∈ [0, 3, 6, 9],
    let new := (csrRead (csrStore s t 0x024 .write a) t 0x024).toNat / 2 ^ lo % 8
    let v := a.toNat / 2 ^ lo % 8
    new = if 2 ≤ v ∧ v ≤ 4 then v else (csrRead s t 0x024).toNat / 2 ^ lo % 8) ∧
  (∀ s t (a : Word), csrRead (csrStore s t 0x026 .write a) t 0x026 = a &&& 1) ∧
  (∀ e ∈ refereeCsrs, ∀ s t p o a, ReachesPart s t p →
    csrRead (csrStore s t e.1 o a) t e.1 = CsrOp.apply o (csrRead s t e.1) a &&& e.2) ∧
  (∀ s t p (a : Word), ReachesPart s t p →
    csrRead (csrStore s t 0x102 .write a) t 0x102 = csrRead s t 0x102 &&& ~~~ (a &&& 0xFFFF0000) ∧
    (∀ c, selCtx s p = some c → csrRead (csrStore s t 0x104 .write a) t 0x104 = a &&& 0xFFFFFFFFFFFFFF01 ∧
      (a.getLsbD 1 = false → csrRead (csrStore s t 0x100 .write a) t 0x100 = a &&& 0xFFFFFFFFFFFF0003))) ∧
  (∀ f s, Alone s → On f.p s → Free true f.dst s →
    exec (.rdtime f) s = .next (done s fun x => putScalar x f.dst (BitVec.ofNat 64 s.now)) ∧
    exec (.rdperf f) s = .next (done s fun x => putScalar x f.dst ((here s).counter (f.imm.toNat % 8))))

/-- R56, R345, R402, R403: TRAP and BRK take their traps, an unassigned opcode takes ILLOP; ERET leaves the handler, and is ILLOP outside
one. At user level a referee instruction and an access of a referee CSR take PRIV before their predicate is looked at; a number that
names no CSR takes ILLOP.
The model's own readings in it: notes/assumptions/63. -/
def Obligations.TrapInstructions : Prop :=
  ((∀ f s, Alone s → On f.p s → exec (.trap f) s = .next (takeTrap s s.cur 0x1A (f.imm.setWidth 64))) ∧
  (∀ f s, Alone s → On f.p s → exec (.brk f) s = .next (takeTrap s s.cur 0x16 (f.aux.setWidth 64))) ∧
  (∀ w s, stepper s s.cur = none → exec (.unassignedOpcode w) s = .next (takeTrap s s.cur 0x01 w)) ∧
  (∀ f s, Alone s → On f.p s →
    let pc := (here s).csr.tepc.toNat % 8192 + if f.aux.getLsbD 0 then 1 else 0
    ((here s).csr.inTrap = true → pc < 6144 →
      exec (.eret f) s = .next (done s (fun x => { x with csr := { x.csr with inTrap := false } }) (.jump pc))) ∧
    ((here s).csr.inTrap = false → exec (.eret f) s = .next (takeTrap s s.cur 0x01 (wordOf (.eret f)))))) ∧
  ((∀ mk ∈ refereeRows, ∀ f s, Alone s → s.refLevel s.cur = false →
    exec (mk f) s = .next (takeTrap s s.cur 0x15 (wordOf (mk f)))) ∧
  (∀ f s, Alone s → s.refLevel s.cur = false → exec (.wfe f) s = .next (takeTrap s s.cur 0x15 (wordOf (.wfe f)))) ∧
  (∀ mk ∈ ([.csrr, .csrw, .csrs, .csrc] : List (FI → Instr)), ∀ f s, Alone s →
    ((csrLevel (csrOf f) = some .ref ∨ csrLevel (csrOf f) = some .refRo) → s.refLevel s.cur = false →
      exec (mk f) s = .next (takeTrap s s.cur 0x15 (wordOf (mk f)))) ∧
    (csrLevel (csrOf f) = none → exec (mk f) s = .next (takeTrap s s.cur 0x01 (wordOf (mk f))))))

/-- R370-R378: what taking a trap saves and where it goes: the three trap registers always; DELIVER enters the handler; REFEREE, or
DELIVER without a handler, halts; POISON stops the actor with POISON on every declared output queue; an abort puts the task back at the
head of the run list with nothing it did left. An event is written whole, the 32 bytes of its record at the ring's slot and no others, and
moves HEAD on, or is counted in LOST.
The model's own readings in it: notes/assumptions/20, 21, 74. -/
def Obligations.TrapEntry : Prop :=
  (∀ s t c a, (s.tile t).gang = none →
  let x := s.tile t
  let y := trapped s t c a
  (y.csr.tcause = c.setWidth 64 ∧ y.csr.tepc = BitVec.ofNat 64 x.regs.pc ∧ y.csr.taddr = a) ∧
  (trapAct x c a = .deliver → x.csr.inTrap = false → x.csr.tvec.getLsbD 15 = true →
    y.csr.inTrap = true ∧ y.regs = { x.regs with pc := x.csr.tvec.toNat % 8192 } ∧ y.sch.halted = x.sch.halted ∧ y.store = x.store) ∧
  (trapAct x c a = .referee ∨ (trapAct x c a = .deliver ∧ (x.csr.inTrap = true ∨ x.csr.tvec.getLsbD 15 = false)) →
    x.sch.halted = none → y.sch.halted = some .referee ∧ y.regs = x.regs) ∧
  (trapAct x c a = .poison → y.sch.actor = x.sch.actor.map (fun r => { r with stopped := true }) ∧
    ∀ q ∈ x.declOut, (x.outQ q).discard = 0 → (y.outQ q).toks.getLast? = some ⟨.poison (if c = 9 then a.setWidth 8 else c), 0⟩) ∧
  (trapAct x c a = .abortHalt → team s t = [t] → x.sch.halted = none → ∀ k, x.sch.task = some k →
    y.sch.task = none ∧ y.sch.runl = ⟨k.rcd, k.pri, k.readyAt, k.order⟩ :: x.sch.runl ∧ y.sch.halted = some .abortHalt ∧
    y.sch.fx = {} ∧ y.pend = x.pend.filter (·.ended) ∧ y.net = [] ∧ y.csr.aborts = BitVec.ofNat 8 (Nat.min 255 (x.csr.aborts.toNat + 1))) ∧
  (c = 0x04 → trapAct x c a = if x.isM then .stall else .abortHalt) ∧
  (c = 0x05 → trapAct x c a = if x.isM then .referee else .abortHalt) ∧
  (c = 0x10 → a.toNat / 2 ^ 62 = 0 → trapAct x c a = .failStop ∧ y.failStop = true)) ∧
  (∀ s o p typ cause tile ctx slot d0 d1, s.part o = some p →
  let hd := p.evhead.toNat % 256
  let lost := p.evhead.toNat / 65536 % 65536
  let takes := p.evbase.getLsbD 0 = true ∧ p.refs ≠ [] ∧ (hd + 1) % 256 ≠ p.evtail.toNat % 256
  let t := event s o typ cause tile ctx slot d0 d1
  let at_ := Nat.min (p.evbase.toNat / 2 ^ 13 % 2 ^ 8) 0xBF * 8192 + 32 * hd
  let ring := p.refs.headD 0
  (takes → (t.part o).map (·.evhead) = some (BitVec.ofNat 64 ((hd + 1) % 256 + 65536 * lost))) ∧
  (takes → StoresCanonical s → armedAt (s.tile ring) at_ 32 = none →
    (∀ i, i < 32 → byteAt t (.tile ring (at_ + i)) = byteOf (eventRecord typ cause tile s.ms ctx slot d0 d1) i) ∧
    ∀ k, Outside (.tile ring at_) 32 k → byteAt t k = byteAt s k) ∧
  (¬ takes → (t.part o).map (·.evhead) = some (BitVec.ofNat 64 (hd + 65536 * Nat.min (lost + 1) 65535)) ∧ t.tiles = s.tiles))

/-- R399, R400, R405: halt groups: membership, halting, resuming, stepping, reading; the record of a tile that halts its own group counts
the HGRP that did it; WFE waits for an event or its timeout.
The model's own readings in it: notes/assumptions/18, 35. -/
def Obligations.HaltGroups : Prop :=
  (∀ f s a g, Referee s → Alone s → On f.p s → Holds s f.ga a → Holds s f.gb g → Mine s a → Answers s a → g.toNat ≤ 64 →
    (∀ e ∈ s.tiles, e.2.sch.haltGrp = some g.toNat → s.ownerOf e.1 = s.ownerOf s.cur) →
    exec (.hgrpSet f) s = .next (done (s.modTile a.toNat fun x =>
      { x with sch := { x.sch with haltGrp := if g.toNat = 64 then none else some g.toNat } }) id)) ∧
  (∀ f s g, Referee s → Alone s → On f.p s → Holds s f.gb g → g.toNat ≤ 64 →
    let us := groupTiles s (s.ownerOf s.cur) g.toNat
    exec (.hgrpRes f) s = .next (done (us.foldl resumeTile s) id) ∧
    (us = [] → exec (.hgrpHalt f) s = .next (done s id)) ∧
    (∀ t ts, us = t :: ts → exec (.hgrpHalt f) s = .next (done
      (tileEvent (us.foldl (haltMember [s.cur]) s) t 0x0D 0 (BitVec.ofNat 64 g.toNat) (BitVec.ofNat 64 t)) id))) ∧
  (∀ s l t, (s.tile t).sch.halted = none →
    let k := (s.tile t).sch
    let y := ((haltMember l s t).tile t).sch
    y.halted = some .group ∧ y.stepping = false ∧ y.hrec = [(0, BitVec.ofNat 64 k.cycles),
      (1, tget 0 k.perf 1 + if t ∈ l then 1 else 0), (2, tget 0 k.perf 5), (3, tget 0 k.perf 6)]) ∧
  (∀ mk ∈ ([.hgrpStep, .hgrpRestile] : List (FE → Instr)), ∀ f s a, Referee s → Alone s → On f.p s → Holds s f.ga a → Mine s a →
    (s.unreachable a.toNat = true →
      exec (mk f) s = .next (takeTrap s s.cur 0x10 (BitVec.ofNat 64 (2 ^ 63 + a.toNat % 2 ^ 62)))) ∧
    (s.unreachable a.toNat = false → (s.tile a.toNat).failStop = true → exec (mk f) s = .next s)) ∧
  (∀ f s a, Referee s → Alone s → On f.p s → Holds s f.ga a → Mine s a → Answers s a →
    ((s.tile a.toNat).sch.halted = none ∨ (s.tile a.toNat).sch.halted = some .frozen → exec (.hgrpStep f) s =
      .next (done (s.modTile a.toNat fun x => { x with csr := { x.csr with enghold := x.csr.enghold || f.cmd.getLsbD 5 } }) id)) ∧
    (∀ w, (s.tile a.toNat).sch.halted = some w → w ≠ .frozen →
      exec (.hgrpStep f) s = .next (done (s.modTile a.toNat fun x => { x with
        csr := { x.csr with enghold := x.csr.enghold || f.cmd.getLsbD 5 }
        sch := { x.sch with halted := none, stepping := true } }) id)) ∧
    exec (.hgrpRestile f) s = .next (done (resumeTile
      (if f.cmd.getLsbD 4 then s.modTile a.toNat Tile.clearFault else s) a.toNat) id) ∧
    (Ready s f.gc → exec (.hgrpStat f) s = .next (done s fun x => putScalar x f.gc (BitVec.ofNat 64
      ((if (s.tile a.toNat).sch.halted.isSome then 1 else 0) + (s.tile a.toNat).csr.tcause.toNat % 256 * 256 +
        (s.tile a.toNat).regs.pc % 2 ^ 13 * 2 ^ 16)))) ∧
    (∀ n, Ready s f.gc → Holds s f.gb n → n.toNat < 4 → exec (.hgrpRead f) s =
      .next (done s fun x => putScalar x f.gc (tget 0 (s.tile a.toNat).sch.hrec n.toNat)))) ∧
  (∀ f s, Referee s → Alone s → On f.p s →
    ((EventWaits s ∨ (here s).sch.wfe = some 0) →
      exec (.wfe f) s = .next (done s fun x => { x with sch := { x.sch with wfe := none } })) ∧
    (∀ us, ¬ EventWaits s → (here s).sch.wfe = none → Holds s f.g us → us ≠ 0 → exec (.wfe f) s =
      .next (s.modTile s.cur fun x => { x with sch := { x.sch with wfe := some (s.now + 1000 * us.toNat) } })) ∧
    (∀ n, ¬ EventWaits s → (here s).sch.wfe = some (n + 1) → exec (.wfe f) s = .next s))

/-- R362, R364, R365: ATTQ enters its quote request, SEAL writes its blob, UNSEAL opens one, CAPSET and CAPCLR write a capability
table.
The model's own readings in it: notes/assumptions/35, 37. -/
def Obligations.SecurityResults : Prop :=
  (∀ f s b c off dst o w, MTask s → Alone s → On f.p s → Ready s f.ga → Holds s f.gb b → Holds s f.gc c → OwnBlock s b 64 64 off →
    OwnBlock s c 10368 64 dst → off + 64 ≤ dst ∨ dst + 10368 ≤ off → (here s).armed f.ix.toNat = some (o, w) → w / 2 ^ 34 % 2 = 1 →
    Plain s off 64 →
    (16 ≤ s.sec.quotes.length → exec (.attq f) s = .next (done s fun x => putScalar x f.ga 1)) ∧
    (s.sec.quotes.length < 16 → exec (.attq f) s = .next (done
      { ((pendBy s s.cur f.ix.toNat true false).modTile s.cur fun x => { x with store := x.store.setFes (dst / 4) false 2592 }) with
        sec := { s.sec with quotes := s.sec.quotes ++ [{
          tile := s.cur, hd := f.ix.toNat, dst := dst, report := readBytes (here s).store.bytes off 64
          ctx := s.ctxOf s.cur, owner := s.ownerOf s.cur, cfg := s.sqOf s.cur }] } } fun x => putScalar x f.ga 0))) ∧
  (∀ f s b c src dst, MTask s → Alone s → On f.p s → Ready s f.ga → Holds s f.gb b → Holds s f.gc c →
    let n := (f.cmd.toNat % 64 + 1) * 64
    let pol := f.cmd.toNat / 256 % 8
    OwnBlock s b n 64 src → OwnBlock s c (n + 64) 64 dst → src + n ≤ dst ∨ dst + (n + 64) ≤ src → Plain s src n →
    let blob := sealBlob (sealKey s s.cur pol) (lowBytes 12 s.sec.sealCtr) (readBytes (here s).store.bytes src n) pol
    Unarmed s dst blob.length → PortFree s dst blob.length → exec (.seal f) s = .next (done
      { rawWrite s (.tile s.cur dst) blob with sec := s.sec.nextSeal } fun x => putScalar x f.ga 0)) ∧
  (∀ f s b c src dst, MTask s → Alone s → On f.p s → Ready s f.ga → Holds s f.gb b → Holds s f.gc c →
    let n := (f.cmd.toNat % 64 + 1) * 64
    OwnBlock s b (n + 64) 64 src → OwnBlock s c n 64 dst → src + (n + 64) ≤ dst ∨ dst + n ≤ src → Plain s src (n + 64) →
    let r := openBlob s s.cur n (readBytes (here s).store.bytes src (n + 64))
    (∀ v, r = .error v → exec (.unseal f) s = .next (done s fun x => putScalar x f.ga v)) ∧
    (∀ pt, r = .ok pt → Unarmed s dst pt.length → PortFree s dst pt.length →
      exec (.unseal f) s = .next (done (rawWrite s (.tile s.cur dst) pt) fun x => putScalar x f.ga 0))) ∧
  (∀ f s a, Referee s → Alone s → On f.p s → Holds s f.ga a → Mine s a → Answers s a →
    (∀ n ops, Holds s f.gb n → Holds s f.gc ops → n.toNat < 2 ^ 32 → ops.toNat < 16 →
      exec (.capset f) s = .next (done (s.modTile a.toNat fun x => { x with eng := { x.eng with
        caps := tset 0 x.eng.caps f.ix.toNat (BitVec.ofNat 64 (2 ^ 63 + ops.toNat * 2 ^ 32 + n.toNat)) } }) id)) ∧
    exec (.capclr f) s = .next (done (s.modTile a.toNat fun x => { x with eng := { x.eng with
      caps := if f.cmd.getLsbD 0 then [] else tset 0 x.eng.caps f.ix.toNat 0 } }) id))

/-- R15, R193-R196, R406: digest regions opened over the own store or over global memory, scanned word by word, closed, read; the
verdict word; a scan that meets an uncorrectable unit of a store fail-stops its tile.
The model's own readings in it: notes/assumptions/45, 73, 85. -/
def Obligations.DigestRegions : Prop :=
  ((∀ f s a n k off soff, MTask s → NoReplay s → NotRedundant s → Alone s → On f.p s → Holds s f.ga a → Holds s f.gb n →
    Holds s f.gc k → 1 ≤ n.toNat → n.toNat < 2 ^ 32 → (∀ e ∈ (s.ctx (s.ctxOf s.cur)).regions, e.1 ≠ f.ix.toNat) →
    OwnBlock s k 32 32 soff →
    let region (homes : List (Nat × Phys)) : Region := {
      len := n.toNat, homes := homes.map fun e => (e.1, e.2.home), keys := digestKeys (readBytes (here s).store.bytes soff 32)
      slices := regionSlices n.toNat homes }
    (Plain s soff 32 → OwnBlock s a (4 * n.toNat) 4 off → regionsIn s s.cur < 4 →
      exec (.dgopen f) s = .next (done (s.modCtx (s.ctxOf s.cur) fun c =>
        { c with regions := tput c.regions f.ix.toNat (region [(0, ⟨.tile s.cur off, 0, false, 0⟩)]) }) id)) ∧
    (∀ va homes s', steer s.cur (here s).csr.stkbase a (4 * n.toNat) = some (.glob va) → a.toNat % 4 = 0 →
      let size := pageBytes (pageCode s)
      Gives (regionHomes a (4 * n.toNat) size ((a.toNat + 4 * n.toNat - 1) / size - a.toNat / size + 1)) s homes s' →
      s'.cur = s.cur → here s' = here s → Plain s' soff 32 →
      ((∀ i ∈ regionSlices n.toNat homes, regionsAt s' i < 32) → exec (.dgopen f) s = .next (done (s'.modCtx (s.ctxOf s.cur) fun c =>
        { c with regions := tput c.regions f.ix.toNat (region homes) }) id)) ∧
      ((∃ i ∈ regionSlices n.toNat homes, 32 ≤ regionsAt s' i) → exec (.dgopen f) s = .next s))) ∧
  (∀ f s, MTask s → NoReplay s → NotRedundant s → Alone s → On f.p s →
    (∃ e ∈ (s.ctx (s.ctxOf s.cur)).regions, e.1 = f.ix.toNat) → hasDg s = false →
    exec (.dgclose f) s = .next (done (s.modCtx (s.ctxOf s.cur) fun c => { c with regions := tdel c.regions f.ix.toNat }) id)) ∧
  (∀ f s i r, Alone s → On f.p s → Ready s f.ga → Ready s f.gb →
    ((s.ctx (s.ctxOf s.cur)).regions.find? (·.1 == f.ix.toNat)) = some (i, r) →
    (r.len ≤ r.scanned → ownOutstanding s s.cur = [] → exec (.dgsnap f) s = .next (done s fun x =>
      putScalar (putScalar x f.ga (BitVec.ofNat 64 r.d0)) f.gb (BitVec.ofNat 64 r.d1))) ∧
    (r.scanned < r.len ∨ ownOutstanding s s.cur ≠ [] → exec (.dgsnap f) s = .next s)) ∧
  (∀ f s, Alone s → On f.p s → Ready s f.ga → exec (.dgver f) s = .next (done s fun x => putScalar x f.ga
    (tget 0 (s.ctx (s.ctxOf s.cur)).verdicts (((s.cfg (s.sqOf s.cur)).map (·.stream)).getD 0))))) ∧
  ((∀ s c g r i h, (s.ctx c).regions.find? (·.1 == g) = some (i, r) → r.scanned < r.len → regionHome r.homes r.scanned = some h →
    (Quiescent s h 4 →
      let next (r : Region) : Region :=
        let v := r.hash r.scanned (numberAt s h 4)
        { r with d0 := (r.d0 + v.1) % digestP, d1 := (r.d1 + v.2) % digestP, scanned := r.scanned + 1 }
      exec (.digestScan c g) s = .next (s.modCtx c fun k => { k with
        regions := k.regions.map fun e => if e.1 == g then (e.1, next e.2) else e })) ∧
    (∀ t off u, h = .tile t off → (s.tile t).store.badRead off 4 = some u →
      exec (.digestScan c g) s = .next (failStopTile s t (BitVec.ofNat 64 (8 * u))))))

/-- R386, R398, R407: a fence contains its rectangle and its release lifts it; tasks, configurations and contexts are killed, once none of
their tasks is between two instruction boundaries, in a commit that can no longer be undone or before the reply to its command; saves,
restores and remaps are asked for, and the core holds for the starters' reply.
The model's own readings in it: notes/assumptions/33, 35, 36, 79. -/
def Obligations.RefereeActions : Prop :=
  (∀ f s a p, Referee s → Alone s → On f.p s → Holds s f.ga a → s.partOf s.cur = some p →
    let r := rectOf a
    (p.x0 ≤ r.1 → r.1 ≤ r.2.2.1 → r.2.2.1 ≤ p.x1 → p.y0 ≤ r.2.1 → r.2.1 ≤ r.2.2.2 → r.2.2.2 ≤ p.y1 →
      (∀ t ∈ p.refs, inRect r t = false) → p.fences.length < 4 →
      (killWaits s (cfgTilesOn s (rectTiles r)) = false →
        exec (.fnrect f) s = .next (done (((rectTiles r).foldl (fun s t => s.modTile t fun x => { x with fenced := true })
          (contain s (rectTiles r) 4)).modPart p.owner fun p => { p with fences := p.fences ++ [r] }) id)) ∧
      (killWaits s (cfgTilesOn s (rectTiles r)) = true → exec (.fnrect f) s = .next s)) ∧
    (¬ (p.x0 ≤ r.1 ∧ r.2.2.1 ≤ p.x1 ∧ p.y0 ≤ r.2.1 ∧ r.2.2.2 ≤ p.y1) → exec (.fnrect f) s = .next (takeTrap s s.cur 0x0F a)) ∧
    (r ∈ p.fences → exec (.fnrectRel f) s = .next (done (((rectTiles r).foldl (fun s t => s.modTile t fun x =>
      { x with fenced := (p.fences.erase r).any fun q => inRect q t }) s).modPart p.owner fun q =>
        { q with fences := p.fences.erase r }) id))) ∧
  (∀ f s a, Referee s → Alone s → On f.p s → Holds s f.ga a → Mine s a →
    let waits := killWaits s (cfgTilesOn s [a.toNat])
    (∀ k, Answers s a → committing s a.toNat = false → (s.tile ((team s a.toNat).headD a.toNat)).sch.task = some k → k.immediate = true →
      (waits = false → exec (.tkillTask f) s = .next (done (killCfg s (s.sqOf a.toNat) 3) id)) ∧
      (waits = true → exec (.tkillTask f) s = .next s)) ∧
    (∀ k, Answers s a → committing s a.toNat = false → team s a.toNat = [a.toNat] → (s.tile a.toNat).sch.task = some k →
      k.immediate = false → exec (.tkillTask f) s = .next (done ((requeue s a.toNat).modTile a.toNat fun x =>
        if x.sch.halted = some .referee ∨ x.sch.halted = some .stall then { x with sch := { x.sch with halted := none } } else x) id)) ∧
    (Answers s a → committing s a.toNat = true → exec (.tkillTask f) s = .next s) ∧
    (∀ c, runsCfg s a.toNat = some c → (c.st = .running ∨ c.st = .saving) → waits = false →
      exec (.tkillConfig f) s = .next (done (killCfg s c.sq 3) id)) ∧
    (waits = true → exec (.tkillConfig f) s = .next s) ∧
    (runsCfg s a.toNat = none → waits = false → exec (.tkillConfig f) s = .next (done s id))) ∧
  (∀ f s a, Referee s → Alone s → On f.p s → Holds s f.ga a →
    let c := a.toNat % 256
    (s.ctx c).owner = s.ownerOf s.cur →
    (killWaits s (ctxTiles s c) = false → exec (.tkillContext f) s = .next (done (killCtx s c 3) id)) ∧
    (killWaits s (ctxTiles s c) = true → exec (.tkillContext f) s = .next s)) ∧
  (∀ s ts, killWaits s ts = true ↔ ∃ t ∈ ts, (∀ u ∈ team s t, (s.tile u).failStop = false ∧ (s.tile u).noClock = false ∧
    s.unreachable u = false) ∧ (committing s t = true ∨ ∃ u ∈ gangTiles s t, (s.tile u).sch.cmdOut ≠ none)) ∧
  (∀ mk ∈ ([.prempSave, .prempRestore, .prempRemap] : List (FE → Instr)), ∀ f s, Referee s → Alone s → On f.p s →
    ((here s).sch.starter = some none → exec (mk f) s = .next s) ∧
    (∀ v, (here s).sch.starter = some (some v) → exec (mk f) s = .next (done s fun x => answered x f.gc v))) ∧
  (∀ f s a c, Referee s → Alone s → On f.p s → Ready s f.gc → (here s).sch.starter = none → Holds s f.ga a → Mine s a →
    runsCfg s a.toNat = some c →
    ((s.ctx c.ctx).savebase.getLsbD 0 = true → c.st = .running → exec (.prempSave f) s = .next (startersAsked
      (s.modCfg c.sq fun c => { c with st := .saving, resume := false, saveDone := [], saveBad := [], saver := some s.cur }))) ∧
    ((s.ctx c.ctx).savebase.getLsbD 0 = false → exec (.prempSave f) s = .next (done s fun x => answered x f.gc 2)) ∧
    (∀ k, Holds s f.gb k → exec (.prempRemap f) s = .next (startersAsked
      { s with seqQ := s.seqQ ++ [.remap c.sq k.toNat s.cur] }))) ∧
  (∀ f s a, Referee s → Alone s → On f.p s → Ready s f.gc → (here s).sch.starter = none → Holds s f.ga a →
    let c := a.toNat % 256
    (s.ctx c).owner = s.ownerOf s.cur → (restoreCtx s c).2.cur = s.cur →
    exec (.prempRestore f) s = .next (done (restoreCtx s c).2 fun x => answered x f.gc (restoreCtx s c).1))

/-! # Events of a tile -/

/-- R37, R38, R57, R85, R222, R292, R293, R295: a result on its way arrives in its register with its flags; a claim takes the head of
its queue, in the order of the claims; an LDS whose words have become full reads them, and no byte changes; one that a checkpoint has
withdrawn issues again as its task goes on.
The model's own readings in it: notes/assumptions/9, 78, 108, 109. -/
def Obligations.ResultsArrive : Prop :=
  (∀ s t n d v fl, Due s t n d (.value v fl) →
    exec (.longLatencyFill t n) s = .next (s.modTile t fun x => delivered (x.dropPend n) d v fl)) ∧
  (∀ s t n d c a, Due s t n d (.mark c a) →
    exec (.longLatencyFill t n) s = .next (passLate (s.modTile t fun x => marked (x.dropPend n) d c a) t)) ∧
  (∀ s t n d q any word lanes ended tok, Due s t n d (.claim q any word lanes) ended →
    (∀ m, m < n → ∀ p, (s.tile t).pend[m]? = some p → ∀ any' word' lanes', p.what ≠ .claim q any' word' lanes') →
    ((s.tile t).inQ q).toks[((s.tile t).inQ q).popped]? = some tok →
    exec (.longLatencyFill t n) s =
      .next (passLate (s.modTile t fun x => received (x.dropPend n) d q any word lanes ended tok) t)) ∧
  (∀ s t, (s.taskTile t = t → passLate s t = s) ∧
    (s.taskTile t ≠ t → ((passLate s t).tile t).sch.late = [] ∧
      ((passLate s t).tile (s.taskTile t)).sch.late = (s.tile (s.taskTile t)).sch.late ++ (s.tile t).sch.late)) ∧
  (∀ s t n d a take ended u ps, Due s t n d (.again a take) ended → tileLive s t = true → (s.tile t).sch.task ≠ none →
    (∀ v ∈ gangTiles s t, (s.tile v).sch.halted = none ∧ (s.tile v).sch.asked = false) → walkParts s t a.parts = .ok (ps, u) →
    exec (.ldsWake t n) s = .next (u.modTile t fun x =>
      { x with pend := x.pend.modify n fun p => { p with what := .lds { a with parts := ps } take } })) ∧
  (∀ s t n d a take ended h va len slice at_, Due s t n d (.lds a take) ended → Next s t a → a.op = .lds d take [] →
    a.parts = [⟨h, va, len, 0, slice, at_⟩] → len ≤ 64 → isFull s h len = true → Quiescent s h len →
    exec (.ldsWake t n) s = .next ((if take then setFull s h len false else s).modTile t fun x =>
      { x with pend := (x.pend ++ [({ dst := d, what := .value (BitVec.ofNat 512 (numberAt s h len)) 0 } : Pend)]).eraseIdx n }))

/-- R15, R158, R162, R163, R187, R190, R192, R216: accesses perform at their homes, loads and stores part by part: a load delivers the
bytes, a store writes them, an atomic is one read-modify-write, a reduce-add joins its window, wherever that stands, alone or as the
exact sum of those that it has combined with, each through its own page-table entry; one that finds no window free waits; a window writes its
rounded sum once. A soft error strikes a unit of a store or a register's parity.
The model's own readings in it: notes/assumptions/9, 16, 73, 106. -/
def Obligations.HomesPerform : Prop :=
  ((∀ s t u n a pa va len slice at_ dst size sx, UnitAt s t u n 0 a → OnePart a pa va len slice at_ →
    PartNext s t a 0 ⟨.dram pa, va, len, 0, slice, at_⟩ → a.op = .load dst 0 size sx [] → size ≤ 8 → len = size →
    Quiescent s (.dram pa) len →
    let m := numberAt s (.dram pa) size
    exec (.performAtHome t u) s = .next (answeredAcc s t n a fun x => coming x dst
      (BitVec.ofNat 512 (if sx then ((BitVec.ofNat (8 * size) m).signExtend 64).toNat else m)))) ∧
  (∀ s t u n a pa va len slice at_ d, UnitAt s t u n 0 a → OnePart a pa va len slice at_ →
    PartNext s t a 0 ⟨.dram pa, va, len, 0, slice, at_⟩ → a.op = .store d → Quiescent s (.dram pa) len →
    exec (.performAtHome t u) s = .next (answeredAcc (setDirty (rawWrite s (.dram pa) (lowBytes len d.toNat)) at_) t n a)) ∧
  (∀ s t u n k a p d, UnitAt s t u n k a → PartNext s t a k p → a.op = .store d → 1 < a.parts.length →
    (∀ v off, p.home = .tile v off → armedAt (s.tile v) off p.len = none) → Quiescent s p.home p.len → (∀ pa, p.home ≠ .host pa) →
    (s.tile t).isM = true → (∀ v off, p.home = .tile v off → (s.tile v).isM = true) →
    exec (.performAtHome t u) s = .next ((setDirty (rawWrite s p.home (takeBytes d p.pos p.len)) p.pteAt).modTile t fun x =>
      ({ x with net := lset x.net n { a with parts := a.parts.eraseIdx k } } : Tile).perfAdd 6 1)) ∧
  (∀ s t u n a pa va len slice at_ d, UnitAt s t u n 0 a → Next s t a → OnePart a pa va len slice at_ → a.op = .stf d →
    Quiescent s (.dram pa) len → exec (.performAtHome t u) s = .next (answeredAcc
      (setDirty (setFull (rawWrite s (.dram pa) (lowBytes len d.toNat)) (.dram pa) len true) at_) t n a)) ∧
  (∀ s t u n a pa va len slice at_, UnitAt s t u n 0 a → OnePart a pa va len slice at_ →
    PartNext s t a 0 ⟨.dram pa, va, len, 0, slice, at_⟩ → a.op = .feclr → Quiescent s (.dram pa) len →
    exec (.performAtHome t u) s = .next (answeredAcc (setFull s (.dram pa) len false) t n a)) ∧
  (∀ s t n a pa va slice at_ op w64 uns x y dst, Netted s t n a →
    let len := if w64 then 8 else 4
    OnePart a pa va len slice at_ → a.op = .amo op w64 uns x y dst → Quiescent s (.dram pa) len →
    let old := numberAt s (.dram pa) len
    let new := atomic op uns (8 * len) (BitVec.ofNat (8 * len) old) (x.setWidth (8 * len)) (y.setWidth (8 * len))
    exec (.atomicAtHome t n) s = .next (answeredAcc (setDirty (rawWrite s (.dram pa) (lowBytes len new.toNat)) at_) t n a fun z =>
      match dst with
      | some d => coming z d (BitVec.ofNat 512 old)
      | none => z)) ∧
  (∀ s t n a ty d mode seed, Netted s t n a → a.op = .red ty d mode seed →
    let met := redMet s t n a
    let sum := ({} : Wide).addAll (a.redVal :: met.map fun e => e.2.2.redVal)
    let perform : Perf := match met, a.parts with
      | [], _ => performAcc s t a
      | _, p :: _ => match performRed s t p (fun w => ((w.join sum.1).1, (w.join sum.1).2 ||| sum.2)) mode seed (a.retries == 0) with
        | .ok u => .ok (met.foldl (fun s e => e.2.2.parts.foldl (fun s q => setDirty s q.pteAt) s) u)
        | r => r
      | _, [] => .ok s
    (∀ u, perform = .ok u → exec (.redArrival t n) s = .next (met.foldl (fun s e => netAck s e.1 e.2.2.id) (netAck u t a.id))) ∧
    (∀ u, perform = .wait u → a.retries = 0 → exec (.redArrival t n) s =
      .next (u.modTile t fun x => { x with net := lset x.net n { a with retries := 1 } }))) ∧
  (∀ s t pa va slice at_ data mode seed first,
    let p : Part := ⟨.dram pa, va, 4, 0, slice, at_⟩
    let add (w : Wide) : Wide × Flags := w.add (decodeVal f32 data)
    (∀ sl i w, openWindow s pa = some (sl, i, w) → ∃ u, performRed s t p add mode seed first = .ok u ∧
      (u.slice sl).wins = lset (s.slice sl).wins i { w with val := (w.val.add (decodeVal f32 data)).1 }) ∧
    (openWindow s pa = none → (s.slice slice).wins.length < 512 + 16384 → s.dram.badRead pa 4 = none →
      ∃ u, performRed s t p add mode seed first = .ok u ∧ (u.slice slice).wins = (s.slice slice).wins ++
        [⟨pa, ((({} : Wide).add (decodeVal f32 (s.dram.word pa))).1.add (decodeVal f32 data)).1, mode, seed, va, s.sqOf t⟩]) ∧
    (openWindow s pa = none → 512 + 16384 ≤ (s.slice slice).wins.length → ∃ u, performRed s t p add mode seed first = .wait u)) ∧
  (∀ s (w : Window), StoresCanonical s →
    (s.dram.badWrite w.pa 4 = none → ∀ i, i < 4 → byteAt (closeWindow s w) (.dram (w.pa + i)) =
      byteOf (w.val.round f32 ⟨w.mode.toNat, srRnd w.seed (w.va.setWidth 32) 0⟩ false).code i) ∧
    (s.dram.badWrite w.pa 4 ≠ none → (closeWindow s w).dram = s.dram))) ∧
  ((∀ s t off double, off < 0x180000 → exec (.softError (.tileUnit t off double)) s = .next (s.modTile t fun x =>
    { x with store := x.store.strike (off / 8) double })) ∧
  (∀ s t f i, i < regCount f → f ≠ .pa → (f = .k → i ≠ 0) → ∃ u, exec (.softError (.reg t f i)) s = .next u ∧
    (f, i) ∈ (u.tile t).regs.parity ∧ (∀ e ∈ (u.tile t).regs.parity, e = (f, i) ∨ e ∈ (s.tile t).regs.parity)) ∧
  (∀ (st : Store) u, u ∉ st.bad2 → ((st.strike u true).bad2 = st.bad2 ++ [u]) ∧
    (u ∈ st.bad1 → (st.strike u false).bad2 = st.bad2 ++ [u]) ∧ (u ∉ st.bad1 → (st.strike u false).bad1 = st.bad1 ++ [u])))

/-- R34, R347, R350, R381, R383, R438: accesses that a home refuses, that meet an uncorrectable unit, or whose home is dead. A refused load
marks its register, an OWNER also at the next boundary; a refused store is taken by the task that issued it while that runs, on its
gang's anchor once the gang is disbanded, else it is an event; what a core still holds for traps there; what refuses a commit stops it.
The model's own readings in it: notes/assumptions/14, 24. -/
def Obligations.AccessesRefused : Prop :=
  (∀ s t n a p c o d, flying s t n = some a → a.miss s t = some (p, .reject c o d) →
    exec (.rejectReply t n) s = .next (refuseNow (recordReject s t 2 0 o d p.va) t a p c
      (if c = 0x05 then p.va else BitVec.ofNat 64 (2 ^ 63 + o * 2 ^ 32 + d)))) ∧
  (∀ s t n a p h, flying s t n = some a → a.due s t = some (p, h) →
    (p.own t = true → exec (.dueErrorReply t n) s = .next (failStopTile (s.modTile t (·.forget a)) t (ownDue h))) ∧
    (p.own t = false → exec (.dueErrorReply t n) s = .next (refuseNow s t a p 0x10
      (BitVec.ofNat 64 ((match h with | .tile _ _ => 3 | _ => 1) * 2 ^ 62 + p.va.toNat % 2 ^ 62))))) ∧
  (∀ s t a pa va len slice at_ dst size sx v, OnePart a pa va len slice at_ → a.op = .load dst 0 size sx [] →
    PartNext s t a 0 ⟨.dram pa, va, len, 0, slice, at_⟩ → touchWindows s (.dram pa) len = s → s.dram.badRead pa len = some v →
    a.due s t = some (⟨.dram pa, va, len, 0, slice, at_⟩, .dram (8 * v))) ∧
  (∀ s t m rest u, (s.tile t).sch.sent = m :: rest → slotTile s t m.slot = some u → s.unreachable u = true → msgFree s t m = true →
    (s.tile t).sch.retBuf.length < 16 → exec (.deadReturn t 0) s = .next (s.modTile t fun x =>
      { x with sch := { x.sch with sent := rest, retBuf := x.sch.retBuf ++ [m] } })) ∧
  (∀ s t q k j u, q < 16 → ((s.tile t).outQ q).dest = some (k, j) → slotTile s t k = some u → s.unreachable u = true →
    ((s.tile t).outQ q).latch ≠ [] → exec (.deadReturn t (q + 1)) s = .next (s.modTile t fun x => x.setOutQ q { x.outQ q with
      latch := [], toks := (x.outQ q).latch.map (fun tok => ⟨tok, 0⟩) ++ (x.outQ q).toks })) ∧
  (∀ s t n a p, flying s t n = some a → a.miss s t = some (p, .dead) →
    exec (.deadReturn t (n + 17)) s = .next (refuseNow s t a p 0x10 (BitVec.ofNat 64 (2 ^ 63 + p.va.toNat % 2 ^ 62)))) ∧
  (∀ s t n a p c ta, (s.tile t).sch.chOut = some a.id → (s.tile t).net.findIdx? (·.id == a.id) = some n → refuseNow s t a p c ta =
    if c = 0x10 then takeForced (s.modTile t (·.withdraw n a)) t c ta else takeTrap (s.modTile t (·.withdraw n a)) t c ta) ∧
  (∀ s t a p c ta, (s.tile t).sch.chOut ≠ some a.id → 1 ≤ (s.tile t).sch.fx.phase → s.running t a.id = true → refuseNow s t a p c ta =
    takeForced (s.modTile t fun x => (x.forget a).setSb (.acc a :: (x.forget a).sch.fx.sb)) (s.taskTile t) c ta) ∧
  (∀ s t a p c ta, (s.tile t).sch.chOut ≠ some a.id → (s.tile t).sch.fx.phase = 0 →
    let runs := s.taskTile t
    let late (u : State) : State := u.modTile runs fun x => { x with sch := { x.sch with late := x.sch.late ++ [(c, ta)] } }
    (∀ d, a.op.dst = some d → c ≠ 0x05 ∨ (s.tile runs).isM = true →
      let u := (s.modTile t (·.forget a)).modTile t fun x => { x with pend := x.pend ++ [{ dst := d, what := .mark c ta }] }
      refuseNow s t a p c ta = if c = 0x0F ∧ s.running t a.id = true then late u else u) ∧
    (a.op.dst = none → s.running t a.id = true → refuseNow s t a p c ta = late (s.modTile t (·.forgetPart a p))) ∧
    (a.op.dst = none → s.running t a.id = false → c = 0x10 →
      refuseNow s t a p c ta = tileEvent (s.modTile t (·.forgetPart a p)) t 0x02 0x10 4 p.va))

/-- R163, R180-R183, R185, R186: a chained access that is eligible performs and moves its chain's L and E on, a 64-byte one unit by unit, its
chain's other arrivals waiting; one that the slice refuses is
tried again, and after its last retry traps CHOVF; a commit's tentative entries are confirmed once all are accepted, slice by slice,
or their cancellation is sent and frees them; a gap is reported once.
The model's own readings in it: notes/assumptions/41. -/
def Obligations.ChainsMove : Prop :=
  (∀ s t n a g c u, Netted s t n a → a.chain = some g → a.parts.length ≤ 1 → a.retries = 0 → (s.tile t).isM = true → (s.slice g.slice).chain g.ch = some c →
    g.pn = c.L → c.E = g.sn ∨ c.E = 0xFFFFFF → (∀ e ∈ (s.slice g.slice).ents, e.tag.ch ≠ g.ch) → performAcc s t a = .ok u →
    ∃ w, exec (.chainArrival t n) s = .next w ∧ ((w.slice g.slice).chain g.ch).map (fun k => (k.L, k.E)) = some (g.sn, g.nn) ∧
      (w.tile t).net = (s.tile t).net.eraseIdx n) ∧
  (∀ s t n a g c, Netted s t n a → a.chain = some g → 1 < a.parts.length → a.retries = 0 → (s.tile t).isM = true →
    (s.slice g.slice).chain g.ch = some c → g.pn = c.L → c.E = g.sn ∨ c.E = 0xFFFFFF → (∀ e ∈ (s.slice g.slice).ents, e.tag.ch ≠ g.ch) →
    ∃ w e, exec (.chainArrival t n) s = .next w ∧ (w.slice g.slice).curEnt g.ch = some e ∧ e.acc = a ∧
      ((w.slice g.slice).chain g.ch).map (fun k => (k.L, k.E)) = some (c.L, c.E) ∧ (w.tile t).net = (s.tile t).net.eraseIdx n) ∧
  (∀ s t n sl e k pa va len pos slice at_ d, (chainUnits s t)[n]? = some (sl, e, k) → 1 < e.acc.parts.length →
    e.acc.parts[k]? = some ⟨.dram pa, va, len, pos, slice, at_⟩ → e.acc.op = .chStore e.tag d → Quiescent s (.dram pa) len →
    exec (.performAtHome t ((netUnits (s.tile t)).length + n)) s =
      .next ((setDirty (rawWrite s (.dram pa) (takeBytes d pos len)) at_).modSlice sl fun y => { y with ents := y.ents.map fun x =>
        if x.arr = e.arr then { x with got := 0, acc := { x.acc with parts := e.acc.parts.eraseIdx k } } else x })) ∧
  (∀ s t n a g, Netted s t n a → a.chain = some g → chainBusy s g = true → exec (.chainArrival t n) s = .next s) ∧
  (∀ s t n a g, Netted s t n a → a.chain = some g → chainBusy s g = false → a.retries = 0 → chainArrive s t a g (!(s.tile t).isM) = none →
    ((s.tile t).isM = true → 1 ≤ (chRetry s t).1) → exec (.chainArrival t n) s = .next (s.modTile t fun x =>
      { x with net := lset x.net n { a with retries := 1, refusedAt := s.now } })) ∧
  (∀ s t n a g, Netted s t n a → a.chain = some g → chainBusy s g = false → 0 < a.retries → a.retries ≤ (chRetry s t).1 →
    a.refusedAt + (chRetry s t).2 ≤ s.now →
    (∀ u, chainArrive s t a g (!(s.tile t).isM) = some u → exec (.chainRetry t n) s = .next (netDone u t n)) ∧
    (chainArrive s t a g (!(s.tile t).isM) = none → a.retries = (chRetry s t).1 → (s.tile t).isM = true →
      exec (.chainRetry t n) s = .next (takeTrap (s.modTile t (·.withdraw n a)) t 0x0A ((a.parts.head?.map (·.va)).getD 0)))) ∧
  (∀ s t a g c, (s.slice g.slice).chain g.ch = some c → c.eligible g = true →
    (s.slice g.slice).bypassFree g.ch = false → (s.slice g.slice).sharedFree = false → ∀ tentative, chainArrive s t a g tentative = none) ∧
  (∀ s t, team s t = [t] → (s.tile t).sch.fx.phase = 1 ∨ (s.tile t).sch.fx.phase = 2 →
    let mine (c : ChEnt) : Bool := c.tile == t && c.tentative && !c.cancelled
    let held := Machine.slicesOf s mine
    (mute (s.tile t) = false → (∀ a ∈ (s.tile t).net, a.isChStore = false) → (∀ b ∈ (s.tile t).sch.fx.sb, b.isCh = false) → held ≠ [] →
      let confirm (c : ChEnt) : ChEnt := if mine c then { c with tentative := false, bypass := false, acked := true } else c
      ∃ k ∈ held, exec (.chainConfirmation t) s = .next (rescanAll ((s.modSlice k fun y => { y with ents := y.ents.map confirm }).modTile t
        (·.setPhase (if held.length ≤ 1 then 3 else 2))) ((chainsOf s mine).filter (·.1 == k)))) ∧
    ((∃ a ∈ (s.tile t).net, a.isChStore = true) ∨ (∃ b ∈ (s.tile t).sch.fx.sb, b.isCh = true) →
      exec (.chainConfirmation t) s = .next s)) ∧
  (∀ s t, (∃ e ∈ s.slices, ∃ k ∈ e.2.ents, k.tile = t ∧ k.cancelled = true) → ∃ u, exec (.chainCancellation t) s = .next u ∧
    ∀ e ∈ u.slices, ∀ k ∈ e.2.ents, k.tile = t → k.cancelled = false) ∧
  (∀ s t a, team s t = [t] → (s.tile t).isM = false → mute (s.tile t) = false →
    (∀ e ∈ s.slices, ∀ k ∈ e.2.ents, k.tile = t → k.cancelled = false) →
    (s.tile t).net.find? (fun b => b.isChStore && decide ((chRetry s t).1 < b.retries)) = some a →
    ∃ u, exec (.chainCancellation t) s = .next u ∧ (∀ e ∈ u.slices, ∀ k ∈ e.2.ents, k.tile = t → k.tentative = true →
      k.cancelled = true) ∧ (u.tile t).sch.task = none ∧ (u.tile t).csr.tcause = 0x0A) ∧
  (∀ s sl ch c k p g, (s.slice sl).chain ch = some c → s.cfg c.cfg = some k → s.part k.owner = some p → c.gapAt = some g →
    c.gapSent = false → 0 < p.chgapt.toNat % 65536 → g + 1000 * (p.chgapt.toNat % 65536) ≤ s.now →
    let n := ((s.slice sl).ents.filter fun e => e.tag.ch == ch && !e.tentative).length
    exec (.chgap sl ch) s = .next ((event s k.owner 0x03 0 (0x8000 + sl) k.ctx 0xFFFF
      (BitVec.ofNat 64 (c.L.toNat + c.E.toNat * 2 ^ 24 + n % 65536 * 2 ^ 48)) (BitVec.ofNat 64 ch)).modSlice sl fun y =>
        { y with chains := tput y.chains ch { c with gapSent := true } }))

/-- R163, R233-R235, R241, R245, R250, R251, R380: a copy writes its next granule, one unit of which may go ahead of the others, a port moves
its next element, a DREQ delivers its next 64 bytes; an engine that meets a fault stops and records it, and the tile takes ENGFAULT.
The model's own readings in it: notes/assumptions/28. -/
def Obligations.EnginesMove : Prop :=
  (∀ s t o rest seen u w, (s.tile t).eng.copies = o :: rest → (s.tile t).eng.copyFault = false → enginesRun s t = true → o.cvt = 0 →
    o.hd = none → o.byTask = false →
    let a := o.dstRow o.row + BitVec.ofNat 64 o.off
    let n := Nat.min (64 - a.toNat % 64) (o.rb - o.off)
    let src := o.srcRow o.row + BitVec.ofNat 64 o.off
    copyUnits s t o [] (unitNums src n) o.seen = .ok (seen, u) →
    engWrite u t o.acc o.ctx o.car.stkbase o.pgsz a (seenBytes seen src n) = .ok w →
    let later : CopyOp := if o.rb ≤ o.off + n then { o with row := o.row + 1, off := 0 } else { o with off := o.off + n }
    let next : CopyOp := { later with seen := seen.filter (fun e => later.wants e.1), acc := none }
    exec (.engineGranuleWrite t) s = .next (w.modTile t fun x =>
      { x with eng := { x.eng with copies := if next.rows ≤ next.row then rest else next :: rest } })) ∧
  (∀ s t o rest k g p r out fl seen u, (s.tile t).eng.copies = o :: rest → (s.tile t).eng.copyFault = false → enginesRun s t = true →
    o.acc = some g → 2 ≤ g.parts.length → g.parts[k]? = some p → copyData s t o = .ok (out, fl, seen, u) → engUnit u t g p = .ok r →
    exec (.performAtHome t ((netUnits (s.tile t)).length + (chainUnits s t).length + (16 * k + 4))) s = .next (r.2.modTile t fun x =>
      { x with eng := { x.eng with copies := lset x.eng.copies 0 { o with seen := seen, acc := some r.1 } } })) ∧
  (∀ s t p ph u (unit : Nat → List Byte), let y := (s.tile t).port p
    y.st = 1 → enginesRun s t = true → y.isWrite = false → portRoom (s.tile t) y = true → y.eodDue = none → y.conv = 0 → y.acc = none →
    (y.addr y.pos).toNat % 64 = 0 →
    engReach s t y.ctx y.car.stkbase y.pg (y.addr y.pos) 64 false (!y.sync) = .ok (ph, u) → (y.sync = true → isFull u ph.home 64 = true) →
    (∀ i, i < 8 → homeRead u (ph.home.add (8 * i)) 8 = .ok (unit i, u)) → y.packN = 0 →
    exec (.streamElement t p) s = .next (settlePort (portPush (u.modTile t fun x => x.setPort p { x.port p with
      pos := y.pos + 1, pack := 0, packN := 0, eodDue := y.eodAfter y.pos, acc := none }) t p
        (.vec (BitVec.ofNat 512 (ofBytes ((List.range 8).map unit).flatten)))) t p)) ∧
  (∀ s t p r rest d w, let y := (s.tile t).port p
    y.st = 1 → enginesRun s t = true → y.isWrite = true → ((s.tile t).outQ y.queue).toks = r :: rest → released s t r = true →
    r.tok = .vec d → y.hden = false → engWrite s t y.acc y.ctx y.car.stkbase y.pg (y.addr y.pos) (lowBytes 64 d.toNat) = .ok w →
    exec (.streamElement t p) s = .next (settlePort ((w.modTile t fun x => x.setOutQ y.queue { x.outQ y.queue with toks := rest }).modTile t
      fun x => x.setPort p { x.port p with pos := y.pos + 1, acc := none }) t p)) ∧
  (∀ s t n d (unit : Nat → List Byte), (s.tile t).eng.dreqs[n]? = some d → (s.tile t).eng.dreqFault = false → enginesRun s t = true → d.mode1 = false →
    granOwnerOf s (d.pa + 64 * d.got) = s.ownerOf t →
    (∀ e ∈ (s.tile t).eng.dreqs.take n, e.mode1 = true ∨ e.q ≠ d.q) → d.seen = [] →
    (∀ i, i < 8 → homeRead s (.dram (d.pa + 8 * (8 * d.got + i))) 8 = .ok (unit i, s)) → d.byTask = false → 64 * (d.got + 1) < d.bytes →
    exec (.dreqReply t n) s = .next (s.modTile t fun x =>
      let q := x.inQ d.q
      let data := BitVec.ofNat 512 (ofBytes ((List.range 8).map unit).flatten)
      let x := x.setInQ d.q { q with toks := q.toks ++ [.vec data], resv := q.resv - 1 }
      { x with eng := { x.eng with dreqs := lset x.eng.dreqs n { d with got := d.got + 1, acc := none } } })) ∧
  (∀ s t e c, e ≤ 5 → engTry s t e = .error (.fault c) →
    exec (.engineFault t e) s = .next (recordFault s t e c (engPos s t e)) ∧
    let x := (recordFault s t e c (engPos s t e)).tile t
    x.eng.stat.fcause = c ∧ x.eng.stat.feng.toNat = e ∧ x.eng.stat.fault = true ∧ x.eng.stat.pos = engPos s t e ∧ x.eng.stat.due = true) ∧
  (∀ s t e c o d a, e ≤ 5 → engTry s t e = .error (.reject c o d a) →
    exec (.engineFault t e) s = .next (recordFault (recordReject s t 2 0 o d a) t e c (engPos s t e))) ∧
  (∀ s t, (s.tile t).eng.stat.fault = true → exec (.engstFaultClear t) s = .next (s.modTile t Tile.clearFault)) ∧
  (∀ s t, (s.tile t).eng.stat.due = true → (s.tile t).failStop = false →
    (∀ u ∈ gangTiles s t, (s.tile u).sch.task ≠ none →
      (s.tile u).sch.halted = none ∧ (s.tile u).sch.stepping = false ∧ (s.tile u).sch.asked = false) →
    let u := takeTrap (s.modTile t fun x => { x with eng := { x.eng with stat := { x.eng.stat with due := false } } }) t 0x18
      (s.tile t).eng.stat.pos
    exec (.engfault t) s = .next (if trapAct (s.tile t) 0x18 (s.tile t).eng.stat.pos = .abortHalt then u.modTile t Tile.clearFault else u))

/-- R143, R148, R161, R323, R324, R328: the command at the head of a patch acts, MXST gives the status to the register that waits for it; the
pacer grants a start and serves a stop; idle
cells are gated and woken.
The model's own readings in it: notes/assumptions/25, 93, 94. -/
def Obligations.PatchMoves : Prop :=
  (∀ s t e rest, HeadCmd s t e rest →
    (∀ src ty, e.cmd = .cfg src ty → exec (.patchCommand t) s =
      .next (finishCmd (modPatch s t fun p => { p with fmts := tput p.fmts src ⟨ty, e.car.fmt8⟩ }) t)) ∧
    (e.cmd = .wsw → (s.tile t).pu.st.ring = none → (s.tile t).pu.st.shSt = 2 → exec (.patchCommand t) s =
      .next (finishCmd (modPatch s t fun p => { p with act := p.sh, sh := p.act, shSt := 0 }) t)) ∧
    (∀ set all, e.cmd = .clr set all → exec (.patchCommand t) s = .next (finishCmd (modPatch s t fun p => { p with
      pa0 := if all || !set then {} else p.pa0, pa1 := if all || set then {} else p.pa1 }) t)) ∧
    (∀ src addr rows r0 set zero bs u, e.cmd = .run src addr rows r0 set zero false → (s.tile t).pu.st.rgn = none →
      (s.tile t).pu.st.recu = none →
      let a : ActFmt := tget {} (s.tile t).pu.st.fmts src
      takeSource s t e src addr e.done (8 * tyWidth a.ty) = .ok (bs, u) →
      let p := (u.tile t).pu.st
      let acc := if zero then List.replicate 64 0 else (p.pa set).row (r0 + e.done)
      exec (.patchCommand t) s = .next (advanceCmd (spareCheck
        (putRow u t set (r0 + e.done) (rowAdd p.act a.ty (actVals a bs) false acc)) t) t rows))) ∧
  (∀ s t e rest n d k clr, (s.tile t).pu.q = e :: rest → enginesRun s t = true → e.cmd = .st clr → e.byTask = true →
    (∀ b r, rest = b :: r → b.cmd.starts = false) → (s.tile t).isM = true →
    (s.tile t).pend[n]? = some { dst := d, what := .status, stamp := k } →
    (∀ m, m < n → ((s.tile t).pend[m]?).map (·.what) ≠ some .status) →
    let v : Vec := BitVec.ofNat 512 (s.tile t).pu.st.status
    ∃ u, exec (.patchCommand t) s = .next u ∧ (u.tile t).pu.q = rest ∧
      (u.tile t).pend = (s.tile t).pend.set n { dst := d, what := .value v 0, stamp := k } ∧
      (u.tile t).pu.st = if clr then { (s.tile t).pu.st with flags := 0, nosh := false } else (s.tile t).pu.st) ∧
  (∀ s t, (s.tile t).pu.ranAt ≠ none → (∀ r ∈ (s.field (fieldOf t)).pacer.stops, r.tile ≠ t) →
    exec (.runComplete t) s = .next (s.modField (fieldOf t) fun y => { y with pacer := { y.pacer with
      stops := y.pacer.stops ++ [⟨t, 0, s.now⟩] } })) ∧
  (∀ s f r rest, (s.field f).pacer.stops = r :: rest → paced s (s.field f).pacer = true →
    exec (.pacerStop f) s = .next ((s.modField f fun y => { y with pacer := { y.pacer with
      stops := rest, lastAt := some s.now, lastRate := Nat.max 1 (y.didt.toNat % 65536), running := y.pacer.running - 1 } }).modTile r.tile
        fun x => { x with pu := { x.pu with ranAt := none } })) ∧
  (∀ s f r, (s.field f).pacer.stops = [] → paced s (s.field f).pacer = true →
    fieldCurrent2 s f ≤ 2 * ((s.field f).icrit.toNat % 65536) → (s.field f).sw.ms = s.now / 1000000 →
    firstReq s.now (ageOf (s.field f)) (s.field f).pacer.starts = some r → ∃ u, exec (.pacerGrant f) s = .next u ∧
      (u.field f).pacer = { (s.field f).pacer with starts := (s.field f).pacer.starts.erase r, lastAt := some s.now
                                                   lastRate := rateOf (s.field f), running := (s.field f).pacer.running + 1 } ∧
      (u.field f).sw.grant = (s.field f).sw.grant + 1 ∧
      ∀ e q, (s.tile r.tile).pu.q = e :: q → (u.tile r.tile).pu.q = { e with granted := true } :: q) ∧
  (∀ s t n, (s.tile t).pu.gate = .awake n → (s.tile t).pu.q = [] →
    let hold := (s.field (fieldOf t)).pgctl.toNat % 65536
    hold ≠ 0 → n + hold < s.now → exec (.powerGate t) s =
      .next (s.modTile t fun x => { x with pu := { x.pu with gate := .gating (s.now + 64) false } })) ∧
  (∀ s t n, (s.tile t).pu.gate = .gating n false → n ≤ s.now →
    exec (.powerGate t) s = .next (s.modTile t fun x => { x with pu := { x.pu with gate := .gated false } })) ∧
  (∀ s f t at_, (s.field f).wakes = [(t, at_)] →
    let slot := Nat.max ((s.field f).wakeSlot + 1) ((at_ + 63) / 64)
    64 * slot ≤ s.now → exec (.wakeAdmit f) s =
      .next ((s.modTile t fun x => { x with pu := { x.pu with gate := .awake (64 * (slot + 1)) } }).modField f fun y =>
        { y with wakes := [], wakeSlot := slot }))

/-- R18, R30, R42, R253-R256, R260, R263, R265, R278, R405: firings, starts and closes of an actor; tokens, records and decrements
arrive; launch records leave; timeouts.
The model's own readings in it: notes/assumptions/27, 38. -/
def Obligations.TasksMove : Prop :=
  (∀ s t d a, Lives s t d a → (team s t).headD t = t → a.done = false → (s.tile t).firing = false →
    (∀ e ∈ d.inQ, e.2.2 ≤ (s.tile t).resTokens e.1) → (∀ r ∈ d.ranges, (s.tile t).store.allFull (r.1 / 4) (r.2 / 4) = true) →
    (d.once = true → a.firings = 0) → (d.source = true ∨ allClosed d (s.tile t) = false) →
    exec (.firing t) s = .next (makeReady s t none d.pri)) ∧
  (∀ s t d a e h, Lives s t d a → (s.tile t).sch.task = none →
    (∀ u ∈ team s t, (s.tile u).sch.halted = none ∧ (s.tile u).eng.stat.due = false) →
    firstEnt s.now (quantOf s t) ((s.tile t).sch.runl.filter fun e => !((e.rcd.map (·.launch)).getD false)) = some e →
    d.handlers[(e.rcd.map (·.handler.toNat)).getD 0]? = some h → exec (.taskStart t) s = .next (startTask s t e d a h)) ∧
  (∀ s t e d a h, team s t = [t] →
    let y := (startTask s t e d a h).tile t
    y.regs.pc = h.entry ∧ y.regs.c = h.consts ∧ y.regs.v = [] ∧ y.regs.k = [] ∧ y.regs.wa = [] ∧ y.regs.loops = [] ∧ y.regs.parity = [] ∧
    y.regs.getG 0 = (match e.rcd with | none => BitVec.ofNat 64 a.firings | some r => r.a0) ∧
    y.regs.getG 1 = (match e.rcd with | none => 0 | some r => r.a1) ∧ y.csr.fflags = 0 ∧ y.csr.inTrap = false ∧
    y.csr.rmode = h.csr.rmode ∧ y.csr.tcause = (s.tile t).csr.tcause ∧ y.csr.tepc = (s.tile t).csr.tepc ∧
    y.sch.task.map (·.immediate) = some h.immediate) ∧
  (∀ s t d a, Lives s t d a → (team s t).headD t = t → a.done = false → (s.tile t).firing = false → (s.tile t).sch.task = none →
    d.once = false → allClosed d (s.tile t) = true → (∀ u ∈ team s t, ∀ q ∈ (s.tile u).declOut, 0 < (s.tile u).outFree q) →
    let take (y : Tile) (q : Nat) : Tile :=
      (y.setInQ q { y.inQ q with toks := (y.inQ q).toks.eraseIdx ((y.inQ q).popped + y.claims q) }).perfAdd 3 1
    exec (.actorClose t) s = .next (((team s t).foldl (fun s u => s.modTile u fun x => (x.declIn.foldl take x).closeOut) s).modTile t
      fun x => { x with sch := { x.sch with actor := some { a with done := true } } })) ∧
  (∀ s t q k j u tok rest, ((s.tile t).outQ q).dest = some (k, j) → slotTile s t k = some u → ((s.tile t).outQ q).latch = tok :: rest →
    takes s u = true → s.written u = false → 0 < (s.tile u).inFree j → (s.tile u).sch.actor.bind (·.moveTo) = none →
    exec (.tokenArrival t q) s = .next ((s.modTile u fun y => y.setInQ j { y.inQ j with toks := (y.inQ j).toks ++ [tok] }).modTile t
      fun x => x.setOutQ q { x.outQ q with latch := rest, delivered := ((s.tile t).outQ q).delivered + 1 })) ∧
  (∀ s t q k j u r rest, ((s.tile t).outQ q).dest = some (k, j) → slotTile s t k = some u → ((s.tile t).outQ q).latch = [] →
    ((s.tile t).outQ q).toks = r :: rest → released s t r = true → s.unreachable u = false → s.unreachable t = false →
    (s.tile t).failStop = false → s.written t = false →
    (0 < ((s.tile t).outQ q).links → s.ownerOf u = s.ownerOf t → exec (.tokenArrival t q) s = .next (s.modTile t fun x =>
      x.setOutQ q { x.outQ q with latch := [r.tok], toks := rest })) ∧
    (((s.tile t).outQ q).links = 0 → s.ownerOf u = s.ownerOf t → (s.tile u).failStop = false → s.written u = false → 0 < (s.tile u).inFree j →
      (s.tile u).sch.actor.bind (·.moveTo) = none → exec (.tokenArrival t q) s = .next
        ((s.modTile u fun y => y.setInQ j { y.inQ j with toks := (y.inQ j).toks ++ [r.tok] }).modTile t fun x =>
          x.setOutQ q { x.outQ q with toks := rest, delivered := (x.outQ q).delivered + 1 })) ∧
    (s.ownerOf u ≠ s.ownerOf t → exec (.tokenArrival t q) s = .next (rejectSent (s.modTile t fun x =>
      x.setOutQ q { x.outQ q with toks := rest }) t u 1 2 r.stamp (BitVec.ofNat 64 q)))) ∧
  (∀ s t q tok rest, ((s.tile t).outQ q).latch = tok :: rest → s.written t = false → exec (.reservedTag t q) s = .next (tileEvent
    (s.modTile t fun x => x.setOutQ q { x.outQ q with latch := .poison 0x10 :: rest }) t 0x02 0 2 0)) ∧
  (∀ s t k r n rest u, (s.tile t).sch.sent = .spawn k r n :: rest → slotTile s t k = some u → msgFree s t (.spawn k r n) = true →
    takes s u = true → s.written u = false → s.ownerOf u = s.ownerOf t → exec (.recordArrival t) s = .next (arriveRecord (handed s t u k) u r)) ∧
  (∀ s u r, (r.cv = true → (s.tile u).store.bad1 = [] ∧ (s.tile u).store.bad2 = []) →
    (r.cv = false ∨ counterAt s u r.ctr.toNat ≤ 0 → arriveRecord s u r = makeReady s u (some r) r.pri.toNat) ∧
    (r.cv = true → 0 < counterAt s u r.ctr.toNat → arriveRecord s u r =
      s.modTile u fun x => { x with sch := { x.sch with links := x.sch.links ++ [(r.ctr.toNat, r)] } })) ∧
  (∀ s t k off amt n rest u, (s.tile t).sch.sent = .tdec k off amt n :: rest → slotTile s t k = some u →
    msgFree s t (.tdec k off amt n) = true → takes s u = true → s.written u = false → s.ownerOf u = s.ownerOf t →
    exec (.tdecArrival t) s = .next (arriveTdec (handed s t u k) t u off amt n)) ∧
  (∀ s t u off (amt n : Nat), armedAt (s.tile u) off 4 = none → (s.tile u).store.badWrite off 4 = none → 0 < counterAt s u off →
    (amt < counterAt s u off → arriveTdec s t u off amt n =
      rawWrite s (.tile u off) (lowBytes 4 ((counterAt s u off).toNat - amt))) ∧
    (counterAt s u off = amt → (((arriveTdec s t u off amt n).tile u).sch.links = (s.tile u).sch.links.filter (·.1 ≠ off)))) ∧
  (∀ s t e r, (s.tile t).sch.runl = [e] → (s.tile t).sch.ready = [] → e.rcd = some r → r.launch = true → tileLive s t = true → r.a0.toNat % 64 = 0 →
    r.a0.toNat + 64 ≤ 0x180000 → (s.tile t).store.bad1 = [] → (s.tile t).store.bad2 = [] →
    let p := packetCfg s (s.ctxOf t) (s.ownerOf t) (readBytes (s.tile t).store.bytes r.a0.toNat 64) true
    ∃ u, exec (.launchRecord t) s = .next u ∧ u.seqQ = s.seqQ ++ [.launch p.1 p.2] ∧ (u.tile t).sch.runl = []) ∧
  (∀ s t d, (s.tile t).sch.wfe = some d → 0 < d → d ≤ s.now →
    exec (.wfeTimeout t) s = .next (s.modTile t fun x => { x with sch := { x.sch with wfe := some 0 } })) ∧
  (∀ s t k d, (s.tile t).sch.task = some k → k.drainAt = some d → d ≤ (s.tile t).sch.cycles → committing s t = false →
    (k.immediate = false → k.policy ≠ 1 → exec (.drainTimeout t) s = .next (requeue s t)) ∧
    (k.immediate = true ∨ k.policy = 1 → exec (.drainTimeout t) s = .next (s.modTile t fun x =>
      { x with sch := { x.sch with task := some { k with drainAt := none } } })))

/-! # Events of the module -/

/-- R175, R255, R268-R271, R314, R315, R355, R356, R396, R417: launch packets are accepted by their tag and counter or refused; the
starters handle messages in order; configurations start, end, time out, and wait for their verdict.
The model's own readings in it: notes/assumptions/39, 40, 44, 45, 49, 95. -/
def Obligations.ConfigurationsMove : Prop :=
  (∀ s c n key, ringSize (s.ctx c).sqlog = some n → (s.ctx c).sqhead.toNat % n ≠ (s.ctx c).sqtail.toNat % n →
    (s.part (s.ctx c).owner).bind (·.sess) = some key →
    let k := s.ctx c
    let pa := k.sqbase.toNat + 64 * (k.sqhead.toNat % n)
    ownedRange s 0 pa 64 = true → Quiescent s (.dram pa) 64 →
    let bs := readBytes s.dram.bytes pa 64
    let u := s.modCtx c fun k => { k with sqhead := BitVec.ofNat 64 ((k.sqhead.toNat % n + 1) % n) }
    let p := packetCfg u c k.owner bs false
    let good := kmac256 key (bs.take 48) 16 (ascii "SHAGAN LAUNCH") = (bs.drop 48).take 16 ∧ (bs.headD 0).toNat = c ∧
      k.lastCounter.toNat < p.1.counter.toNat
    (good → exec (.launchPacket c) s = .next { (u.modCtx c fun k => { k with lastCounter := p.1.counter }) with
      seqQ := s.seqQ ++ [.launch p.1 p.2] }) ∧
    (¬ good → exec (.launchPacket c) s = .next (authFail u c k.owner p.1))) ∧
  (∀ s m r, s.seqQ = m :: r →
    let u := handleMsg { s with seqQ := r } m
    exec .sequencedMessage s = .next (placeAll ((u.cfgs.map (·.sq)).foldl settleSave u))) ∧
  (∀ s c p, s.part c.owner = some p →
    let n := s.seqNext
    let u : State := { s with seqNext := n + 1, cfgs := s.cfgs ++ [{ c with sq := n }] }
    (p.frozen = false → c.status ≠ 8 → (handleMsg s (.launch c false)).seqNext = n + 1 ∧ (handleMsg s (.launch c false)).cfgs =
      s.cfgs ++ [{ c with sq := n, redundant := (s.ctx c.ctx).redctl.getLsbD 0 }]) ∧
    (∀ start, p.frozen = false → c.status = 8 → handleMsg s (.launch c start) = finishCfg u n 8) ∧
    (∀ start, p.frozen = true → handleMsg s (.launch c start) = finishCfg u n 7)) ∧
  (∀ s sq t, handleMsg s (.endNotice sq) = handleEnd { s with seqNext := s.seqNext + 1 } sq ∧
    (t < 9216 → (handleMsg s (.dead t)).tileState t = 3 ∧ (handleMsg s (.dead t)).seqNext = s.seqNext + 1)) ∧
  (∀ s t spare, t < 9216 →
    exec (.tileStateRequest t spare) s = .next { s with seqQ := s.seqQ ++ [.tileState t spare] }) ∧
  (∀ s sq c p, s.cfg sq = some c → c.st = .placed → s.part c.owner = some p → p.frozen = false →
    (∀ d ∈ s.cfgs, d.ctx = c.ctx → d.stream = c.stream → sq ≤ d.sq) → (s.ctx c.ctx).saved = [] → c.stream ∉ (s.ctx c.ctx).gate →
    (s.ctx c.ctx).cqWait.length < 16 → c.resume = false → c.redundant = false → exec (.configStart sq) s =
      .next (startPorts ((cfgBoundary s c.owner).modCfg sq fun c => { c with st := .running, resume := false }) c.ctx c.image c.place)) ∧
  (∀ s sq c, s.cfg sq = some c → c.st = .running → c.redundant = false → restful s c.image c.place = true → outsideRest s sq = true →
    c.dg = none → exec (.endNotice sq) s = .next (finishCfg (closeWindows s fun w => w.cfg == sq) sq 0)) ∧
  (∀ s sq c e, s.cfg sq = some c → c.stageEnd = some e → c.stage = true → e ≤ s.now → c.st = .staged ∨ c.st = .waiting →
    exec (.stageTimeout sq) s = .next (killCfg s sq 9)) ∧
  (∀ s sq c, s.cfg sq = some c →
    (c.st = .placed → c.stream ∈ (s.ctx c.ctx).gate → exec (.stagedReleaseOrCancel sq true) s =
      .next (s.modCtx c.ctx fun k => { k with gate := k.gate.filter (· != c.stream) })) ∧
    (c.st = .staged → exec (.stagedReleaseOrCancel sq false) s = .next (killCfg s sq 9))) ∧
  (∀ s sq c at_ g n w others, s.cfg sq = some c → c.snapAt = some at_ → c.dg = some (g, n, w) →
    let own := grpRank w
    let nr := grpNr w
    others.length + 1 = nr → (∀ r, r < nr → r ≠ own → ((others.map (·.rank)).filter (· == r)).length = 1) →
    (∀ d ∈ others, d.rank ≠ own) → s.now ≤ at_ + 20000 →
    exec (.digestVerdict sq others) s = .next (settleVerdict s c (judge own (⟨own, c.snap⟩ :: others)))) ∧
  (∀ own (vs : List RankDigest) v, v ∈ vs → (∀ w ∈ vs, w.regions = v.regions) → judge own vs = (vPass, false, 0, 0)) ∧
  (∀ own (v w : RankDigest), v.regions ≠ w.regions → judge own [v, w] = (vUnresolved, false, 0, 0)) ∧
  (∀ s sq c at_, s.cfg sq = some c → c.snapAt = some at_ → at_ + 20000 ≤ s.now →
    exec (.verdictTimeout sq) s = .next (settleVerdict s c (vUnresolved, false, 0, 0))) ∧
  (∀ s sq c a b, s.cfg sq = some c → c.redundant = true → c.st = .running → a.done = true → b.done = true → c.runs = [a, b] →
    (a.sig = b.sig → exec (.redundantCompare sq) s = .next (finishCfg (commitRun s c 0) sq 0)) ∧
    (a.sig ≠ b.sig → exec (.redundantCompare sq) s = .next ((s.modCfg sq fun c => { c with st := .waiting, stage := false }).modPart
      c.owner fun p => { p with order := sq :: p.order }))) ∧
  (∀ s sq c a b r, s.cfg sq = some c → c.redundant = true → c.st = .running → a.done = true → b.done = true → r.done = true →
    c.runs = [a, b, r] →
    (r.sig = a.sig → exec (.redundantCompare sq) s = .next (finishCfg (redundEvent (commitRun s c 0) c [1]) sq 0)) ∧
    (r.sig ≠ a.sig → r.sig = b.sig → exec (.redundantCompare sq) s = .next (finishCfg (redundEvent (commitRun s c 1) c [0]) sq 0)) ∧
    (r.sig ≠ a.sig → r.sig ≠ b.sig → exec (.redundantCompare sq) s = .next (finishCfg (redundEvent s c [0, 1, 2]) sq 6)))

/-- R34, R170, R197, R272-R275, R382, R385: samples and windows of the rebalancer, a move begun and a move made; shoot-downs and page
migrations; heartbeats and the declaration of a dead tile.
The model's own readings in it: notes/assumptions/34, 42, 71, 102. -/
def Obligations.PlacementMoves : Prop :=
  (∀ s f, f < 64 →
    let at_ := 64 * (s.field f).sampN
    at_ ≤ s.now → (∀ p ∈ s.parts, p.inField f = true → at_ < p.winEnd) →
    ∃ u, exec (.rebalanceSample f) s = .next u ∧ (u.field f).sampN = (s.field f).sampN + 1 ∧ ∀ t,
      (fieldOf t ≠ f → u.tile t = s.tile t) ∧
      (∀ p a, fieldOf t = f → s.partOf t = some p → p.winStart ≤ at_ → (s.tile t).sch.actor = some a →
        (u.tile t).inq = (s.tile t).inq.map fun e => (e.1, { e.2 with
          hot := e.2.hot && decide (p.rbNow.toNat / 256 % 256 * e.2.depth ≤ 256 * e.2.toks.length) }))) ∧
  (∀ s o p, s.part o = some p →
    let e := p.winStart + 1000 * Nat.max 1 (p.rbNow.toNat / 2 ^ 16 % 2 ^ 16)
    e ≤ s.now → (∀ f, f < 64 → p.inField f = true → e ≤ 64 * (s.field f).sampN) →
    ∃ u q, exec (.rebalanceWindow o) s = .next u ∧ u.part o = some q ∧ q.rbNow = p.rbctl ∧ q.winStart = e ∧
      ∀ t a, p.has t = true → (s.tile t).sch.actor = some a →
        (u.tile t).sch.actor = some { a with fresh := false, movedPrev := a.movedNow, movedNow := false }) ∧
  (∀ s o p c slot t, s.part o = some p → s.cfgs = [c] → c.owner = o → c.members = [(slot, 0, t)] → slot < c.slots →
    let aim (v : Option Nat) := s.modTile t fun x =>
      { x with sch := { x.sch with actor := x.sch.actor.map fun a => { a with moveTo := v } } }
    (∀ u, (s.tile t).sch.actor.bind (·.moveTo) = some u →
      (c.st = .running → s.unreachable t = false → takes s u = true → (s.tile u).noClock = false → moveReady s t = true →
        (∀ v, readTile s t (· == .lc) = .ok v → exec (.rebalanceMove o) s = .next (moveActor v c slot t u)) ∧
        (∀ a, readTile s t (· == .lc) = .error a → exec (.rebalanceMove o) s = .next (failStopTile s t a))) ∧
      (c.st ≠ .running ∨ s.unreachable t = true ∨ takes s u = false ∨ (s.tile u).noClock = true →
        exec (.rebalanceMove o) s = .next (aim none))) ∧
    ((s.tile t).sch.actor.bind (·.moveTo) = none → c.st = .running → p.rbNow.getLsbD 0 = true → movable s c slot t = true →
      exec (.rebalanceMove o) s = .next (aim (reserveFor s c t)))) ∧
  (∀ s c va, ∃ u, exec (.shootDown c va) s = .next u ∧ (∀ e ∈ u.fields, ∀ k ∈ e.2.tlb ++ e.2.locked, k.ctx = c →
    k.vpn ≠ va.toNat / pageBytes k.size) ∧ u.dram = s.dram ∧ u.tiles = s.tiles) ∧
  (∀ s m at_ p u, s.migr = none → walkCtx s m.ctx m.va.toNat (leafLowOf m.size) = .ok (at_, p, u) →
    p / 2 ^ 10 % 2 = 0 →
    let old := p / 2 ^ 16 % 2 ^ 36 * 65536
    pageOwned u m old = true →
    let v := dropTlb u m.ctx m.va.toNat (pageBytes m.size)
    exec (.pageMigration m) s = .next { v with migr := some ⟨m, old, at_, 1, inFlight v old (pageBytes m.size)⟩ }) ∧
  (∀ s g, s.migr = some g → pageBusy s g = false →
    (pageHeld s g = false → pageOwned s g.spec g.oldPa = true → exec (.pageMigration g.spec) s = .next (movePage s g)) ∧
    (pageHeld s g = false → pageOwned s g.spec g.oldPa = false → exec (.pageMigration g.spec) s = .next { s with migr := none }) ∧
    (pageHeld s g = true → g.step ≠ 3 → exec (.pageMigration g.spec) s = .next { s with migr := some { g with step := 3 } })) ∧
  (∀ s g, s.migr = some g → g.step = 3 → exec .migrationCancel s = .next { s with migr := none }) ∧
  (∀ s t, let x := s.tile t
    let per := 100 * Nat.max 1 ((s.field (fieldOf t)).hbctl.toNat % 2 ^ 16)
    x.lastBeat + per * (x.missed + 1) ≤ s.now → x.dead = false → s.tileState t ≠ 3 → exec (.heartbeat t) s = .next (s.modTile t fun x =>
      if x.failStop || x.noClock then { x with missed := x.missed + 1 } else { x with missed := 0, lastBeat := s.now })) ∧
  (∀ s t, (s.tile t).dead = false → s.tileState t ≠ 3 →
    Nat.max 1 ((s.field (fieldOf t)).hbctl.toNat / 2 ^ 16 % 2 ^ 8) ≤ (s.tile t).missed →
    ∃ u, exec (.deadDeclaration t) s = .next u ∧ (u.tile t).dead = true ∧ u.tileMap = s.tileMap ∧ u.seqQ = s.seqQ ++ [.dead t] ∧
      (∀ r ∈ (u.field (fieldOf t)).pacer.starts, r.tile ≠ t) ∧ ∀ w ∈ (u.field (fieldOf t)).wakes, w.1 ≠ t) ∧
  (∀ s t, t < 9216 → exec (.lostClockOrSupply t) s = .next (s.modTile t fun x => { x with noClock := true }))

/-- R279, R320, R321, R330, R331, R333, R367: samples enter a tile's record; the throttle and the governor step a rail; the stopwatch
writes its record; a field over its limit kills; a blocked access enters the escape channel.
The model's own readings in it: notes/assumptions/47, 48, 55. -/
def Obligations.PowerMoves : Prop :=
  (∀ s t m, t < 9216 → ∃ u, exec (.sensorSample t m) s = .next u ∧ (u.tile t).sens.hist = (m :: (s.tile t).sens.hist).take 65 ∧
    ((s.field (fieldOf t)).sw.ms = s.now / 1000000 →
      (u.field (fieldOf t)).sw.samples = (s.field (fieldOf t)).sw.samples + 1) ∧
    ((u.tile t).sens.tBad = false → 2000 < m.temp → (.temp, fieldOf t) ∈ u.sec.due)) ∧
  (∀ s f, f < 64 → (s.field f).throtAt + 100000 ≤ s.now →
    let y := s.field f
    let temp := (fieldTemp2 s f).getD 0
    ((3360 < temp ∨ (y.throttled = true ∧ 3200 ≤ temp)) → 560 ≤ y.compMv → ∃ u, exec (.throttleStep f) s = .next u ∧
      (u.field f).throtAt = s.now ∧ (u.field f).throttled = true ∧ (u.field f).compMv = y.compMv - 10 ∧
      (u.field f).hotSince = none ∧ (y.sw.ms = s.now / 1000000 → (u.field f).sw.throt = y.sw.throt + 1)) ∧
    ((3360 < temp ∨ (y.throttled = true ∧ 3200 ≤ temp)) → y.compMv < 560 → ∃ u, exec (.throttleStep f) s = .next u ∧
      (u.field f).throttled = true ∧ (u.field f).compMv = y.compMv) ∧
    (¬ (3360 < temp ∨ (y.throttled = true ∧ 3200 ≤ temp)) → ∃ u, exec (.throttleStep f) s = .next u ∧ u.field f = { y with
      throtAt := s.now, throttled := false, compMv := Nat.min y.setMv (y.compMv + 10), hotSince := none })) ∧
  (∀ s f occ, f < 64 → (s.field f).govAt + 10000 ≤ s.now → exec (.networkGovernor f occ) s = .next (s.modField f fun y => { y with
    govAt := s.now
    netMv := if 64 < occ then Nat.min 850 (y.netMv + 10) else if occ < 16 then Nat.max 600 (y.netMv - 10) else y.netMv })) ∧
  (∀ s f, f < 64 → (s.field f).swNext < s.now / 1000000 →
    let y := s.field f
    let r := stopwatchBytes f (nextAcc s f) y.swLost s.free
    (∀ n, s.tm.size = some n → (s.tm.head.toNat + 1) % n ≠ s.tm.tail.toNat % n → ∃ u, exec (.stopwatchRecord f) s = .next u ∧
      u.hostMem = writeBytes s.hostMem (s.tm.base.toNat + 32 * (s.tm.head.toNat % n)) r ∧
      u.tm = { s.tm with head := BitVec.ofNat 64 ((s.tm.head.toNat + 1) % n) } ∧
      (u.field f).swLast = r ∧ (u.field f).swLost = false ∧ (u.field f).swNext = y.swNext + 1) ∧
    (s.tm.size = none → ∃ u, exec (.stopwatchRecord f) s = .next u ∧ u.hostMem = s.hostMem ∧ u.tm = s.tm ∧
      (u.field f).swLast = r ∧ (u.field f).swLost = true ∧ (u.field f).swNext = y.swNext + 1)) ∧
  (∀ s f at_ c rest, (s.field f).overSince = some at_ → at_ + 1000 * Nat.max 1 ((s.field f).icrit.toNat / 2 ^ 16 % 2 ^ 16) ≤ s.now →
    2 * ((s.field f).icrit.toNat % 65536) < fieldCurrent2 s f → killOrder s f = c :: rest →
    let all := ((s.cfgs.filter (·.ctx == c.ctx)).map Cfg.tiles).flatten
    (killWaits s all = true → exec (.powerKill f) s = .next s) ∧
    (killWaits s all = false →
    let ts := all.filter fun t => (s.tile t).sch.task.isSome
    let u := ts.foldl resetTile (killCtx (ts.foldl (fun a t => trapEvent (recordTrap a t 0x12 0) t 0x12 0) s) c.ctx 5)
    exec (.powerKill f) s = .next ((u.modField f fun y => { y with overSince := some u.now }).count f fun w => { w with kill := true }))) ∧
  (∀ s f n p, (((fieldTiles f).map fun t => (s.tile t).net.map fun a => (t, a.id)).flatten)[n]? = some p →
    p ∉ (s.field f).mesh → exec (.escapeEntry f n) s = .next (s.modField f fun y => { y with mesh := y.mesh ++ [p] }))

/-- R342-R345, R352-R354, R357, R359, R360, R362, R367-R369, R397, R422, R423: bring-up, partitions, sessions, quotes, the alarm and the
links.
The model's own readings in it: notes/assumptions/11, 50, 51, 52, 53, 54, 55, 56, 57, 81, 83, 107. -/
def Obligations.SecurityMoves : Prop :=
  (∀ s b f ds, b.romOk = true → b.fw = (true, f) :: ds → b.repairOk = true → ∃ u, exec (.powerOn b) s = .next u ∧ u.sec.boot = 8 ∧
    u.sec.held = false ∧ u.sec.erased = false ∧ u.parts = [] ∧ u.sec.idOk = b.identityOk ∧
    u.sec.alarmpol.getLsbD 63 = true ∧ u.sec.hostKey = Config.drbg s.free ∧ ∀ n d, (n, d) ∈ [(0, b.romHash), (1, f),
      (2, b.repairHash), (3, shake256 u.mapBytes 32), (4, shake256 (toBytes 8 u.sec.alarmpol.toNat) 32), (5, List.replicate 32 0)] →
      u.sec.measure n = shake256 (List.replicate 32 0 ++ d) 32) ∧
  (∀ s b, b.romOk = true → (∀ e ∈ b.fw, e.1 = false) → ∃ u, exec (.powerOn b) s = .next u ∧ u.sec.held = true ∧ u.sec.boot = 1 ∧
    u.mgmt = s.mgmt ++ [.bringUp 2]) ∧
  (∀ s b, b.romOk = false → ∃ u, exec (.powerOn b) s = .next u ∧ u.sec.held = true ∧ u.sec.boot = 0 ∧ u.mgmt = s.mgmt) ∧
  (∀ s r, ∃ u, exec (.powerLoss r) s = .next u ∧ u.sec.held = true ∧ u.sec.idOk = false ∧ u.parts = [] ∧ u.dram = {} ∧
    u.sec.ideKey = [] ∧ u.sec.hostKey = [] ∧ u.sec.log = if r then s.sec.log else []) ∧
  (∀ s q, partOk s q = true → ∃ u, exec (.partitionCreate q) s = .next u ∧
    u.parts = s.parts ++ [newPart q (Config.drbg s.free) s.now s.ms] ∧
    (∀ g ∈ q.granules, tget 0 u.granOwner g = BitVec.ofNat 16 q.owner) ∧
    ∀ t, t ∈ (newPart q [] 0 0).raster → t ∉ q.referees → (u.tile t).store = {} ∧ (u.tile t).eng.caps = []) ∧
  (∀ s o p, s.part o = some p → (p.frozen = true ∨ ∀ c ∈ s.cfgs, ∀ t ∈ c.tiles, p.has t = false) →
    ∃ u, exec (.partitionDestroy o) s = .next u ∧ u.part o = none ∧ ∀ c ∈ u.cfgs, c.owner ≠ o) ∧
  (∀ (c : Sec) fails i d, c.nextIndex fails = (some i, d) → i = c.xidx ∧ i < 2 ^ 40 ∧ c.idOk = true ∧ d.xidx = i + 1 ∧
    d.flashF = if c.xidx = c.flashF then c.flashF + 4096 else c.flashF) ∧
  (∀ s q r u, s.sec.quotes = q :: r →
    let k := makeQuote s q.owner q.ctx (((s.cfg q.cfg).map fun k => k.image.cmeas).getD []) q.report
    quoteGranules q (chunks 64 162 k.1) q.dst { k.2 with sec := { k.2.sec with quotes := r } } = .ok u →
    exec .quoteComplete s = .next (pendBy u q.tile q.hd false false)) ∧
  (∀ s o ctx m p, (∀ n, (s.sec.measure n).length = 32) → (makeQuote s o ctx m p).1.length = 10368) ∧
  (∀ s o n p, s.part o = some p → n.length = 32 → s.sec.boot = 8 → ∃ u q m, exec (.sessionNonce o n) s = .next u ∧ u.part o = some q ∧
    q.hs = some (n, s.free) ∧ u.hostOut = s.hostOut ++ [.session o (Config.encapKey s.free) m] ∧ u.mgmt = s.mgmt) ∧
  (∀ s o ct n k p, s.part o = some p → p.hs = some (n, k) → ct.length = 1568 → exec (.sessionCiphertext o ct) s =
    .next (s.modPart o fun p => { p with
      sess := some (shake256 (ascii "SHAGAN SESSION" ++ Config.sharedSecret k ct ++ n ++ shake256 (Config.encapKey k) 32) 32)
      hs := none })) ∧
  (∀ s a, ∃ u, exec (.alarm .lid a) s = .next u ∧ u.mgmt = s.mgmt ++ [.alert .lid] ∧
    (2 ≤ alarmLevel s.sec.alarmpol .lid → u.sec.erased = true ∧ ∀ p ∈ u.parts, p.sess = none ∧ p.dramKey = []) ∧
    (1 ≤ alarmLevel s.sec.alarmpol .lid → ∀ p ∈ u.parts, p.frozen = true)) ∧
  (∀ s o p, s.part o = some p → p.rejFired = false → s.sec.alarmpol.toNat / 2 ^ 16 % 2 ^ 16 < p.rejects →
    exec (.alarm .rej o) s = .next (fireAlarm (s.modPart o fun p => { p with rejFired := true }) .rej o)) ∧
  (∀ s o p key tag, s.part o = some p → p.sess = some key → p.frozen = true →
    tag = kmac256 key (Config.unfreezeMessage o) Config.unfreezeLength Config.unfreezeCustom →
    ∃ u q, exec (.unfreeze o tag) s = .next u ∧ u.part o = some q ∧ q.frozen = false ∧
      ∀ t ∈ p.raster, (u.tile t).sch.halted ≠ some .frozen) ∧
  (∀ s o d, exec (.debugUnlock true o d) s = .next { s with sec := { s.sec.extend 5 d with debug := true } } ∧
    exec (.debugUnlock false o d) s = .next (fireAlarm s .debug o)) ∧
  (∀ s p, p < 4 → s.sec.boot = 8 →
    let y : LinkPort := tget {} s.links p
    let k := Config.linkSecret s.free
    let keyed (y : LinkPort) : LinkPort :=
      { y with frames := 0, framesIn := 0, keys := y.keys + 1, keyOut := k.take 32, keyIn := (k.drop 32).take 32 }
    (y.st = 0 ∨ y.st = 3 →
      let m := makeQuote { s with free := s.free + 1 } 0 0 [] (Config.linkReport s.free)
      exec (.linkTraining p .start) s = .next (m.2.modLink p fun y => { y with st := 1, fails := 0, quote := m.1 })) ∧
    (∀ q c, y.st = 1 → (y.quote.drop 0x10).take 5 ≠ List.replicate 5 0xFF →
      exec (.linkTraining p (.peer q c)) s = .next (if peerOk s.sec q c = true then
        { s with free := s.free + 1 }.modLink p fun y => { keyed y with st := 2, fails := 0 } else s)) ∧
    (∀ frame tag, y.st = 2 → tag ≠ y.tagIn p frame →
      (y.fails < 15 → Nat.max y.frames y.framesIn + 1 < 2 ^ 40 → exec (.linkTagFailure ⟨p, frame, tag⟩) s =
        .next (s.modLink p fun y => { y with fails := y.fails + 1, framesIn := y.framesIn + 1 })) ∧
      (y.fails < 15 → 2 ^ 40 ≤ Nat.max y.frames y.framesIn + 1 → exec (.linkTagFailure ⟨p, frame, tag⟩) s =
        .next ({ s with free := s.free + 1 }.modLink p fun y => { keyed y with fails := y.fails + 1, framesIn := 1 })) ∧
      (y.fails = 15 → ∃ u, exec (.linkTagFailure ⟨p, frame, tag⟩) s = .next u ∧ (tget {} u.links p : LinkPort).st = 3 ∧
        (tget {} u.links p : LinkPort).keyOut = [] ∧ (tget {} u.links p : LinkPort).keyIn = [] ∧ ∀ g ∈ spanning s, g ∈ u.coll.stopped)) ∧
    (y.st = 2 → exec (.linkRekey p) s = .next ({ s with free := s.free + 1 }.modLink p keyed)) ∧
    exec (.linkTraining 4 .start) s = .next { s with sec := { s.sec with ide := false, ideKey := [] } } ∧
    exec .ideKeyExchange s =
      .next { s with free := s.free + 1, sec := { s.sec with ide := true, ideKey := Config.ideSecret s.free } })

/-- R349-R352, R387, R393, R402, R416, R417, R420-R422, R424: the host's loads and stores, writes of registers from outside, and what
management reads.
The model's own readings in it: notes/assumptions/58, 59, 60, 82. -/
def Obligations.HostMoves : Prop :=
  (∀ s pa, s.sec.ide = true → pa < 256 * 8 * 2 ^ 30 →
    let line := pa / 64 * 64
    (granOwnerOf s pa = 0 → Quiescent s (.dram line) 64 → exec (.hostCxlMemAccess pa [] false) s =
      .next { s with hostOut := s.hostOut ++ [.cxl (readBytes s.dram.bytes line 64) false] }) ∧
    (granOwnerOf s pa ≠ 0 → ∃ u, exec (.hostCxlMemAccess pa [] false) s = .next u ∧
      u.hostOut = s.hostOut ++ [.cxl (List.replicate 64 0xFF) true] ∧ u.mgmt = s.mgmt ∧ u.dram = s.dram) ∧
    (∀ d, d ≠ [] → pa + d.length ≤ line + 64 → granOwnerOf s pa = 0 → Quiescent s (.dram pa) d.length →
      exec (.hostCxlMemAccess pa d true) s = .next (rawWrite s (.dram pa) d)) ∧
    (∀ d, d ≠ [] → pa + d.length ≤ line + 64 → granOwnerOf s pa ≠ 0 → ∃ u, exec (.hostCxlMemAccess pa d true) s = .next u ∧
      u.dram = s.dram)) ∧
  (∀ s c n v, ringSize (s.ctx c).sqlog = some n → s.sec.ide = true → v.toNat < n →
    exec (.sqtailDoorbell c v) s = .next (s.modCtx c fun k => { k with sqtail := v.setWidth 64 })) ∧
  (∀ s n i v, csrLevel n = some .user → i < 9216 → exec (.csrWrite (.csr n i) v) s = .next (s.modTile i fun x => x.csrWrite n .write v)) ∧
  (∀ s n i v, csrLevel n = some .ref → s.part i ≠ none → exec (.csrWrite (.csr n i) v) s = .next (refWrite s i n .write v)) ∧
  (∀ s n i v, csrLevel n = some .refRo → n ≠ 0x182 → exec (.csrWrite (.csr n i) v) s = .next (fieldWrite s i n v)) ∧
  (∀ s i v,
    let u := s.modField i fun y => { y with icrit := v &&& 0xFFFFFFFF }
    let above := decide (2 * (v.toNat % 65536) < fieldCurrent2 u i)
    exec (.csrWrite (.csr 0x182 i) v) s = .next (u.modField i fun y =>
      { y with overSince := if above then some (y.overSince.getD s.now) else none })) ∧
  (∀ s n v, n < 64 → ∃ u, exec (.csrWrite (.rail n) v) s = .next u ∧
    (u.field n).setMv = Nat.max 550 (Nat.min 900 (v.toNat % 65536)) ∧ ∀ m, m ≠ n → u.field m = s.field m) ∧
  (∀ (r : VRec), r.bytes.length = 32) ∧
  (∀ s c v, c < 256 → exec (.savebaseWrite c v) s = .next (writeSavebase s c v) ∧
    exec (.redctlWrite c v) s = .next (s.modCtx c fun k => { k with redctl := v &&& 0xFFFFFFFFFFFFFF01 })) ∧
  (∀ s c v, v.getLsbD 1 = false → ((writeSavebase s c v).ctx c).savebase = v &&& 0xFFFFFFFFFFFF0001) ∧
  (∀ s c v, c < 256 → s.sec.ide = true → (s.ctx c).cqWait = [] → exec (.cqheadWrite c v) s =
    .next (s.modCtx c fun k => { k with cqhead := v.setWidth 64, cqWait := [] })) ∧
  (∀ s v, s.sec.ide = true → exec (.tmtailWrite v) s = .next { s with tm := { s.tm with tail := v } }) ∧
  (∀ s n v, n < 16 → ∃ u, exec (.mgmtAssignGroup n v) s = .next u ∧
    u.coll.assigned = tset 0 s.coll.assigned n (v &&& 0x80FFF7FFFFFFFFFF) ∧ u.coll.grp = s.coll.grp) ∧
  (∀ s, exec .mgmtReadSecurityLog s = .next { s with mgmt := s.mgmt ++ [.seclog (s.sec.log.map VRec.bytes)] } ∧
    exec .mgmtReadLinkst s = .next { s with mgmt := s.mgmt ++ [.linkst (s.linkst.setWidth 8) s.sec.boot] } ∧
    exec .mgmtReadStopwatch s = .next { s with mgmt := s.mgmt ++
      (((List.range 64).map fun f => (s.field f).swLast).filter fun r => !r.isEmpty).map .stopwatch })
end

