-- ==== Sys2Proof/Laws/Table.lean ====
section
/-! SUPPORT. Reading after writing a table, and the canonical form that every table operation keeps. -/

namespace Sys2Proof.Machine

variable {α : Type}

theorem tget_tput_same (d : α) (t : List (Nat × α)) (k : Nat) (x : α) : tget d (tput t k x) k = x := by
  induction t with
  | nil => simp [tput, tget]
  | cons e r ih =>
    obtain ⟨j, y⟩ := e
    simp only [tput]
    split
    · simp [tget]
    · split
      · simp [tget]
      · simp [tget, *]

theorem tput_tput_same (t : List (Nat × α)) (k : Nat) (x y : α) : tput (tput t k x) k y = tput t k y := by
  induction t with
  | nil => simp [tput]
  | cons e r ih =>
    obtain ⟨j, z⟩ := e
    by_cases h : k = j
    · simp [tput, h]
    · by_cases h2 : k < j
      · simp [tput, h, h2]
      · simp [tput, h, h2, ih]

/-- Keys rise from a lower bound that may be lowered. -/
theorem trises_mono {lo lo' : Nat} (h : lo' ≤ lo) (t : List (Nat × α)) (w : trises lo t = true) : trises lo' t = true := by
  cases t with
  | nil => simp [trises]
  | cons e r =>
    obtain ⟨j, y⟩ := e
    simp [trises] at w ⊢
    exact ⟨by omega, w.2⟩

theorem tget_lt (d : α) (t : List (Nat × α)) {lo k : Nat} (w : trises lo t = true) (h : k < lo) : tget d t k = d := by
  cases t with
  | nil => rfl
  | cons e r =>
    obtain ⟨j, y⟩ := e
    simp [trises] at w
    simp [tget, show k ≠ j by omega, show k < j by omega]

theorem tget_tput_ne (d : α) (t : List (Nat × α)) {lo k j : Nat} (w : trises lo t = true) (x : α) (h : j ≠ k) :
    tget d (tput t k x) j = tget d t j := by
  induction t generalizing lo with
  | nil => simp [tput, tget, h]
  | cons e r ih =>
    obtain ⟨i, y⟩ := e
    simp [trises] at w
    simp only [tput]
    split
    · subst_vars; simp [tget, h]
    · split
      · by_cases hj : j < k
        · simp [tget, h, hj, show j ≠ i by omega, show j < i by omega]
        · simp [tget, h, hj]
      · simp only [tget]; rw [ih w.2]

theorem trises_tput {lo : Nat} (t : List (Nat × α)) (k : Nat) (x : α) (w : trises lo t = true) (h : lo ≤ k) :
    trises lo (tput t k x) = true := by
  induction t generalizing lo with
  | nil => simp [tput, trises, h]
  | cons e r ih =>
    obtain ⟨i, y⟩ := e
    simp [trises] at w
    simp only [tput]
    split
    · subst_vars; simp [trises, h, w.2]
    · split
      · simp [trises, h, w.2]; omega
      · simp [trises, w.1]; exact ih w.2 (by omega)

theorem trises_tdel {lo : Nat} (t : List (Nat × α)) (k : Nat) (w : trises lo t = true) : trises lo (tdel t k) = true := by
  induction t generalizing lo with
  | nil => simp [tdel, trises]
  | cons e r ih =>
    obtain ⟨i, y⟩ := e
    simp [trises] at w
    simp only [tdel]
    split
    · exact trises_mono (by omega) r w.2
    · split
      · simp [trises, w]
      · simp [trises, w.1]; exact ih w.2

theorem tget_tdel_same (d : α) (t : List (Nat × α)) {lo k : Nat} (w : trises lo t = true) : tget d (tdel t k) k = d := by
  induction t generalizing lo with
  | nil => rfl
  | cons e r ih =>
    obtain ⟨i, y⟩ := e
    simp [trises] at w
    simp only [tdel]
    split
    · subst_vars; exact tget_lt d r w.2 (by omega)
    · split
      · simp [tget, *]
      · simp [tget, *]; exact ih w.2

theorem tget_tdel_ne (d : α) (t : List (Nat × α)) {lo k j : Nat} (w : trises lo t = true) (h : j ≠ k) :
    tget d (tdel t k) j = tget d t j := by
  induction t generalizing lo with
  | nil => rfl
  | cons e r ih =>
    obtain ⟨i, y⟩ := e
    simp [trises] at w
    simp only [tdel]
    split
    · rename_i hk
      subst hk
      by_cases hj : j < k
      · simp [tget, h, hj]; exact tget_lt d r w.2 (by omega)
      · simp [tget, h, hj]
    · split
      · rfl
      · simp only [tget]; rw [ih w.2]

theorem mem_tdel {t : List (Nat × α)} {k : Nat} {e : Nat × α} (h : e ∈ tdel t k) : e ∈ t := by
  induction t with
  | nil => simp [tdel] at h
  | cons b r ih =>
    obtain ⟨i, y⟩ := b
    simp only [tdel] at h
    split at h
    · exact List.mem_cons_of_mem _ h
    · split at h
      · exact h
      · rcases List.mem_cons.1 h with h | h
        · simp [h]
        · exact List.mem_cons_of_mem _ (ih h)

theorem mem_tput {t : List (Nat × α)} {k : Nat} {x : α} {e : Nat × α} (h : e ∈ tput t k x) : e = (k, x) ∨ e ∈ t := by
  induction t with
  | nil => simpa [tput] using h
  | cons b r ih =>
    obtain ⟨i, y⟩ := b
    simp only [tput] at h
    split at h
    · rcases List.mem_cons.1 h with h | h <;> simp [h]
    · split at h
      · simpa using h
      · rcases List.mem_cons.1 h with h | h
        · simp [h]
        · rcases ih h with h | h <;> simp [h]

/-- Leaving entries out keeps the canonical form. -/
theorem trises_filter {lo : Nat} (p : Nat × α → Bool) (t : List (Nat × α)) (w : trises lo t = true) :
    trises lo (t.filter p) = true := by
  induction t generalizing lo with
  | nil => simp [trises]
  | cons e r ih =>
    obtain ⟨i, y⟩ := e
    simp [trises] at w
    simp only [List.filter]
    split
    · simp [trises, w.1]; exact ih w.2
    · exact trises_mono (by omega) _ (ih w.2)

section wf
variable [DecidableEq α]

/-- The canonical form, unfolded. -/
theorem twf_iff (d : α) (t : List (Nat × α)) : twf d t = true ↔ trises 0 t = true ∧ ∀ e ∈ t, e.2 ≠ d := by
  simp [twf]

theorem twf_nil (d : α) : twf d [] = true := by simp [twf, trises]

/-- Writing keeps the canonical form. -/
theorem twf_tset (d : α) (t : List (Nat × α)) (k : Nat) (x : α) (w : twf d t = true) : twf d (tset d t k x) = true := by
  rw [twf_iff] at w ⊢
  unfold tset
  split
  · exact ⟨trises_tdel t k w.1, fun e h => w.2 e (mem_tdel h)⟩
  · rename_i hx
    refine ⟨trises_tput t k x w.1 (Nat.zero_le _), fun e h => ?_⟩
    rcases mem_tput h with rfl | h
    · exact hx
    · exact w.2 e h

theorem tget_tset_same (d : α) (t : List (Nat × α)) (k : Nat) (x : α) (w : twf d t = true) : tget d (tset d t k x) k = x := by
  rw [twf_iff] at w
  unfold tset
  split
  · rename_i hx; subst hx; exact tget_tdel_same _ t w.1
  · exact tget_tput_same d t k x

theorem tget_tset_ne (d : α) (t : List (Nat × α)) {k j : Nat} (x : α) (w : twf d t = true) (h : j ≠ k) :
    tget d (tset d t k x) j = tget d t j := by
  rw [twf_iff] at w
  unfold tset
  split
  · exact tget_tdel_ne d t w.1 h
  · exact tget_tput_ne d t w.1 x h

theorem twf_filter (d : α) (p : Nat × α → Bool) (t : List (Nat × α)) (w : twf d t = true) : twf d (t.filter p) = true := by
  rw [twf_iff] at w ⊢
  exact ⟨trises_filter p t w.1, fun e h => w.2 e (List.mem_of_mem_filter h)⟩

end wf

/-! ## Stores -/

theorem wf_writeBytes (m : Memory) (a : Nat) (bs : List Byte) (w : m.wf = true) : (writeBytes m a bs).wf = true := by
  induction bs generalizing m a with
  | nil => simpa [writeBytes] using w
  | cons b r ih => exact ih _ _ (twf_tset 0 m a b w)

/-- A byte outside the ones written reads as before. -/
theorem read_writeBytes_outside (m : Memory) (a k : Nat) (bs : List Byte) (w : m.wf = true) (h : k < a ∨ a + bs.length ≤ k) :
    tget 0 (writeBytes m a bs) k = tget 0 m k := by
  induction bs generalizing m a with
  | nil => rfl
  | cons b r ih =>
    simp only [writeBytes, List.length_cons] at h ⊢
    rw [ih _ _ (twf_tset 0 m a b w) (by omega), tget_tset_ne 0 m b w (by omega)]

/-- A byte written reads as the byte written. -/
theorem read_writeBytes_inside (m : Memory) (a i : Nat) (bs : List Byte) (w : m.wf = true) (h : i < bs.length) :
    tget 0 (writeBytes m a bs) (a + i) = bs[i] := by
  induction bs generalizing m a i with
  | nil => simp at h
  | cons b r ih =>
    simp only [writeBytes]
    cases i with
    | zero =>
      rw [read_writeBytes_outside _ _ _ _ (twf_tset 0 m a b w) (by omega), Nat.add_zero, tget_tset_same 0 m a b w]
      rfl
    | succ n =>
      have h' : n < r.length := by simpa using h
      have := ih (tset 0 m a b) (a + 1) n (twf_tset 0 m a b w) h'
      simpa [Nat.add_assoc, Nat.add_comm 1 n] using this

end Sys2Proof.Machine
end

