-- ==== Sys2Proof/Laws/State.lean ====
section
/-! SUPPORT. One lemma for each field and each update of State, Tile and Regs, true by rfl, so that no later proof unfolds a
record update; and reading back what an update put. -/

namespace Sys2Proof.Machine

/-! ### State.setTile -/

@[simp] theorem State.setTile_now (s : State) (t : Nat) (x : Tile) : (s.setTile t x).now = s.now := rfl
@[simp] theorem State.setTile_tick (s : State) (t : Nat) (x : Tile) : (s.setTile t x).tick = s.tick := rfl
@[simp] theorem State.setTile_free (s : State) (t : Nat) (x : Tile) : (s.setTile t x).free = s.free := rfl
@[simp] theorem State.setTile_agenda (s : State) (t : Nat) (x : Tile) : (s.setTile t x).agenda = s.agenda := rfl
@[simp] theorem State.setTile_cur (s : State) (t : Nat) (x : Tile) : (s.setTile t x).cur = s.cur := rfl
@[simp] theorem State.setTile_tileMap (s : State) (t : Nat) (x : Tile) : (s.setTile t x).tileMap = s.tileMap := rfl
@[simp] theorem State.setTile_taken (s : State) (t : Nat) (x : Tile) : (s.setTile t x).taken = s.taken := rfl
@[simp] theorem State.setTile_dram (s : State) (t : Nat) (x : Tile) : (s.setTile t x).dram = s.dram := rfl
@[simp] theorem State.setTile_granOwner (s : State) (t : Nat) (x : Tile) : (s.setTile t x).granOwner = s.granOwner := rfl
@[simp] theorem State.setTile_hostMem (s : State) (t : Nat) (x : Tile) : (s.setTile t x).hostMem = s.hostMem := rfl
@[simp] theorem State.setTile_parts (s : State) (t : Nat) (x : Tile) : (s.setTile t x).parts = s.parts := rfl
@[simp] theorem State.setTile_ctxs (s : State) (t : Nat) (x : Tile) : (s.setTile t x).ctxs = s.ctxs := rfl
@[simp] theorem State.setTile_fields (s : State) (t : Nat) (x : Tile) : (s.setTile t x).fields = s.fields := rfl
@[simp] theorem State.setTile_slices (s : State) (t : Nat) (x : Tile) : (s.setTile t x).slices = s.slices := rfl
@[simp] theorem State.setTile_cfgs (s : State) (t : Nat) (x : Tile) : (s.setTile t x).cfgs = s.cfgs := rfl
@[simp] theorem State.setTile_images (s : State) (t : Nat) (x : Tile) : (s.setTile t x).images = s.images := rfl
@[simp] theorem State.setTile_seqNext (s : State) (t : Nat) (x : Tile) : (s.setTile t x).seqNext = s.seqNext := rfl
@[simp] theorem State.setTile_placeNext (s : State) (t : Nat) (x : Tile) : (s.setTile t x).placeNext = s.placeNext := rfl
@[simp] theorem State.setTile_seqQ (s : State) (t : Nat) (x : Tile) : (s.setTile t x).seqQ = s.seqQ := rfl
@[simp] theorem State.setTile_tileReq (s : State) (t : Nat) (x : Tile) : (s.setTile t x).tileReq = s.tileReq := rfl
@[simp] theorem State.setTile_coll (s : State) (t : Nat) (x : Tile) : (s.setTile t x).coll = s.coll := rfl
@[simp] theorem State.setTile_migr (s : State) (t : Nat) (x : Tile) : (s.setTile t x).migr = s.migr := rfl
@[simp] theorem State.setTile_owed (s : State) (t : Nat) (x : Tile) : (s.setTile t x).owed = s.owed := rfl
@[simp] theorem State.setTile_sec (s : State) (t : Nat) (x : Tile) : (s.setTile t x).sec = s.sec := rfl
@[simp] theorem State.setTile_edgeMv (s : State) (t : Nat) (x : Tile) : (s.setTile t x).edgeMv = s.edgeMv := rfl
@[simp] theorem State.setTile_secMv (s : State) (t : Nat) (x : Tile) : (s.setTile t x).secMv = s.secMv := rfl
@[simp] theorem State.setTile_links (s : State) (t : Nat) (x : Tile) : (s.setTile t x).links = s.links := rfl
@[simp] theorem State.setTile_tm (s : State) (t : Nat) (x : Tile) : (s.setTile t x).tm = s.tm := rfl
@[simp] theorem State.setTile_mgmt (s : State) (t : Nat) (x : Tile) : (s.setTile t x).mgmt = s.mgmt := rfl
@[simp] theorem State.setTile_hostOut (s : State) (t : Nat) (x : Tile) : (s.setTile t x).hostOut = s.hostOut := rfl

/-! ### State.modTile -/

@[simp] theorem State.modTile_now (s : State) (t : Nat) (f : Tile → Tile) : (s.modTile t f).now = s.now := rfl
@[simp] theorem State.modTile_tick (s : State) (t : Nat) (f : Tile → Tile) : (s.modTile t f).tick = s.tick := rfl
@[simp] theorem State.modTile_free (s : State) (t : Nat) (f : Tile → Tile) : (s.modTile t f).free = s.free := rfl
@[simp] theorem State.modTile_agenda (s : State) (t : Nat) (f : Tile → Tile) : (s.modTile t f).agenda = s.agenda := rfl
@[simp] theorem State.modTile_cur (s : State) (t : Nat) (f : Tile → Tile) : (s.modTile t f).cur = s.cur := rfl
@[simp] theorem State.modTile_tileMap (s : State) (t : Nat) (f : Tile → Tile) : (s.modTile t f).tileMap = s.tileMap := rfl
@[simp] theorem State.modTile_taken (s : State) (t : Nat) (f : Tile → Tile) : (s.modTile t f).taken = s.taken := rfl
@[simp] theorem State.modTile_dram (s : State) (t : Nat) (f : Tile → Tile) : (s.modTile t f).dram = s.dram := rfl
@[simp] theorem State.modTile_granOwner (s : State) (t : Nat) (f : Tile → Tile) : (s.modTile t f).granOwner = s.granOwner := rfl
@[simp] theorem State.modTile_hostMem (s : State) (t : Nat) (f : Tile → Tile) : (s.modTile t f).hostMem = s.hostMem := rfl
@[simp] theorem State.modTile_parts (s : State) (t : Nat) (f : Tile → Tile) : (s.modTile t f).parts = s.parts := rfl
@[simp] theorem State.modTile_ctxs (s : State) (t : Nat) (f : Tile → Tile) : (s.modTile t f).ctxs = s.ctxs := rfl
@[simp] theorem State.modTile_fields (s : State) (t : Nat) (f : Tile → Tile) : (s.modTile t f).fields = s.fields := rfl
@[simp] theorem State.modTile_slices (s : State) (t : Nat) (f : Tile → Tile) : (s.modTile t f).slices = s.slices := rfl
@[simp] theorem State.modTile_cfgs (s : State) (t : Nat) (f : Tile → Tile) : (s.modTile t f).cfgs = s.cfgs := rfl
@[simp] theorem State.modTile_images (s : State) (t : Nat) (f : Tile → Tile) : (s.modTile t f).images = s.images := rfl
@[simp] theorem State.modTile_seqNext (s : State) (t : Nat) (f : Tile → Tile) : (s.modTile t f).seqNext = s.seqNext := rfl
@[simp] theorem State.modTile_placeNext (s : State) (t : Nat) (f : Tile → Tile) : (s.modTile t f).placeNext = s.placeNext := rfl
@[simp] theorem State.modTile_seqQ (s : State) (t : Nat) (f : Tile → Tile) : (s.modTile t f).seqQ = s.seqQ := rfl
@[simp] theorem State.modTile_tileReq (s : State) (t : Nat) (f : Tile → Tile) : (s.modTile t f).tileReq = s.tileReq := rfl
@[simp] theorem State.modTile_coll (s : State) (t : Nat) (f : Tile → Tile) : (s.modTile t f).coll = s.coll := rfl
@[simp] theorem State.modTile_migr (s : State) (t : Nat) (f : Tile → Tile) : (s.modTile t f).migr = s.migr := rfl
@[simp] theorem State.modTile_owed (s : State) (t : Nat) (f : Tile → Tile) : (s.modTile t f).owed = s.owed := rfl
@[simp] theorem State.modTile_sec (s : State) (t : Nat) (f : Tile → Tile) : (s.modTile t f).sec = s.sec := rfl
@[simp] theorem State.modTile_edgeMv (s : State) (t : Nat) (f : Tile → Tile) : (s.modTile t f).edgeMv = s.edgeMv := rfl
@[simp] theorem State.modTile_secMv (s : State) (t : Nat) (f : Tile → Tile) : (s.modTile t f).secMv = s.secMv := rfl
@[simp] theorem State.modTile_links (s : State) (t : Nat) (f : Tile → Tile) : (s.modTile t f).links = s.links := rfl
@[simp] theorem State.modTile_tm (s : State) (t : Nat) (f : Tile → Tile) : (s.modTile t f).tm = s.tm := rfl
@[simp] theorem State.modTile_mgmt (s : State) (t : Nat) (f : Tile → Tile) : (s.modTile t f).mgmt = s.mgmt := rfl
@[simp] theorem State.modTile_hostOut (s : State) (t : Nat) (f : Tile → Tile) : (s.modTile t f).hostOut = s.hostOut := rfl

/-! ### State.modCtx -/

@[simp] theorem State.modCtx_now (s : State) (c : Nat) (f : Ctx → Ctx) : (s.modCtx c f).now = s.now := rfl
@[simp] theorem State.modCtx_tick (s : State) (c : Nat) (f : Ctx → Ctx) : (s.modCtx c f).tick = s.tick := rfl
@[simp] theorem State.modCtx_free (s : State) (c : Nat) (f : Ctx → Ctx) : (s.modCtx c f).free = s.free := rfl
@[simp] theorem State.modCtx_agenda (s : State) (c : Nat) (f : Ctx → Ctx) : (s.modCtx c f).agenda = s.agenda := rfl
@[simp] theorem State.modCtx_cur (s : State) (c : Nat) (f : Ctx → Ctx) : (s.modCtx c f).cur = s.cur := rfl
@[simp] theorem State.modCtx_tiles (s : State) (c : Nat) (f : Ctx → Ctx) : (s.modCtx c f).tiles = s.tiles := rfl
@[simp] theorem State.modCtx_tileMap (s : State) (c : Nat) (f : Ctx → Ctx) : (s.modCtx c f).tileMap = s.tileMap := rfl
@[simp] theorem State.modCtx_taken (s : State) (c : Nat) (f : Ctx → Ctx) : (s.modCtx c f).taken = s.taken := rfl
@[simp] theorem State.modCtx_dram (s : State) (c : Nat) (f : Ctx → Ctx) : (s.modCtx c f).dram = s.dram := rfl
@[simp] theorem State.modCtx_granOwner (s : State) (c : Nat) (f : Ctx → Ctx) : (s.modCtx c f).granOwner = s.granOwner := rfl
@[simp] theorem State.modCtx_hostMem (s : State) (c : Nat) (f : Ctx → Ctx) : (s.modCtx c f).hostMem = s.hostMem := rfl
@[simp] theorem State.modCtx_parts (s : State) (c : Nat) (f : Ctx → Ctx) : (s.modCtx c f).parts = s.parts := rfl
@[simp] theorem State.modCtx_fields (s : State) (c : Nat) (f : Ctx → Ctx) : (s.modCtx c f).fields = s.fields := rfl
@[simp] theorem State.modCtx_slices (s : State) (c : Nat) (f : Ctx → Ctx) : (s.modCtx c f).slices = s.slices := rfl
@[simp] theorem State.modCtx_cfgs (s : State) (c : Nat) (f : Ctx → Ctx) : (s.modCtx c f).cfgs = s.cfgs := rfl
@[simp] theorem State.modCtx_images (s : State) (c : Nat) (f : Ctx → Ctx) : (s.modCtx c f).images = s.images := rfl
@[simp] theorem State.modCtx_seqNext (s : State) (c : Nat) (f : Ctx → Ctx) : (s.modCtx c f).seqNext = s.seqNext := rfl
@[simp] theorem State.modCtx_placeNext (s : State) (c : Nat) (f : Ctx → Ctx) : (s.modCtx c f).placeNext = s.placeNext := rfl
@[simp] theorem State.modCtx_seqQ (s : State) (c : Nat) (f : Ctx → Ctx) : (s.modCtx c f).seqQ = s.seqQ := rfl
@[simp] theorem State.modCtx_tileReq (s : State) (c : Nat) (f : Ctx → Ctx) : (s.modCtx c f).tileReq = s.tileReq := rfl
@[simp] theorem State.modCtx_coll (s : State) (c : Nat) (f : Ctx → Ctx) : (s.modCtx c f).coll = s.coll := rfl
@[simp] theorem State.modCtx_migr (s : State) (c : Nat) (f : Ctx → Ctx) : (s.modCtx c f).migr = s.migr := rfl
@[simp] theorem State.modCtx_owed (s : State) (c : Nat) (f : Ctx → Ctx) : (s.modCtx c f).owed = s.owed := rfl
@[simp] theorem State.modCtx_sec (s : State) (c : Nat) (f : Ctx → Ctx) : (s.modCtx c f).sec = s.sec := rfl
@[simp] theorem State.modCtx_edgeMv (s : State) (c : Nat) (f : Ctx → Ctx) : (s.modCtx c f).edgeMv = s.edgeMv := rfl
@[simp] theorem State.modCtx_secMv (s : State) (c : Nat) (f : Ctx → Ctx) : (s.modCtx c f).secMv = s.secMv := rfl
@[simp] theorem State.modCtx_links (s : State) (c : Nat) (f : Ctx → Ctx) : (s.modCtx c f).links = s.links := rfl
@[simp] theorem State.modCtx_tm (s : State) (c : Nat) (f : Ctx → Ctx) : (s.modCtx c f).tm = s.tm := rfl
@[simp] theorem State.modCtx_mgmt (s : State) (c : Nat) (f : Ctx → Ctx) : (s.modCtx c f).mgmt = s.mgmt := rfl
@[simp] theorem State.modCtx_hostOut (s : State) (c : Nat) (f : Ctx → Ctx) : (s.modCtx c f).hostOut = s.hostOut := rfl

/-! ### State.modField -/

@[simp] theorem State.modField_now (s : State) (n : Nat) (f : FieldSt → FieldSt) : (s.modField n f).now = s.now := rfl
@[simp] theorem State.modField_tick (s : State) (n : Nat) (f : FieldSt → FieldSt) : (s.modField n f).tick = s.tick := rfl
@[simp] theorem State.modField_free (s : State) (n : Nat) (f : FieldSt → FieldSt) : (s.modField n f).free = s.free := rfl
@[simp] theorem State.modField_agenda (s : State) (n : Nat) (f : FieldSt → FieldSt) : (s.modField n f).agenda = s.agenda := rfl
@[simp] theorem State.modField_cur (s : State) (n : Nat) (f : FieldSt → FieldSt) : (s.modField n f).cur = s.cur := rfl
@[simp] theorem State.modField_tiles (s : State) (n : Nat) (f : FieldSt → FieldSt) : (s.modField n f).tiles = s.tiles := rfl
@[simp] theorem State.modField_tileMap (s : State) (n : Nat) (f : FieldSt → FieldSt) : (s.modField n f).tileMap = s.tileMap := rfl
@[simp] theorem State.modField_taken (s : State) (n : Nat) (f : FieldSt → FieldSt) : (s.modField n f).taken = s.taken := rfl
@[simp] theorem State.modField_dram (s : State) (n : Nat) (f : FieldSt → FieldSt) : (s.modField n f).dram = s.dram := rfl
@[simp] theorem State.modField_granOwner (s : State) (n : Nat) (f : FieldSt → FieldSt) : (s.modField n f).granOwner = s.granOwner := rfl
@[simp] theorem State.modField_hostMem (s : State) (n : Nat) (f : FieldSt → FieldSt) : (s.modField n f).hostMem = s.hostMem := rfl
@[simp] theorem State.modField_parts (s : State) (n : Nat) (f : FieldSt → FieldSt) : (s.modField n f).parts = s.parts := rfl
@[simp] theorem State.modField_ctxs (s : State) (n : Nat) (f : FieldSt → FieldSt) : (s.modField n f).ctxs = s.ctxs := rfl
@[simp] theorem State.modField_slices (s : State) (n : Nat) (f : FieldSt → FieldSt) : (s.modField n f).slices = s.slices := rfl
@[simp] theorem State.modField_cfgs (s : State) (n : Nat) (f : FieldSt → FieldSt) : (s.modField n f).cfgs = s.cfgs := rfl
@[simp] theorem State.modField_images (s : State) (n : Nat) (f : FieldSt → FieldSt) : (s.modField n f).images = s.images := rfl
@[simp] theorem State.modField_seqNext (s : State) (n : Nat) (f : FieldSt → FieldSt) : (s.modField n f).seqNext = s.seqNext := rfl
@[simp] theorem State.modField_placeNext (s : State) (n : Nat) (f : FieldSt → FieldSt) : (s.modField n f).placeNext = s.placeNext := rfl
@[simp] theorem State.modField_seqQ (s : State) (n : Nat) (f : FieldSt → FieldSt) : (s.modField n f).seqQ = s.seqQ := rfl
@[simp] theorem State.modField_tileReq (s : State) (n : Nat) (f : FieldSt → FieldSt) : (s.modField n f).tileReq = s.tileReq := rfl
@[simp] theorem State.modField_coll (s : State) (n : Nat) (f : FieldSt → FieldSt) : (s.modField n f).coll = s.coll := rfl
@[simp] theorem State.modField_migr (s : State) (n : Nat) (f : FieldSt → FieldSt) : (s.modField n f).migr = s.migr := rfl
@[simp] theorem State.modField_owed (s : State) (n : Nat) (f : FieldSt → FieldSt) : (s.modField n f).owed = s.owed := rfl
@[simp] theorem State.modField_sec (s : State) (n : Nat) (f : FieldSt → FieldSt) : (s.modField n f).sec = s.sec := rfl
@[simp] theorem State.modField_edgeMv (s : State) (n : Nat) (f : FieldSt → FieldSt) : (s.modField n f).edgeMv = s.edgeMv := rfl
@[simp] theorem State.modField_secMv (s : State) (n : Nat) (f : FieldSt → FieldSt) : (s.modField n f).secMv = s.secMv := rfl
@[simp] theorem State.modField_links (s : State) (n : Nat) (f : FieldSt → FieldSt) : (s.modField n f).links = s.links := rfl
@[simp] theorem State.modField_tm (s : State) (n : Nat) (f : FieldSt → FieldSt) : (s.modField n f).tm = s.tm := rfl
@[simp] theorem State.modField_mgmt (s : State) (n : Nat) (f : FieldSt → FieldSt) : (s.modField n f).mgmt = s.mgmt := rfl
@[simp] theorem State.modField_hostOut (s : State) (n : Nat) (f : FieldSt → FieldSt) : (s.modField n f).hostOut = s.hostOut := rfl

/-! ### State.modSlice -/

@[simp] theorem State.modSlice_now (s : State) (n : Nat) (f : Slice → Slice) : (s.modSlice n f).now = s.now := rfl
@[simp] theorem State.modSlice_tick (s : State) (n : Nat) (f : Slice → Slice) : (s.modSlice n f).tick = s.tick := rfl
@[simp] theorem State.modSlice_free (s : State) (n : Nat) (f : Slice → Slice) : (s.modSlice n f).free = s.free := rfl
@[simp] theorem State.modSlice_agenda (s : State) (n : Nat) (f : Slice → Slice) : (s.modSlice n f).agenda = s.agenda := rfl
@[simp] theorem State.modSlice_cur (s : State) (n : Nat) (f : Slice → Slice) : (s.modSlice n f).cur = s.cur := rfl
@[simp] theorem State.modSlice_tiles (s : State) (n : Nat) (f : Slice → Slice) : (s.modSlice n f).tiles = s.tiles := rfl
@[simp] theorem State.modSlice_tileMap (s : State) (n : Nat) (f : Slice → Slice) : (s.modSlice n f).tileMap = s.tileMap := rfl
@[simp] theorem State.modSlice_taken (s : State) (n : Nat) (f : Slice → Slice) : (s.modSlice n f).taken = s.taken := rfl
@[simp] theorem State.modSlice_dram (s : State) (n : Nat) (f : Slice → Slice) : (s.modSlice n f).dram = s.dram := rfl
@[simp] theorem State.modSlice_granOwner (s : State) (n : Nat) (f : Slice → Slice) : (s.modSlice n f).granOwner = s.granOwner := rfl
@[simp] theorem State.modSlice_hostMem (s : State) (n : Nat) (f : Slice → Slice) : (s.modSlice n f).hostMem = s.hostMem := rfl
@[simp] theorem State.modSlice_parts (s : State) (n : Nat) (f : Slice → Slice) : (s.modSlice n f).parts = s.parts := rfl
@[simp] theorem State.modSlice_ctxs (s : State) (n : Nat) (f : Slice → Slice) : (s.modSlice n f).ctxs = s.ctxs := rfl
@[simp] theorem State.modSlice_fields (s : State) (n : Nat) (f : Slice → Slice) : (s.modSlice n f).fields = s.fields := rfl
@[simp] theorem State.modSlice_cfgs (s : State) (n : Nat) (f : Slice → Slice) : (s.modSlice n f).cfgs = s.cfgs := rfl
@[simp] theorem State.modSlice_images (s : State) (n : Nat) (f : Slice → Slice) : (s.modSlice n f).images = s.images := rfl
@[simp] theorem State.modSlice_seqNext (s : State) (n : Nat) (f : Slice → Slice) : (s.modSlice n f).seqNext = s.seqNext := rfl
@[simp] theorem State.modSlice_placeNext (s : State) (n : Nat) (f : Slice → Slice) : (s.modSlice n f).placeNext = s.placeNext := rfl
@[simp] theorem State.modSlice_seqQ (s : State) (n : Nat) (f : Slice → Slice) : (s.modSlice n f).seqQ = s.seqQ := rfl
@[simp] theorem State.modSlice_tileReq (s : State) (n : Nat) (f : Slice → Slice) : (s.modSlice n f).tileReq = s.tileReq := rfl
@[simp] theorem State.modSlice_coll (s : State) (n : Nat) (f : Slice → Slice) : (s.modSlice n f).coll = s.coll := rfl
@[simp] theorem State.modSlice_migr (s : State) (n : Nat) (f : Slice → Slice) : (s.modSlice n f).migr = s.migr := rfl
@[simp] theorem State.modSlice_owed (s : State) (n : Nat) (f : Slice → Slice) : (s.modSlice n f).owed = s.owed := rfl
@[simp] theorem State.modSlice_sec (s : State) (n : Nat) (f : Slice → Slice) : (s.modSlice n f).sec = s.sec := rfl
@[simp] theorem State.modSlice_edgeMv (s : State) (n : Nat) (f : Slice → Slice) : (s.modSlice n f).edgeMv = s.edgeMv := rfl
@[simp] theorem State.modSlice_secMv (s : State) (n : Nat) (f : Slice → Slice) : (s.modSlice n f).secMv = s.secMv := rfl
@[simp] theorem State.modSlice_links (s : State) (n : Nat) (f : Slice → Slice) : (s.modSlice n f).links = s.links := rfl
@[simp] theorem State.modSlice_tm (s : State) (n : Nat) (f : Slice → Slice) : (s.modSlice n f).tm = s.tm := rfl
@[simp] theorem State.modSlice_mgmt (s : State) (n : Nat) (f : Slice → Slice) : (s.modSlice n f).mgmt = s.mgmt := rfl
@[simp] theorem State.modSlice_hostOut (s : State) (n : Nat) (f : Slice → Slice) : (s.modSlice n f).hostOut = s.hostOut := rfl

/-! ### State.modPart -/

@[simp] theorem State.modPart_now (s : State) (o : Nat) (f : Partition → Partition) : (s.modPart o f).now = s.now := rfl
@[simp] theorem State.modPart_tick (s : State) (o : Nat) (f : Partition → Partition) : (s.modPart o f).tick = s.tick := rfl
@[simp] theorem State.modPart_free (s : State) (o : Nat) (f : Partition → Partition) : (s.modPart o f).free = s.free := rfl
@[simp] theorem State.modPart_agenda (s : State) (o : Nat) (f : Partition → Partition) : (s.modPart o f).agenda = s.agenda := rfl
@[simp] theorem State.modPart_cur (s : State) (o : Nat) (f : Partition → Partition) : (s.modPart o f).cur = s.cur := rfl
@[simp] theorem State.modPart_tiles (s : State) (o : Nat) (f : Partition → Partition) : (s.modPart o f).tiles = s.tiles := rfl
@[simp] theorem State.modPart_tileMap (s : State) (o : Nat) (f : Partition → Partition) : (s.modPart o f).tileMap = s.tileMap := rfl
@[simp] theorem State.modPart_taken (s : State) (o : Nat) (f : Partition → Partition) : (s.modPart o f).taken = s.taken := rfl
@[simp] theorem State.modPart_dram (s : State) (o : Nat) (f : Partition → Partition) : (s.modPart o f).dram = s.dram := rfl
@[simp] theorem State.modPart_granOwner (s : State) (o : Nat) (f : Partition → Partition) : (s.modPart o f).granOwner = s.granOwner := rfl
@[simp] theorem State.modPart_hostMem (s : State) (o : Nat) (f : Partition → Partition) : (s.modPart o f).hostMem = s.hostMem := rfl
@[simp] theorem State.modPart_ctxs (s : State) (o : Nat) (f : Partition → Partition) : (s.modPart o f).ctxs = s.ctxs := rfl
@[simp] theorem State.modPart_fields (s : State) (o : Nat) (f : Partition → Partition) : (s.modPart o f).fields = s.fields := rfl
@[simp] theorem State.modPart_slices (s : State) (o : Nat) (f : Partition → Partition) : (s.modPart o f).slices = s.slices := rfl
@[simp] theorem State.modPart_cfgs (s : State) (o : Nat) (f : Partition → Partition) : (s.modPart o f).cfgs = s.cfgs := rfl
@[simp] theorem State.modPart_images (s : State) (o : Nat) (f : Partition → Partition) : (s.modPart o f).images = s.images := rfl
@[simp] theorem State.modPart_seqNext (s : State) (o : Nat) (f : Partition → Partition) : (s.modPart o f).seqNext = s.seqNext := rfl
@[simp] theorem State.modPart_placeNext (s : State) (o : Nat) (f : Partition → Partition) : (s.modPart o f).placeNext = s.placeNext := rfl
@[simp] theorem State.modPart_seqQ (s : State) (o : Nat) (f : Partition → Partition) : (s.modPart o f).seqQ = s.seqQ := rfl
@[simp] theorem State.modPart_tileReq (s : State) (o : Nat) (f : Partition → Partition) : (s.modPart o f).tileReq = s.tileReq := rfl
@[simp] theorem State.modPart_coll (s : State) (o : Nat) (f : Partition → Partition) : (s.modPart o f).coll = s.coll := rfl
@[simp] theorem State.modPart_migr (s : State) (o : Nat) (f : Partition → Partition) : (s.modPart o f).migr = s.migr := rfl
@[simp] theorem State.modPart_owed (s : State) (o : Nat) (f : Partition → Partition) : (s.modPart o f).owed = s.owed := rfl
@[simp] theorem State.modPart_sec (s : State) (o : Nat) (f : Partition → Partition) : (s.modPart o f).sec = s.sec := rfl
@[simp] theorem State.modPart_edgeMv (s : State) (o : Nat) (f : Partition → Partition) : (s.modPart o f).edgeMv = s.edgeMv := rfl
@[simp] theorem State.modPart_secMv (s : State) (o : Nat) (f : Partition → Partition) : (s.modPart o f).secMv = s.secMv := rfl
@[simp] theorem State.modPart_links (s : State) (o : Nat) (f : Partition → Partition) : (s.modPart o f).links = s.links := rfl
@[simp] theorem State.modPart_tm (s : State) (o : Nat) (f : Partition → Partition) : (s.modPart o f).tm = s.tm := rfl
@[simp] theorem State.modPart_mgmt (s : State) (o : Nat) (f : Partition → Partition) : (s.modPart o f).mgmt = s.mgmt := rfl
@[simp] theorem State.modPart_hostOut (s : State) (o : Nat) (f : Partition → Partition) : (s.modPart o f).hostOut = s.hostOut := rfl

/-! ### State.modCfg -/

@[simp] theorem State.modCfg_now (s : State) (q : Nat) (f : Cfg → Cfg) : (s.modCfg q f).now = s.now := rfl
@[simp] theorem State.modCfg_tick (s : State) (q : Nat) (f : Cfg → Cfg) : (s.modCfg q f).tick = s.tick := rfl
@[simp] theorem State.modCfg_free (s : State) (q : Nat) (f : Cfg → Cfg) : (s.modCfg q f).free = s.free := rfl
@[simp] theorem State.modCfg_agenda (s : State) (q : Nat) (f : Cfg → Cfg) : (s.modCfg q f).agenda = s.agenda := rfl
@[simp] theorem State.modCfg_cur (s : State) (q : Nat) (f : Cfg → Cfg) : (s.modCfg q f).cur = s.cur := rfl
@[simp] theorem State.modCfg_tiles (s : State) (q : Nat) (f : Cfg → Cfg) : (s.modCfg q f).tiles = s.tiles := rfl
@[simp] theorem State.modCfg_tileMap (s : State) (q : Nat) (f : Cfg → Cfg) : (s.modCfg q f).tileMap = s.tileMap := rfl
@[simp] theorem State.modCfg_taken (s : State) (q : Nat) (f : Cfg → Cfg) : (s.modCfg q f).taken = s.taken := rfl
@[simp] theorem State.modCfg_dram (s : State) (q : Nat) (f : Cfg → Cfg) : (s.modCfg q f).dram = s.dram := rfl
@[simp] theorem State.modCfg_granOwner (s : State) (q : Nat) (f : Cfg → Cfg) : (s.modCfg q f).granOwner = s.granOwner := rfl
@[simp] theorem State.modCfg_hostMem (s : State) (q : Nat) (f : Cfg → Cfg) : (s.modCfg q f).hostMem = s.hostMem := rfl
@[simp] theorem State.modCfg_parts (s : State) (q : Nat) (f : Cfg → Cfg) : (s.modCfg q f).parts = s.parts := rfl
@[simp] theorem State.modCfg_ctxs (s : State) (q : Nat) (f : Cfg → Cfg) : (s.modCfg q f).ctxs = s.ctxs := rfl
@[simp] theorem State.modCfg_fields (s : State) (q : Nat) (f : Cfg → Cfg) : (s.modCfg q f).fields = s.fields := rfl
@[simp] theorem State.modCfg_slices (s : State) (q : Nat) (f : Cfg → Cfg) : (s.modCfg q f).slices = s.slices := rfl
@[simp] theorem State.modCfg_images (s : State) (q : Nat) (f : Cfg → Cfg) : (s.modCfg q f).images = s.images := rfl
@[simp] theorem State.modCfg_seqNext (s : State) (q : Nat) (f : Cfg → Cfg) : (s.modCfg q f).seqNext = s.seqNext := rfl
@[simp] theorem State.modCfg_placeNext (s : State) (q : Nat) (f : Cfg → Cfg) : (s.modCfg q f).placeNext = s.placeNext := rfl
@[simp] theorem State.modCfg_seqQ (s : State) (q : Nat) (f : Cfg → Cfg) : (s.modCfg q f).seqQ = s.seqQ := rfl
@[simp] theorem State.modCfg_tileReq (s : State) (q : Nat) (f : Cfg → Cfg) : (s.modCfg q f).tileReq = s.tileReq := rfl
@[simp] theorem State.modCfg_coll (s : State) (q : Nat) (f : Cfg → Cfg) : (s.modCfg q f).coll = s.coll := rfl
@[simp] theorem State.modCfg_migr (s : State) (q : Nat) (f : Cfg → Cfg) : (s.modCfg q f).migr = s.migr := rfl
@[simp] theorem State.modCfg_owed (s : State) (q : Nat) (f : Cfg → Cfg) : (s.modCfg q f).owed = s.owed := rfl
@[simp] theorem State.modCfg_sec (s : State) (q : Nat) (f : Cfg → Cfg) : (s.modCfg q f).sec = s.sec := rfl
@[simp] theorem State.modCfg_edgeMv (s : State) (q : Nat) (f : Cfg → Cfg) : (s.modCfg q f).edgeMv = s.edgeMv := rfl
@[simp] theorem State.modCfg_secMv (s : State) (q : Nat) (f : Cfg → Cfg) : (s.modCfg q f).secMv = s.secMv := rfl
@[simp] theorem State.modCfg_links (s : State) (q : Nat) (f : Cfg → Cfg) : (s.modCfg q f).links = s.links := rfl
@[simp] theorem State.modCfg_tm (s : State) (q : Nat) (f : Cfg → Cfg) : (s.modCfg q f).tm = s.tm := rfl
@[simp] theorem State.modCfg_mgmt (s : State) (q : Nat) (f : Cfg → Cfg) : (s.modCfg q f).mgmt = s.mgmt := rfl
@[simp] theorem State.modCfg_hostOut (s : State) (q : Nat) (f : Cfg → Cfg) : (s.modCfg q f).hostOut = s.hostOut := rfl

/-! ### Tile.perfAdd -/

@[simp] theorem Tile.perfAdd_regs (x : Tile) (k n : Nat) : (x.perfAdd k n).regs = x.regs := rfl
@[simp] theorem Tile.perfAdd_csr (x : Tile) (k n : Nat) : (x.perfAdd k n).csr = x.csr := rfl
@[simp] theorem Tile.perfAdd_code (x : Tile) (k n : Nat) : (x.perfAdd k n).code = x.code := rfl
@[simp] theorem Tile.perfAdd_codeBad (x : Tile) (k n : Nat) : (x.perfAdd k n).codeBad = x.codeBad := rfl
@[simp] theorem Tile.perfAdd_store (x : Tile) (k n : Nat) : (x.perfAdd k n).store = x.store := rfl
@[simp] theorem Tile.perfAdd_inq (x : Tile) (k n : Nat) : (x.perfAdd k n).inq = x.inq := rfl
@[simp] theorem Tile.perfAdd_outq (x : Tile) (k n : Nat) : (x.perfAdd k n).outq = x.outq := rfl
@[simp] theorem Tile.perfAdd_eng (x : Tile) (k n : Nat) : (x.perfAdd k n).eng = x.eng := rfl
@[simp] theorem Tile.perfAdd_pu (x : Tile) (k n : Nat) : (x.perfAdd k n).pu = x.pu := rfl
@[simp] theorem Tile.perfAdd_pend (x : Tile) (k n : Nat) : (x.perfAdd k n).pend = x.pend := rfl
@[simp] theorem Tile.perfAdd_net (x : Tile) (k n : Nat) : (x.perfAdd k n).net = x.net := rfl
@[simp] theorem Tile.perfAdd_nextAcc (x : Tile) (k n : Nat) : (x.perfAdd k n).nextAcc = x.nextAcc := rfl
@[simp] theorem Tile.perfAdd_gang (x : Tile) (k n : Nat) : (x.perfAdd k n).gang = x.gang := rfl
@[simp] theorem Tile.perfAdd_sens (x : Tile) (k n : Nat) : (x.perfAdd k n).sens = x.sens := rfl
@[simp] theorem Tile.perfAdd_failStop (x : Tile) (k n : Nat) : (x.perfAdd k n).failStop = x.failStop := rfl
@[simp] theorem Tile.perfAdd_noClock (x : Tile) (k n : Nat) : (x.perfAdd k n).noClock = x.noClock := rfl
@[simp] theorem Tile.perfAdd_fenced (x : Tile) (k n : Nat) : (x.perfAdd k n).fenced = x.fenced := rfl
@[simp] theorem Tile.perfAdd_dead (x : Tile) (k n : Nat) : (x.perfAdd k n).dead = x.dead := rfl
@[simp] theorem Tile.perfAdd_lastBeat (x : Tile) (k n : Nat) : (x.perfAdd k n).lastBeat = x.lastBeat := rfl
@[simp] theorem Tile.perfAdd_missed (x : Tile) (k n : Nat) : (x.perfAdd k n).missed = x.missed := rfl

/-! ### Tile.raise -/

@[simp] theorem Tile.raise_regs (x : Tile) (fl : Flags) : (x.raise fl).regs = x.regs := rfl
@[simp] theorem Tile.raise_code (x : Tile) (fl : Flags) : (x.raise fl).code = x.code := rfl
@[simp] theorem Tile.raise_codeBad (x : Tile) (fl : Flags) : (x.raise fl).codeBad = x.codeBad := rfl
@[simp] theorem Tile.raise_store (x : Tile) (fl : Flags) : (x.raise fl).store = x.store := rfl
@[simp] theorem Tile.raise_inq (x : Tile) (fl : Flags) : (x.raise fl).inq = x.inq := rfl
@[simp] theorem Tile.raise_outq (x : Tile) (fl : Flags) : (x.raise fl).outq = x.outq := rfl
@[simp] theorem Tile.raise_eng (x : Tile) (fl : Flags) : (x.raise fl).eng = x.eng := rfl
@[simp] theorem Tile.raise_pu (x : Tile) (fl : Flags) : (x.raise fl).pu = x.pu := rfl
@[simp] theorem Tile.raise_sch (x : Tile) (fl : Flags) : (x.raise fl).sch = x.sch := rfl
@[simp] theorem Tile.raise_pend (x : Tile) (fl : Flags) : (x.raise fl).pend = x.pend := rfl
@[simp] theorem Tile.raise_net (x : Tile) (fl : Flags) : (x.raise fl).net = x.net := rfl
@[simp] theorem Tile.raise_nextAcc (x : Tile) (fl : Flags) : (x.raise fl).nextAcc = x.nextAcc := rfl
@[simp] theorem Tile.raise_gang (x : Tile) (fl : Flags) : (x.raise fl).gang = x.gang := rfl
@[simp] theorem Tile.raise_sens (x : Tile) (fl : Flags) : (x.raise fl).sens = x.sens := rfl
@[simp] theorem Tile.raise_failStop (x : Tile) (fl : Flags) : (x.raise fl).failStop = x.failStop := rfl
@[simp] theorem Tile.raise_noClock (x : Tile) (fl : Flags) : (x.raise fl).noClock = x.noClock := rfl
@[simp] theorem Tile.raise_fenced (x : Tile) (fl : Flags) : (x.raise fl).fenced = x.fenced := rfl
@[simp] theorem Tile.raise_dead (x : Tile) (fl : Flags) : (x.raise fl).dead = x.dead := rfl
@[simp] theorem Tile.raise_lastBeat (x : Tile) (fl : Flags) : (x.raise fl).lastBeat = x.lastBeat := rfl
@[simp] theorem Tile.raise_missed (x : Tile) (fl : Flags) : (x.raise fl).missed = x.missed := rfl

/-! ### Tile.setInQ -/

@[simp] theorem Tile.setInQ_regs (x : Tile) (q : Nat) (y : InQ) : (x.setInQ q y).regs = x.regs := rfl
@[simp] theorem Tile.setInQ_csr (x : Tile) (q : Nat) (y : InQ) : (x.setInQ q y).csr = x.csr := rfl
@[simp] theorem Tile.setInQ_code (x : Tile) (q : Nat) (y : InQ) : (x.setInQ q y).code = x.code := rfl
@[simp] theorem Tile.setInQ_codeBad (x : Tile) (q : Nat) (y : InQ) : (x.setInQ q y).codeBad = x.codeBad := rfl
@[simp] theorem Tile.setInQ_store (x : Tile) (q : Nat) (y : InQ) : (x.setInQ q y).store = x.store := rfl
@[simp] theorem Tile.setInQ_outq (x : Tile) (q : Nat) (y : InQ) : (x.setInQ q y).outq = x.outq := rfl
@[simp] theorem Tile.setInQ_eng (x : Tile) (q : Nat) (y : InQ) : (x.setInQ q y).eng = x.eng := rfl
@[simp] theorem Tile.setInQ_pu (x : Tile) (q : Nat) (y : InQ) : (x.setInQ q y).pu = x.pu := rfl
@[simp] theorem Tile.setInQ_sch (x : Tile) (q : Nat) (y : InQ) : (x.setInQ q y).sch = x.sch := rfl
@[simp] theorem Tile.setInQ_pend (x : Tile) (q : Nat) (y : InQ) : (x.setInQ q y).pend = x.pend := rfl
@[simp] theorem Tile.setInQ_net (x : Tile) (q : Nat) (y : InQ) : (x.setInQ q y).net = x.net := rfl
@[simp] theorem Tile.setInQ_nextAcc (x : Tile) (q : Nat) (y : InQ) : (x.setInQ q y).nextAcc = x.nextAcc := rfl
@[simp] theorem Tile.setInQ_gang (x : Tile) (q : Nat) (y : InQ) : (x.setInQ q y).gang = x.gang := rfl
@[simp] theorem Tile.setInQ_sens (x : Tile) (q : Nat) (y : InQ) : (x.setInQ q y).sens = x.sens := rfl
@[simp] theorem Tile.setInQ_failStop (x : Tile) (q : Nat) (y : InQ) : (x.setInQ q y).failStop = x.failStop := rfl
@[simp] theorem Tile.setInQ_noClock (x : Tile) (q : Nat) (y : InQ) : (x.setInQ q y).noClock = x.noClock := rfl
@[simp] theorem Tile.setInQ_fenced (x : Tile) (q : Nat) (y : InQ) : (x.setInQ q y).fenced = x.fenced := rfl
@[simp] theorem Tile.setInQ_dead (x : Tile) (q : Nat) (y : InQ) : (x.setInQ q y).dead = x.dead := rfl
@[simp] theorem Tile.setInQ_lastBeat (x : Tile) (q : Nat) (y : InQ) : (x.setInQ q y).lastBeat = x.lastBeat := rfl
@[simp] theorem Tile.setInQ_missed (x : Tile) (q : Nat) (y : InQ) : (x.setInQ q y).missed = x.missed := rfl

/-! ### Tile.setOutQ -/

@[simp] theorem Tile.setOutQ_regs (x : Tile) (q : Nat) (y : OutQ) : (x.setOutQ q y).regs = x.regs := rfl
@[simp] theorem Tile.setOutQ_csr (x : Tile) (q : Nat) (y : OutQ) : (x.setOutQ q y).csr = x.csr := rfl
@[simp] theorem Tile.setOutQ_code (x : Tile) (q : Nat) (y : OutQ) : (x.setOutQ q y).code = x.code := rfl
@[simp] theorem Tile.setOutQ_codeBad (x : Tile) (q : Nat) (y : OutQ) : (x.setOutQ q y).codeBad = x.codeBad := rfl
@[simp] theorem Tile.setOutQ_store (x : Tile) (q : Nat) (y : OutQ) : (x.setOutQ q y).store = x.store := rfl
@[simp] theorem Tile.setOutQ_inq (x : Tile) (q : Nat) (y : OutQ) : (x.setOutQ q y).inq = x.inq := rfl
@[simp] theorem Tile.setOutQ_eng (x : Tile) (q : Nat) (y : OutQ) : (x.setOutQ q y).eng = x.eng := rfl
@[simp] theorem Tile.setOutQ_pu (x : Tile) (q : Nat) (y : OutQ) : (x.setOutQ q y).pu = x.pu := rfl
@[simp] theorem Tile.setOutQ_sch (x : Tile) (q : Nat) (y : OutQ) : (x.setOutQ q y).sch = x.sch := rfl
@[simp] theorem Tile.setOutQ_pend (x : Tile) (q : Nat) (y : OutQ) : (x.setOutQ q y).pend = x.pend := rfl
@[simp] theorem Tile.setOutQ_net (x : Tile) (q : Nat) (y : OutQ) : (x.setOutQ q y).net = x.net := rfl
@[simp] theorem Tile.setOutQ_nextAcc (x : Tile) (q : Nat) (y : OutQ) : (x.setOutQ q y).nextAcc = x.nextAcc := rfl
@[simp] theorem Tile.setOutQ_gang (x : Tile) (q : Nat) (y : OutQ) : (x.setOutQ q y).gang = x.gang := rfl
@[simp] theorem Tile.setOutQ_sens (x : Tile) (q : Nat) (y : OutQ) : (x.setOutQ q y).sens = x.sens := rfl
@[simp] theorem Tile.setOutQ_failStop (x : Tile) (q : Nat) (y : OutQ) : (x.setOutQ q y).failStop = x.failStop := rfl
@[simp] theorem Tile.setOutQ_noClock (x : Tile) (q : Nat) (y : OutQ) : (x.setOutQ q y).noClock = x.noClock := rfl
@[simp] theorem Tile.setOutQ_fenced (x : Tile) (q : Nat) (y : OutQ) : (x.setOutQ q y).fenced = x.fenced := rfl
@[simp] theorem Tile.setOutQ_dead (x : Tile) (q : Nat) (y : OutQ) : (x.setOutQ q y).dead = x.dead := rfl
@[simp] theorem Tile.setOutQ_lastBeat (x : Tile) (q : Nat) (y : OutQ) : (x.setOutQ q y).lastBeat = x.lastBeat := rfl
@[simp] theorem Tile.setOutQ_missed (x : Tile) (q : Nat) (y : OutQ) : (x.setOutQ q y).missed = x.missed := rfl

/-! ### Tile.retire -/

@[simp] theorem Tile.retire_csr (x : Tile) (g : Go) : (x.retire g).csr = x.csr := by cases g <;> rfl
@[simp] theorem Tile.retire_code (x : Tile) (g : Go) : (x.retire g).code = x.code := by cases g <;> rfl
@[simp] theorem Tile.retire_codeBad (x : Tile) (g : Go) : (x.retire g).codeBad = x.codeBad := by cases g <;> rfl
@[simp] theorem Tile.retire_store (x : Tile) (g : Go) : (x.retire g).store = x.store := by cases g <;> rfl
@[simp] theorem Tile.retire_inq (x : Tile) (g : Go) : (x.retire g).inq = x.inq := by cases g <;> rfl
@[simp] theorem Tile.retire_outq (x : Tile) (g : Go) : (x.retire g).outq = x.outq := by cases g <;> rfl
@[simp] theorem Tile.retire_eng (x : Tile) (g : Go) : (x.retire g).eng = x.eng := by cases g <;> rfl
@[simp] theorem Tile.retire_pu (x : Tile) (g : Go) : (x.retire g).pu = x.pu := by cases g <;> rfl
@[simp] theorem Tile.retire_pend (x : Tile) (g : Go) : (x.retire g).pend = x.pend := by cases g <;> rfl
@[simp] theorem Tile.retire_net (x : Tile) (g : Go) : (x.retire g).net = x.net := by cases g <;> rfl
@[simp] theorem Tile.retire_nextAcc (x : Tile) (g : Go) : (x.retire g).nextAcc = x.nextAcc := by cases g <;> rfl
@[simp] theorem Tile.retire_gang (x : Tile) (g : Go) : (x.retire g).gang = x.gang := by cases g <;> rfl
@[simp] theorem Tile.retire_sens (x : Tile) (g : Go) : (x.retire g).sens = x.sens := by cases g <;> rfl
@[simp] theorem Tile.retire_failStop (x : Tile) (g : Go) : (x.retire g).failStop = x.failStop := by cases g <;> rfl
@[simp] theorem Tile.retire_noClock (x : Tile) (g : Go) : (x.retire g).noClock = x.noClock := by cases g <;> rfl
@[simp] theorem Tile.retire_fenced (x : Tile) (g : Go) : (x.retire g).fenced = x.fenced := by cases g <;> rfl
@[simp] theorem Tile.retire_dead (x : Tile) (g : Go) : (x.retire g).dead = x.dead := by cases g <;> rfl
@[simp] theorem Tile.retire_lastBeat (x : Tile) (g : Go) : (x.retire g).lastBeat = x.lastBeat := by cases g <;> rfl
@[simp] theorem Tile.retire_missed (x : Tile) (g : Go) : (x.retire g).missed = x.missed := by cases g <;> rfl
@[simp] theorem Tile.retire_on_sch (x : Tile) :
    (x.retire .on).sch = { (x.perfAdd 1 1).sch with late := x.sch.late ++ x.regs.dueLoop } := rfl
@[simp] theorem Tile.retire_finish_sch (x : Tile) : (x.retire .finish).sch = (x.perfAdd 1 1).sch := rfl
@[simp] theorem Tile.retire_jump_sch (x : Tile) (p : Nat) : (x.retire (.jump p)).sch = (x.perfAdd 1 1).sch := rfl
/-- Where no loop counter has bad parity, loop end processing meets none. -/
theorem Regs.badLoop_none (r : Regs) (e : Nat) (h : ∀ k, (RegKind.lc, k) ∉ r.parity) : ∀ l, r.badLoop e l = none
  | [] => rfl
  | k :: rest => by
    have hk : r.parity.contains (.lc, k) = false := by simpa using h k
    simp only [Regs.badLoop, hk, Bool.false_eq_true, if_false, Regs.badLoop_none r e h rest]
    split <;> [split <;> rfl; rfl]
theorem Regs.dueLoop_nil (r : Regs) (h : ∀ k, (RegKind.lc, k) ∉ r.parity) : r.dueLoop = [] := by
  simp [Regs.dueLoop, Regs.badLoop_none r _ h]
@[simp] theorem Tile.retire_on_regs (x : Tile) : (x.retire .on).regs = x.regs.advance := rfl
@[simp] theorem Tile.retire_finish_regs (x : Tile) : (x.retire .finish).regs = x.regs := rfl
@[simp] theorem Tile.retire_jump_regs (x : Tile) (p : Nat) : (x.retire (.jump p)).regs = { x.regs with pc := p } := rfl

/-! ### The scheduling state under a count -/

@[simp] theorem Tile.perfAdd_sch_task (x : Tile) (k n : Nat) : (x.perfAdd k n).sch.task = x.sch.task := rfl
@[simp] theorem Tile.perfAdd_sch_fx (x : Tile) (k n : Nat) : (x.perfAdd k n).sch.fx = x.sch.fx := rfl
@[simp] theorem Tile.perfAdd_sch_actor (x : Tile) (k n : Nat) : (x.perfAdd k n).sch.actor = x.sch.actor := rfl
@[simp] theorem Tile.perfAdd_sch_runl (x : Tile) (k n : Nat) : (x.perfAdd k n).sch.runl = x.sch.runl := rfl
@[simp] theorem Tile.perfAdd_sch_ready (x : Tile) (k n : Nat) : (x.perfAdd k n).sch.ready = x.sch.ready := rfl
@[simp] theorem Tile.perfAdd_sch_links (x : Tile) (k n : Nat) : (x.perfAdd k n).sch.links = x.sch.links := rfl
@[simp] theorem Tile.perfAdd_sch_sent (x : Tile) (k n : Nat) : (x.perfAdd k n).sch.sent = x.sch.sent := rfl
@[simp] theorem Tile.perfAdd_sch_retBuf (x : Tile) (k n : Nat) : (x.perfAdd k n).sch.retBuf = x.sch.retBuf := rfl
@[simp] theorem Tile.perfAdd_sch_msgOut (x : Tile) (k n : Nat) : (x.perfAdd k n).sch.msgOut = x.sch.msgOut := rfl
@[simp] theorem Tile.perfAdd_sch_msgDiscard (x : Tile) (k n : Nat) : (x.perfAdd k n).sch.msgDiscard = x.sch.msgDiscard := rfl
@[simp] theorem Tile.perfAdd_sch_order (x : Tile) (k n : Nat) : (x.perfAdd k n).sch.order = x.sch.order := rfl
@[simp] theorem Tile.perfAdd_sch_halted (x : Tile) (k n : Nat) : (x.perfAdd k n).sch.halted = x.sch.halted := rfl
@[simp] theorem Tile.perfAdd_sch_haltGrp (x : Tile) (k n : Nat) : (x.perfAdd k n).sch.haltGrp = x.sch.haltGrp := rfl
@[simp] theorem Tile.perfAdd_sch_hrec (x : Tile) (k n : Nat) : (x.perfAdd k n).sch.hrec = x.sch.hrec := rfl
@[simp] theorem Tile.perfAdd_sch_cycles (x : Tile) (k n : Nat) : (x.perfAdd k n).sch.cycles = x.sch.cycles := rfl
@[simp] theorem Tile.perfAdd_sch_wfe (x : Tile) (k n : Nat) : (x.perfAdd k n).sch.wfe = x.sch.wfe := rfl
@[simp] theorem Tile.perfAdd_sch_cmdOut (x : Tile) (k n : Nat) : (x.perfAdd k n).sch.cmdOut = x.sch.cmdOut := rfl
@[simp] theorem Tile.perfAdd_sch_late (x : Tile) (k n : Nat) : (x.perfAdd k n).sch.late = x.sch.late := rfl
@[simp] theorem Tile.perfAdd_sch_bar (x : Tile) (k n : Nat) : (x.perfAdd k n).sch.bar = x.sch.bar := rfl
@[simp] theorem Tile.perfAdd_sch_starter (x : Tile) (k n : Nat) : (x.perfAdd k n).sch.starter = x.sch.starter := rfl
@[simp] theorem Tile.perfAdd_sch_stepping (x : Tile) (k n : Nat) : (x.perfAdd k n).sch.stepping = x.sch.stepping := rfl
@[simp] theorem Tile.perfAdd_sch_fences (x : Tile) (k n : Nat) : (x.perfAdd k n).sch.fences = x.sch.fences := rfl
@[simp] theorem Tile.perfAdd_sch_accBase (x : Tile) (k n : Nat) : (x.perfAdd k n).sch.accBase = x.sch.accBase := rfl
@[simp] theorem Tile.perfAdd_sch_chOut (x : Tile) (k n : Nat) : (x.perfAdd k n).sch.chOut = x.sch.chOut := rfl

/-! ### Regs.putG -/

@[simp] theorem Regs.putG_v (r : Regs) (i : Nat) (x : Word) : (r.putG i x).v = r.v := rfl
@[simp] theorem Regs.putG_vFe (r : Regs) (i : Nat) (x : Word) : (r.putG i x).vFe = r.vFe := rfl
@[simp] theorem Regs.putG_k (r : Regs) (i : Nat) (x : Word) : (r.putG i x).k = r.k := rfl
@[simp] theorem Regs.putG_c (r : Regs) (i : Nat) (x : Word) : (r.putG i x).c = r.c := rfl
@[simp] theorem Regs.putG_wa (r : Regs) (i : Nat) (x : Word) : (r.putG i x).wa = r.wa := rfl
@[simp] theorem Regs.putG_lc (r : Regs) (i : Nat) (x : Word) : (r.putG i x).lc = r.lc := rfl
@[simp] theorem Regs.putG_loops (r : Regs) (i : Nat) (x : Word) : (r.putG i x).loops = r.loops := rfl
@[simp] theorem Regs.putG_lp (r : Regs) (i : Nat) (x : Word) : (r.putG i x).lp = r.lp := rfl
@[simp] theorem Regs.putG_pc (r : Regs) (i : Nat) (x : Word) : (r.putG i x).pc = r.pc := rfl

/-! ### Regs.putV -/

@[simp] theorem Regs.putV_g (r : Regs) (i : Nat) (x : Vec) : (r.putV i x).g = r.g := rfl
@[simp] theorem Regs.putV_gFe (r : Regs) (i : Nat) (x : Vec) : (r.putV i x).gFe = r.gFe := rfl
@[simp] theorem Regs.putV_k (r : Regs) (i : Nat) (x : Vec) : (r.putV i x).k = r.k := rfl
@[simp] theorem Regs.putV_c (r : Regs) (i : Nat) (x : Vec) : (r.putV i x).c = r.c := rfl
@[simp] theorem Regs.putV_wa (r : Regs) (i : Nat) (x : Vec) : (r.putV i x).wa = r.wa := rfl
@[simp] theorem Regs.putV_lc (r : Regs) (i : Nat) (x : Vec) : (r.putV i x).lc = r.lc := rfl
@[simp] theorem Regs.putV_loops (r : Regs) (i : Nat) (x : Vec) : (r.putV i x).loops = r.loops := rfl
@[simp] theorem Regs.putV_lp (r : Regs) (i : Nat) (x : Vec) : (r.putV i x).lp = r.lp := rfl
@[simp] theorem Regs.putV_pc (r : Regs) (i : Nat) (x : Vec) : (r.putV i x).pc = r.pc := rfl

/-! ### Regs.emptyG -/

@[simp] theorem Regs.emptyG_g (r : Regs) (i : Nat) : (r.emptyG i).g = r.g := rfl
@[simp] theorem Regs.emptyG_v (r : Regs) (i : Nat) : (r.emptyG i).v = r.v := rfl
@[simp] theorem Regs.emptyG_vFe (r : Regs) (i : Nat) : (r.emptyG i).vFe = r.vFe := rfl
@[simp] theorem Regs.emptyG_k (r : Regs) (i : Nat) : (r.emptyG i).k = r.k := rfl
@[simp] theorem Regs.emptyG_c (r : Regs) (i : Nat) : (r.emptyG i).c = r.c := rfl
@[simp] theorem Regs.emptyG_wa (r : Regs) (i : Nat) : (r.emptyG i).wa = r.wa := rfl
@[simp] theorem Regs.emptyG_lc (r : Regs) (i : Nat) : (r.emptyG i).lc = r.lc := rfl
@[simp] theorem Regs.emptyG_loops (r : Regs) (i : Nat) : (r.emptyG i).loops = r.loops := rfl
@[simp] theorem Regs.emptyG_lp (r : Regs) (i : Nat) : (r.emptyG i).lp = r.lp := rfl
@[simp] theorem Regs.emptyG_pc (r : Regs) (i : Nat) : (r.emptyG i).pc = r.pc := rfl
@[simp] theorem Regs.emptyG_parity (r : Regs) (i : Nat) : (r.emptyG i).parity = r.parity := rfl

/-! ### Regs.emptyV -/

@[simp] theorem Regs.emptyV_g (r : Regs) (i : Nat) : (r.emptyV i).g = r.g := rfl
@[simp] theorem Regs.emptyV_gFe (r : Regs) (i : Nat) : (r.emptyV i).gFe = r.gFe := rfl
@[simp] theorem Regs.emptyV_v (r : Regs) (i : Nat) : (r.emptyV i).v = r.v := rfl
@[simp] theorem Regs.emptyV_k (r : Regs) (i : Nat) : (r.emptyV i).k = r.k := rfl
@[simp] theorem Regs.emptyV_c (r : Regs) (i : Nat) : (r.emptyV i).c = r.c := rfl
@[simp] theorem Regs.emptyV_wa (r : Regs) (i : Nat) : (r.emptyV i).wa = r.wa := rfl
@[simp] theorem Regs.emptyV_lc (r : Regs) (i : Nat) : (r.emptyV i).lc = r.lc := rfl
@[simp] theorem Regs.emptyV_loops (r : Regs) (i : Nat) : (r.emptyV i).loops = r.loops := rfl
@[simp] theorem Regs.emptyV_lp (r : Regs) (i : Nat) : (r.emptyV i).lp = r.lp := rfl
@[simp] theorem Regs.emptyV_pc (r : Regs) (i : Nat) : (r.emptyV i).pc = r.pc := rfl
@[simp] theorem Regs.emptyV_parity (r : Regs) (i : Nat) : (r.emptyV i).parity = r.parity := rfl

/-! ### Regs.putLc -/

@[simp] theorem Regs.putLc_g (r : Regs) (i : Nat) (x : BitVec 32) : (r.putLc i x).g = r.g := rfl
@[simp] theorem Regs.putLc_gFe (r : Regs) (i : Nat) (x : BitVec 32) : (r.putLc i x).gFe = r.gFe := rfl
@[simp] theorem Regs.putLc_v (r : Regs) (i : Nat) (x : BitVec 32) : (r.putLc i x).v = r.v := rfl
@[simp] theorem Regs.putLc_vFe (r : Regs) (i : Nat) (x : BitVec 32) : (r.putLc i x).vFe = r.vFe := rfl
@[simp] theorem Regs.putLc_k (r : Regs) (i : Nat) (x : BitVec 32) : (r.putLc i x).k = r.k := rfl
@[simp] theorem Regs.putLc_c (r : Regs) (i : Nat) (x : BitVec 32) : (r.putLc i x).c = r.c := rfl
@[simp] theorem Regs.putLc_wa (r : Regs) (i : Nat) (x : BitVec 32) : (r.putLc i x).wa = r.wa := rfl
@[simp] theorem Regs.putLc_loops (r : Regs) (i : Nat) (x : BitVec 32) : (r.putLc i x).loops = r.loops := rfl
@[simp] theorem Regs.putLc_lp (r : Regs) (i : Nat) (x : BitVec 32) : (r.putLc i x).lp = r.lp := rfl
@[simp] theorem Regs.putLc_pc (r : Regs) (i : Nat) (x : BitVec 32) : (r.putLc i x).pc = r.pc := rfl
@[simp] theorem Regs.putLc_parity (r : Regs) (i : Nat) (x : BitVec 32) :
    (r.putLc i x).parity = r.parity.filter fun e => e != (.lc, i) := rfl

/-! ### Regs.putK -/

@[simp] theorem Regs.putK_g (r : Regs) (i : Nat) (x : BitVec 16) : (r.putK i x).g = r.g := by unfold Regs.putK; split <;> rfl
@[simp] theorem Regs.putK_gFe (r : Regs) (i : Nat) (x : BitVec 16) : (r.putK i x).gFe = r.gFe := by unfold Regs.putK; split <;> rfl
@[simp] theorem Regs.putK_v (r : Regs) (i : Nat) (x : BitVec 16) : (r.putK i x).v = r.v := by unfold Regs.putK; split <;> rfl
@[simp] theorem Regs.putK_vFe (r : Regs) (i : Nat) (x : BitVec 16) : (r.putK i x).vFe = r.vFe := by unfold Regs.putK; split <;> rfl
@[simp] theorem Regs.putK_c (r : Regs) (i : Nat) (x : BitVec 16) : (r.putK i x).c = r.c := by unfold Regs.putK; split <;> rfl
@[simp] theorem Regs.putK_wa (r : Regs) (i : Nat) (x : BitVec 16) : (r.putK i x).wa = r.wa := by unfold Regs.putK; split <;> rfl
@[simp] theorem Regs.putK_lc (r : Regs) (i : Nat) (x : BitVec 16) : (r.putK i x).lc = r.lc := by unfold Regs.putK; split <;> rfl
@[simp] theorem Regs.putK_loops (r : Regs) (i : Nat) (x : BitVec 16) : (r.putK i x).loops = r.loops := by unfold Regs.putK; split <;> rfl
@[simp] theorem Regs.putK_lp (r : Regs) (i : Nat) (x : BitVec 16) : (r.putK i x).lp = r.lp := by unfold Regs.putK; split <;> rfl
@[simp] theorem Regs.putK_pc (r : Regs) (i : Nat) (x : BitVec 16) : (r.putK i x).pc = r.pc := by unfold Regs.putK; split <;> rfl
theorem Regs.putK_parity (r : Regs) (i : Nat) (x : BitVec 16) :
    (r.putK i x).parity = if i = 0 then r.parity else r.parity.filter fun e => e != (.k, i) := by unfold Regs.putK; split <;> rfl

/-! ### Reading back -/

@[simp] theorem State.tile_setTile (s : State) (t : Nat) (x : Tile) : (s.setTile t x).tile t = x := by
  simp [State.tile, State.setTile, tget_tput_same]
@[simp] theorem State.tile_modTile (s : State) (t : Nat) (f : Tile → Tile) : (s.modTile t f).tile t = f (s.tile t) := by
  simp [State.modTile]
@[simp] theorem State.setTile_setTile (s : State) (t : Nat) (x y : Tile) : (s.setTile t x).setTile t y = s.setTile t y := by
  simp [State.setTile, tput_tput_same]
@[simp] theorem State.modTile_setTile (s : State) (t : Nat) (x : Tile) (f : Tile → Tile) :
    (s.setTile t x).modTile t f = s.setTile t (f x) := by
  simp [State.modTile]
theorem State.modTile_modTile (s : State) (t : Nat) (f g : Tile → Tile) :
    (s.modTile t f).modTile t g = s.modTile t fun x => g (f x) := by
  simp [State.modTile]
@[simp] theorem State.ctx_modCtx (s : State) (c : Nat) (f : Ctx → Ctx) : (s.modCtx c f).ctx c = f (s.ctx c) := by
  simp [State.ctx, State.modCtx, tget_tput_same]
@[simp] theorem State.field_modField (s : State) (n : Nat) (f : FieldSt → FieldSt) : (s.modField n f).field n = f (s.field n) := by
  simp [State.field, State.modField, tget_tput_same]
@[simp] theorem State.slice_modSlice (s : State) (n : Nat) (f : Slice → Slice) : (s.modSlice n f).slice n = f (s.slice n) := by
  simp [State.slice, State.modSlice, tget_tput_same]
/-- Another tile is untouched, the tiles being in rising order. -/
theorem State.tile_modTile_ne (s : State) (t u : Nat) (f : Tile → Tile) (w : trises 0 s.tiles = true) (h : u ≠ t) :
    (s.modTile t f).tile u = s.tile u := by
  simp [State.tile, State.modTile, State.setTile, tget_tput_ne _ _ w _ h]

/-! ### Registers (R36-R38) -/

/-- Predicate k0 reads all ones whatever is written (R36, R42). -/
@[simp] theorem Regs.getK_zero (r : Regs) : r.getK 0 = 0xFFFF := rfl
@[simp] theorem Regs.putK_zero (r : Regs) (x : BitVec 16) : r.putK 0 x = r := rfl

/-- A write of a counter leaves the start and end indexes as they are (R287). -/
@[simp] theorem Regs.putLc_span (r : Regs) (i k : Nat) (x : BitVec 32) : (r.putLc i x).span k = r.span k := rfl

end Sys2Proof.Machine
end

