-- ==== Sys2Proof/Laws/Ops.lean ====
section
/-! SUPPORT. What each shared operation of a meaning comes to: sequencing, predicates, operands, destinations, and `issue`. -/

namespace Sys2Proof.Machine

variable {α β : Type}

/-! ## Sequencing -/

/-- A meaning goes on from what its first part gives. -/
theorem bind_ok {m : M α} {k : α → M β} {s s' : State} {a : α} (h : m s = .ok (a, s')) : (m >>= k) s = k a s' := by
  simp [bind, StateT.bind, h, Except.bind]
/-- A meaning stops where its first part stops. -/
theorem bind_error {m : M α} {k : α → M β} {s : State} {e : Stop} (h : m s = .error e) : (m >>= k) s = .error e := by
  simp [bind, StateT.bind, h, Except.bind]
/-- What a sequence that completes has gone through. -/
theorem bind_eq_ok {m : M α} {k : α → M β} {s t : State} {b : β} (h : (m >>= k) s = .ok (b, t)) :
    ∃ a s', m s = .ok (a, s') ∧ k a s' = .ok (b, t) := by
  cases hm : m s with
  | error e => rw [bind_error hm] at h; cases h
  | ok r => exact ⟨r.1, r.2, rfl, by rw [bind_ok (a := r.1) (s' := r.2) hm] at h; exact h⟩

@[simp] theorem pure_run (a : α) (s : State) : (pure a : M α) s = .ok (a, s) := rfl
@[simp] theorem getT_bind (k : Tile → M β) (s : State) : (getT >>= k) s = k (s.tile s.cur) s := rfl
@[simp] theorem getS_bind (k : State → M β) (s : State) : (getS >>= k) s = k s s := rfl
@[simp] theorem me_bind (k : Nat → M β) (s : State) : (me >>= k) s = k s.cur s := rfl
@[simp] theorem modT_bind (f : Tile → Tile) (k : Unit → M β) (s : State) : (modT f >>= k) s = k () (s.modTile s.cur f) := rfl
@[simp] theorem modS_bind (f : State → State) (k : Unit → M β) (s : State) : (modS f >>= k) s = k () (f s) := rfl
@[simp] theorem modR_bind (f : Regs → Regs) (k : Unit → M β) (s : State) :
    (modR f >>= k) s = k () (s.modTile s.cur fun x => { x with regs := f x.regs }) := rfl
@[simp] theorem modT_run (f : Tile → Tile) (s : State) : modT f s = .ok ((), s.modTile s.cur f) := rfl
@[simp] theorem modR_run (f : Regs → Regs) (s : State) :
    modR f s = .ok ((), s.modTile s.cur fun x => { x with regs := f x.regs }) := rfl
@[simp] theorem need_true_bind (k : Unit → M β) (s : State) : (need true >>= k) s = k () s := rfl
@[simp] theorem need_false_bind (k : Unit → M β) (s : State) : (need false >>= k) s = .error .illop := rfl
@[simp] theorem await_true_bind (k : Unit → M β) (s : State) : (await true >>= k) s = k () s := rfl
@[simp] theorem await_false_bind (k : Unit → M β) (s : State) : (await false >>= k) s = .error .hold := rfl
@[simp] theorem trap_run (c : Byte) (a : Word) (s : State) : (trap c a : M α) s = .error (.trap c a) := rfl
@[simp] theorem trap_bind (c : Byte) (a : Word) (k : α → M β) (s : State) :
    ((trap c a : M α) >>= k) s = .error (.trap c a) := rfl

/-- What a check that passes says: its condition holds and nothing changes. -/
theorem need_ok {b : Bool} {s s' : State} (h : need b s = .ok ((), s')) : b = true ∧ s' = s := by
  cases b
  · cases h
  · cases h; exact ⟨rfl, rfl⟩
theorem await_ok {b : Bool} {s s' : State} (h : await b s = .ok ((), s')) : b = true ∧ s' = s := by
  cases b
  · cases h
  · cases h; exact ⟨rfl, rfl⟩

/-! ## Predicates (R50) -/

/-- A register of good parity passes its check; one of bad parity is a DUE (R15). -/
theorem parityGood_ok {f : RegKind} {i : Nat} {s : State} (h : (f, i) ∉ (s.tile s.cur).regs.parity) :
    parityGood f i s = .ok ((), s) := by
  simp [parityGood, h]
theorem parityGood_bad {f : RegKind} {i : Nat} {s : State} (h : (f, i) ∈ (s.tile s.cur).regs.parity) :
    parityGood f i s = .error (.trap 0x10 (regDue f i)) := by
  simp [parityGood, h]
theorem parityGood_kept {f : RegKind} {i : Nat} {s s' : State} (h : parityGood f i s = .ok ((), s')) :
    (f, i) ∉ (s.tile s.cur).regs.parity ∧ s' = s := by
  by_cases hp : (f, i) ∈ (s.tile s.cur).regs.parity
  · rw [parityGood_bad hp] at h; cases h
  · rw [parityGood_ok hp] at h; cases h; exact ⟨hp, rfl⟩
/-- The mask of a predicate that is k0 or of good parity. -/
theorem getMask_ok {p : Pred} {s : State} (hk : p.pk = 0 ∨ (RegKind.k, p.pk.toNat) ∉ (s.tile s.cur).regs.parity) :
    getMask p s = .ok (Pred.mask p (s.tile s.cur).regs, s) := by
  by_cases h0 : p.pk = 0
  · simp only [getMask, ne_eq, h0, not_true_eq_false, if_false]; rfl
  · rcases hk with h | h
    · exact absurd h h0
    · simp only [getMask, ne_eq, h0, not_false_eq_true, if_true]
      rw [bind_ok (parityGood_ok h)]; rfl

section
variable {p : Pred} {s : State} (hk : p.pk = 0 ∨ (RegKind.k, p.pk.toNat) ∉ (s.tile s.cur).regs.parity)
include hk
theorem whenBit0_on {m : M Go} (h : nbit (Pred.mask p (s.tile s.cur).regs).toNat 0 = true) : whenBit0 p m s = m s := by
  rw [whenBit0, bind_ok (getMask_ok hk), if_pos h]
theorem whenBit0_off {m : M Go} (h : nbit (Pred.mask p (s.tile s.cur).regs).toNat 0 = false) : whenBit0 p m s = .ok (.on, s) := by
  rw [whenBit0, bind_ok (getMask_ok hk), if_neg (by rw [h]; decide)]; rfl
theorem whenLanes_on {m : BitVec 16 → M Go} (h : Pred.mask p (s.tile s.cur).regs ≠ 0) :
    whenLanes p m s = m (Pred.mask p (s.tile s.cur).regs) s := by
  rw [whenLanes, bind_ok (getMask_ok hk), if_neg h]
theorem whenLanes_off {m : BitVec 16 → M Go} (h : Pred.mask p (s.tile s.cur).regs = 0) : whenLanes p m s = .ok (.on, s) := by
  rw [whenLanes, bind_ok (getMask_ok hk), if_pos h]; rfl
end
/-- A predicate of bad parity is a DUE before anything else (R15, R50). -/
theorem getMask_bad {p : Pred} {s : State} (h0 : p.pk ≠ 0) (h : (RegKind.k, p.pk.toNat) ∈ (s.tile s.cur).regs.parity) :
    getMask p s = .error (.trap 0x10 (regDue .k p.pk.toNat)) := by
  simp only [getMask, ne_eq, h0, not_false_eq_true, if_true]
  exact bind_error (parityGood_bad h)

/-! ## What operations on operands keep -/

/-- What reading an operand keeps: everything but the input queues and the counters of the current tile. -/
structure Kept (s s' : State) : Prop where
  cur : s'.cur = s.cur
  rest : s' = s ∨ ∃ x : Tile, s' = s.setTile s.cur x ∧ x.gang = (s.tile s.cur).gang ∧
    x.sch.stepping = (s.tile s.cur).sch.stepping ∧ x.regs = (s.tile s.cur).regs ∧ x.csr = (s.tile s.cur).csr ∧
    x.outq = (s.tile s.cur).outq ∧ x.pend = (s.tile s.cur).pend ∧ x.store = (s.tile s.cur).store ∧
    x.sch.task = (s.tile s.cur).sch.task

theorem Kept.refl (s : State) : Kept s s := ⟨rfl, .inl rfl⟩

/-- The fields of the current tile that reading keeps. -/
theorem Kept.fields {s s' : State} (h : Kept s s') : (s'.tile s.cur).gang = (s.tile s.cur).gang ∧
    (s'.tile s.cur).sch.stepping = (s.tile s.cur).sch.stepping ∧ (s'.tile s.cur).regs = (s.tile s.cur).regs ∧
    (s'.tile s.cur).csr = (s.tile s.cur).csr ∧ (s'.tile s.cur).outq = (s.tile s.cur).outq ∧
    (s'.tile s.cur).pend = (s.tile s.cur).pend ∧ (s'.tile s.cur).store = (s.tile s.cur).store ∧
    (s'.tile s.cur).sch.task = (s.tile s.cur).sch.task := by
  rcases h.rest with e | ⟨x, rfl, e⟩
  · subst e; simp
  · simpa using e

theorem Kept.trans {a b c : State} (h : Kept a b) (k : Kept b c) : Kept a c := by
  refine ⟨k.cur.trans h.cur, ?_⟩
  have hf := h.fields
  rcases k.rest with k | ⟨y, rfl, hy⟩
  · subst k; exact h.rest
  · right
    rw [h.cur] at hy
    refine ⟨y, ?_, ?_⟩
    · rcases h.rest with h' | ⟨x, rfl, _⟩
      · subst h'; rfl
      · simp
    · obtain ⟨h1, h2, h3, h4, h5, h6, h7, h8⟩ := hf
      obtain ⟨k1, k2, k3, k4, k5, k6, k7, k8⟩ := hy
      exact ⟨k1.trans h1, k2.trans h2, k3.trans h3, k4.trans h4, k5.trans h5, k6.trans h6, k7.trans h7, k8.trans h8⟩

/-- A pop keeps all but the input queues and the counters. -/
theorem Kept.pop (s : State) (q : Nat) : Kept s (s.modTile s.cur (·.pop q)) :=
  ⟨rfl, .inr ⟨(s.tile s.cur).pop q, rfl, rfl, rfl, rfl, rfl, rfl, rfl, rfl, rfl⟩⟩

/-- Reading a register by its full/empty bit changes nothing. -/
theorem readReg_kept {sc : Bool} {i : Nat} {w : Bool} {fe : Fe} {v a : α} {s s' : State}
    (h : readReg sc i w fe v s = .ok (a, s')) : s' = s ∧ a = v := by
  cases fe <;> simp only [readReg, getT_bind] at h
  · obtain ⟨_, s1, h1, h2⟩ := bind_eq_ok h
    have h3 := (parityGood_kept h1).2
    cases h2; exact ⟨h3, rfl⟩
  · split at h <;> cases h
  · cases h

/-- A window read that completes has popped the head of its queue. -/
theorem readWindow_kept {vec : Bool} {n : Nat} {w : Bool} {d : Vec} {s s' : State}
    (h : readWindow vec n w s = .ok (d, s')) : Kept s s' := by
  simp only [readWindow, getT_bind] at h
  obtain ⟨_, s1, h1, h⟩ := bind_eq_ok h
  obtain ⟨-, rfl⟩ := need_ok h1
  cases hh : (s1.tile s1.cur).head (queueOf (s1.tile s1.cur) vec n) with
  | none =>
    simp only [hh] at h
    split at h <;> cases h
  | some tok =>
    simp only [hh] at h
    obtain ⟨_, s2, h2, h⟩ := bind_eq_ok h
    obtain ⟨-, rfl⟩ := await_ok h2
    cases tok <;> cases h
    · exact Kept.pop _ _
    · exact Kept.pop _ _

theorem readG_kept {i : Nat} {w : Bool} {a : Word} {s s' : State} (h : readG i w s = .ok (a, s')) : Kept s s' := by
  simp only [readG, getT_bind] at h
  split at h
  · obtain ⟨rfl, -⟩ := readReg_kept h; exact Kept.refl _
  · obtain ⟨d, s1, h1, h⟩ := bind_eq_ok h
    cases h; exact readWindow_kept h1
theorem readV_kept {i : Nat} {w : Bool} {a : Vec} {s s' : State} (h : readV i w s = .ok (a, s')) : Kept s s' := by
  simp only [readV, getT_bind] at h
  split at h
  · obtain ⟨rfl, -⟩ := readReg_kept h; exact Kept.refl _
  · exact readWindow_kept h

/-- A g register that is full, with good parity, reads as its value and nothing changes (R37). -/
theorem readG_full {i : Nat} {w : Bool} {s : State} (hi : i < 56) (hf : tget .full (s.tile s.cur).regs.gFe i = .full)
    (hp : (RegKind.g, i) ∉ (s.tile s.cur).regs.parity) : readG i w s = .ok ((s.tile s.cur).regs.getG i, s) := by
  simp only [readG, getT_bind, hi, if_true, readReg, hf]
  rw [bind_ok (parityGood_ok hp)]; rfl
theorem readV_full {i : Nat} {w : Bool} {s : State} (hi : i < 248) (hf : tget .full (s.tile s.cur).regs.vFe i = .full)
    (hp : (RegKind.v, i) ∉ (s.tile s.cur).regs.parity) : readV i w s = .ok ((s.tile s.cur).regs.getV i, s) := by
  simp only [readV, getT_bind, hi, if_true, readReg, hf, Bool.false_eq_true, if_false]
  rw [bind_ok (parityGood_ok hp)]; rfl
/-- An empty g register holds the instruction, which is counted, or traps REGEMPTY with the wait bit (R37, R404). -/
theorem readG_empty {i : Nat} {w : Bool} {s : State} (hi : i < 56) (hf : tget .full (s.tile s.cur).regs.gFe i = .empty) :
    readG i w s = .error (if w then .trap 0x02 (regTaddr true i) else .empty) := by
  cases w
  · simp [readG, hi, readReg, hf]; rfl
  · simp [readG, hi, readReg, hf]

theorem readScalar_kept {a : Src} {v : Word} {s s' : State} (h : readScalar a s = .ok (v, s')) : Kept s s' := by
  cases a with
  | v i w =>
    simp only [readScalar] at h
    obtain ⟨d, s1, h1, h⟩ := bind_eq_ok h
    cases h; exact readV_kept h1
  | g i w => exact readG_kept h
  | c i =>
    simp only [readScalar, readC] at h
    obtain ⟨_, s1, h1, h2⟩ := bind_eq_ok h
    have h3 := (parityGood_kept h1).2
    cases h2; rw [h3]; exact Kept.refl _
  | lit c => cases h; exact Kept.refl _
theorem readElem_kept {ty : BitVec 4} {a : Src} {v : Nat} {s s' : State} (h : readElem ty a s = .ok (v, s')) : Kept s s' := by
  unfold readElem at h
  split at h
  · cases h; exact Kept.refl _
  · obtain ⟨d, s1, h1, h⟩ := bind_eq_ok h
    cases h; exact readScalar_kept h1
theorem readElems_kept {ty : BitVec 4} {n : Nat} {a : Src} {v : List Nat} {s s' : State}
    (h : readElems ty n a s = .ok (v, s')) : Kept s s' := by
  unfold readElems at h
  split at h
  · obtain ⟨d, s1, h1, h⟩ := bind_eq_ok h
    cases h; exact readV_kept h1
  · obtain ⟨d, s1, h1, h⟩ := bind_eq_ok h
    cases h; exact readElem_kept h1

/-- A destination that is free changes nothing by being checked. -/
theorem dstReady_kept {sc : Bool} {i : Nat} {m : BitVec 16} {s s' : State} (h : dstReady sc i m s = .ok ((), s')) : s' = s := by
  simp only [dstReady, getT_bind] at h
  by_cases hw : (if sc = true then 56 else 248) ≤ i
  · rw [if_pos hw] at h
    obtain ⟨_, s1, h1, h⟩ := bind_eq_ok h
    obtain ⟨-, rfl⟩ := need_ok h1
    exact (await_ok h).2
  · rw [if_neg hw] at h
    cases sc <;> simp only [Bool.false_eq_true, if_true, if_false] at h <;> split at h <;>
      [split at h; cases h; split at h; cases h] <;> first | (cases h; rfl) | exact (parityGood_kept h).2

/-! ## Issuing (R14, R399, R400) -/

/-- A tile that is not halted has no halt to record. -/
theorem haltLast_plain {s s' : State} (h : (s.tile s.cur).sch.halted = none) : haltLast s s' = s' := by
  simp [haltLast, h]

/-- The tile issues for itself: it is in no formed gang, no referee steps it, and it is not halted. -/
structure Solo (s : State) : Prop where
  gang : (s.tile s.cur).gang = none
  stepping : (s.tile s.cur).sch.stepping = false
  halted : (s.tile s.cur).sch.halted = none
/-- No tile is to halt after what it issues (R400). -/
theorem Solo.stepper {s : State} (a : Solo s) : stepper s s.cur = none := by
  simp [Machine.stepper, gangTiles, a.gang, a.stepping]

/-- A meaning that completes on a tile of no formed gang retires. -/
theorem issue_ok {i : Instr} {m : M Go} {s s' : State} {g : Go} (a : Solo s) (h : m s = .ok (g, s')) :
    issue i m s = .next (s'.modTile s.cur (·.retire g)) := by
  simp [issue, a.gang, issueOne, h, a.stepper, stepDone, haltLast_plain a.halted]
/-- A meaning that traps takes its trap. -/
theorem issue_trap {i : Instr} {m : M Go} {s : State} {c : Byte} {d : Word} (a : Solo s) (h : m s = .error (.trap c d)) :
    issue i m s = .next (takeTrap s s.cur c d) := by
  simp [issue, a.gang, issueOne, h, Stop.trapOf, a.stepper, stepDone, haltLast_plain a.halted]
theorem issue_illop {i : Instr} {m : M Go} {s : State} (a : Solo s) (h : m s = .error .illop) :
    issue i m s = .next (takeTrap s s.cur 0x01 (wordOf i)) := by
  simp [issue, a.gang, issueOne, h, Stop.trapOf, a.stepper, stepDone, haltLast_plain a.halted]
theorem issue_priv {i : Instr} {m : M Go} {s : State} (a : Solo s) (h : m s = .error .priv) :
    issue i m s = .next (takeTrap s s.cur 0x15 (wordOf i)) := by
  simp [issue, a.gang, issueOne, h, Stop.trapOf, a.stepper, stepDone, haltLast_plain a.halted]
/-- A meaning that holds leaves the state as it is, and issues again. -/
theorem issue_hold {i : Instr} {m : M Go} {s : State} (a : Solo s) (h : m s = .error .hold) : issue i m s = .next s := by
  simp [issue, a.gang, issueOne, h, Stop.trapOf, heldState, haltLast_plain a.halted]
/-- One that holds on an empty register counts the turn's cycles (R404). -/
theorem issue_empty {i : Instr} {m : M Go} {s : State} (a : Solo s) (h : m s = .error .empty) :
    issue i m s = .next (countHeld s s.cur) := by
  simp [issue, a.gang, issueOne, h, Stop.trapOf, heldState, haltLast_plain a.halted]
/-- One that has sent a request and holds for the reply leaves what it has sent. -/
theorem issue_sent {i : Instr} {m : M Go} {s s' : State} (a : Solo s) (h : m s = .error (.sent s')) : issue i m s = .next s' := by
  simp [issue, a.gang, issueOne, h, Stop.trapOf, heldState, haltLast_plain a.halted]
/-- An event that is enabled acts. -/
theorem occur_some {f : State → Option State} {s t : State} (h : f s = some t) : occur f s = .next t := by
  simp [occur, h]
theorem occur_none {f : State → Option State} {s : State} (h : f s = none) : occur f s = .next s := by
  simp [occur, h]

end Sys2Proof.Machine
end

