-- ==== Sys2Proof/Laws/Elements.lean ====
section
/-! SUPPORT. Elements of vectors: reading back packed elements, what `mapElems` computes, and what `alu` comes to (R45, R92). -/

namespace Sys2Proof.Machine

/-- Bit i of a mask. -/
theorem nbit_toNat {n : Nat} (m : BitVec n) (i : Nat) : nbit m.toNat i = m.getLsbD i := by
  simp [nbit, BitVec.getLsbD, Nat.testBit, Nat.shiftRight_eq_div_pow]

theorem ofElems_lt (w : Nat) (l : List Nat) : ofElems w l < 2 ^ (w * l.length) := by
  induction l with
  | nil => simp [ofElems]
  | cons a r ih =>
    simp only [ofElems, List.length_cons, Nat.mul_add, Nat.mul_one, pow_add]
    have : a % 2 ^ w < 2 ^ w := Nat.mod_lt _ (by positivity)
    have : 2 ^ w * ofElems w r + 2 ^ w ≤ 2 ^ w * 2 ^ (w * r.length) := by
      rw [← Nat.mul_succ]; exact Nat.mul_le_mul_left _ ih
    rw [Nat.mul_comm (2 ^ (w * r.length))]
    omega

/-- Element j of a packed list. -/
theorem elemOf_ofElems (w : Nat) (l : List Nat) (j : Nat) (h : j < l.length) : elemOf (ofElems w l) w j = l[j] % 2 ^ w := by
  induction l generalizing j with
  | nil => simp at h
  | cons a r ih =>
    have hp : 0 < 2 ^ w := by positivity
    have hm : a % 2 ^ w < 2 ^ w := Nat.mod_lt _ hp
    cases j with
    | zero => simp [elemOf, ofElems]
    | succ n =>
      simp only [List.getElem_cons_succ]
      rw [← ih n (by simpa using h)]
      simp only [elemOf, ofElems, Nat.mul_add, Nat.mul_one, pow_add]
      rw [Nat.mul_comm (2 ^ (w * n)), ← Nat.div_div_eq_div_mul, Nat.add_mul_div_left _ _ hp, Nat.div_eq_of_lt hm, Nat.zero_add]

/-- Elements below the width of a bit vector survive it. -/
theorem elemOf_mod (x n w j : Nat) (h : w * (j + 1) ≤ n) : elemOf (x % 2 ^ n) w j = elemOf x w j := by
  rw [Nat.mul_succ] at h
  have e : n = w * j + (n - w * j) := by omega
  have e2 : w ≤ n - w * j := by omega
  unfold elemOf
  rw [e, pow_add, Nat.mod_mul_right_div_self, Nat.mod_mod_of_dvd _ (pow_dvd_pow 2 e2)]

/-- Element j of a vector built from a list of elements. -/
theorem elemOf_vec (w : Nat) (l : List Nat) (j : Nat) (h : j < l.length) (hw : w * l.length ≤ 512) :
    elemOf (BitVec.ofNat 512 (ofElems w l)).toNat w j = l[j] % 2 ^ w := by
  have : w * (j + 1) ≤ 512 := le_trans (Nat.mul_le_mul_left w h) hw
  rw [BitVec.toNat_ofNat, elemOf_mod _ _ _ _ this, elemOf_ofElems w l j h]

theorem tyWidth_pos (ty : BitVec 4) : 0 < tyWidth ty := by
  revert ty; decide

/-- The flags of the enabled elements of n from j up. -/
def orFlags (m : BitVec 16) (w : Nat) (g : Nat → Res) : Nat → Nat → Flags
  | 0, _ => 0
  | n + 1, j => (if nbit m.toNat (w * j / 32) then (g j).fl else 0) ||| orFlags m w g n (j + 1)

theorem mapElems_length (en : Flags) (m : BitVec 16) (w : Nat) (g : Nat → Res) (n j : Nat) :
    (mapElems en m w g n j).codes.length = n := by
  induction n generalizing j with
  | zero => rfl
  | succ n ih => simp only [mapElems]; split <;> simp [ih]

theorem mapElems_fl (en : Flags) (m : BitVec 16) (w : Nat) (g : Nat → Res) (n j : Nat) :
    (mapElems en m w g n j).fl = orFlags m w g n j := by
  induction n generalizing j with
  | zero => rfl
  | succ n ih => simp only [mapElems, orFlags]; split <;> simp [ih]

theorem mapElems_code (en : Flags) (m : BitVec 16) (w : Nat) (g : Nat → Res) (n j i : Nat) (h : i < n) :
    (mapElems en m w g n j).codes[i]? = some (if nbit m.toNat (w * (j + i) / 32) then (g (j + i)).code else 0) := by
  induction n generalizing j i with
  | zero => omega
  | succ n ih =>
    cases i with
    | zero => simp only [mapElems]; split <;> simp [*]
    | succ k =>
      have := ih (j + 1) k (by omega)
      rw [show j + 1 + k = j + (k + 1) by omega] at this
      simp only [mapElems]; split <;> simpa using this

/-- Flags none of which is enabled raise no FPTRAP (R83). -/
theorem checkFp_quiet {fl : Flags} {l : BitVec 16} {s : State} (h : fl &&& (s.tile s.cur).csr.ftrap.setWidth 7 = 0) :
    checkFp fl l s = .ok ((), s) := by
  have h' : fl &&& BitVec.setWidth 7 (s.tile s.cur).csr.ftrap = 0#7 := h
  simp [checkFp, h']
/-- A flag enabled in FTRAP stops the instruction with FPTRAP (R83). -/
theorem checkFp_trap {fl : Flags} {l : BitVec 16} {s : State} (h : fl &&& (s.tile s.cur).csr.ftrap.setWidth 7 ≠ 0) :
    checkFp fl l s = .error (.fptrap fl (BitVec.ofNat 64 ((fl &&& (s.tile s.cur).csr.ftrap.setWidth 7).toNat + 65536 * l.toNat))) := by
  have h' : ¬ fl &&& BitVec.setWidth 7 (s.tile s.cur).csr.ftrap = 0#7 := h
  simp [checkFp, h']; rfl
theorem needMode_ok {s : State} (h : (s.tile s.cur).csr.mode < 6) : needMode s = .ok ((), s) := by
  have : ¬ 6 ≤ (s.tile s.cur).csr.mode := by omega
  simp [needMode, this]
theorem needMode_bad {s : State} (h : 6 ≤ (s.tile s.cur).csr.mode) :
    needMode s = .error (.trap 0x14 (BitVec.ofNat 64 (nfld (s.tile s.cur).csr.rmode.toNat 0 4))) := by
  simp [needMode, h]

end Sys2Proof.Machine
end

