-- ==== Sys2Proof/Laws/Memory.lean ====
section
/-! SUPPORT. Every memory operation keeps the canonical form of a memory: writes, copies and clears of bytes, the operations on a
store and at a home, and reads that follow a write. -/

namespace Sys2Proof.Machine

/-! ## Memories -/

theorem wf_tset (m : Memory) (a : Nat) (b : Byte) (w : m.wf = true) : Memory.wf (tset 0 m a b) = true := twf_tset 0 m a b w
theorem wf_filter (m : Memory) (p : Host.Cell → Bool) (w : m.wf = true) : Memory.wf (m.filter p) = true := twf_filter 0 p m w
/-- Cells set one after another. -/
theorem wf_foldl_tset {α : Type} (l : List α) (k : α → Nat) (b : α → Byte) (m : Memory) (w : m.wf = true) :
    Memory.wf (l.foldl (fun m e => tset 0 m (k e) (b e)) m) = true := by
  induction l generalizing m with
  | nil => exact w
  | cons e r ih => exact ih _ (wf_tset m _ _ w)
/-- Runs of bytes written one after another. -/
theorem wf_foldl_write {α : Type} (l : List α) (k : α → Nat) (b : α → List Byte) (m : Memory) (w : m.wf = true) :
    Memory.wf (l.foldl (fun m e => writeBytes m (k e) (b e)) m) = true := by
  induction l generalizing m with
  | nil => exact w
  | cons e r ih => exact ih _ (wf_writeBytes m _ _ w)
theorem wf_copyRange (m : Memory) (src dst n : Nat) (w : m.wf = true) : (copyRange m src dst n).wf = true :=
  wf_foldl_tset _ _ _ _ (wf_filter m _ w)
theorem wf_copyCells (src dst : Memory) (a b n : Nat) (w : dst.wf = true) : (copyCells src dst a b n).wf = true :=
  wf_foldl_tset _ _ _ _ (wf_filter dst _ w)
theorem wf_feCells (st : Store) : (feCells st).wf = true := wf_foldl_tset _ _ _ _ (by decide)
/-- Steps each of which keeps the form. -/
theorem wf_foldl {α : Type} (f : Memory → α → Memory) (hf : ∀ m e, m.wf = true → (f m e).wf = true) (l : List α) :
    ∀ m : Memory, m.wf = true → (l.foldl f m).wf = true := by
  induction l with
  | nil => exact fun _ w => w
  | cons e r ih => exact fun m w => ih _ (hf m e w)
theorem wf_write2 (m : Memory) (a b : Nat) (p q : List Byte) (w : m.wf = true) :
    (writeBytes (writeBytes m a p) b q).wf = true :=
  wf_writeBytes _ _ _ (wf_writeBytes _ _ _ w)
theorem wf_putTokens (m : Memory) (p t k : Nat) (l : List Token) (w : m.wf = true) : (putTokens m p t k l).wf = true :=
  wf_foldl _ (fun _ _ w => wf_write2 _ _ _ _ _ w) _ _ w
theorem wf_putQueues (x : Tile) (m : Memory) (w : m.wf = true) : (putQueues x m).wf = true :=
  wf_putTokens _ _ _ _ _ (wf_putTokens _ _ _ _ _ (wf_foldl_write _ _ _ _
    (wf_writeBytes _ _ _ (wf_write2 _ _ _ _ _ (wf_writeBytes _ _ _ w)))))
theorem wf_putBuffer (x : Tile) (m : Memory) (w : m.wf = true) : (putBuffer x m).wf = true :=
  wf_foldl _ (fun _ _ w => wf_write2 _ _ _ _ _ w) _ _ w
theorem wf_putRecords (x : Tile) (m : Memory) (w : m.wf = true) : (putRecords x m).wf = true := by
  unfold putRecords
  exact wf_foldl_write _ _ _ _ (wf_foldl _ (fun _ _ w => wf_writeBytes _ _ _ w) _ _ w)
theorem wf_putBeside (a b : List Beside) (m : Memory) (w : m.wf = true) : (putBeside a b m).wf = true :=
  wf_foldl _ (fun _ _ w => wf_write2 _ _ _ _ _ w) _ _ (wf_writeBytes _ _ _ w)
theorem wf_blockCells (x : Tile) (l : List Beside) : (blockCells x l).wf = true :=
  wf_copyCells _ _ _ _ _ (wf_copyCells _ _ _ _ _ (wf_putBuffer _ _ (wf_putRecords _ _ (wf_putBeside _ _ _ (wf_putQueues _ _
    (wf_foldl_write _ _ _ _ (by decide)))))))
/-- What was written is read back. -/
theorem readBytes_writeBytes (m : Memory) (a : Nat) (bs : List Byte) (w : m.wf = true) :
    readBytes (writeBytes m a bs) a bs.length = bs := by
  apply List.ext_getElem
  · simp [readBytes]
  · intro i h1 h2
    simp only [readBytes, List.getElem_map, List.getElem_range]
    exact read_writeBytes_inside m a i bs w h2
/-- A read that meets no written byte gives what it gave. -/
theorem readBytes_writeBytes_apart (m : Memory) (a b n : Nat) (bs : List Byte) (w : m.wf = true)
    (h : b + n ≤ a ∨ a + bs.length ≤ b) : readBytes (writeBytes m a bs) b n = readBytes m b n := by
  simp only [readBytes]
  refine List.map_congr_left fun i hi => read_writeBytes_outside m a (b + i) bs w ?_
  have := List.mem_range.1 hi
  omega

/-! ## Stores -/

theorem wf_put (st : Store) (a : Nat) (bs : List Byte) (w : st.bytes.wf = true) : (st.put a bs).bytes.wf = true :=
  wf_writeBytes st.bytes a bs w
@[simp] theorem setFe_bytes (st : Store) (k : Nat) (b : Bool) : (st.setFe k b).bytes = st.bytes := rfl
@[simp] theorem setFes_bytes (st : Store) (k : Nat) (b : Bool) (n : Nat) : (st.setFes k b n).bytes = st.bytes := by
  induction n generalizing st k with
  | zero => rfl
  | succ n ih => exact ih (st.setFe k b) (k + 1)
theorem setFes_bad (st : Store) (k : Nat) (b : Bool) (n : Nat) :
    (st.setFes k b n).bad1 = st.bad1 ∧ (st.setFes k b n).bad2 = st.bad2 := by
  induction n generalizing st k with
  | zero => exact ⟨rfl, rfl⟩
  | succ n ih => exact ih (st.setFe k b) (k + 1)
@[simp] theorem scrub_bytes (st : Store) (a n : Nat) : (st.scrub a n).bytes = st.bytes := by
  unfold Store.scrub
  split <;> rfl
theorem wf_copyPage (st : Store) (a b n : Nat) (w : st.bytes.wf = true) : (st.copyPage a b n).bytes.wf = true :=
  wf_copyRange st.bytes a b n w

/-! ## The stores of a state -/

@[simp] theorem tile_modTile (s : State) (t : Nat) (f : Tile → Tile) : (s.modTile t f).tile t = f (s.tile t) :=
  tget_tput_same _ _ _ _
/-- Every store of the module and the host is canonical. -/
def MemWf (s : State) : Prop :=
  s.dram.bytes.wf = true ∧ s.hostMem.wf = true ∧ ∀ e ∈ s.tiles, e.2.store.bytes.wf = true
theorem memWf_reset : MemWf State.reset := ⟨by decide, by decide, fun e h => by cases h⟩
/-- A lookup gives an entry of the table or the default. -/
theorem tget_cases {α : Type} (d : α) (t : List (Nat × α)) (k : Nat) : (∃ e ∈ t, tget d t k = e.2) ∨ tget d t k = d := by
  induction t with
  | nil => exact .inr rfl
  | cons e r ih =>
    obtain ⟨j, x⟩ := e
    by_cases h1 : k = j
    · exact .inl ⟨(j, x), .head _, by simp [tget, h1]⟩
    · by_cases h2 : k < j
      · exact .inr (by simp [tget, h1, h2])
      · rcases ih with ⟨e, he, h⟩ | h
        · exact .inl ⟨e, .tail _ he, by simp [tget, h1, h2, h]⟩
        · exact .inr (by simp [tget, h1, h2, h])
theorem MemWf.tile {s : State} (w : MemWf s) (t : Nat) : (s.tile t).store.bytes.wf = true := by
  rcases tget_cases ({} : Tile) s.tiles t with ⟨e, he, h⟩ | h
  · unfold State.tile
    rw [h]
    exact w.2.2 e he
  · unfold State.tile
    rw [h]
    decide
theorem MemWf.home {s : State} (w : MemWf s) (h : Home) : (s.homeStore h).1.bytes.wf = true := by
  cases h with
  | tile t off => exact w.tile t
  | dram pa => exact w.1
  | host pa => exact w.2.1
theorem MemWf.modTile {s : State} (w : MemWf s) (t : Nat) (f : Tile → Tile) (h : (f (s.tile t)).store.bytes.wf = true) :
    MemWf (s.modTile t f) := by
  refine ⟨w.1, w.2.1, fun e he => ?_⟩
  rcases mem_tput he with rfl | he
  · exact h
  · exact w.2.2 e he
theorem MemWf.putHome {s : State} (w : MemWf s) (h : Home) (st : Store) (k : st.bytes.wf = true) : MemWf (s.putHome h st) := by
  cases h with
  | tile t off => exact w.modTile t _ k
  | dram pa => exact ⟨k, w.2.1, w.2.2⟩
  | host pa => exact ⟨w.1, k, w.2.2⟩
theorem MemWf.digestWrite {s : State} (w : MemWf s) (h : Home) (n : Nat) (st st' : Store) :
    MemWf (digestWrite s h n st st') := by
  unfold Machine.digestWrite
  split
  · exact w
  · exact w
theorem MemWf.rawWrite {s : State} (w : MemWf s) (h : Home) (bs : List Byte) : MemWf (rawWrite s h bs) :=
  (w.putHome h _ (wf_put _ _ _ (w.home h))).digestWrite _ _ _ _
theorem MemWf.event {s : State} (w : MemWf s) (o a b c d e : Nat) (x y : Word) : MemWf (event s o a b c d e x y) := by
  unfold Machine.event
  split
  · exact w
  · dsimp only
    split
    · exact w
    · split
      · exact w
      · exact w.rawWrite _ _
theorem MemWf.closeWindow {s : State} (w : MemWf s) (k : Window) : MemWf (closeWindow s k) := by
  unfold Machine.closeWindow
  split
  · exact w.event _ _ _ _ _ _ _ _
  · exact w.rawWrite (.dram k.pa) _
theorem MemWf.closeWindows {s : State} (w : MemWf s) (p : Window → Bool) : MemWf (closeWindows s p) := by
  have fold (l : List Window) : ∀ s, MemWf s → MemWf (l.foldl Machine.closeWindow s) := by
    induction l with
    | nil => exact fun _ h => h
    | cons k r ih => exact fun _ h => ih _ (h.closeWindow k)
  simp only [Machine.closeWindows]
  split
  · exact w
  · exact fold _ _ w
theorem MemWf.touchWindows {s : State} (w : MemWf s) (h : Home) (n : Nat) : MemWf (touchWindows s h n) := by
  cases h with
  | dram pa => exact w.closeWindows _
  | tile t off => exact w
  | host pa => exact w
theorem MemWf.homeRead {s t : State} (w : MemWf s) {h : Home} {n : Nat} {bs : List Byte} (e : homeRead s h n = .ok (bs, t)) :
    MemWf t := by
  have k := w.touchWindows h n
  simp only [Machine.homeRead] at e
  split at e
  · cases e
  · split at e
    · cases e
      exact k
    · cases e
      exact k.putHome h _ (by rw [scrub_bytes]; exact k.home h)
theorem MemWf.keepWrite {s : State} (w : MemWf s) (h : Home) (bs : List Byte) : MemWf (keepWrite s h bs) := by
  cases h with
  | tile t off =>
    simp only [Machine.keepWrite]
    split
    · exact w
    · exact w.modTile t _ (w.tile t)
  | dram pa => exact w
  | host pa => exact w
theorem MemWf.homeWrite {s t : State} (w : MemWf s) {h : Home} {bs : List Byte} (e : homeWrite s h bs = .ok t) : MemWf t := by
  simp only [Machine.homeWrite] at e
  split at e
  · cases e
  · cases e
    exact ((w.touchWindows h _).rawWrite h bs).keepWrite h bs
theorem MemWf.setFull {s : State} (w : MemWf s) (h : Home) (n : Nat) (b : Bool) : MemWf (setFull s h n b) := by
  cases h with
  | tile t off => exact w.putHome (.tile t off) _ (by rw [setFes_bytes]; exact w.home (.tile t off))
  | dram pa => exact w.putHome (.dram pa) _ (by rw [setFes_bytes]; exact w.home (.dram pa))
  | host pa => exact w
theorem MemWf.setPteBit {s : State} (w : MemWf s) (a b : Nat) : MemWf (setPteBit s a b) := by
  simp only [Machine.setPteBit]
  split
  · exact w.event _ _ _ _ _ _ _ _
  · split
    · exact w
    · exact w.rawWrite _ _
theorem MemWf.switchPage {s : State} (w : MemWf s) (c va newPa : Nat) (slice : Option (BitVec 8)) (e : Nat × Nat × Nat) :
    MemWf (switchPage s c va newPa slice e) := (w.touchWindows _ _).rawWrite _ _
theorem MemWf.zeroGranule {s : State} (w : MemWf s) (g : Nat) : MemWf (zeroGranule s g) :=
  ⟨wf_filter _ _ w.1, w.2.1, w.2.2⟩
theorem MemWf.setDirty {s : State} (w : MemWf s) (a : Nat) : MemWf (setDirty s a) := by
  unfold Machine.setDirty
  split
  · exact w
  · exact w.setPteBit _ _
theorem MemWf.setDram {s : State} (w : MemWf s) {st : Store} (k : st.bytes.wf = true) : MemWf { s with dram := st } :=
  ⟨k, w.2.1, w.2.2⟩
/-- A store of a save area keeps the form. -/
theorem MemWf.saveStore {s u : State} (w : MemWf s) {t c va from_ n : Nat} {m : Memory}
    (e : saveStore s t c va m from_ n = .ok u) : MemWf u := by
  unfold Machine.saveStore at e
  dsimp only at e
  split at e
  · cases e
  · split at e
    · cases e
    · split at e
      · cases e
      · cases e
        refine MemWf.digestWrite (MemWf.setDram (((w.touchWindows _ _).setPteBit _ _).setDirty _) (wf_copyCells _ _ _ _ _ ?_)) _ _ _ _
        exact (((w.touchWindows _ _).setPteBit _ _).setDirty _).1
theorem MemWf.writePieces {m : Memory} {t c base : Nat} (k : Nat) :
    ∀ {s : State} (off : Nat), MemWf s → MemWf (writePieces s t c base m off k).1 := by
  induction k with
  | zero => exact fun _ w => w
  | succ k ih =>
    intro s off w
    unfold Machine.writePieces
    split
    · rename_i u h
      exact ih _ (w.saveStore h)
    · exact w
    · exact w

end Sys2Proof.Machine
end

