-- ==== Sys2Proof/Laws/Numbers.lean ====
section
/-! SUPPORT. The integer helpers as bit vectors: two's complement, wrapping, the bits of logic operations. -/

namespace Sys2Proof.Machine

theorem toSigned_eq (w x : Nat) : toSigned w x = (BitVec.ofNat w x).toInt := by
  simp only [toSigned, BitVec.toInt, BitVec.toNat_ofNat]
  split <;> simp
theorem wrapN_eq (w : Nat) (z : Int) : wrapN w z = (BitVec.ofInt w z).toNat := by
  simp [wrapN, BitVec.toNat_ofInt]
theorem wrapN_lt (w : Nat) (z : Int) : wrapN w z < 2 ^ w := by
  rw [wrapN_eq]; exact (BitVec.ofInt w z).isLt

/-- A wrapped or clamped integer fits its width. -/
theorem fitInt_lt (w : Nat) (sgn sat : Bool) (x : Int) : (fitInt w sgn sat x).code < 2 ^ w := by
  unfold fitInt; split
  · split
    · exact wrapN_lt _ _
    · split <;> exact wrapN_lt _ _
  · exact wrapN_lt _ _

theorem notN_eq (w a : Nat) : notN w a = (~~~ BitVec.ofNat w a).toNat := by
  simp [notN, BitVec.toNat_not]

end Sys2Proof.Machine
end

