-- ==== Sys2Proof/Tests/Slice0.lean ====
section
/-! SUPPORT. Tests: a word of every instruction written out from R43 and R55 and what it decodes to, the checks of
WellFormed.lean, one-step results worked out by hand, and for every statement of Obligations.lean a witness of its hypotheses. -/

set_option maxRecDepth 20000
set_option linter.unusedVariables false

namespace Sys2Proof.Tests

open Sys2Proof Sys2Proof.Machine Sys2Proof.Spec

/-! Decoding: one word for every instruction, its fields placed by R43 and its opcode taken from R55. -/

theorem test_decode_integer_1 :
    decode 0x0008000000000000 = some (.nop ⟨⟨2, false⟩, false, 0, .v 0 false, .v 0 false, .v 0 false, 0, false, 0⟩) ∧
    decode 0x004E1220C024001C = some (.add ⟨⟨3, true⟩, false, 18, .v 6 true, .v 9 false, .v 0 false, 3, true, 0⟩) ∧
    decode 0x00901320E024001C = some (.sub ⟨⟨4, false⟩, false, 19, .v 7 true, .v 9 false, .v 0 false, 3, true, 0⟩) ∧
    decode 0x00D614210024001C = some (.mul ⟨⟨5, true⟩, false, 20, .v 8 true, .v 9 false, .v 0 false, 3, true, 0⟩) ∧
    decode 0x0118152120240010 = some (.mulh ⟨⟨6, false⟩, false, 21, .v 9 true, .v 9 false, .v 0 false, 2, false, 0⟩) ∧
    decode 0x015E162140240018 = some (.mulhn ⟨⟨7, true⟩, false, 22, .v 10 true, .v 9 false, .v 0 false, 3, false, 0⟩) ∧
    decode 0x01A0172160240014 = some (.div ⟨⟨8, false⟩, false, 23, .v 11 true, .v 9 false, .v 0 false, 2, true, 0⟩) ∧
    decode 0x01CA182180240018 = some (.divn ⟨⟨2, true⟩, false, 24, .v 12 true, .v 9 false, .v 0 false, 3, false, 0⟩) ∧
    decode 0x020C1921A0240010 = some (.rem ⟨⟨3, false⟩, false, 25, .v 13 true, .v 9 false, .v 0 false, 2, false, 0⟩) ∧
    decode 0x02521A21C0240018 = some (.remn ⟨⟨4, true⟩, false, 26, .v 14 true, .v 9 false, .v 0 false, 3, false, 0⟩) ∧
    decode 0x02941B21E0000014 = some (.neg ⟨⟨5, false⟩, false, 27, .v 15 true, .v 0 false, .v 0 false, 2, true, 0⟩) ∧
    decode 0x02DA1C20A0000014 = some (.abs ⟨⟨6, true⟩, false, 28, .v 5 true, .v 0 false, .v 0 false, 2, true, 0⟩) ∧
    decode 0x031C1D20C0240010 = some (.min ⟨⟨7, false⟩, false, 29, .v 6 true, .v 9 false, .v 0 false, 2, false, 0⟩) ∧
    decode 0x03621E20E0240010 = some (.max ⟨⟨8, true⟩, false, 30, .v 7 true, .v 9 false, .v 0 false, 2, false, 0⟩) ∧
    decode 0x03881F2100240018 = some (.minn ⟨⟨2, false⟩, false, 31, .v 8 true, .v 9 false, .v 0 false, 3, false, 0⟩) ∧
    decode 0x03CE202120240018 = some (.maxn ⟨⟨3, true⟩, false, 32, .v 9 true, .v 9 false, .v 0 false, 3, false, 0⟩) := by decide
theorem test_decode_integer_2 :
    decode 0x0410212140240018 = some (.and ⟨⟨4, false⟩, false, 33, .v 10 true, .v 9 false, .v 0 false, 3, false, 0⟩) ∧
    decode 0x0456222160240018 = some (.or ⟨⟨5, true⟩, false, 34, .v 11 true, .v 9 false, .v 0 false, 3, false, 0⟩) ∧
    decode 0x0498232180240018 = some (.xor ⟨⟨6, false⟩, false, 35, .v 12 true, .v 9 false, .v 0 false, 3, false, 0⟩) ∧
    decode 0x04DE2421A0240018 = some (.andn ⟨⟨7, true⟩, false, 36, .v 13 true, .v 9 false, .v 0 false, 3, false, 0⟩) ∧
    decode 0x05202521C0240018 = some (.orn ⟨⟨8, false⟩, false, 37, .v 14 true, .v 9 false, .v 0 false, 3, false, 0⟩) ∧
    decode 0x054A2621E0000018 = some (.not ⟨⟨2, true⟩, false, 38, .v 15 true, .v 0 false, .v 0 false, 3, false, 0⟩) ∧
    decode 0x058C2720A024001C = some (.shl ⟨⟨3, false⟩, false, 39, .v 5 true, .v 9 false, .v 0 false, 3, true, 0⟩) ∧
    decode 0x05D22820C0240018 = some (.shr ⟨⟨4, true⟩, false, 40, .v 6 true, .v 9 false, .v 0 false, 3, false, 0⟩) ∧
    decode 0x06142920E0240018 = some (.sra ⟨⟨5, false⟩, false, 41, .v 7 true, .v 9 false, .v 0 false, 3, false, 0⟩) ∧
    decode 0x065A2A2100240018 = some (.rol ⟨⟨6, true⟩, false, 42, .v 8 true, .v 9 false, .v 0 false, 3, false, 0⟩) ∧
    decode 0x069C2B2120000018 = some (.clz ⟨⟨7, false⟩, false, 43, .v 9 true, .v 0 false, .v 0 false, 3, false, 0⟩) ∧
    decode 0x06E22C2140000018 = some (.ctz ⟨⟨8, true⟩, false, 44, .v 10 true, .v 0 false, .v 0 false, 3, false, 0⟩) ∧
    decode 0x07082D2160000018 = some (.popc ⟨⟨2, false⟩, false, 45, .v 11 true, .v 0 false, .v 0 false, 3, false, 0⟩) ∧
    decode 0x074E2E2180000018 = some (.brev ⟨⟨3, true⟩, false, 46, .v 12 true, .v 0 false, .v 0 false, 3, false, 0⟩) ∧
    decode 0x07902F21A0240018 = some (.bext ⟨⟨4, false⟩, false, 47, .v 13 true, .v 9 false, .v 0 false, 3, false, 0⟩) ∧
    decode 0x07D63021C80E0218 = some (.bins ⟨⟨5, true⟩, false, 48, .v 14 true, .g 3 false, .c 4, 3, false, 0⟩) := by decide
theorem test_decode_integer_3 :
    decode 0x08183121E0000018 = some (.sext ⟨⟨6, false⟩, false, 49, .v 15 true, .v 0 false, .v 0 false, 3, false, 0⟩) ∧
    decode 0x085E3220A0000018 = some (.zext ⟨⟨7, true⟩, false, 50, .v 5 true, .v 0 false, .v 0 false, 3, false, 0⟩) ∧
    decode 0x08A03320C024001A = some (.cmp ⟨⟨8, false⟩, false, 51, .v 6 true, .v 9 false, .v 0 false, 3, false, 2⟩) ∧
    decode 0x08CA3420E80E0218 = some (.sel ⟨⟨2, true⟩, false, 52, .v 7 true, .g 3 false, .c 4, 3, false, 0⟩) ∧
    decode 0x090C352100000018 = some (.mov ⟨⟨3, false⟩, false, 53, .v 8 true, .v 0 false, .v 0 false, 3, false, 0⟩) ∧
    decode 0x09531B001FFFFFF5 = some (.movi ⟨⟨4, true⟩, true, 27, .v 0 false, 0x1ffffff5⟩) ∧
    decode 0x09951C613FFFFFF6 = some (.movhi ⟨⟨5, false⟩, true, 28, .g 9 true, 0x1ffffff6⟩) ∧
    decode 0x09DB1D613FFFFFF7 = some (.addi ⟨⟨6, true⟩, true, 29, .g 9 true, 0x1ffffff7⟩) ∧
    decode 0x0A1D1F0681FFF900 = some (.lea ⟨⟨7, false⟩, true, 31, 6, true, 0, 0, 0xfffc8, 0⟩) ∧
    decode 0x0A621221A024001A = some (.sadd ⟨⟨8, true⟩, false, 18, .v 13 true, .v 9 false, .v 0 false, 3, false, 2⟩) ∧
    decode 0x0A881321C024001A = some (.ssub ⟨⟨2, false⟩, false, 19, .v 14 true, .v 9 false, .v 0 false, 3, false, 2⟩) := by decide
theorem test_decode_float_1 :
    decode 0x200E1421E024004C = some (.fadd ⟨⟨3, true⟩, false, 20, .v 15 true, .v 9 false, .v 0 false, 9, true, 0⟩) ∧
    decode 0x20501520A024004C = some (.fsub ⟨⟨4, false⟩, false, 21, .v 5 true, .v 9 false, .v 0 false, 9, true, 0⟩) ∧
    decode 0x20961620C024004C = some (.fmul ⟨⟨5, true⟩, false, 22, .v 6 true, .v 9 false, .v 0 false, 9, true, 0⟩) ∧
    decode 0x20D81720E80E024C = some (.fma ⟨⟨6, false⟩, false, 23, .v 7 true, .g 3 false, .c 4, 9, true, 0⟩) ∧
    decode 0x211E1821080E024C = some (.fms ⟨⟨7, true⟩, false, 24, .v 8 true, .g 3 false, .c 4, 9, true, 0⟩) ∧
    decode 0x21601921280E024C = some (.fnma ⟨⟨8, false⟩, false, 25, .v 9 true, .g 3 false, .c 4, 9, true, 0⟩) ∧
    decode 0x218A1A2140240048 = some (.fmin ⟨⟨2, true⟩, false, 26, .v 10 true, .v 9 false, .v 0 false, 9, false, 0⟩) ∧
    decode 0x21CC1B2160240048 = some (.fmax ⟨⟨3, false⟩, false, 27, .v 11 true, .v 9 false, .v 0 false, 9, false, 0⟩) ∧
    decode 0x22121C2180240048 = some (.fminp ⟨⟨4, true⟩, false, 28, .v 12 true, .v 9 false, .v 0 false, 9, false, 0⟩) ∧
    decode 0x22541D21A0240048 = some (.fmaxp ⟨⟨5, false⟩, false, 29, .v 13 true, .v 9 false, .v 0 false, 9, false, 0⟩) ∧
    decode 0x229A1E21C0000048 = some (.fabs ⟨⟨6, true⟩, false, 30, .v 14 true, .v 0 false, .v 0 false, 9, false, 0⟩) ∧
    decode 0x22DC1F21E0000048 = some (.fneg ⟨⟨7, false⟩, false, 31, .v 15 true, .v 0 false, .v 0 false, 9, false, 0⟩) ∧
    decode 0x23222020A0240048 = some (.fsgn ⟨⟨8, true⟩, false, 32, .v 5 true, .v 9 false, .v 0 false, 9, false, 0⟩) ∧
    decode 0x23482120C024004A = some (.fcmp ⟨⟨2, false⟩, false, 33, .v 6 true, .v 9 false, .v 0 false, 9, false, 2⟩) ∧
    decode 0x238E2220E0000048 = some (.fclass ⟨⟨3, true⟩, false, 34, .v 7 true, .v 0 false, .v 0 false, 9, false, 0⟩) ∧
    decode 0x23D023210000004C = some (.frcp ⟨⟨4, false⟩, false, 35, .v 8 true, .v 0 false, .v 0 false, 9, true, 0⟩) := by decide
theorem test_decode_float_2 :
    decode 0x2416242120000048 = some (.frsq ⟨⟨5, true⟩, false, 36, .v 9 true, .v 0 false, .v 0 false, 9, false, 0⟩) ∧
    decode 0x2458252140000048 = some (.fsqrt ⟨⟨6, false⟩, false, 37, .v 10 true, .v 0 false, .v 0 false, 9, false, 0⟩) ∧
    decode 0x249E26216024004C = some (.fdiv ⟨⟨7, true⟩, false, 38, .v 11 true, .v 9 false, .v 0 false, 9, true, 0⟩) ∧
    decode 0x24E027218000004C = some (.fexp2 ⟨⟨8, false⟩, false, 39, .v 12 true, .v 0 false, .v 0 false, 9, true, 0⟩) ∧
    decode 0x250A2821A0000048 = some (.flog2 ⟨⟨2, true⟩, false, 40, .v 13 true, .v 0 false, .v 0 false, 9, false, 0⟩) ∧
    decode 0x254C2921C0000048 = some (.fsin ⟨⟨3, false⟩, false, 41, .v 14 true, .v 0 false, .v 0 false, 9, false, 0⟩) ∧
    decode 0x25922A21E0000048 = some (.fcos ⟨⟨4, true⟩, false, 42, .v 15 true, .v 0 false, .v 0 false, 9, false, 0⟩) ∧
    decode 0x25D42B20A0000048 = some (.fsinpi ⟨⟨5, false⟩, false, 43, .v 5 true, .v 0 false, .v 0 false, 9, false, 0⟩) ∧
    decode 0x261A2C20C0000048 = some (.fcospi ⟨⟨6, true⟩, false, 44, .v 6 true, .v 0 false, .v 0 false, 9, false, 0⟩) ∧
    decode 0x265C2D20E0000048 = some (.ftanh ⟨⟨7, false⟩, false, 45, .v 7 true, .v 0 false, .v 0 false, 9, false, 0⟩) ∧
    decode 0x26A22E2100000048 = some (.fsigm ⟨⟨8, true⟩, false, 46, .v 8 true, .v 0 false, .v 0 false, 9, false, 0⟩) ∧
    decode 0x26C82F2120000049 = some (.frnd ⟨⟨2, false⟩, false, 47, .v 9 true, .v 0 false, .v 0 false, 9, false, 1⟩) ∧
    decode 0x270E30214000001D = some (.cvt ⟨⟨3, true⟩, false, 48, .v 10 true, .v 0 false, .v 0 false, 3, true, 1⟩) ∧
    decode 0x275031216024004C = some (.fscale ⟨⟨4, false⟩, false, 49, .v 11 true, .v 9 false, .v 0 false, 9, true, 0⟩) ∧
    decode 0x2796322180000048 = some (.fgetexp ⟨⟨5, true⟩, false, 50, .v 12 true, .v 0 false, .v 0 false, 9, false, 0⟩) := by decide
theorem test_decode_lanes_1 :
    decode 0x40183321A0240018 = some (.vperm ⟨⟨6, false⟩, false, 51, .v 13 true, .v 9 false, .v 0 false, 3, false, 0⟩) ∧
    decode 0x405E3421C80C0018 = some (.vbcast ⟨⟨7, true⟩, false, 52, .v 14 true, .g 3 false, .v 0 false, 3, false, 0⟩) ∧
    decode 0x40A03521E80C0018 = some (.vrot ⟨⟨8, false⟩, false, 53, .v 15 true, .g 3 false, .v 0 false, 3, false, 0⟩) ∧
    decode 0x40CA3620A80E0218 = some (.vslide ⟨⟨2, true⟩, false, 54, .v 5 true, .g 3 false, .c 4, 3, false, 0⟩) ∧
    decode 0x410C3720C000001C = some (.vred ⟨⟨3, false⟩, false, 55, .v 6 true, .v 0 false, .v 0 false, 3, true, 0⟩) ∧
    decode 0x41523820E0000048 = some (.vredx ⟨⟨4, true⟩, false, 56, .v 7 true, .v 0 false, .v 0 false, 9, false, 0⟩) ∧
    decode 0x419411210000001D = some (.vscan ⟨⟨5, false⟩, false, 17, .v 8 true, .v 0 false, .v 0 false, 3, true, 1⟩) ∧
    decode 0x41DA1221280C0000 = some (.vcmpr ⟨⟨6, true⟩, false, 18, .v 9 true, .g 3 false, .v 0 false, 0, false, 0⟩) ∧
    decode 0x421C1321480C0000 = some (.vxpd ⟨⟨7, false⟩, false, 19, .v 10 true, .g 3 false, .v 0 false, 0, false, 0⟩) ∧
    decode 0x42621421680E0200 = some (.vlane ⟨⟨8, true⟩, false, 20, .v 11 true, .g 3 false, .c 4, 0, false, 0⟩) ∧
    decode 0x4289038098080000 = some (.kand ⟨⟨2, false⟩, true, 3, .c 4, .lit 0x2, .v 0 false, 0, false, 0⟩) ∧
    decode 0x42CF038098080000 = some (.kor ⟨⟨3, true⟩, true, 3, .c 4, .lit 0x2, .v 0 false, 0, false, 0⟩) ∧
    decode 0x4311038098080000 = some (.kxor ⟨⟨4, false⟩, true, 3, .c 4, .lit 0x2, .v 0 false, 0, false, 0⟩) ∧
    decode 0x4357038080000000 = some (.knot ⟨⟨5, true⟩, true, 3, .c 4, .v 0 false, .v 0 false, 0, false, 0⟩) ∧
    decode 0x4399308080000000 = some (.kpop ⟨⟨6, false⟩, true, 48, .c 4, .v 0 false, .v 0 false, 0, false, 0⟩) ∧
    decode 0x43DF318080000000 = some (.kfirst ⟨⟨7, true⟩, true, 49, .c 4, .v 0 false, .v 0 false, 0, false, 0⟩) := by decide
theorem test_decode_lanes_2 :
    decode 0x44210320E0000002 = some (.kmov ⟨⟨8, false⟩, true, 3, .v 7 true, .v 0 false, .v 0 false, 0, false, 2⟩) ∧
    decode 0x444A1C210024001C = some (.vpack ⟨⟨2, true⟩, false, 28, .v 8 true, .v 9 false, .v 0 false, 3, true, 0⟩) ∧
    decode 0x448C1D2120000019 = some (.vunpk ⟨⟨3, false⟩, false, 29, .v 9 true, .v 0 false, .v 0 false, 3, false, 1⟩) ∧
    decode 0x44D21E214024005C = some (.vmxq ⟨⟨4, true⟩, false, 30, .v 10 true, .v 9 false, .v 0 false, 11, true, 0⟩) ∧
    decode 0x45141F2160000059 = some (.vmxd ⟨⟨5, false⟩, false, 31, .v 11 true, .v 0 false, .v 0 false, 11, false, 1⟩) ∧
    decode 0x455A20218025839C = some (.vdot ⟨⟨6, true⟩, false, 32, .v 12 true, .v 9 false, .g 7 true, 3, true, 0⟩) ∧
    decode 0x459C0021A0000002 = some (.wadd ⟨⟨7, false⟩, false, 0, .v 13 true, .v 0 false, .v 0 false, 0, false, 2⟩) ∧
    decode 0x45E222000000004E = some (.wrnd ⟨⟨8, true⟩, false, 34, .v 0 false, .v 0 false, .v 0 false, 9, true, 2⟩) ∧
    decode 0x4608000000000002 = some (.wclr ⟨⟨2, false⟩, false, 0, .v 0 false, .v 0 false, .v 0 false, 0, false, 2⟩) ∧
    decode 0x464E0020A0000006 = some (.wmov ⟨⟨3, true⟩, false, 0, .v 5 true, .v 0 false, .v 0 false, 0, true, 2⟩) := by decide
theorem test_decode_memory :
    decode 0x60111F1AB3FFF880 = some (.ld ⟨⟨4, false⟩, true, 31, 26, true, 3, 1, 0xfffc4, 0⟩) ∧
    decode 0x6057201BB5FFF8A0 = some (.st ⟨⟨5, true⟩, true, 32, 27, true, 3, 2, 0xfffc5, 0⟩) ∧
    decode 0x6098541CC3FFF8C0 = some (.ldv ⟨⟨6, false⟩, false, 84, 28, true, 4, 1, 0xfffc6, 0⟩) ∧
    decode 0x60DE561DC5FFF8E0 = some (.stv ⟨⟨7, true⟩, false, 86, 29, true, 4, 2, 0xfffc7, 0⟩) ∧
    decode 0x6120581EA1FFF903 = some (.ldg ⟨⟨8, false⟩, false, 88, 30, true, 2, 0, 0xfffc8, 3⟩) ∧
    decode 0x614A5A1FA1FFF923 = some (.stg ⟨⟨2, true⟩, false, 90, 31, true, 2, 0, 0xfffc9, 3⟩) ∧
    decode 0x618D2520B1FFF941 = some (.lds ⟨⟨3, false⟩, true, 37, 32, true, 3, 0, 0xfffca, 1⟩) ∧
    decode 0x61D32621B1FFF960 = some (.stf ⟨⟨4, true⟩, true, 38, 33, true, 3, 0, 0xfffcb, 0⟩) ∧
    decode 0x6215272281FFF980 = some (.feclr ⟨⟨5, false⟩, true, 39, 34, true, 0, 0, 0xfffcc, 0⟩) ∧
    decode 0x625B2823C1FFF9A0 = some (.fetst ⟨⟨6, true⟩, true, 40, 35, true, 4, 0, 0xfffcd, 0⟩) ∧
    decode 0x629D2924B1FFF9C9 = some (.ldc ⟨⟨7, false⟩, true, 41, 36, true, 3, 0, 0xfffce, 9⟩) ∧
    decode 0x62E32A25B1FFF9E9 = some (.stc ⟨⟨8, true⟩, true, 42, 37, true, 3, 0, 0xfffcf, 9⟩) ∧
    decode 0x6308D0A210000000 = some (.chbind ⟨⟨2, false⟩, 13, 10, 33, 0, 0x0⟩) ∧
    decode 0x634F2C27B1FFF829 = some (.amo ⟨⟨3, true⟩, true, 44, 39, true, 3, 0, 0xfffc1, 9⟩) ∧
    decode 0x63912D28B1FFF840 = some (.red ⟨⟨4, false⟩, true, 45, 40, true, 3, 0, 0xfffc2, 0⟩) ∧
    decode 0x63D6000006000000 = some (.fence ⟨⟨5, true⟩, false, 0, 0, false, 0, 3, 0x0, 0⟩) := by decide
theorem test_decode_engine :
    decode 0x801832E000000000 = some (.spbind ⟨⟨6, false⟩, 3, 46, 0, 0, 0x0⟩) ∧
    decode 0x805E300000000001 = some (.spgo ⟨⟨7, true⟩, 3, 0, 0, 0, 0x1⟩) ∧
    decode 0x80A0300000000000 = some (.sphalt ⟨⟨8, false⟩, 3, 0, 0, 0, 0x0⟩) ∧
    decode 0x80CA331000000000 = some (.sppos ⟨⟨2, true⟩, 3, 49, 0, 0, 0x0⟩) ∧
    decode 0x810D50A0B0C00007 = some (.cpa ⟨⟨3, false⟩, 21, 10, 11, 12, 0x7⟩) ∧
    decode 0x815350B000000007 = some (.cp2d ⟨⟨4, true⟩, 21, 11, 0, 0, 0x7⟩) ∧
    decode 0x819550A0D0C00001 = some (.hdinit ⟨⟨5, false⟩, 21, 10, 13, 12, 0x1⟩) ∧
    decode 0x81DB50D000000000 = some (.hdarr ⟨⟨6, true⟩, 21, 13, 0, 0, 0x0⟩) ∧
    decode 0x821D50E000000000 = some (.hdwait ⟨⟨7, false⟩, 21, 14, 0, 0, 0x0⟩) ∧
    decode 0x826350F000000000 = some (.hdtest ⟨⟨8, true⟩, 21, 15, 0, 0, 0x0⟩) ∧
    decode 0x8289500000000000 = some (.hdkill ⟨⟨2, false⟩, 21, 0, 0, 0, 0x0⟩) ∧
    decode 0x82CF50A120C00001 = some (.dreq ⟨⟨3, true⟩, 21, 10, 18, 12, 0x1⟩) := by decide
theorem test_decode_matrix :
    decode 0xA010400000000009 = some (.mxcfg ⟨⟨4, false⟩, 4, 0, 0, 0, 0x9⟩) ∧
    decode 0xA056413000000009 = some (.mxwld ⟨⟨5, true⟩, 4, 19, 0, 0, 0x9⟩) ∧
    decode 0xA098000000000000 = some (.mxwsw ⟨⟨6, false⟩, 0, 0, 0, 0, 0x0⟩) ∧
    decode 0xA0DE40A160000000 = some (.mxsc ⟨⟨7, true⟩, 4, 10, 22, 0, 0x0⟩) ∧
    decode 0xA12040A170C00007 = some (.mxrun ⟨⟨8, false⟩, 4, 10, 23, 12, 0x7⟩) ∧
    decode 0xA14AD000B0000048 = some (.mxdrn ⟨⟨2, true⟩, 13, 0, 11, 0, 0x48⟩) ∧
    decode 0xA18C000000000003 = some (.mxclr ⟨⟨3, false⟩, 0, 0, 0, 0, 0x3⟩) ∧
    decode 0xA1D2019000000001 = some (.mxrgn ⟨⟨4, true⟩, 0, 25, 0, 0, 0x1⟩) ∧
    decode 0xA21401A000000001 = some (.mxring ⟨⟨5, false⟩, 0, 26, 0, 0, 0x1⟩) ∧
    decode 0xA25A000000000000 = some (.mxlap ⟨⟨6, true⟩, 0, 0, 0, 0, 0x0⟩) ∧
    decode 0xA29C01C000000001 = some (.mxrec ⟨⟨7, false⟩, 0, 28, 0, 0, 0x1⟩) ∧
    decode 0xA2E2D0A1E0C00003 = some (.mxcmd ⟨⟨8, true⟩, 13, 10, 30, 12, 0x3⟩) ∧
    decode 0xA30801E000000001 = some (.mxst ⟨⟨2, false⟩, 0, 30, 0, 0, 0x1⟩) := by decide
theorem test_decode_control_1 :
    decode 0xC00E0000FFFFFFFD = some (.br ⟨⟨3, true⟩, 0, 0, 0xfffffffd⟩) ∧
    decode 0xC0503604FFFFFFFE = some (.bc ⟨⟨4, false⟩, 27, 4, 0xfffffffe⟩) ∧
    decode 0xC0963800FFFFFFFF = some (.jal ⟨⟨5, true⟩, 28, 0, 0xffffffff⟩) ∧
    decode 0xC0D83A0000000000 = some (.jr ⟨⟨6, false⟩, 29, 0, 0x0⟩) ∧
    decode 0xC11E3C020000006D = some (.loop ⟨⟨7, true⟩, 30, 2, 0x6d⟩) ∧
    decode 0xC160000200000000 = some (.lbrk ⟨⟨8, false⟩, 0, 2, 0x0⟩) ∧
    decode 0xC18A022120000000 = some (.snd ⟨⟨2, true⟩, false, 2, .v 9 true, .v 0 false, .v 0 false, 0, false, 0⟩) ∧
    decode 0xC1CC2DC040000001 = some (.rcv ⟨⟨3, false⟩, false, 45, .lit 0x2, .v 0 false, .v 0 false, 0, false, 1⟩) ∧
    decode 0xC21331C040000001 = some (.qpk ⟨⟨4, true⟩, true, 49, .lit 0x2, .v 0 false, .v 0 false, 0, false, 1⟩) ∧
    decode 0xC25514C040000001 = some (.qcnt ⟨⟨5, false⟩, true, 20, .lit 0x2, .v 0 false, .v 0 false, 0, false, 1⟩) ∧
    decode 0xC29A020000000002 = some (.eod ⟨⟨6, true⟩, false, 2, .v 0 false, .v 0 false, .v 0 false, 0, false, 2⟩) ∧
    decode 0xC2DC026120000000 = some (.qpsn ⟨⟨7, false⟩, false, 2, .g 9 true, .v 0 false, .v 0 false, 0, false, 0⟩) ∧
    decode 0xC32200A0E0000000 = some (.spawn ⟨⟨8, true⟩, 0, 10, 14, 0, 0x0⟩) ∧
    decode 0xC34800A0F0C00000 = some (.tdec ⟨⟨2, false⟩, 0, 10, 15, 12, 0x0⟩) ∧
    decode 0xC38E000000000000 = some (.tend ⟨⟨3, true⟩, 0, 0, 0x0⟩) ∧
    decode 0xC3D0520000000000 = some (.gform ⟨⟨4, false⟩, 41, 0, 0x0⟩) := by decide
theorem test_decode_control_2 :
    decode 0xC416000000000000 = some (.gend ⟨⟨5, true⟩, 0, 0, 0x0⟩) ∧
    decode 0xC458000000000000 = some (.gsync ⟨⟨6, false⟩, 0, 0, 0x0⟩) ∧
    decode 0xC49ED0A140000048 = some (.car ⟨⟨7, true⟩, 13, 10, 20, 0, 0x48⟩) ∧
    decode 0xC4E0D0A150C00000 = some (.cbc ⟨⟨8, false⟩, 13, 10, 21, 12, 0x0⟩) ∧
    decode 0xC50AD0A160C00029 = some (.crd ⟨⟨2, true⟩, 13, 10, 22, 12, 0x29⟩) ∧
    decode 0xC54CD00000000000 = some (.cbar ⟨⟨3, false⟩, 13, 0, 0, 0, 0x0⟩) := by decide
theorem test_decode_system_1 :
    decode 0xE013210000000024 = some (.csrr ⟨⟨4, true⟩, true, 33, .v 0 false, 0x24⟩) ∧
    decode 0xE055226120000024 = some (.csrw ⟨⟨5, false⟩, true, 34, .g 9 true, 0x24⟩) ∧
    decode 0xE09B236120000024 = some (.csrs ⟨⟨6, true⟩, true, 35, .g 9 true, 0x24⟩) ∧
    decode 0xE0DD246120000024 = some (.csrc ⟨⟨7, false⟩, true, 36, .g 9 true, 0x24⟩) ∧
    decode 0xE122000000000024 = some (.trap ⟨⟨8, true⟩, false, 0, .v 0 false, 0x24⟩) ∧
    decode 0xE148000100000000 = some (.eret ⟨⟨2, false⟩, 0, 1, 0x0⟩) ∧
    decode 0xE18E015500000000 = some (.brk ⟨⟨3, true⟩, 0, 341, 0x0⟩) ∧
    decode 0xE1D000A1F0C00000 = some (.hgrpSet ⟨⟨4, false⟩, 0, 10, 31, 12, 0x0⟩) ∧
    decode 0xE1D000A1F0C00001 = some (.hgrpHalt ⟨⟨4, false⟩, 0, 10, 31, 12, 0x1⟩) ∧
    decode 0xE1D000A1F0C00012 = some (.hgrpRes ⟨⟨4, false⟩, 0, 10, 31, 12, 0x12⟩) ∧
    decode 0xE1D000A1F0C00003 = some (.hgrpStep ⟨⟨4, false⟩, 0, 10, 31, 12, 0x3⟩) ∧
    decode 0xE1D000A1F0C00004 = some (.hgrpRestile ⟨⟨4, false⟩, 0, 10, 31, 12, 0x4⟩) ∧
    decode 0xE1D000A1F0C00005 = some (.hgrpStat ⟨⟨4, false⟩, 0, 10, 31, 12, 0x5⟩) ∧
    decode 0xE1D000A1F0C00006 = some (.hgrpRead ⟨⟨4, false⟩, 0, 10, 31, 12, 0x6⟩) ∧
    decode 0xE216200000000000 = some (.wfe ⟨⟨5, true⟩, 16, 0, 0x0⟩) ∧
    decode 0xE2592A0000000000 = some (.rdtime ⟨⟨6, false⟩, true, 42, .v 0 false, 0x0⟩) := by decide
theorem test_decode_system_2 :
    decode 0xE29F2B0000000005 = some (.rdperf ⟨⟨7, true⟩, true, 43, .v 0 false, 0x5⟩) ∧
    decode 0xE2E150A230C00000 = some (.attq ⟨⟨8, false⟩, 21, 10, 35, 12, 0x0⟩) ∧
    decode 0xE30A00A240C00029 = some (.seal ⟨⟨2, true⟩, 0, 10, 36, 12, 0x29⟩) ∧
    decode 0xE34C00A250C00029 = some (.unseal ⟨⟨3, false⟩, 0, 10, 37, 12, 0x29⟩) ∧
    decode 0xE392D0A260C00000 = some (.capset ⟨⟨4, true⟩, 13, 10, 38, 12, 0x0⟩) ∧
    decode 0xE3D4D1C000000000 = some (.capclr ⟨⟨5, false⟩, 13, 28, 0, 0, 0x0⟩) ∧
    decode 0xE41B50A280C00000 = some (.dgopen ⟨⟨6, true⟩, 21, 10, 40, 12, 0x0⟩) ∧
    decode 0xE45D500000000000 = some (.dgclose ⟨⟨7, false⟩, 21, 0, 0, 0, 0x0⟩) ∧
    decode 0xE4A350A0C0000000 = some (.dgsnap ⟨⟨8, true⟩, 21, 10, 12, 0, 0x0⟩) ∧
    decode 0xE4C8020000000000 = some (.dgver ⟨⟨2, false⟩, 0, 32, 0, 0, 0x0⟩) ∧
    decode 0xE50E021000000000 = some (.fnrect ⟨⟨3, true⟩, 0, 33, 0, 0, 0x0⟩) ∧
    decode 0xE50E021000000001 = some (.fnrectRel ⟨⟨3, true⟩, 0, 33, 0, 0, 0x1⟩) ∧
    decode 0xE550022000000000 = some (.tkillTask ⟨⟨4, false⟩, 0, 34, 0, 0, 0x0⟩) ∧
    decode 0xE550022000000001 = some (.tkillConfig ⟨⟨4, false⟩, 0, 34, 0, 0, 0x1⟩) ∧
    decode 0xE550022000000002 = some (.tkillContext ⟨⟨4, false⟩, 0, 34, 0, 0, 0x2⟩) ∧
    decode 0xE59600A100C00000 = some (.prempSave ⟨⟨5, true⟩, 0, 10, 16, 12, 0x0⟩) := by decide
theorem test_decode_system_3 :
    decode 0xE59600A100C00001 = some (.prempRestore ⟨⟨5, true⟩, 0, 10, 16, 12, 0x1⟩) ∧
    decode 0xE59600A100C00002 = some (.prempRemap ⟨⟨5, true⟩, 0, 10, 16, 12, 0x2⟩) := by decide

/-! The checks of WellFormed.lean: an ill-formed term for each, which the check refuses. -/

theorem test_wf_accepts : (Instr.add ⟨always, true, 20, .g 2 true, .g 63 false, z, 0, false, 0⟩).wellFormed = true := by decide
theorem test_wf_predicate : (Instr.add ⟨⟨0, true⟩, true, 20, .g 2 false, .g 3 false, z, 0, false, 0⟩).wellFormed = false := by decide
theorem test_wf_source : (Instr.add ⟨always, true, 20, .g 64 false, .g 3 false, z, 0, false, 0⟩).wellFormed = false := by decide
theorem test_wf_type : (Instr.add ⟨always, true, 20, .g 2 false, .g 3 false, z, 15, false, 0⟩).wellFormed = false := by decide
theorem test_wf_destination : (Instr.add ⟨always, true, 64, .g 2 false, .g 3 false, z, 0, false, 0⟩).wellFormed = false := by decide
theorem test_wf_immediate : (Instr.movi ⟨always, true, 64, z, 1⟩).wellFormed = false ∧
    (Instr.addi ⟨always, true, 2, .g 99 false, 1⟩).wellFormed = false ∧ (Instr.movi ⟨⟨0, true⟩, true, 2, z, 1⟩).wellFormed = false := by decide
theorem test_wf_memory : (Instr.ld ⟨always, true, 5, 56, false, 2, 0, 0, 0⟩).wellFormed = false ∧
    (Instr.ld ⟨always, true, 56, 5, false, 2, 0, 0, 0⟩).wellFormed = false ∧
    (Instr.ldv ⟨always, false, 248, 5, false, 4, 0, 0, 0⟩).wellFormed = false ∧
    (Instr.ld ⟨⟨0, true⟩, true, 5, 5, false, 2, 0, 0, 0⟩).wellFormed = false := by decide
theorem test_wf_control : (Instr.bc ⟨always, 56, 1, 4⟩).wellFormed = false ∧ (Instr.bc ⟨⟨0, true⟩, 5, 1, 4⟩).wellFormed = false := by decide
theorem test_wf_engine : (Instr.cpa ⟨always, 3, 56, 0, 0, 1⟩).wellFormed = false ∧ (Instr.cpa ⟨always, 3, 0, 56, 0, 1⟩).wellFormed = false ∧
    (Instr.cpa ⟨always, 3, 0, 0, 56, 1⟩).wellFormed = false ∧ (Instr.cpa ⟨⟨0, true⟩, 3, 0, 0, 0, 1⟩).wellFormed = false := by decide
theorem test_wf_events : (Instr.firing 9216).wellFormed = false ∧ (Instr.pacerStop 64).wellFormed = false ∧
    (Instr.tokenArrival 0 16).wellFormed = false ∧ (Instr.streamElement 0 4).wellFormed = false ∧ (Instr.linkRekey 4).wellFormed = false ∧
    (Instr.launchPacket 256).wellFormed = false ∧ (Instr.chgap 256 0).wellFormed = false ∧ (Instr.chgap 0 16).wellFormed = false ∧
    (Instr.unassignedOpcode 0).wellFormed = false := by decide
/-- Words that the decoder refuses: an unassigned opcode is its own instruction, an illegal field is none (R44, R56). -/
theorem test_decode_refuses : decode 0x0AC0000000000000 = some (.unassignedOpcode 0x0AC0000000000000) ∧ decode 0x0000000000000001 = none ∧
    decode 0x0042000000000000 = none ∧ decode 0x0040140000000078 = none ∧ decode 0xA04040100000002F = none := by decide

/-! Small states. Tile 0 runs an I task of slot 0 of the one configuration, tile 1 holds slot 1. -/

def h0 : HandlerDecl := { entry := 0, immediate := true, consts := [], csr := {} }
def act0 : ActorDecl := { handlers := [h0, { h0 with immediate := false }], inQ := [(0, 4, 1)], outQ := [(1, 4, none)], records := 8, gang := 1 }
def cfg0 : Cfg := { sq := 1, ctx := 1, owner := 1, stream := 0, image := { actors := [act0, act0] }, st := .running, place := [(0, 0), (1, 1)] }
def part0 : Partition := { owner := 1, x0 := 0, y0 := 0, x1 := 3, y1 := 0, evbase := 0x1 }
def G : Word := 0x1000000000000
def fld0 : FieldSt := { tlb := [⟨1, 0, 0x100000000, 0x1003B, 0⟩, ⟨1, 0, 0x100000001, 0x050000000002083B, 0⟩] }
def x0 : Tile := { ({} : Tile) with
  regs := { g := [(1, 0x40), (2, 3), (3, 1), (4, 0x80), (5, G), (6, 64), (7, 0x10000200040), (8, 9), (9, G + 0x10000), (10, 0x4004)]
            v := [(1, 0x3F8000003F800000), (2, 0x0000000100000002)], k := [(1, 1), (2, 2)], c := [(0, 0xFFFF), (1, 1)] }
  store := { bytes := [(0x40, 0x11), (0x41, 0x82), (0x44, 7), (0x80, 1)] }
  inq := [(0, { depth := 4, toks := [.scalar 5, .poison 7] })]
  outq := [(1, { depth := 4, dest := some (1, 0) })]
  sch := { task := some { immediate := true, ctx := 1 }, actor := some { cfg := 1, slot := 0 } } }
def xi : Tile := { x0 with sch := { x0.sch with task := some { immediate := false, ctx := 1 } } }
def y0 : Tile := { ({} : Tile) with inq := [(0, { depth := 4 })], sch := { actor := some { cfg := 1, slot := 1 } } }
def ms (x : Tile) : State := { tiles := [(0, x), (1, y0)], parts := [part0], ctxs := [(1, { owner := 1 })], cfgs := [cfg0],
                               fields := [(0, fld0)], granOwner := [(0, 1)], dram := { bytes := [(1, 3), (0x10000, 0x21), (0x10001, 0x43)] } }
def S : State := ms x0
def I : State := ms xi
def R (x : Tile) : State := { ms x with parts := [{ part0 with refs := [0] }] }
def fa : FA := ⟨always, true, 20, .g 2 false, .g 3 false, z, 0, false, 0⟩
def fi : FI := ⟨always, true, 20, z, 0⟩
def fm : FM := ⟨always, true, 20, 1, false, 2, 0, 0, 0⟩
def fc : FC := ⟨always, 3, 0, 0⟩
def fe : FE := ⟨always, 0, 1, 2, 3, 0⟩
def ch (x : Tile) : Tile := { x with regs := { x.regs with g := x.regs.g ++ [(30, 0x1000002), (31, 3)] }, eng := { handles := [(0, some (5, 0))] } }
def C (x : Tile) : State := ms (ch x)
def hb (h : Tbl Hurdle) (extra : Tbl Byte) : Tile := { x0 with store := { bytes := x0.store.bytes ++ extra }, eng := { hds := h } }
def H : State := ms (hb [(0, { bound := some 0x100 })] [(0x104, 0x0A)])
def pq (p : Patch) (q : List PEntry) : Tile := { x0 with pu := { st := p, q := q } }
def gangs (x y : Tile) : State := { S with
  cfgs := [{ cfg0 with image := { actors := [{ act0 with gang := 2 }, act0] } }]
  tiles := [(0, { x with gang := some ⟨0, 0, 2⟩ }), (1, { y with gang := some ⟨0, 1, 2⟩, sch := { y.sch with task := some { immediate := true, ctx := 1 } } })] }
def rec1 : Record := { est := 0, launch := false, policy := 0, pri := 0, handler := 1, cv := false, ctr := 0, a0 := 0, a1 := 0 }
def cmd0 : RCmd := { target := 1, cap := 0, nonce := 3, op := 2, param := 0, car := x0.csr.carry, pri := 0 }
def asks (r : RCmd) (y : Tile) : State := { S with tiles := [(0, { x0 with sch := { x0.sch with cmdOut := some r } }), (1, y)] }
def grp (nr : Word) (c : List Coll) (x : Tile) : State := { ms x with coll := { grp := [(0, 0x8000000000000000 + nr * 0x100000000000)], out := c } }
def coll0 : Coll := { g := 0, n := 0, kind := 3, ty := 0, op := 0, dg := false, va := 0, count := 0, root := 0, car := {}, pgsz := 0, hd := none, tile := 0, cfg := 1, ctx := 1, stamp := 0 }
/-- The same, issued in a group of n modules. -/
def collN (n : Word) : Coll := { coll0 with grp := 0x8000000000000000 + n * 0x100000000000 }
def side0 : CollSide := { ownSide (collN 2) [] with rank := 1 }
def w2 (y : Tile) : State := { R x0 with tiles := [(0, x0), (1, y)] }
def task0 (imm : Bool) : Machine.Task := { immediate := imm, ctx := 1 }
def reg12 (v : Word) : Tile := { x0 with regs := { x0.regs with g := x0.regs.g ++ [(12, v)] } }
def region0 : Region := { len := 4, homes := [(0, .tile 0 0x40)], keys := [1, 2, 3, 4, 5, 6, 7, 8] }
def D (x : Tile) (r : Region) : State := { ms x with ctxs := [(1, { owner := 1, regions := [(0, r)] })] }
def net (x : Tile) (a : Acc) : Tile := { x with net := [a] }
def part4 (pa : Nat) (va : Word) (n : Nat) : Part := ⟨.dram pa, va, n, 0, sliceOfPa pa, 0⟩
def at0 (op : AccOp) : Acc := { id := 0, parts := [part4 0x10000 G 4], op := op }
def at8 (op : AccOp) : Acc := { id := 0, parts := [part4 0x10000 G 8], op := op }
def tag0 : ChainTag := ⟨5, 0, 2, 1, 3⟩
def chAt (op : AccOp) (n : Nat) : Acc := { id := 0, parts := [part4 0x20000 (G + 0x10000) 4], op := op, retries := n }
def chain0 : Chain := { cfg := 1, L := 1, E := 2 }
def F (x : Tile) (c : Chain) (e : List ChEnt) : State := { ms x with slices := [(5, { chains := [(0, c)], ents := e })] }
/-- The next state of an instruction. -/
def nx (r : Host.Outcome State Fault Refusal) : State := match r with | .next s => s | _ => {}
def okP (r : Perf) : State := match r with | .ok s => s | .wait s => s | .due _ => {}
def okE (r : Except EngStop (α × State)) : State := match r with | .ok s => s.2 | .error _ => {}
def okF (r : Except EngStop State) : State := match r with | .ok s => s | .error _ => {}
def okO (r : Option State) : State := r.getD {}
def ent0 (x : AccOp) (tent : Bool) : ChEnt := { tile := 0, acc := chAt x 0, tag := tag0, arr := 0, tentative := tent, bypass := false }
def copy0 : CopyOp := { dst := 0x40, src := 0x80, rb := 64, rows := 1, sstr := 0, dstr := 0, cvt := 0, hd := none, car := x0.csr.carry, pgsz := 0, ctx := 1, byTask := false }
def port0 (w6 : Word) : Port := { st := 1, desc := [(0, 0x80), (4, 0x100000001), (5, 1), (6, w6)], ctx := 1 }
def dreq0 : DreqOp := { id := 0, mode1 := false, q := 0, va := G, bytes := 128, dst := 0, eod := false, pgsz := 0, ctx := 1, car := x0.csr.carry, byTask := false, pa := 0x10000 }
def en (e : Engines) : Tile := { x0 with eng := e }
def pe0 (c : PCmd) (g : Bool) : PEntry := { cmd := c, car := x0.csr.carry, pri := 0, byTask := false, granted := g }
def fl (f : FieldSt) : State := { S with fields := [(0, f)] }
def actor1 : ActorRef := { cfg := 1, slot := 0 }
def act3 : ActorDecl := { act0 with inQ := [(0, 4, 1)] }
def rest0 : Tile := { ({} : Tile) with sch := { actor := some { cfg := 1, slot := 0, done := true } } }
def rest1 : Tile := { ({} : Tile) with sch := { actor := some { cfg := 1, slot := 1, done := true } } }
def cf (c : Cfg) : State := { S with cfgs := [c] }
def tl (x : Tile) (y : Tile) : State := { S with tiles := [(0, x), (1, y)] }
def sched (k : Sched) : Tile := { x0 with sch := k }
def run0 (a b : Nat) (p : Nat × Nat) : RedRun := { place := [(0, a), (1, b)], pages := [], done := true, sig := p }
def boot0 (ok : Bool) : BootInput := { fw := [(ok, [1])], repairOk := true, identityOk := true, tiles := [], bistFail := [], serial := 0, romHash := [], repairHash := [], alarmpol := 0, cert := [] }
def spec0 : PartSpec := { owner := 2, x0 := 4, y0 := 0, x1 := 5, y1 := 0, referees := [4], granules := [], contexts := [], refCode := [] }
def quote0 : Quote := { tile := 0, hd := 0, dst := 0x1000, report := [], ctx := 1, owner := 1, cfg := 1 }
def mig0 : MigrSpec := { ctx := 1, va := 0, size := 0, newPa := 0x30000, slice := none }
def fetch0 (w : Word) : State := { ({} : State) with tiles := [(0, { ({} : Tile) with code := [(0, w)], sch := { task := some { immediate := true } }, pu := { gate := .gated false } })], tick := 1 }
def ld0 : AccOp := .load (.g 5) 0 4 false []
def own0 (op : AccOp) : Acc := { id := 0, parts := [⟨.tile 0 0x40, 0x40, 4, 0, 0, 0⟩], op := op }
def peerP : Part := ⟨.tile 1 0x40, 0x10000200040, 4, 0, 0, 0⟩
def peer0 : Acc := { id := 0, parts := [peerP], op := ld0 }
def far0 : Home := .dram 0x10000
def cpS : State := ms (en { copies := [copy0] })
def cpR : List (Nat × List Byte) × State := match copyUnits cpS 0 copy0 [] (unitNums 0x80 64) [] with | .ok r => r | .error _ => ([], {})
def win0 : Window := ⟨0x20000, {}, 0, 0, 0, 1⟩
/-- Every window of a slice is open (R190). -/
def fullS (n : Nat) : State := { S with slices := [(sliceOfPa 0x10000, { wins := List.replicate n win0 })] }
theorem findIx_replicate {α : Type} (p : α → Bool) (x : α) (h : p x = false) (n : Nat) : findIx p (List.replicate n x) = none := by
  induction n with
  | zero => rfl
  | succ n ih => simp [List.replicate_succ, findIx, h, ih]
theorem fullS_none (n : Nat) : openWindow (fullS n) 0x10000 = none := by
  simp [openWindow, fullS, findIx_replicate (fun w : Window => w.pa == 0x10000) win0 rfl]
theorem fullS_wins (n : Nat) : ((fullS n).slice (sliceOfPa 0x10000)).wins.length = n := by
  simp [fullS, State.slice, tget]
/-- The own store holds an uncorrectable unit, and its actor is to move. -/
def badS : State := { tl { sched { actor := some { actor1 with moveTo := some 2 } } with store := { bad2 := [8] } } y0 with
  cfgs := [{ cfg0 with place := [(0, 0)], reserves := [2] }] }
theorem badS_reads (n : Nat) (hn : 72 ≤ n) : ∃ u, (badS.tile 0).store.badRead 0 n = some u := by
  have h : ((unitsOf 0 n).find? ([8] : List Nat).contains).isSome = true := by
    rw [List.find?_isSome]
    exact ⟨8, List.mem_map.2 ⟨8, List.mem_range.2 (by omega), rfl⟩, rfl⟩
  obtain ⟨u, hu⟩ := Option.isSome_iff_exists.1 h
  refine ⟨u, ?_⟩
  rw [show (badS.tile 0).store = { bad2 := [8] } from rfl]
  unfold Store.badRead
  rw [if_neg (by simp; omega)]
  exact hu
theorem badS_error : ∃ a, readTile badS 0 (· == .lc) = .error a := by
  obtain ⟨u, hu⟩ := badS_reads Config.storeBytes (by decide)
  refine ⟨BitVec.ofNat 64 (8 * u), ?_⟩
  rw [readTile, show (badS.tile 0).regsBad (· == .lc) = none from rfl]
  simp only [homeRead, touchWindows, State.homeStore, hu]
theorem only0 : ∀ i, i < 16 → (1#16).getLsbD i = true → i = 0 := by decide

/-! One-step tests; each expected value is worked out by hand from the rule named. -/

/-- Tile 0 with these scalar registers. -/
def withG (g : Tbl Word) : State := ms { x0 with regs := { x0.regs with g := g } }
/-- Scalar register k of tile 0 after the instruction. -/
def out (i : Instr) (s : State) (k : Nat) : Option Word :=
  match exec i s with
  | .next t => some (tget 0 (t.tile 0).regs.g k)
  | _ => none
/-- The cause and address of the trap that tile 0 took. -/
def trapOf (i : Instr) (s : State) : Option (Word × Word) :=
  match exec i s with
  | .next t => some ((t.tile 0).csr.tcause, (t.tile 0).csr.taddr)
  | _ => none
/-- g20 from g1 and g2, of type code t. -/
def ab (t : BitVec 4) : FA := ⟨always, true, 20, .g 1 false, .g 2 false, z, t, false, 0⟩

theorem test_add_wraps : out (.add (ab 0)) (withG [(1, 0x7FFFFFFF), (2, 1)]) 20 = some 0xFFFFFFFF80000000 := by decide -- R69, R48
theorem test_add_clamps : out (.add { ab 0 with sat := true }) (withG [(1, 0x7FFFFFFF), (2, 1)]) 20 = some 0x7FFFFFFF := by decide -- R69
theorem test_mulh_signed : out (.mulh (ab 2)) (withG [(1, 0xFFFF), (2, 2)]) 20 = some 0xFFFFFFFFFFFFFFFF := by decide -- R96: floor(-2 / 2^16)
theorem test_mulhn_unsigned : out (.mulhn (ab 3)) (withG [(1, 0xFFFF), (2, 2)]) 20 = some 1 := by decide -- R96
theorem test_andn : out (.andn (ab 7)) (withG [(1, 0xF0F0), (2, 0xFF00)]) 20 = some 0x00F0 := by decide -- R96
theorem test_shl_full_width : out (.shl (ab 1)) (withG [(1, 1), (2, 32)]) 20 = some 0 := by decide -- R98
theorem test_sra_full_width : out (.sra (ab 0)) (withG [(1, 0x80000000), (2, 40)]) 20 = some 0xFFFFFFFFFFFFFFFF := by decide -- R98
theorem test_rol_byte : out (.rol (ab 5)) (withG [(1, 0x81), (2, 9)]) 20 = some 0x03 := by decide -- R98
theorem test_clz_zero : out (.clz { ab 1 with b := z }) (withG [(1, 0)]) 20 = some 32 := by decide -- R96
theorem test_bext_signed : out (.bext (ab 2)) (withG [(1, 0x0F00), (2, 0x0408)]) 20 = some 0xFFFFFFFFFFFFFFFF := by decide -- R99
theorem test_sadd_halves : out (.sadd { ab 4 with m := 1 }) (withG [(1, 0xFD), (2, 0)]) 20 = some 0xFFFFFFFFFFFFFFFE := by decide -- R102: floor(-3 / 2)
theorem test_movi_extends : out (.movi ⟨always, true, 20, z, 0x1FFFFFFF⟩) S 20 = some 0xFFFFFFFFFFFFFFFF := by decide -- R103
theorem test_movhi : out (.movhi ⟨always, true, 20, .g 1 false, 1⟩) (withG [(1, 0xFFFFFFFFFFFFFFFF)]) 20 = some 0x3FFFFFFF := by decide -- R103
theorem test_fadd_one_and_half : out (.fadd (ab 8)) (withG [(1, 0x3F800000), (2, 0x3F000000)]) 20 = some 0x3FC00000 := by decide -- R87: 1.0 + 0.5
theorem test_fmul_halves : out (.fmul (ab 10)) (withG [(1, 0x3C00), (2, 0x3800)]) 20 = some 0x3800 := by decide -- f16: 1.0 * 0.5
theorem test_kpop : out (.kpop { fa with a := .g 3 false, b := z }) (ms { x0 with regs := { x0.regs with k := [(3, 0x8003)] } }) 20 = some 3 := by decide -- R122
theorem test_div_by_zero : trapOf (.div (ab 0)) (withG [(1, 7), (2, 0)]) = some (0x08, 0x10000) := by decide -- R97, R371
theorem test_branch_back : (match exec (.br ⟨always, 0, 0, 0xFFFFFFFE⟩) (ms { x0 with regs := { x0.regs with pc := 9 } }) with
    | .next t => (t.tile 0).regs.pc | _ => 0) = 7 := by decide -- R285


/-! Witnesses of the hypotheses of the statements, written by hand. -/

theorem w_quiet : ∀ fl, Quiet S fl := by
  intro fl
  show fl &&& (0 : Flags) = 0
  simp
/-- The hypotheses of a scalar execution of one source, which IntegerResults, BitResults, DivisionResults, CompareResults, RoundedResults,
LongLatencyResults and CodeResults share; then of two and three sources, and of vector executions. -/
theorem test_witness_scalar_1 : ∃ f s s' a b c, f.dk = true ∧ Alone s ∧ On f.p s ∧ Free true f.dst s ∧ ScalarSources f 1 s a b c s' ∧
    ModeOk true s ∧ ∀ fl, Quiet s fl :=
  ⟨fa, S, S, 3, 0, 0, rfl, ⟨rfl, rfl, rfl⟩, rfl, rfl, ⟨S, S, rfl, ⟨rfl, rfl⟩, rfl, rfl⟩, fun _ => by decide, w_quiet⟩
theorem test_witness_scalar_2 : ∃ f s s' a b c, f.dk = true ∧ Alone s ∧ On f.p s ∧ Free true f.dst s ∧ ScalarSources f 2 s a b c s' ∧
    ModeOk true s ∧ el [b] 0 ≠ 0 ∧ ∀ fl, Quiet s fl :=
  ⟨fa, S, S, 3, 1, 0, rfl, ⟨rfl, rfl, rfl⟩, rfl, rfl, ⟨S, S, rfl, rfl, rfl, rfl⟩, fun _ => by decide, by decide, w_quiet⟩
theorem test_witness_scalar_3 : ∃ f s s' a b c, f.dk = true ∧ Alone s ∧ On f.p s ∧ Free true f.dst s ∧ ScalarSources f 3 s a b c s' ∧
    ModeOk true s ∧ ∀ fl, Quiet s fl :=
  ⟨{ fa with c := .g 8 false }, S, S, 3, 1, 9, rfl, ⟨rfl, rfl, rfl⟩, rfl, rfl, ⟨S, S, rfl, rfl, rfl⟩, fun _ => by decide, w_quiet⟩
def fv : FA := { fa with dk := false, a := .v 1 false, b := .v 2 false, c := .v 1 false, p := ⟨1, false⟩ }
def v1 : List Nat := toElems 16 32 0x3F8000003F800000
def v2 : List Nat := toElems 16 32 0x0000000100000002
theorem test_witness_vector_1 : ∃ f s s' a b c m, f.dk = false ∧ Alone s ∧ Lanes f.p s m ∧ Free false f.dst s m ∧ VectorSources f 1 s a b c s' ∧
    ModeOk true s ∧ ∀ fl, Quiet s fl :=
  ⟨fv, S, S, v1, [], [], 1, rfl, ⟨rfl, rfl, rfl⟩, ⟨rfl, by decide⟩, rfl, ⟨S, S, rfl, ⟨rfl, rfl⟩, rfl, rfl⟩, fun _ => by decide, w_quiet⟩
theorem test_witness_vector_2 : ∃ f s s' a b c m, f.dk = false ∧ Alone s ∧ Lanes f.p s m ∧ Free false f.dst s m ∧ VectorSources f 2 s a b c s' ∧
    ModeOk true s ∧ (∀ j, j < b.length → Enabled (Pred.mask f.p (here s).regs) (tyWidth f.ty) j = true → el b j ≠ 0) ∧
    ∀ fl, Quiet s fl :=
  ⟨fv, S, S, v1, v2, [], 1, rfl, ⟨rfl, rfl, rfl⟩, ⟨rfl, by decide⟩, rfl, ⟨S, S, rfl, rfl, rfl, rfl⟩, fun _ => by decide, by decide, w_quiet⟩
theorem test_witness_vector_3 : ∃ f s s' a b c m, f.dk = false ∧ Alone s ∧ Lanes f.p s m ∧ Free false f.dst s m ∧ VectorSources f 3 s a b c s' ∧
    ModeOk true s ∧ ∀ fl, Quiet s fl :=
  ⟨fv, S, S, v1, v2, v1, 1, rfl, ⟨rfl, rfl, rfl⟩, ⟨rfl, by decide⟩, rfl, ⟨S, S, rfl, rfl, rfl⟩, fun _ => by decide, w_quiet⟩

theorem test_witness_WrittenBytes_1 : ∃ (s : State) (bs : List Byte) (i : Nat), StoresCanonical s ∧ i < bs.length :=
  ⟨S, [7], 0, ⟨by decide, by decide, by decide, by decide, by decide⟩, by decide⟩
def pS : State := ms { x0 with store := { bytes := [(0x60, 1), (0x64, 1), (0x68, 1)] } }
theorem test_witness_PortResults_2 : ∃ (f : FE) (s : State) (a : Word) (off : Nat), ∃ d : Tbl Word, MTask s ∧ Alone s ∧ On f.p s ∧ Holds s f.ga a ∧
    ((here s).port f.ix.toNat).st ≠ 1 ∧ OwnBlock s a 64 64 off ∧ Plain s off 64 ∧
    (∀ i, i < 8 → tget 0 d i = BitVec.ofNat 64 (ownNumber s (off + 8 * i) 8)) ∧
    ({ (here s).port f.ix.toNat with desc := d } : Port).legal (here s) = true :=
  ⟨fe, pS, 0x40, 0x40, [(4, 0x100000001), (5, 1)], rfl, ⟨rfl, rfl, rfl⟩, rfl, ⟨by decide, rfl, by decide, rfl⟩, by decide, ⟨rfl, by decide⟩,
    ⟨⟨rfl, rfl, rfl⟩, rfl, rfl, rfl⟩, by decide, rfl⟩
theorem test_witness_PortResults_3 : ∃ (f : FE) (s : State) (a : Word) (off : Nat), ∃ d : Tbl Word, MTask s ∧ Alone s ∧ On f.p s ∧ Holds s f.ga a ∧
    ((here s).port f.ix.toNat).st ≠ 1 ∧ OwnBlock s a 64 64 off ∧ Plain s off 64 ∧
    (∀ i, i < 8 → tget 0 d i = BitVec.ofNat 64 (ownNumber s (off + 8 * i) 8)) ∧
    ({ (here s).port f.ix.toNat with desc := d } : Port).legal (here s) = false :=
  ⟨fe, ms { x0 with store := {} }, 0x40, 0x40, [], rfl, ⟨rfl, rfl, rfl⟩, rfl, ⟨by decide, rfl, by decide, rfl⟩, by decide, ⟨rfl, by decide⟩,
    ⟨⟨rfl, rfl, rfl⟩, rfl, rfl, rfl⟩, by decide, rfl⟩
theorem test_witness_TrapEntry_5 : ∃ (s : State) (t : Nat) (c : Byte) (a : Word) (q : Nat), (s.tile t).gang = none ∧ trapAct (s.tile t) c a = .poison ∧
    q ∈ (s.tile t).declOut ∧ ((trapped s t c a).outQ q).discard = 0 :=
  ⟨ms { x0 with csr := { x0.csr with tact := 0x80 } }, 0, 1, 7, 1, rfl, by decide, by decide, by decide⟩
/-- A reduce-add to the word whose slice holds n windows of another word. -/
def rS (n : Nat) : State :=
  { ms (net x0 (at0 (.red 0 3 0 0))) with slices := [(sliceOfPa 0x10000, { wins := List.replicate n win0 })] }
theorem red_waits (n : Nat) (l : windowLimit ≤ n) :
    performAcc (rS n) 0 (at0 (.red 0 3 0 0)) = .wait (event (rS n) 1 0x04 0 (0x8000 + sliceOfPa 0x10000) 1 0xFFFF G 0) := by
  have ho : openWindow (rS n) 0x10000 = none := by
    simp [openWindow, rS, findIx_replicate (fun w : Window => w.pa == 0x10000) win0 rfl]
  have hl : windowLimit ≤ ((rS n).slice (sliceOfPa 0x10000)).wins.length := by
    rw [show ((rS n).slice (sliceOfPa 0x10000)).wins = List.replicate n win0 from rfl, List.length_replicate]
    exact l
  simp only [performAcc, at0, if_true, BEq.rfl, performRed, part4, ho, hl]
  rfl
theorem test_witness_HomesPerform_8 : ∃ (s : State) (t n : Nat) (a : Acc) (ty : BitVec 3) (d : Vec) (mode : BitVec 3) (seed : BitVec 32) (u : State),
    Netted s t n a ∧ a.op = .red ty d mode seed ∧ redMet s t n a = [] ∧ performAcc s t a = .wait u ∧ a.retries = 0 :=
  have next (n : Nat) : Netted (rS n) 0 0 (at0 (.red 0 3 0 0)) := ⟨rfl, rfl, rfl, rfl⟩
  ⟨rS windowLimit, 0, 0, at0 (.red 0 3 0 0), 0, 3, 0, 0, _, next _, rfl, rfl, red_waits windowLimit (Nat.le_refl _), rfl⟩
def mS : State := { tl { sched { actor := some { actor1 with fresh := false } } with inq := [(0, { depth := 4, hotPrev := true })] } y0 with
  cfgs := [{ cfg0 with place := [(0, 0)], reserves := [2] }], tileMap := [(0, 0x50), (2, 0x50)] }
theorem test_witness_PlacementMoves_8 : ∃ (s : State) (o : Nat) (p : Partition) (c : Cfg) (slot t : Nat), s.part o = some p ∧ s.cfgs = [c] ∧ c.owner = o ∧
    c.members = [(slot, 0, t)] ∧ slot < c.slots ∧ (s.tile t).sch.actor.bind (·.moveTo) = none ∧ c.st = .running ∧
    p.rbNow.getLsbD 0 = true ∧ movable s c slot t = true := by
  refine ⟨mS, 1, part0, { cfg0 with place := [(0, 0)], reserves := [2] }, 0, 0, rfl, rfl, rfl, rfl, by decide, rfl, rfl, by decide, ?_⟩
  have h : reserveFor mS { cfg0 with place := [(0, 0)], reserves := [2] } 0 = some 2 := by
    show (List.mergeSort [2] _).find? _ = _
    rw [List.mergeSort_singleton]
    decide
  unfold movable
  rw [h]
  decide
theorem kMove_length (a : List Word) : (kMove a).length = a.length := by
  have h (l : List (Nat × Nat × Nat)) (m : List Word) :
      (l.foldl (fun m e => lset m e.2.1 ((a[e.1]?.getD 0).rotateLeft e.2.2)) m).length = m.length := by
    induction l generalizing m with
    | nil => rfl
    | cons e r ih => exact (ih _).trans List.length_set
  exact h _ _
theorem kRound_length (a : List Word) (c : Word) (h : a.length = 25) : (kRound a c).length = 25 := by
  have hm : (kMove (kTheta a)).length = 25 := by simp [kMove_length, kTheta, h]
  have hr : ((List.range 5).map fun y => kRow (((kMove (kTheta a)).drop (5 * y)).take 5)).flatten.length = 25 := by
    simp [kRow, hm, List.range_succ]
  unfold kRound
  dsimp only
  generalize ((List.range 5).map fun y => kRow (((kMove (kTheta a)).drop (5 * y)).take 5)).flatten = l at hr ⊢
  cases l with
  | nil => cases hr
  | cons w r => exact hr
theorem keccakF_length (a : List Word) (h : a.length = 25) : (keccakF a).length = 25 := by
  have hl (l : List Word) (a : List Word) (h : a.length = 25) : (l.foldl kRound a).length = 25 := by
    induction l generalizing a with
    | nil => exact h
    | cons c r ih =>
      rw [List.foldl_cons]
      exact ih _ (kRound_length a c h)
  exact hl kIotas a h
theorem kAbsorb_length (bs : List (List Byte)) (a : List Word) (h : a.length = 25) : (kAbsorb a bs).length = 25 := by
  unfold kAbsorb
  induction bs generalizing a with
  | nil => exact h
  | cons b r ih =>
    rw [List.foldl_cons]
    exact ih _ (keccakF_length _ (by rw [List.length_map, List.length_range]))
theorem kSqueeze_length (a : List Word) (k : Nat) (h : a.length = 25) : 136 * k ≤ (kSqueeze a k).length := by
  induction k generalizing a with
  | zero => simp
  | succ k ih =>
    have hm : List.map (List.length ∘ fun w : Word => toBytes 8 w.toNat) (a.take 17) = List.replicate 17 8 := by
      rw [List.eq_replicate_iff]
      refine ⟨by simp [h], fun b hb => ?_⟩
      obtain ⟨w, -, rfl⟩ := List.mem_map.1 hb
      simp [toBytes]
    have := ih (keccakF a) (keccakF_length a h)
    simp only [kSqueeze, List.length_append, List.length_flatten, List.map_map, hm, List.sum_replicate, smul_eq_mul]
    omega
theorem sponge_length (d : Nat) (m : List Byte) (n : Nat) (_ : n ≤ 136) : (sponge d m n).length = n := by
  unfold sponge
  simp only [List.length_take]
  refine Nat.min_eq_left (Nat.le_trans ?_ (kSqueeze_length _ _ (kAbsorb_length _ _ (by simp))))
  show n ≤ 136 * (n / 136 + 1)
  omega
def head0 : List Byte := [1, 0, 0, 0, 0, 0, 0, 0, 1] ++ List.replicate 39 0
def kS (m : Memory) : State := { S with
  parts := [{ part0 with sess := some [7] }], ctxs := [(1, { owner := 1, sqlog := 4, sqtail := 1, sqbase := 0x1000 })]
  dram := { bytes := m } }
def Packet (s : State) (c n : Nat) (key : List Byte) : Prop :=
  ringSize (s.ctx c).sqlog = some n ∧ (s.ctx c).sqhead.toNat % n ≠ (s.ctx c).sqtail.toNat % n ∧
    (s.part (s.ctx c).owner).bind (·.sess) = some key ∧
    let pa := (s.ctx c).sqbase.toNat + 64 * ((s.ctx c).sqhead.toNat % n)
    ownedRange s (s.ctx c).owner pa 64 = true ∧ Quiescent s (.dram pa) 64
def GoodPacket (s : State) (c n : Nat) (key : List Byte) : Prop :=
  let k := s.ctx c
  let bs := readBytes s.dram.bytes (k.sqbase.toNat + 64 * (k.sqhead.toNat % n)) 64
  let u := s.modCtx c fun k => { k with sqhead := BitVec.ofNat 64 ((k.sqhead.toNat % n + 1) % n) }
  let p := packetCfg u c k.owner bs false
  kmac256 key (bs.take 48) 16 (ascii "SHAGAN LAUNCH") = (bs.drop 48).take 16 ∧ (bs.headD 0).toNat = c ∧
    k.lastCounter.toNat < p.1.counter.toNat
theorem good_packet (m : Memory) (tag : List Byte) (hm : readBytes m 0x1000 64 = head0 ++ tag) (hl : tag.length = 16)
    (ht : kmac256 [7] head0 16 (ascii "SHAGAN LAUNCH") = tag) : GoodPacket (kS m) 1 16 [7] := by
  have hb : readBytes (kS m).dram.bytes (((kS m).ctx 1).sqbase.toNat + 64 * (((kS m).ctx 1).sqhead.toNat % 16)) 64 = head0 ++ tag := hm
  simp only [GoodPacket, hb]
  refine ⟨?_, rfl, ?_⟩
  · rw [show (head0 ++ tag).take 48 = head0 from List.take_left' rfl, show (head0 ++ tag).drop 48 = tag from List.drop_left' rfl,
      List.take_of_length_le (Nat.le_of_eq hl)]
    exact ht
  · show 0 < (BitVec.ofNat 64 (ofBytes (((head0 ++ tag).drop (8 * 1)).take 8))).toNat
    rw [show ((head0 ++ tag).drop (8 * 1)).take 8 = [1, 0, 0, 0, 0, 0, 0, 0] from rfl]
    decide
theorem test_witness_ConfigurationsMove_1 : ∃ s c n key, Packet s c n key ∧ GoodPacket s c n key := by
  have hl : (kmac256 [7] head0 16 (ascii "SHAGAN LAUNCH")).length = 16 := sponge_length _ _ _ (by decide)
  generalize ht : kmac256 [7] head0 16 (ascii "SHAGAN LAUNCH") = tag at hl
  have hm := readBytes_writeBytes [] 0x1000 (head0 ++ tag) (by decide)
  rw [List.length_append, hl] at hm
  have hp (m : Memory) : Packet (kS m) 1 16 [7] :=
    ⟨(show ringSize 4 = some 16 by decide), (show (0 : Word).toNat % 16 ≠ (1 : Word).toNat % 16 by decide), rfl,
      (show ownedRange S 1 0x1000 64 = true by decide), rfl, rfl, rfl⟩
  exact ⟨kS _, 1, 16, [7], hp _, good_packet _ tag hm hl ht⟩
theorem test_witness_ConfigurationsMove_2 : ∃ s c n key, Packet s c n key ∧ ¬ GoodPacket s c n key :=
  ⟨kS [], 1, 16, [7], ⟨rfl, by decide, rfl, rfl, rfl, rfl, rfl⟩, fun h => absurd h.2.1 (by decide)⟩

/-- A quote's granules go through on a tile without hurdles or errors. -/
def Calm (s : State) : Prop :=
  (s.tile 0).eng.hds = [] ∧ (s.tile 0).store.bad1 = [] ∧ (s.tile 0).store.bad2 = [] ∧ (s.tile 0).isM = true
theorem rawWrite_tile0 (s : State) (off : Nat) (bs : List Byte) :
    (rawWrite s (.tile 0 off) bs).tile 0 = { s.tile 0 with store := (s.tile 0).store.put off bs } := by
  have h (u : State) (st st' : Store) : (digestWrite u (.tile 0 off) bs.length st st').tile 0 = u.tile 0 := by
    unfold digestWrite
    split <;> rfl
  show (digestWrite _ _ _ _ _).tile 0 = _
  rw [h]
  exact tget_tput_same _ _ _ _
/-- A unit of the own store. -/
def OwnUnit (p : Part) : Prop := (∃ o, p.home = .tile 0 o) ∧ p.pteAt = 0
theorem unit_calm {s : State} (h : Calm s) {p : Part} (hp : OwnUnit p) (bs : List Byte) :
    ∃ u, writeUnit s 0 p bs = .ok u true ∧ Calm u := by
  obtain ⟨h1, h2, h3, h4⟩ := h
  obtain ⟨⟨o, ho⟩, hq⟩ := hp
  have hk : keepWrite (rawWrite s (.tile 0 o) bs) (.tile 0 o) bs = rawWrite s (.tile 0 o) bs := by
    unfold keepWrite
    simp only [rawWrite_tile0]
    exact if_pos h4
  refine ⟨rawWrite s (.tile 0 o) bs, ?_, ?_⟩
  · simp [writeUnit, ho, hq, armedAt, h1, homeWrite, touchWindows, State.homeStore, Store.badWrite, h3, hk, setDirty]
  · simp only [Calm, rawWrite_tile0]
    exact ⟨h1, by simp [Store.put, h2], by simp [Store.put, h3], h4⟩
theorem units_calm (ps : List Part) (hp : ∀ p ∈ ps, OwnUnit p) (g : EngAcc) (hg : ∀ p ∈ g.done, OwnUnit p) (s : State) (h : Calm s) :
    ∃ g' u, engUnits 0 ps g s = .ok (g', u) ∧ Calm u ∧ ∀ p ∈ g'.done, OwnUnit p := by
  induction ps generalizing g s with
  | nil => exact ⟨g, s, rfl, h, hg⟩
  | cons p r ih =>
    obtain ⟨u, e, hu⟩ := unit_calm h (hp p (.head _)) (g.bytes p)
    obtain ⟨g', w, e', hw, hd⟩ := ih (fun q hq => hp q (.tail _ hq)) (g.did p true)
      (by simp only [EngAcc.did, if_true, List.mem_append, List.mem_singleton]
          rintro q (hq | rfl)
          · exact hg q hq
          · exact hp _ (.head _)) u hu
    refine ⟨g', w, ?_, hw, hd⟩
    simp only [engUnits, engUnit, e]
    exact e'
theorem setFulls_calm (ps : List Part) (hp : ∀ p ∈ ps, OwnUnit p) (s : State) (h : Calm s) : Calm (setFulls s ps) := by
  induction ps generalizing s with
  | nil => exact h
  | cons p r ih =>
    refine ih (fun q hq => hp q (.tail _ hq)) _ ?_
    obtain ⟨⟨o, ho⟩, -⟩ := hp p (.head _)
    obtain ⟨h1, h2, h3, h4⟩ := h
    obtain ⟨b1, b2⟩ := setFes_bad (s.tile 0).store (o / 4) true ((o + p.len + 3) / 4 - o / 4)
    show Calm (setFull s p.home p.len true)
    rw [ho]
    show Calm (State.modTile _ 0 _)
    simp only [Calm, tile_modTile]
    exact ⟨h1, b1.trans h2, b2.trans h3, h4⟩
theorem granule_calm {s : State} (h : Calm s) (off : Nat) (b : List Byte) (hb : b.length ≤ 64) (ho : off + 64 ≤ 0x180000) :
    ∃ u, engWrite s 0 none 1 (s.tile 0).csr.stkbase 0 (BitVec.ofNat 64 off) b = .ok u ∧ Calm (arrive u 0 0 b.length true false) := by
  have hp : steer 0 (s.tile 0).csr.stkbase (BitVec.ofNat 64 off) b.length = some (.tile 0 off) := by
    unfold steer
    simp only [BitVec.toNat_ofNat, Nat.mod_eq_of_lt (show off < 2 ^ 64 by omega)]
    rw [if_pos (by omega)]
  have hown : ∀ p ∈ unitPieces ⟨.tile 0 off, 0, false, 0⟩ (BitVec.ofNat 64 off) b.length, OwnUnit p := by
    intro p m
    simp only [unitPieces, List.mem_map] at m
    obtain ⟨i, -, rfl⟩ := m
    exact ⟨⟨_, rfl⟩, rfl⟩
  obtain ⟨g, v, e, hv, hd⟩ := units_calm _ hown
    { parts := unitPieces ⟨.tile 0 off, 0, false, 0⟩ (BitVec.ofNat 64 off) b.length, data := BitVec.ofNat 512 (ofBytes b) }
    (by simp) s h
  have hv' := setFulls_calm _ hd _ hv
  refine ⟨setFulls v g.done, ?_, ?_⟩
  · obtain ⟨h1, -, -, -⟩ := h
    have hr : engReach s 0 1 (s.tile 0).csr.stkbase 0 (BitVec.ofNat 64 off) b.length true true = .ok (⟨.tile 0 off, 0, false, 0⟩, s) := by
      unfold engReach
      rw [hp]
      simp [homeMiss]
    have hn : (armedAt (s.tile 0) off b.length).isSome = false := by simp [armedAt, h1]
    simp only [engWrite, engBegun, engOpen, hr, hn, Bool.and_false, Bool.false_eq_true, if_false, e]
  · obtain ⟨h1, h2, h3, h4⟩ := hv'
    have ha : ((setFulls v g.done).tile 0).armed 0 = none := by simp [Tile.armed, Tile.hd, h1, tget]
    have hn : ((setFulls v g.done).tile 0).hdBad 0 = none := by simp [Tile.hdBad, Tile.hd, h1, tget]
    unfold arrive
    rw [ha, hn]
    simp only [Calm, Bool.false_eq_true, if_false, tile_modTile]
    exact ⟨h1, h2, h3, h4⟩
theorem quote_calm (l : List (List Byte)) (hl : ∀ b ∈ l, b.length ≤ 64) (off : Nat) (s : State) (h : Calm s)
    (ho : off + 64 * l.length ≤ 0x180000) : ∃ u, quoteGranules quote0 l off s = .ok u := by
  induction l generalizing off s with
  | nil => exact ⟨s, rfl⟩
  | cons b r ih =>
    obtain ⟨u, e, hu⟩ := granule_calm h off b (hl b (.head _)) (by simp at ho; omega)
    obtain ⟨w, e'⟩ := ih (fun c hc => hl c (.tail _ hc)) (off + b.length) _ hu (by have := hl b (.head _); simp at ho; omega)
    refine ⟨w, ?_⟩
    unfold quoteGranules
    have e2 : engWrite s quote0.tile none quote0.ctx (s.tile quote0.tile).csr.stkbase 0 (BitVec.ofNat 64 off) b = .ok u := e
    rw [e2]
    exact e'
theorem chunks_length (n : Nat) (k : Nat) (l : List Byte) : (chunks n k l).length ≤ k ∧ ∀ b ∈ chunks n k l, b.length ≤ n := by
  induction k generalizing l with
  | zero => simp [chunks]
  | succ k ih =>
    unfold chunks
    split
    · simp
    · obtain ⟨h1, h2⟩ := ih (l.drop n)
      refine ⟨by simpa using h1, ?_⟩
      intro b hb
      rcases List.mem_cons.1 hb with rfl | hb
      · simp
      · exact h2 b hb

def qS : State := { S with sec := { quotes := [quote0] } }
theorem test_witness_SecurityMoves_10 : ∃ (s : State) (q : Quote) (r : List Quote) (u : State), s.sec.quotes = q :: r ∧
    let k := makeQuote s q.owner q.ctx (((s.cfg q.cfg).map fun k => k.image.cmeas).getD []) q.report
    quoteGranules q (chunks 64 162 k.1) q.dst { k.2 with sec := { k.2.sec with quotes := r } } = .ok u := by
  have h (l : List Byte) (s : State) (hs : Calm s) : ∃ u, quoteGranules quote0 (chunks 64 162 l) 0x1000 s = .ok u := by
    obtain ⟨h1, h2⟩ := chunks_length 64 162 l
    exact quote_calm _ h2 0x1000 _ hs (by omega)
  have hq (l : List Byte) (f : Nat) (c : Sec) : Calm { qS with free := f, sec := c } := ⟨rfl, rfl, rfl, rfl⟩
  obtain ⟨u, hu⟩ := h _ _ (hq [] _ _)
  exact ⟨qS, quote0, [], u, rfl, hu⟩

theorem shake_length (m : List Byte) : (shake256 m 32).length = 32 := sponge_length _ _ _ (by decide)
theorem chunks_whole (n k : Nat) (hn : 0 < n) (l : List Byte) (h : l.length = n * k) :
    (chunks n k l).length = k ∧ ∀ b ∈ chunks n k l, b.length = n := by
  induction k generalizing l with
  | zero => simp [chunks]
  | succ k ih =>
    have hl : n ≤ l.length := by rw [h]; exact Nat.le_mul_of_pos_right n (by omega)
    obtain ⟨h1, h2⟩ := ih (l.drop n) (by rw [List.length_drop, h, Nat.mul_succ]; omega)
    have he : l.isEmpty = false := by
      cases l with
      | nil => simp at hl; omega
      | cons => rfl
    simp only [chunks, he, Bool.false_eq_true, if_false, List.length_cons, h1, true_and]
    intro b hb
    rcases List.mem_cons.1 hb with rfl | hb
    · simp [Nat.min_eq_left hl]
    · exact h2 b hb
theorem schedule_words (rc : Byte) (n : Nat) (w : List (List Byte)) (k : Nat) (hw : 8 ≤ w.length) (h : ∀ b ∈ w, b.length = 4) :
    (aesSchedule rc n w k).length = w.length + k ∧ ∀ b ∈ aesSchedule rc n w k, b.length = 4 := by
  induction k generalizing rc n w with
  | zero => exact ⟨rfl, h⟩
  | succ k ih =>
    have hp : (w.headD []).length = 4 := by
      cases w with
      | nil => simp at hw
      | cons b r => exact h b (.head _)
    have ho : (w[7]?.getD []).length = 4 := by
      rw [List.getElem?_eq_getElem (by omega : 7 < w.length), Option.getD_some]
      exact h _ (List.getElem_mem _)
    unfold aesSchedule
    refine (ih _ _ _ (by simp; omega) ?_).imp (fun e => by rw [e, List.length_cons]; omega) id
    intro b hb
    rcases List.mem_cons.1 hb with rfl | hb
    · rw [List.length_zipWith, ho]
      split
      · simp only [List.length_cons, List.length_drop, List.length_map, List.length_append, List.length_take, hp]
        rfl
      · split <;> simp only [List.length_map, hp] <;> rfl
    · exact h b hb
theorem aesKeys_last (key : List Byte) (h : key.length = 32) : ((aesKeys key)[14]?.getD []).length = 16 := by
  obtain ⟨c1, c2⟩ := chunks_whole 4 8 (by decide) key h
  obtain ⟨h1, h2⟩ := schedule_words 1 8 (chunks 4 8 key).reverse 52 (by rw [List.length_reverse, c1])
    (fun b hb => c2 b (List.mem_reverse.1 hb))
  rw [List.length_reverse, c1] at h1
  show (((List.drop (4 * 14) (aesSchedule 1 8 (chunks 4 8 key).reverse 52).reverse).take 4).flatten).length = 16
  have hm : List.map List.length ((List.drop (4 * 14) (aesSchedule 1 8 (chunks 4 8 key).reverse 52).reverse).take 4) = List.replicate 4 4 := by
    rw [List.eq_replicate_iff]
    refine ⟨by rw [List.length_map, List.length_take, List.length_drop, List.length_reverse, h1]; rfl, fun n hn => ?_⟩
    obtain ⟨b, hb, rfl⟩ := List.mem_map.1 hn
    exact h2 b (List.mem_reverse.1 (List.mem_of_mem_drop (List.mem_of_mem_take hb)))
  rw [List.length_flatten, hm]
  rfl
theorem tag_length (key nonce aad ct : List Byte) (h : key.length = 32) : (gcmTag (aesKeys key) nonce aad ct).length = 16 := by
  have e (b : List Byte) : (aesEncrypt (aesKeys key) b).length = 16 := by
    unfold aesEncrypt xorBytes
    rw [List.length_zipWith, aesKeys_last key h]
    simp [aesShift]
  unfold gcmTag xorBytes
  rw [List.length_zipWith, e]
  simp [beBlock, toBytes]
/-- A blob of 64 bytes of ciphertext with a tag. -/
def shdr : List Byte := 64 :: List.replicate 31 0
def sblob (tag : List Byte) : List Byte := shdr ++ (List.replicate 64 0 ++ (tag ++ List.replicate 16 0))
theorem open_sealed (s : State) (key tag : List Byte) (hk : sealKey s 0 0 = key) (hl : tag.length = 16)
    (ht : gcmTag (aesKeys key) (List.replicate 12 0) shdr (List.replicate 64 0) = tag) :
    ∃ pt, openBlob s 0 64 (sblob tag) = .ok pt := by
  have e1 : (sblob tag).take 32 = shdr := List.take_left' rfl
  have e2 : (sblob tag).drop 32 = List.replicate 64 0 ++ (tag ++ List.replicate 16 0) := List.drop_left' rfl
  have e3 : ((sblob tag).drop 32).take 64 = List.replicate 64 0 := by rw [e2]; exact List.take_left' (by decide)
  have e4 : ((sblob tag).drop 96).take 16 = tag := by
    rw [show (sblob tag).drop 96 = tag ++ List.replicate 16 0 by
      rw [show 96 = 32 + 64 from rfl, ← List.drop_drop, e2]; exact List.drop_left' (by decide)]
    exact List.take_left' hl
  unfold openBlob
  simp only [e1]
  rw [show ofBytes (shdr.take 4) = 64 from rfl, show (shdr[4]?.getD 0 : Byte).toNat % 8 = 0 from rfl,
    show (shdr.drop 8).take 12 = List.replicate 12 0 from rfl]
  rw [if_neg (by decide), e3, show (32 + 64) = 96 from rfl, e4, hk]
  exact ⟨_, by rw [gcmOpen, if_pos ht]⟩
def uS (m : Memory) : State := ms { reg12 0x100 with store := { bytes := m } }
/-- What UNSEAL needs to open its blob. -/
def Unseals (f : FE) (s : State) (b c : Word) (src dst : Nat) (pt : List Byte) : Prop :=
  MTask s ∧ Alone s ∧ On f.p s ∧ Ready s f.ga ∧ Holds s f.gb b ∧ Holds s f.gc c ∧
    OwnBlock s b ((f.cmd.toNat % 64 + 1) * 64 + 64) 64 src ∧ OwnBlock s c ((f.cmd.toNat % 64 + 1) * 64) 64 dst ∧
    (src + ((f.cmd.toNat % 64 + 1) * 64 + 64) ≤ dst ∨ dst + (f.cmd.toNat % 64 + 1) * 64 ≤ src) ∧ Plain s src ((f.cmd.toNat % 64 + 1) * 64 + 64) ∧
    openBlob s s.cur ((f.cmd.toNat % 64 + 1) * 64) (readBytes (here s).store.bytes src ((f.cmd.toNat % 64 + 1) * 64 + 64)) = .ok pt ∧
    Unarmed s dst pt.length ∧ PortFree s dst pt.length
theorem test_witness_SecurityResults_5 : ∃ f s b c src dst pt, Unseals f s b c src dst pt := by
  have key (m : Memory) (tag : List Byte) (hm : readBytes m 0x40 128 = sblob tag)
      (h : ∃ pt, openBlob (uS m) 0 64 (sblob tag) = .ok pt) :
      ∃ pt, openBlob (uS m) (uS m).cur 64 (readBytes (here (uS m)).store.bytes 0x40 128) = .ok pt := by
    rw [show (here (uS m)).store.bytes = m from rfl, hm]
    exact h
  have all (m : Memory) (h : ∃ pt, openBlob (uS m) (uS m).cur 64 (readBytes (here (uS m)).store.bytes 0x40 128) = .ok pt) :
      ∃ f s b c src dst pt, Unseals f s b c src dst pt := by
    obtain ⟨pt, h⟩ := h
    exact ⟨{ fe with ga := 2, gb := 1, gc := 12 }, uS m, 0x40, 0x100, 0x40, 0x100, pt, rfl, ⟨rfl, rfl, rfl⟩,
      (by show (nbit (Pred.mask always (reg12 0x100).regs).toNat 0 && maskGood always (reg12 0x100).regs) = true; decide),
      ⟨by decide, by show Fe.full ≠ Fe.empty; decide⟩, ⟨by decide, rfl, by show (RegKind.g, 1) ∉ ([] : List (RegKind × Nat)); simp, rfl⟩,
      ⟨by decide, rfl, by show (RegKind.g, 12) ∉ ([] : List (RegKind × Nat)); simp, rfl⟩, ⟨rfl, by decide⟩, ⟨rfl, by decide⟩, .inl (by decide),
      ⟨⟨rfl, rfl, rfl⟩, rfl, rfl, rfl⟩, h, rfl, ⟨rfl, rfl, rfl⟩⟩
  have hl := tag_length (sealKey S 0 0) (List.replicate 12 0) shdr (List.replicate 64 0) (sponge_length _ _ _ (by decide))
  generalize ht : gcmTag (aesKeys (sealKey S 0 0)) (List.replicate 12 0) shdr (List.replicate 64 0) = tag at hl
  have hr := readBytes_writeBytes [] 0x40 (sblob tag) (by decide)
  rw [show (sblob tag).length = 128 by simp [sblob, shdr, hl]] at hr
  have hs (m : Memory) : sealKey (uS m) 0 0 = sealKey S 0 0 := rfl
  exact all _ (key _ tag hr (open_sealed _ _ tag (hs _) hl ht))

/-! Witnesses: for every statement, one theorem with a state and operands for each of its clauses that has hypotheses. -/

theorem test_witness_StepExecutes :
    (∃ (s : State), ∃ (t : Nat), ∃ (rest : List Turn), (s.agenda = .tile t :: rest) ∧ (s.sec.held = false) ∧ (s.sec.erased = false) ∧ (s.sec.due = []) ∧ 
    let u := turn s rest t
    
    let x := u.tile t
    (Runs u t) ∧ (x.regs.pc < 6144) ∧ (x.regs.pc ∉ x.codeBad) ∧ ∃ (i : Instr), (decode (x.codeAt x.regs.pc) = some i)) ∧
    (∃ (s : State), ∃ (t : Nat), ∃ (rest : List Turn), (s.agenda = .tile t :: rest) ∧ (s.sec.held = false) ∧ (s.sec.erased = false) ∧ (s.sec.due = []) ∧ 
    let u := turn s rest t
    
    let x := u.tile t
    (Runs u t) ∧ (x.regs.pc < 6144) ∧ (x.regs.pc ∉ x.codeBad) ∧ (decode (x.codeAt x.regs.pc) = none)) ∧
    (∃ (s : State), ∃ (i : Instr), (s.agenda = []) ∧ (s.sec.held = false) ∧ (s.sec.erased = false) ∧ (s.sec.due = []) ∧ (tileWork (passTime s) s.cur = none) ∧ (moduleWork (passTime s) = none) ∧ 
    let t := nextTile s
    
    let u := turn s [] t
    
    let x := u.tile t
    (Runs u t) ∧ (x.regs.pc < 6144) ∧ (x.regs.pc ∉ x.codeBad) ∧ (decode (x.codeAt x.regs.pc) = some i)) ∧
    (∃ (s : State), ∃ (i : Instr), ∃ (rest : List Turn), (s.agenda = .ev i :: rest) ∧ (s.sec.held = false) ∧ (s.sec.erased = false) ∧ (s.sec.due = [])) ∧
    (∃ (s : State), ∃ (src : AlarmSource), ∃ (at_ : Nat), ∃ (rest : List (AlarmSource × Nat)), ((∀ b r, s.agenda ≠ .ev (.powerOn b) :: r)) ∧ (s.sec.held = false) ∧ (s.sec.erased = false) ∧ (s.sec.due = (src, at_) :: rest)) ∧
    (∃ (s : State), ∃ (b : BootInput), ∃ (rest : List Turn), (s.agenda = .ev (.powerOn b) :: rest)) ∧
    (∃ (s : State), (s.sec.held = true) ∧ ((∀ b rest, s.agenda ≠ .ev (.powerOn b) :: rest))) :=
  ⟨
    ⟨{fetch0 0 with agenda := [.tile 0]}, 0, [], rfl, rfl, rfl, rfl, ⟨rfl, (fun h => by cases h), .inr ⟨rfl, .inl rfl⟩⟩, (by decide), (by decide), .nop ⟨always, false, 0, z, z, z, 0, false, 0⟩, rfl⟩,
    ⟨{fetch0 0x0002000000000000 with agenda := [.tile 0]}, 0, [], rfl, rfl, rfl, rfl, ⟨rfl, (fun h => by cases h), .inr ⟨rfl, .inl rfl⟩⟩, (by decide), (by decide), rfl⟩,
    ⟨fetch0 0, .nop ⟨always, false, 0, z, z, z, 0, false, 0⟩, rfl, rfl, rfl, rfl, rfl, rfl, ⟨rfl, (fun h => by cases h), .inr ⟨rfl, .inl rfl⟩⟩, (by decide), (by decide), rfl⟩,
    ⟨{S with agenda := [.ev .migrationCancel]}, .migrationCancel, [], rfl, rfl, rfl, rfl⟩,
    ⟨{S with sec := { due := [(.lid, 3)] }}, .lid, 3, [], (by intro b r h; cases h), rfl, rfl, rfl⟩,
    ⟨{S with agenda := [.ev (.powerOn (boot0 true))]}, boot0 true, [], rfl⟩,
    ⟨{S with sec := { held := true }}, rfl, (by intro b rest h; cases h)⟩⟩

theorem test_witness_EncodeDecode :
    (∃ i, ∃ w, (i.wellFormed = true) ∧ (i.legal = true) ∧ (encode i = some w)) ∧
    (∃ w, ∃ i, (decode w = some i)) :=
  ⟨
    ⟨.nop ⟨always, false, 0, z, z, z, 0, false, 0⟩, 0, rfl, rfl, rfl⟩,
    ⟨0, .nop ⟨always, false, 0, z, z, z, 0, false, 0⟩, rfl⟩⟩

theorem test_witness_StepKeepsStores :
    ∃ (s : State), ∃ t, (StoresCanonical s) ∧ (step s = .next t) :=
  ⟨{fetch0 0 with agenda := [.ev .migrationCancel]}, passTime (fetch0 0), ⟨rfl, by decide⟩, rfl⟩

theorem test_witness_DivisionResults :
    (∃ (mk : FA → Instr), ∃ (f : FA), ∃ (s : State), ∃ (s' : State), ∃ (a : Nat), (f.dk = true) ∧ (Alone s) ∧ (On f.p s) ∧ (Free true f.dst s) ∧ (ScalarSources f 2 s a 0 0 s')) ∧
    (∃ (mk : FA → Instr), ∃ (f : FA), ∃ (s : State), ∃ (s' : State), ∃ (a : List Nat), ∃ (b : List Nat), ∃ m, (f.dk = false) ∧ (Alone s) ∧ (Lanes f.p s m) ∧ (Free false f.dst s m) ∧ (VectorSources f 2 s a b [] s') ∧ 
    let zero (j : Nat) : Prop := j < 512 / tyWidth f.ty ∧ Enabled m (tyWidth f.ty) j = true ∧ el b j = 0
    ((∃ j, zero j))) :=
  ⟨
    ⟨.div, {fa with b := .c 2}, S, S, 3, rfl, ⟨rfl, by decide⟩, rfl, rfl, ⟨S, S, by rfl, by rfl, by exact ⟨rfl, rfl⟩⟩⟩,
    ⟨.div, {fa with dk := false, a := .v 1 false, b := .c 2}, S, S, toElems 16 32 0x3F8000003F800000, List.replicate 16 0, 0xFFFF, rfl, ⟨rfl, by decide⟩, ⟨rfl, by decide⟩, rfl, ⟨S, S, by rfl, by rfl, by exact ⟨rfl, rfl⟩⟩, ⟨0, by decide, by decide, by decide⟩⟩⟩

theorem test_witness_ImmediateResults :
    (∃ (f : FA), ∃ (s : State), (Alone s)) ∧
    (∃ (f : FI), ∃ (s : State), (f.dk = true) ∧ (Alone s) ∧ (On f.p s) ∧ (Free true f.dst s)) ∧
    (∃ (f : FI), ∃ (s : State), ∃ m, (f.dk = false) ∧ (Alone s) ∧ (Lanes f.p s m) ∧ (Free false f.dst s m)) ∧
    (∃ (f : FI), ∃ (s : State), ∃ (s' : State), ∃ a, (Alone s) ∧ (On f.p s) ∧ (Free true f.dst s) ∧ (Gives (readScalar f.a) s a s')) ∧
    (∃ (f : FI), ∃ (s : State), ∃ (s' : State), ∃ a, (f.dk = true) ∧ (Alone s) ∧ (On f.p s) ∧ (Free true f.dst s) ∧ (Gives (readScalar f.a) s a s')) ∧
    (∃ (f : FI), ∃ (s : State), ∃ (s' : State), ∃ a, ∃ m, (f.dk = false) ∧ (Alone s) ∧ (Lanes f.p s m) ∧ (Free false f.dst s m) ∧ (Gives (readElems 0 16 f.a) s a s')) ∧
    (∃ (f : FM), ∃ (s : State), ∃ (s' : State), ∃ b, (Alone s) ∧ (On f.p s) ∧ (Free true f.dst s) ∧ (Gives (readG f.base.toNat f.bw) s b s')) :=
  ⟨
    ⟨fa, S, ⟨rfl, by decide⟩⟩,
    ⟨{fi with imm := 5}, S, rfl, ⟨rfl, by decide⟩, rfl, rfl⟩,
    ⟨{fi with dk := false}, S, 0xFFFF, rfl, ⟨rfl, by decide⟩, ⟨rfl, by decide⟩, rfl⟩,
    ⟨{fi with a := .g 2 false}, S, S, 3, ⟨rfl, by decide⟩, rfl, rfl, rfl⟩,
    ⟨{fi with a := .g 2 false}, S, S, 3, rfl, ⟨rfl, by decide⟩, rfl, rfl, rfl⟩,
    ⟨{fi with dk := false, a := .v 1 false}, S, S, toElems 16 32 0x3F8000003F800000, 0xFFFF, rfl, ⟨rfl, by decide⟩, ⟨rfl, by decide⟩, rfl, rfl⟩,
    ⟨fm, S, S, 0x40, ⟨rfl, by decide⟩, rfl, rfl, rfl⟩⟩

theorem test_witness_CodeResults :
    (∃ (f : FA), ∃ (s : State), ∃ (s1 : State), ∃ (s2 : State), ∃ (a : Nat), ∃ (b : Nat), (f.dk = true) ∧ (Alone s) ∧ (On f.p s) ∧ (Free true f.dst s) ∧ (ModeOk true s) ∧ (Gives (readElem f.ty f.a) s a s1) ∧ (Gives (readElem (intTy f.ty) f.b) s1 b s2) ∧ 
    let r := fscaleVal (fOf f) (rmOf (here s).csr true f.dst 0) f.sat (decodeVal (fOf f) a) (BitVec.ofNat (tyWidth f.ty) b).toInt
    (Quiet s r.fl)) ∧
    (∃ (f : FA), ∃ (s : State), ∃ (s1 : State), ∃ (s2 : State), ∃ (a : List Nat), ∃ (b : List Nat), ∃ m, (f.dk = false) ∧ (Alone s) ∧ (Lanes f.p s m) ∧ (Free false f.dst s m) ∧ (ModeOk true s) ∧ (Gives (readElems f.ty (512 / tyWidth f.ty) f.a) s a s1) ∧ (Gives (readElems (intTy f.ty) (512 / tyWidth f.ty) f.b) s1 b s2) ∧ 
    let w := tyWidth f.ty
    
    let o (j : Nat) : Out :=
      let r := fscaleVal (fOf f) (rmOf (here s).csr false f.dst j) f.sat (decodeVal (fOf f) (el a j)) (BitVec.ofNat w (el b j)).toInt
      (r.code, r.fl)
    
    let fl := elementFlags m w (512 / w) o
    (Quiet s fl)) :=
  ⟨
    ⟨{fa with ty := 8, a := .c 3, b := .g 2 false}, S, S, S, 0, 3, rfl, ⟨rfl, by decide⟩, rfl, rfl, (fun _ => by decide), rfl, rfl, rfl⟩,
    ⟨{fa with dk := false, ty := 8, a := .v 1 false, b := .g 2 false}, S, S, S, toElems 16 32 0x3F8000003F800000, List.replicate 16 3, 0xFFFF, rfl, ⟨rfl, by decide⟩, ⟨rfl, by decide⟩, rfl, (fun _ => by decide), rfl, rfl, rfl⟩⟩

theorem test_witness_RoundingBrackets :
    (∃ (f : Fmt), ∃ (x : Dy), (x.m ≠ 0) ∧ ∃ (mode : Nat), ∃ (sat : Bool), ∃ (rnd : Nat), (mode ≤ 4) ∧ ((roundTo f ⟨mode, rnd⟩ sat x).fl &&& OF = 0)) ∧
    (∃ (f : Fmt), ∃ (x : Dy), (x.m ≠ 0) ∧ ∃ (mode : Nat), ∃ (sat : Bool), ∃ (rnd : Nat), ∃ (code : Nat), ∃ (y : Dy), (decodeVal f code = .fin y) ∧ (ratOf y = ratOf x)) :=
  ⟨
    ⟨f32, ⟨false, 3, 0⟩, (by decide), 0, false, 0, (by decide), rfl⟩,
    ⟨f32, ⟨false, 0xC00000, -22⟩, (by decide), 0, false, 0, 0x40400000, ⟨false, 0xC00000, -22⟩, rfl, rfl⟩⟩

theorem test_witness_ConversionResults :
    (∃ (f : FA), ∃ (s : State), ∃ (s' : State), ∃ (a : Nat), (f.dk = true) ∧ (Alone s) ∧ (On f.p s) ∧ (Free true f.dst s) ∧ (ModeOk (decide (8 ≤ (cvtS f).toNat) || decide (8 ≤ f.ty.toNat)) s) ∧ (Gives (readElem (cvtS f) f.a) s a s') ∧ 
    let r := convElem f.ty (cvtS f) (here s).csr.fmt8 (rmOf (here s).csr true f.dst 0) f.sat a
    (Quiet s r.fl)) ∧
    (∃ (f : FA), ∃ (s : State), ∃ (s' : State), ∃ (a : List Nat), ∃ m, (f.dk = false) ∧ (Alone s) ∧ (Lanes f.p s m) ∧ (Free false f.dst s (if tyWidth f.ty < tyWidth (cvtS f) then 0 else m)) ∧ (ModeOk (decide (8 ≤ (cvtS f).toNat) || decide (8 ≤ f.ty.toNat)) s) ∧ (Gives (readElems (cvtS f) (512 / tyWidth (cvtS f)) f.a) s a s') ∧ 
    let wd := tyWidth f.ty
    
    let ws := tyWidth (cvtS f)
    
    let n := 512 / Nat.max wd ws
    
    let first := if wd < ws then f.m.toNat * n else 0
    
    let from_ := if ws < wd then f.m.toNat * n else 0
    
    let o (k : Nat) : Out :=
      let r := convElem f.ty (cvtS f) (here s).csr.fmt8 (rmOf (here s).csr false f.dst k) f.sat (el a (from_ + (k - first)))
      (r.code, r.fl)
    
    let part (k : Nat) : Bool := decide (first ≤ k) && decide (k < first + n) && Enabled m wd k
    
    let fl := ((List.range (512 / wd)).filter part).foldl (fun fl k => fl ||| (o k).2) 0
    ((first + n) * wd ≤ 512) ∧ (wd ≤ 32) ∧ (Quiet s fl)) :=
  ⟨
    ⟨{fa with a := .g 10 false, b := z, c := .v 8 false, ty := 11}, S, S, 0x4004, rfl, ⟨rfl, by decide⟩, rfl, rfl, (fun _ => by decide), rfl, rfl⟩,
    ⟨{fa with dk := false, dst := 3, a := .v 1 false, b := z, c := .v 8 false, ty := 11}, S, S, toElems 16 32 0x3F8000003F800000, 0xFFFF, rfl, ⟨rfl, by decide⟩, ⟨rfl, by decide⟩, rfl, (fun _ => by decide), rfl, (by decide), (by decide), rfl⟩⟩

theorem test_witness_MoveResults :
    (∃ (r : (FA → Instr) × Bool × Bool × (Nat → (Nat → Nat) → (Nat → Nat) → (Nat → Nat) → Nat → Nat)), ∃ (f : FA), ∃ (s : State), ∃ (s1 : State), ∃ (s2 : State), ∃ (s3 : State), ∃ (a : List Nat), ∃ (b : List Nat), ∃ (c : List Nat), ∃ m, (Alone s) ∧ (Lanes f.p s m) ∧ (Free false f.dst s m) ∧ (Gives (readElems f.ty (512 / tyWidth f.ty) f.a) s a s1) ∧ (ReadsB f r.2.1 s1 b s2) ∧ ((if r.2.2.1 then Gives (readElems f.ty (512 / tyWidth f.ty) f.c) s2 c s3 else c = [] ∧ s3 = s2))) ∧
    (∃ (f : FA), ∃ (s : State), ∃ (s1 : State), ∃ (s2 : State), ∃ (a : List Nat), ∃ (b : Nat), ∃ m, (Alone s) ∧ (Lanes f.p s m) ∧ (Free false f.dst s m) ∧ (Gives (readElems 0 (512 / tyWidth 0) f.a) s a s1) ∧ (Gives (readElem 0 f.b) s1 b s2)) ∧
    (∃ (f : FA), ∃ (s : State), ∃ (s1 : State), ∃ (s2 : State), ∃ (a : List Nat), ∃ (b : Nat), (f.dk = true) ∧ (Alone s) ∧ (On f.p s) ∧ (Free true f.dst s) ∧ (Gives (readElems 0 (512 / tyWidth 0) f.a) s a s1) ∧ (Gives (readElem 0 f.b) s1 b s2)) ∧
    (∃ (f : FA), ∃ (s : State), ∃ (s1 : State), ∃ (s2 : State), ∃ (s3 : State), ∃ (a : List Nat), ∃ (b : Nat), ∃ (c : Nat), ∃ m, (f.dk = false) ∧ (Alone s) ∧ (Lanes f.p s m) ∧ (Free false f.dst s m) ∧ (Gives (readElems 0 (512 / tyWidth 0) f.a) s a s1) ∧ (Gives (readElem 0 f.b) s1 b s2) ∧ (Gives (readElem f.ty f.c) s2 c s3)) :=
  ⟨
    ⟨(.vperm, true, false, fun n a b _ j => a (b j % n)), {fa with dk := false, a := .v 1 false, b := .v 2 false}, S, S, S, S, toElems 16 32 0x3F8000003F800000, toElems 16 32 0x0000000100000002, [], 0xFFFF, ⟨rfl, by decide⟩, ⟨rfl, by decide⟩, rfl, rfl, rfl, ⟨rfl, rfl⟩⟩,
    ⟨{fa with dk := false, a := .v 1 false, b := .g 2 false}, S, S, S, toElems 16 32 0x3F8000003F800000, 3, 0xFFFF, ⟨rfl, by decide⟩, ⟨rfl, by decide⟩, rfl, rfl, rfl⟩,
    ⟨{fa with a := .v 1 false, b := .g 2 false}, S, S, S, toElems 16 32 0x3F8000003F800000, 3, rfl, ⟨rfl, by decide⟩, rfl, rfl, rfl, rfl⟩,
    ⟨{fa with dk := false, a := .v 1 false, b := .g 2 false, c := .g 3 false}, S, S, S, S, toElems 16 32 0x3F8000003F800000, 3, 1, 0xFFFF, rfl, ⟨rfl, by decide⟩, ⟨rfl, by decide⟩, rfl, rfl, rfl, rfl⟩⟩

theorem test_witness_ReductionResults :
    (∃ (f : FA), ∃ (s : State), ∃ (s' : State), ∃ (a : List Nat), ∃ m, (fmtOf f.ty 0 = none) ∧ (Alone s) ∧ (Lanes f.p s m) ∧ (Free f.dk f.dst s) ∧ (Gives (readElems f.ty (512 / tyWidth f.ty) f.a) s a s') ∧ 
    let l := enabledInts f m a
    
    let r : Out := match f.m.toNat with
      | 0 => narrow f.ty f.sat l.sum
      | 1 => narrow f.ty false (l.max?.getD 0)
      | _ => narrow f.ty false (l.min?.getD 0)
    (Quiet s r.2)) ∧
    (∃ (f : FA), ∃ (s : State), ∃ (s' : State), ∃ (a : List Nat), ∃ m, ((fmtOf f.ty 0).isSome = true) ∧ (Alone s) ∧ (Lanes f.p s m) ∧ (Free f.dk f.dst s) ∧ (Gives (readElems f.ty (512 / tyWidth f.ty) f.a) s a s') ∧ (ModeOk (f.m == 0) s) ∧ 
    let leaves := (List.range a.length).map fun j => if Enabled m (tyWidth f.ty) j then some (el a j : Int) else none
    
    let r := treeRed (fun idx => combine f f.m.toNat (rmOf (here s).csr f.dk f.dst idx)) (512 / tyWidth f.ty).log2 1 leaves
    
    let v := lone f (r.1.getD 0)
    
    let fl := v.fl ||| r.2
    (Quiet s fl)) ∧
    (∃ (f : FA), ∃ (s : State), ∃ (s' : State), ∃ (a : List Nat), ∃ m, (Alone s) ∧ (Lanes f.p s m) ∧ (Free f.dk f.dst s) ∧ (Gives (readElems f.ty (512 / tyWidth f.ty) f.a) s a s') ∧ (ModeOk true s) ∧ 
    let vs := ((List.range a.length).filter (Enabled m (tyWidth f.ty))).map fun j => decodeVal (fOf f) (el a j)
    
    let r := exactSum (fOf f) (rmOf (here s).csr f.dk f.dst 0) vs
    (Quiet s r.fl)) ∧
    (∃ (f : FA), ∃ (s : State), ∃ (s' : State), ∃ (a : List Nat), ∃ m, (Alone s) ∧ (Lanes f.p s m) ∧ (Free false f.dst s m) ∧ (Gives (readElems f.ty (512 / tyWidth f.ty) f.a) s a s') ∧ (ModeOk ((fmtOf f.ty 0).isSome && decide (f.m.toNat < 2)) s) ∧ 
    let e := scanElems f (here s).csr m 0 none a
    (Quiet s e.fl)) :=
  ⟨
    ⟨{fa with a := .v 1 false}, S, S, toElems 16 32 0x3F8000003F800000, 0xFFFF, rfl, ⟨rfl, by decide⟩, ⟨rfl, by decide⟩, rfl, rfl, rfl⟩,
    ⟨{fa with a := .v 1 false, ty := 8}, S, S, toElems 16 32 0x3F8000003F800000, 0xFFFF, rfl, ⟨rfl, by decide⟩, ⟨rfl, by decide⟩, rfl, rfl, (fun _ => by decide), rfl⟩,
    ⟨{fa with a := .v 1 false, ty := 8}, S, S, toElems 16 32 0x3F8000003F800000, 0xFFFF, ⟨rfl, by decide⟩, ⟨rfl, by decide⟩, rfl, rfl, (fun _ => by decide), rfl⟩,
    ⟨{fa with dk := false, a := .v 1 false}, S, S, toElems 16 32 0x3F8000003F800000, 0xFFFF, ⟨rfl, by decide⟩, ⟨rfl, by decide⟩, rfl, rfl, (fun _ => by decide), rfl⟩⟩

theorem test_witness_PredicateResults :
    (∃ (r : ((FA → Instr) × (BitVec 16 → BitVec 16 → BitVec 16))), ∃ (f : FA), ∃ (s : State), ∃ (a : BitVec 16), ∃ (b : BitVec 16), (Alone s) ∧ (On f.p s) ∧ (PredSource f.a s a) ∧ (PredSource f.b s b)) ∧
    (∃ (f : FA), ∃ (s : State), ∃ (a : BitVec 16), (Alone s) ∧ (On f.p s) ∧ (PredSource f.a s a)) ∧
    (∃ (f : FA), ∃ (s : State), ∃ (a : BitVec 16), (Alone s) ∧ (On f.p s) ∧ (Free true f.dst s) ∧ (PredSource f.a s a)) ∧
    (∃ (f : FA), ∃ (s : State), ∃ (a : BitVec 16), (f.m = 0) ∧ (Alone s) ∧ (On f.p s) ∧ (PredSource f.a s a)) ∧
    (∃ (f : FA), ∃ (s : State), ∃ (s' : State), ∃ (a : Word), (f.m = 1) ∧ (Alone s) ∧ (On f.p s) ∧ (Gives (readScalar f.a) s a s')) ∧
    (∃ (f : FA), ∃ (s : State), ∃ (s' : State), ∃ v, (f.m = 2) ∧ (Alone s) ∧ (On f.p s) ∧ (VectorSource f.a s v s')) ∧
    (∃ (f : FA), ∃ (s : State), ∃ (a : BitVec 16), (f.m = 3) ∧ (Alone s) ∧ (On f.p s) ∧ (Free true f.dst s) ∧ (PredSource f.a s a)) :=
  ⟨
    ⟨(.kand, fun a b => a &&& b), {fa with a := .g 1 false, b := .g 2 false, dst := 3}, S, 1, 2, ⟨rfl, by decide⟩, rfl, ⟨fun _ => by decide, rfl⟩, ⟨fun _ => by decide, rfl⟩⟩,
    ⟨{fa with a := .g 1 false, b := .g 2 false, dst := 3}, S, 1, ⟨rfl, by decide⟩, rfl, ⟨fun _ => by decide, rfl⟩⟩,
    ⟨{fa with a := .g 1 false}, S, 1, ⟨rfl, by decide⟩, rfl, rfl, ⟨fun _ => by decide, rfl⟩⟩,
    ⟨{fa with a := .g 1 false, b := .g 2 false, dst := 3}, S, 1, rfl, ⟨rfl, by decide⟩, rfl, ⟨fun _ => by decide, rfl⟩⟩,
    ⟨{fa with a := .g 2 false, m := 1, dst := 3}, S, S, 3, rfl, ⟨rfl, by decide⟩, rfl, rfl⟩,
    ⟨{fa with a := .v 1 false, m := 2, dst := 3}, S, S, 0x3F8000003F800000, rfl, ⟨rfl, by decide⟩, rfl, rfl⟩,
    ⟨{fa with a := .g 1 false, m := 3}, S, 1, rfl, ⟨rfl, by decide⟩, rfl, rfl, ⟨fun _ => by decide, rfl⟩⟩⟩

theorem test_witness_PackAndBlockResults :
    (∃ (f : FA), ∃ (s : State), ∃ (s1 : State), ∃ (s2 : State), ∃ (va : Vec), ∃ (vb : Vec), ∃ m, (Alone s) ∧ (Lanes f.p s m) ∧ (Free false f.dst s m) ∧ (VectorSource f.a s va s1) ∧ (VectorSource f.b s1 vb s2) ∧ 
    let w := if f.m = 1 then 4 else tyWidth f.ty
    
    let half := 512 / (2 * w)
    
    let o (j : Nat) : Out :=
      let r := fitInt w (tySigned f.ty) f.sat (if j < half then wideInt f (2 * w) va j else wideInt f (2 * w) vb (j - half))
      (r.code, r.fl)
    
    let fl := elementFlags m w (512 / w) o
    (Quiet s fl)) ∧
    (∃ (f : FA), ∃ (s : State), ∃ (s' : State), ∃ (v : Vec), ∃ m, (Alone s) ∧ (Lanes f.p s m) ∧ (Free false f.dst s m) ∧ (VectorSource f.a s v s')) ∧
    (∃ (f : FA), ∃ (s : State), ∃ (s1 : State), ∃ (s2 : State), ∃ (a : List Nat), ∃ (b : List Nat), (Alone s) ∧ (Lanes f.p s 0xFFFF) ∧ (Free false f.dst s) ∧ (Gives (readElems 8 (512 / tyWidth 8) f.a) s a s1) ∧ (Gives (readElems 8 16 f.b) s1 b s2) ∧ (ModeOk true s) ∧ ((∀ x ∈ a ++ b, ∃ d, decodeVal f32 x = .fin d)) ∧ 
    let ds := (a ++ b).filterMap fun x => match decodeVal f32 x with | .fin d => some d | _ => none
    
    let e := mxExp f.ty ds
    
    let r := mapElems (here s).csr.enabled 0xFFFF (fOf f).w (fun j => match ds[j]? with
      | some d => roundTo (fOf f) (rmOf (here s).csr false f.dst j) f.sat { d with e := d.e - e }
      | none => ⟨0, 0⟩) 32 0
    (Quiet s r.fl)) ∧
    (∃ (f : FA), ∃ (s : State), ∃ (s' : State), ∃ (v : Vec), ∃ m, (Alone s) ∧ (Lanes f.p s m) ∧ (Free false f.dst s m) ∧ (VectorSource f.a s v s') ∧ (ModeOk true s) ∧ (nfld v.toNat (mxScaleAt f.ty) 8 ≠ 0xFF) ∧ 
    let o (j : Nat) : Out :=
      let r := match decodeVal (fOf f) (elemOf v.toNat (fOf f).w (j + if f.m = 1 then 16 else 0)) with
        | .fin d => roundTo f32 (rmOf (here s).csr false f.dst j) false { d with e := d.e + nfld v.toNat (mxScaleAt f.ty) 8 - 127 }
        | x => convVal f32 (rmOf (here s).csr false f.dst j) false x
      (r.code, r.fl)
    
    let fl := elementFlags m 32 16 o
    (Quiet s fl)) ∧
    (∃ (f : FA), ∃ (s : State), ∃ (s1 : State), ∃ (s2 : State), ∃ (s3 : State), ∃ (a : List Nat), ∃ (b : List Nat), ∃ (c : List Nat), ∃ m, (Alone s) ∧ (Lanes f.p s m) ∧ (Free false f.dst s m) ∧ (Gives (readElems f.ty (512 / tyWidth f.ty) f.a) s a s1) ∧ (Gives (readElems f.ty (512 / tyWidth f.ty) f.b) s1 b s2) ∧ (Gives (readElems (if 8 ≤ f.ty.toNat then 8 else 0) 16 f.c) s2 c s3) ∧ (ModeOk (decide (8 ≤ f.ty.toNat)) s) ∧ 
    let k := 32 / tyWidth f.ty
    
    let o (i : Nat) : Out := match fmtOf f.ty (here s).csr.fmt8 with
      | none => narrow 0 f.sat (intOf 0 (el c i) +
          ((List.range k).map fun j => intOf f.ty (el a (i * k + j)) * intOf f.ty (el b (i * k + j))).sum)
      | some g =>
        let r := dotVal (rmOf (here s).csr false f.dst i) f.sat (decodeVal f32 (el c i))
          ((List.range k).map fun j => (decodeVal g (el a (i * k + j)), decodeVal g (el b (i * k + j))))
        (r.code, r.fl)
    
    let fl := elementFlags m 32 16 o
    (Quiet s fl)) :=
  ⟨
    ⟨{fa with dk := false, ty := 2, a := .v 1 false, b := .v 2 false}, S, S, S, 0x3F8000003F800000, 0x0000000100000002, 0xFFFF, ⟨rfl, by decide⟩, ⟨rfl, by decide⟩, rfl, rfl, rfl, rfl⟩,
    ⟨{fa with dk := false, ty := 2, a := .v 1 false, b := .v 2 false}, S, S, 0x3F8000003F800000, 0xFFFF, ⟨rfl, by decide⟩, ⟨rfl, by decide⟩, rfl, rfl⟩,
    ⟨{fa with dk := false, ty := 11, a := .v 9 false, b := .v 10 false}, S, S, S, List.replicate 16 0, List.replicate 16 0, ⟨rfl, by decide⟩, ⟨rfl, by decide⟩, rfl, rfl, rfl, (fun _ => by decide), (by intro x hx; obtain rfl : x = 0 := (by revert x; decide); exact ⟨_, rfl⟩), rfl⟩,
    ⟨{fa with dk := false, ty := 11, a := .v 1 false}, S, S, 0x3F8000003F800000, 0xFFFF, ⟨rfl, by decide⟩, ⟨rfl, by decide⟩, rfl, rfl, (fun _ => by decide), (by decide), rfl⟩,
    ⟨{fa with dk := false, ty := 4, a := .v 1 false, b := .v 2 false, c := .v 9 false}, S, S, S, S, toElems 64 8 0x3F8000003F800000, toElems 64 8 0x0000000100000002, List.replicate 16 0, 0xFFFF, ⟨rfl, by decide⟩, ⟨rfl, by decide⟩, rfl, rfl, rfl, rfl, (fun _ => by decide), rfl⟩⟩

theorem test_witness_WideResults :
    (∃ (f : FA), ∃ (s : State), ∃ (s' : State), ∃ v, ∃ m, (Alone s) ∧ (Lanes f.p s m) ∧ (VectorSource f.a s v s') ∧ (Good s .wa f.m.toNat) ∧
    let l := ((List.range (512 / tyWidth f.ty)).filter (Enabled m (tyWidth f.ty))).map fun j =>
      waddVal f (elemOf v.toNat (tyWidth f.ty) j)
    
    let r := ((here s).regs.getWa f.m.toNat).addAll l
    (Quiet s r.2)) ∧
    (∃ (f : FA), ∃ (s : State), ∃ (s' : State), ∃ (a : Nat), ∃ m, ((∀ i w, f.a ≠ .v i w)) ∧ (Alone s) ∧ (Lanes f.p s m) ∧ (Gives (readElem f.ty f.a) s a s') ∧ (Good s .wa f.m.toNat) ∧
    let r := ((here s).regs.getWa f.m.toNat).add (waddVal f a)
    (Quiet s r.2)) ∧
    (∃ (w : Wide), ∃ (d : Dy), (w.W = 0) ∧ (-149 ≤ d.e) ∧ (-(2 ^ 319) ≤ w.V.toInt + d.toInt (-149)) ∧ (w.V.toInt + d.toInt (-149) < 2 ^ 319)) ∧
    (∃ (w : Wide), ∃ (neg : Bool), (w.W = 0)) ∧
    (∃ (f : FA), ∃ (s : State), ∃ m, (Alone s) ∧ (Lanes f.p s m)) ∧
    (∃ (f : FA), ∃ (s : State), (f.dk = true) ∧ (Alone s) ∧ (On f.p s) ∧ (Free true f.dst s) ∧ (ModeOk true s) ∧ (Good s .wa f.m.toNat) ∧
    let r := ((here s).regs.getWa f.m.toNat).round (fOf f) (rmOf (here s).csr true f.dst 0) f.sat
    (Quiet s r.fl)) ∧
    (∃ (f : FA), ∃ (s : State), ∃ m, (f.dk = false) ∧ (Alone s) ∧ (Lanes f.p s m) ∧ (Free false f.dst s m) ∧ (ModeOk true s) ∧ (Good s .wa f.m.toNat) ∧
    let r := ((here s).regs.getWa f.m.toNat).round (fOf f) (rmOf (here s).csr false f.dst 0) f.sat
    
    let fl := if m.getLsbD 0 then r.fl else 0
    (Quiet s fl)) ∧
    (∃ (f : FA), ∃ (s : State), (f.sat = false) ∧ (Alone s) ∧ (Lanes f.p s 0xFFFF) ∧ (Free false f.dst s) ∧ (Good s .wa f.m.toNat)) ∧
    (∃ (f : FA), ∃ (s : State), ∃ (s' : State), ∃ v, ∃ (w : Wide), (f.sat = true) ∧ (Alone s) ∧ (Lanes f.p s 0xFFFF) ∧ (VectorSource f.a s v s') ∧ (Wide.ofVec v = some w)) :=
  ⟨
    ⟨{fa with ty := 8, a := .v 1 false}, S, S, 0x3F8000003F800000, 0xFFFF, ⟨rfl, by decide⟩, ⟨rfl, by decide⟩, rfl, (by decide), rfl⟩,
    ⟨{fa with ty := 8, a := .g 10 false}, S, S, 0x4004, 0xFFFF, (by intro i w h; cases h), ⟨rfl, by decide⟩, ⟨rfl, by decide⟩, rfl, (by decide), rfl⟩,
    ⟨{}, ⟨false, 1, 0⟩, rfl, (by decide), (by decide), (by decide)⟩,
    ⟨{}, false, rfl⟩,
    ⟨{fa with ty := 8, a := .v 1 false}, S, 0xFFFF, ⟨rfl, by decide⟩, ⟨rfl, by decide⟩⟩,
    ⟨{fa with ty := 8, a := .v 1 false}, S, rfl, ⟨rfl, by decide⟩, rfl, rfl, (fun _ => by decide), (by decide), rfl⟩,
    ⟨{fa with ty := 8, dk := false}, S, 0xFFFF, rfl, ⟨rfl, by decide⟩, ⟨rfl, by decide⟩, rfl, (fun _ => by decide), (by decide), rfl⟩,
    ⟨{fa with dk := false}, S, rfl, ⟨rfl, by decide⟩, ⟨rfl, by decide⟩, rfl, (by decide)⟩,
    ⟨{fa with dk := false, sat := true, a := .v 9 false}, S, S, 0, {}, rfl, ⟨rfl, by decide⟩, ⟨rfl, by decide⟩, rfl, rfl⟩⟩

theorem test_witness_WrittenBytes :
    (∃ (s : State), ∃ (h : Home), ∃ (bs : List Byte), (StoresCanonical s) ∧ ∃ k, (Outside h bs.length k)) ∧
    (∃ (s : State), ∃ (h : Home), ∃ (bs : List Byte), (StoresCanonical s)) :=
  ⟨
    ⟨S, .dram 5, [7], ⟨rfl, by decide⟩, .dram 6, (by intro i hi; have hi : i < 1 := hi; obtain rfl : i = 0 := (by omega); decide)⟩,
    ⟨S, .dram 5, [7], ⟨rfl, by decide⟩⟩⟩

theorem test_witness_LoadResults :
    (∃ (f : FM), ∃ (s : State), ∃ a, ∃ off, (f.size.toNat < 4) ∧ ((f.ord = 1 → MTask s)) ∧ (Alone s) ∧ (On f.p s) ∧ (Free true f.dst s) ∧ (f.dst.toNat < 56) ∧ (Address f s a) ∧ (Own s a (sizeBytes f.size) off) ∧ (PortFree s off (sizeBytes f.size)) ∧ ((here s).sch.fx.sb = []) ∧ ((here s).store.badRead off (sizeBytes f.size) = none)) ∧
    (∃ (f : FM), ∃ (s : State), ∃ a, ∃ off, ∃ m, ((f.ord = 1 → MTask s)) ∧ (Alone s) ∧ (Lanes f.p s m) ∧ (Free false f.dst s m) ∧ (f.dst.toNat < 248) ∧ (Address f s a) ∧ (Own s a 64 off) ∧ (PortFree s off 64) ∧ ((here s).sch.fx.sb = []) ∧ ((here s).store.bad2 = [])) ∧
    (∃ (f : FM), ∃ (s : State), ∃ b, ∃ ix, ∃ m, ∃ (offs : Nat → Nat), (Alone s) ∧ (Lanes f.p s m) ∧ (Free false f.dst s m) ∧ (f.dst.toNat < 247) ∧ (Address f s b) ∧ (Gives (readV (f.dst.toNat + 1) false) s ix s) ∧ ((∀ i, i < 16 → m.getLsbD i = true → Own s (laneAddr f b ix i) 4 (offs i) ∧ PortFree s (offs i) 4)) ∧ ((here s).sch.fx.sb = []) ∧ ((here s).store.bad2 = [])) ∧
    (∃ (f : FM), ∃ (s : State), ∃ a, ∃ off, (f.size.toNat < 4) ∧ (f.ord = 0) ∧ (Alone s) ∧ (On f.p s) ∧ (Free true f.dst s) ∧ (f.dst.toNat < 56) ∧ (Address f s a) ∧ (Own s a (sizeBytes f.size) off) ∧ (PortFree s off (sizeBytes f.size)) ∧ ((here s).store.bad2 = [])) :=
  ⟨
    ⟨fm, S, 0x40, 0x40, (by decide), (fun _ => rfl), ⟨rfl, by decide⟩, rfl, rfl, (by decide), ⟨_, ⟨by decide, rfl, by decide, rfl⟩, rfl⟩, ⟨rfl, rfl⟩, ⟨rfl, by decide⟩, rfl, rfl⟩,
    ⟨{fm with dk := false, p := ⟨1, false⟩}, S, 0x40, 0x40, 1, (fun _ => rfl), ⟨rfl, by decide⟩, ⟨rfl, by decide⟩, rfl, (by decide), ⟨_, ⟨by decide, rfl, by decide, rfl⟩, rfl⟩, ⟨rfl, rfl⟩, ⟨rfl, by decide⟩, rfl, rfl⟩,
    ⟨{fm with dk := false, p := ⟨1, false⟩, dst := 1, aux := 2}, S, 0x40, 0x0000000100000002, 1, (fun _ => 0x48), ⟨rfl, by decide⟩, ⟨rfl, by decide⟩, rfl, (by decide), ⟨_, ⟨by decide, rfl, by decide, rfl⟩, rfl⟩, rfl, (by intro i hi h; obtain rfl := only0 i hi h; exact ⟨⟨by decide, by decide⟩, by decide, by decide⟩), rfl, rfl⟩,
    ⟨fm, ms { xi with sch := { xi.sch with fx := { sb := [.acc (ownAcc I (.store 9) 0x40 1 0x40)] } } }, 0x40, 0x40, (by decide), rfl, ⟨rfl, by decide⟩, rfl, rfl, (by decide), ⟨_, ⟨by decide, rfl, by decide, rfl⟩, rfl⟩, ⟨rfl, rfl⟩, ⟨rfl, by decide⟩, rfl⟩⟩

theorem test_witness_StoreResults :
    (∃ (f : FM), ∃ (s : State), ∃ a, ∃ off, ∃ d, (MTask s) ∧ (Alone s) ∧ (On f.p s) ∧ (Data f s d) ∧ (f.dk = true) ∧ (Address f s a) ∧ (f.size.toNat < 4) ∧ (Own s a (sizeBytes f.size) off) ∧ (Unarmed s off (sizeBytes f.size)) ∧ 
    let turn := PortFree s off (sizeBytes f.size) ∧ (f.ord = 2 → scopeClear s s.cur 2 (here s).nextAcc = true)
    (turn) ∧ ((here s).store.badWrite off (sizeBytes f.size) = none)) ∧
    (∃ (f : FM), ∃ (s : State), ∃ a, ∃ off, ∃ d, (MTask s) ∧ (Alone s) ∧ (On f.p s) ∧ (Data f s d) ∧ (f.dk = true) ∧ (Address f s a) ∧ (f.size.toNat < 4) ∧ (Own s a (sizeBytes f.size) off) ∧ (Unarmed s off (sizeBytes f.size)) ∧ 
    let turn := PortFree s off (sizeBytes f.size) ∧ (f.ord = 2 → scopeClear s s.cur 2 (here s).nextAcc = true)
    (¬ turn)) ∧
    (∃ (f : FM), ∃ (s : State), ∃ a, ∃ off, ∃ d, (MTask s) ∧ (Alone s) ∧ (Lanes f.p s 0xFFFF) ∧ (Data f s d) ∧ (f.dk = false) ∧ (Address f s a) ∧ (Own s a 64 off) ∧ (PortFree s off 64) ∧ (Unarmed s off 64) ∧ (HurdlesAligned s) ∧ ((f.ord = 2 → scopeClear s s.cur 2 (here s).nextAcc = true))) ∧
    (∃ (f : FM), ∃ (s : State), ∃ a, ∃ off, ∃ d, ∃ m, (MTask s) ∧ (Alone s) ∧ (Lanes f.p s m) ∧ (m ≠ 0xFFFF) ∧ (Data f s d) ∧ (f.dk = false) ∧ (Address f s a) ∧ (Own s a 64 off) ∧ (PortFree s off 64) ∧ (Unarmed s off 64) ∧ (HurdlesAligned s) ∧ ((f.ord = 2 → scopeClear s s.cur 2 (here s).nextAcc = true)) ∧ ((here s).store.bad2 = [])) ∧
    (∃ (f : FM), ∃ (s : State), ∃ b, ∃ ix, ∃ d, ∃ m, ∃ (offs : Nat → Nat), (MTask s) ∧ (Alone s) ∧ (Lanes f.p s m) ∧ (f.dst.toNat < 247) ∧ (Gives (readV f.dst.toNat false) s d s) ∧ (Address f s b) ∧ (Gives (readV (f.dst.toNat + 1) false) s ix s) ∧ ((∀ i, i < 16 → m.getLsbD i = true → Own s (laneAddr f b ix i) 4 (offs i) ∧ NoHurdle s (offs i) 4 ∧ ∀ k, k ≤ i → HasTurn s ((here s).nextAcc + k) (offs i) 4)) ∧ ((here s).store.bad2 = [])) :=
  ⟨
    ⟨{fm with dst := 2}, S, 0x40, 0x40, (3#64).setWidth 512, rfl, ⟨rfl, by decide⟩, rfl, ⟨_, ⟨by decide, rfl, by decide, rfl⟩, rfl⟩, rfl, ⟨_, ⟨by decide, rfl, by decide, rfl⟩, rfl⟩, (by decide), ⟨rfl, rfl⟩, rfl, ⟨⟨rfl, rfl, rfl⟩, fun h => absurd h (by decide)⟩, rfl⟩,
    ⟨{fm with dst := 2, off := 4}, ms { x0 with net := [{ id := 0, parts := [⟨.tile 0 0x44, 0x44, 4, 0, 0, 0⟩], op := .store 7 }], nextAcc := 1 }, 0x44, 0x44, (3#64).setWidth 512, rfl, ⟨rfl, by decide⟩, rfl, ⟨_, ⟨by decide, rfl, by decide, rfl⟩, rfl⟩, rfl, ⟨_, ⟨by decide, rfl, by decide, rfl⟩, rfl⟩, (by decide), ⟨rfl, rfl⟩, rfl, (fun h => absurd h.1.1 (by decide))⟩,
    ⟨{fm with dk := false, dst := 1}, S, 0x40, 0x40, 0x3F8000003F800000, rfl, ⟨rfl, by decide⟩, ⟨rfl, by decide⟩, rfl, rfl, ⟨_, ⟨by decide, rfl, by decide, rfl⟩, rfl⟩, ⟨rfl, rfl⟩, ⟨rfl, by decide⟩, rfl, (by intro e h; cases h), (by decide)⟩,
    ⟨{fm with dk := false, dst := 1, p := ⟨1, false⟩}, S, 0x40, 0x40, 0x3F8000003F800000, 1, rfl, ⟨rfl, by decide⟩, ⟨rfl, by decide⟩, (by decide), rfl, rfl, ⟨_, ⟨by decide, rfl, by decide, rfl⟩, rfl⟩, ⟨rfl, rfl⟩, ⟨rfl, by decide⟩, rfl, (by intro e h; change e ∈ [] at h; cases h), (by decide), rfl⟩,
    ⟨{fm with dk := false, dst := 1, p := ⟨1, false⟩, aux := 2}, S, 0x40, 0x0000000100000002, 0x3F8000003F800000, 1, (fun _ => 0x48), rfl, ⟨rfl, by decide⟩, ⟨rfl, by decide⟩, (by decide), rfl, ⟨_, ⟨by decide, rfl, by decide, rfl⟩, rfl⟩, rfl, (by intro i hi h; obtain rfl := only0 i hi h; exact ⟨⟨by decide, by decide⟩, (by intro e h; change e ∈ [] at h; cases h), fun k hk => (by obtain rfl : k = 0 := Nat.le_zero.1 hk; exact ⟨by decide, by decide⟩)⟩), rfl⟩⟩

theorem test_witness_FullEmptyResults :
    (∃ (f : FM), ∃ (s : State), ∃ a, ∃ off, ((f.aux.getLsbD 0 = true → MTask s)) ∧ (Alone s) ∧ (On f.p s) ∧ (Free f.dk f.dst s) ∧ (2 ≤ f.size.toNat) ∧ (f.dst.toNat < (if f.dk then 56 else 248)) ∧ (Address f s a) ∧ (Own s a (sizeBytes f.size) off) ∧ ((here s).sch.fx.sb = []) ∧ 
    let n := sizeBytes f.size
    
    let full := (List.range (n / 4)).all fun i => (here s).store.full (off / 4 + i)
    
    let turn := ∀ i, i < n / 4 → PortFree s (off + 4 * i) 4
    (full = true) ∧ (turn) ∧ ((here s).store.badRead off n = none)) ∧
    (∃ (f : FM), ∃ (s : State), ∃ a, ∃ off, ((f.aux.getLsbD 0 = true → MTask s)) ∧ (Alone s) ∧ (On f.p s) ∧ (Free f.dk f.dst s) ∧ (2 ≤ f.size.toNat) ∧ (f.dst.toNat < (if f.dk then 56 else 248)) ∧ (Address f s a) ∧ (Own s a (sizeBytes f.size) off) ∧ ((here s).sch.fx.sb = []) ∧ 
    let n := sizeBytes f.size
    
    let full := (List.range (n / 4)).all fun i => (here s).store.full (off / 4 + i)
    
    let turn := ∀ i, i < n / 4 → PortFree s (off + 4 * i) 4
    (full = false ∨ ¬ turn)) ∧
    (∃ (f : FM), ∃ (s : State), ∃ a, ∃ off, ∃ d, (MTask s) ∧ (Alone s) ∧ (On f.p s) ∧ (Data f s d) ∧ (Address f s a) ∧ (Own s a (sizeBytes f.size) off) ∧ (Unarmed s off (sizeBytes f.size)) ∧ (PortFree s off (sizeBytes f.size)) ∧ ((here s).store.badWrite off (sizeBytes f.size) = none)) ∧
    (∃ (f : FM), ∃ (s : State), ∃ a, ∃ off, ∃ d, (MTask s) ∧ (Alone s) ∧ (On f.p s) ∧ (Data f s d) ∧ (Address f s a) ∧ (Own s a (sizeBytes f.size) off) ∧ (Unarmed s off (sizeBytes f.size)) ∧ (¬ PortFree s off (sizeBytes f.size))) ∧
    (∃ (f : FM), ∃ (s : State), ∃ (s' : State), ∃ a, ∃ ph, ∃ d, (MTask s) ∧ (Alone s) ∧ (On f.p s) ∧ (Data f s d) ∧ (Address f s a) ∧ (((∃ va, steer s.cur (here s).csr.stkbase a (sizeBytes f.size) = some (.glob va)) → f.size = 4)) ∧ (Gives (resolve a (sizeBytes f.size) (sizeBytes f.size) true false) s ph s') ∧ (s'.cur = s.cur) ∧ (here s' = here s) ∧ ((∀ off, ph.home ≠ .tile s.cur off))) ∧
    (∃ (f : FM), ∃ (s : State), ∃ a, ∃ (va : Word), ∃ d, (Alone s) ∧ (On f.p s) ∧ (Data f s d) ∧ (Address f s a) ∧ (f.size ≠ 4) ∧ (steer s.cur (here s).csr.stkbase a (sizeBytes f.size) = some (.glob va))) ∧
    (∃ (f : FM), ∃ (s : State), ∃ a, ∃ off, ∃ d, (ITask s) ∧ (Alone s) ∧ (On f.p s) ∧ (Data f s d) ∧ (Address f s a) ∧ (Own s a (sizeBytes f.size) off) ∧ (Unarmed s off (sizeBytes f.size)) ∧ 
    let b := BufItem.acc (ownAcc s (.stf d) a (sizeBytes f.size) off)
    (Room s b)) ∧
    (∃ (f : FM), ∃ (s : State), ∃ a, ∃ off, ∃ n, (MTask s) ∧ (Alone s) ∧ (On f.p s) ∧ (Holds s f.dst n) ∧ (Address f s a) ∧ (1 ≤ n.toNat) ∧ (n.toNat < 2 ^ 24) ∧ (n.toNat % 4 = 0) ∧ (a.toNat % 4 = 0) ∧ (steer s.cur (here s).csr.stkbase a n.toNat = some (.tile s.cur off)) ∧ (PortFree s off n.toNat)) ∧
    (∃ (f : FM), ∃ (s : State), ∃ (s' : State), ∃ a, ∃ n, ∃ ph, ∃ (va : Word), (MTask s) ∧ (Alone s) ∧ (On f.p s) ∧ (Holds s f.dst n) ∧ (Address f s a) ∧ (1 ≤ n.toNat) ∧ (n.toNat < 2 ^ 24) ∧ (n.toNat % 64 = 0) ∧ (a.toNat % 64 = 0) ∧ (steer s.cur (here s).csr.stkbase a n.toNat = some (.glob va)) ∧ (a.toNat / pageBytes (pageCode s) = (a.toNat + n.toNat - 1) / pageBytes (pageCode s)) ∧ (Gives (resolve a n.toNat 64 true false) s ph s') ∧ (s'.cur = s.cur) ∧ (here s' = here s) ∧ ((∀ u off, ph.home ≠ .tile u off))) ∧
    (∃ (f : FM), ∃ (s : State), ∃ a, ∃ off, ∃ n, (ITask s) ∧ (Alone s) ∧ (On f.p s) ∧ (Holds s f.dst n) ∧ (Address f s a) ∧ (1 ≤ n.toNat) ∧ (n.toNat < 2 ^ 24) ∧ (n.toNat % 4 = 0) ∧ (a.toNat % 4 = 0) ∧ (steer s.cur (here s).csr.stkbase a n.toNat = some (.tile s.cur off)) ∧ 
    let b := BufItem.acc (clearAcc s ⟨.tile s.cur off, 0, false, 0⟩ a n.toNat)
    (Room s b)) ∧
    (∃ (f : FM), ∃ (s : State), ∃ a, (Alone s) ∧ (On f.p s) ∧ (Holds s f.dst 0) ∧ (Address f s a)) ∧
    (∃ (f : FM), ∃ (s : State), ∃ a, ∃ off, (Alone s) ∧ (On f.p s) ∧ (Free true f.dst s) ∧ (f.dst.toNat < 56) ∧ (Address f s a) ∧ (Own s a 1 off) ∧ (PortFree s (off / 64 * 64) 64)) :=
  ⟨
    ⟨{fm with aux := 1}, S, 0x40, 0x40, (fun _ => rfl), ⟨rfl, by decide⟩, rfl, rfl, (by decide), (by decide), ⟨_, ⟨by decide, rfl, by decide, rfl⟩, rfl⟩, ⟨rfl, rfl⟩, rfl, rfl, (by intro i hi; have hi : i < 1 := hi; obtain rfl : i = 0 := (by omega); exact ⟨rfl, rfl, rfl⟩), rfl⟩,
    ⟨{fm with aux := 1}, ms {x0 with store := x0.store.setFes 16 false 1}, 0x40, 0x40, (fun _ => rfl), ⟨rfl, by decide⟩, rfl, rfl, (by decide), (by decide), ⟨_, ⟨by decide, rfl, by decide, rfl⟩, rfl⟩, ⟨rfl, rfl⟩, rfl, .inl rfl⟩,
    ⟨{fm with dst := 2}, S, 0x40, 0x40, (3#64).setWidth 512, rfl, ⟨rfl, by decide⟩, rfl, ⟨_, ⟨by decide, rfl, by decide, rfl⟩, rfl⟩, ⟨_, ⟨by decide, rfl, by decide, rfl⟩, rfl⟩, ⟨rfl, rfl⟩, rfl, ⟨rfl, by decide⟩, rfl⟩,
    ⟨{fm with dst := 2, off := 4}, ms { x0 with net := [{ id := 0, parts := [⟨.tile 0 0x44, 0x44, 4, 0, 0, 0⟩], op := .store 7 }], nextAcc := 1 }, 0x44, 0x44, (3#64).setWidth 512, rfl, ⟨rfl, by decide⟩, rfl, ⟨_, ⟨by decide, rfl, by decide, rfl⟩, rfl⟩, ⟨_, ⟨by decide, rfl, by decide, rfl⟩, rfl⟩, ⟨rfl, rfl⟩, rfl, (fun h => absurd h.1 (by decide))⟩,
    ⟨{fm with base := 5, dst := 2, dk := false, size := 4}, S, S, G, ⟨.dram 0x10000, sliceOfPa 0x10000, false, 0⟩, 0x0000000100000002, rfl, ⟨rfl, by decide⟩, rfl, rfl, ⟨_, ⟨by decide, rfl, by decide, rfl⟩, rfl⟩, (fun _ => rfl), rfl, rfl, rfl, (by intro off h; injection h)⟩,
    ⟨{fm with base := 5, dst := 2}, S, G, G, (3#64).setWidth 512, ⟨rfl, by decide⟩, rfl, ⟨_, ⟨by decide, rfl, by decide, rfl⟩, rfl⟩, ⟨_, ⟨by decide, rfl, by decide, rfl⟩, rfl⟩, (by decide), rfl⟩,
    ⟨{fm with dst := 2}, I, 0x40, 0x40, (3#64).setWidth 512, rfl, ⟨rfl, by decide⟩, rfl, ⟨_, ⟨by decide, rfl, by decide, rfl⟩, rfl⟩, ⟨_, ⟨by decide, rfl, by decide, rfl⟩, rfl⟩, ⟨rfl, rfl⟩, rfl, (by unfold Room; decide)⟩,
    ⟨{fm with dst := 6}, S, 0x40, 0x40, 64, rfl, ⟨rfl, by decide⟩, rfl, ⟨by decide, rfl, by decide, rfl⟩, ⟨_, ⟨by decide, rfl, by decide, rfl⟩, rfl⟩, (by decide), (by decide), rfl, rfl, rfl, ⟨rfl, by decide⟩⟩,
    ⟨{fm with dst := 6, base := 5}, S, S, G, 64, ⟨.dram 0x10000, sliceOfPa 0x10000, false, 0⟩, G, rfl, ⟨rfl, by decide⟩, rfl, ⟨by decide, rfl, by decide, rfl⟩, ⟨_, ⟨by decide, rfl, by decide, rfl⟩, rfl⟩, (by decide), (by decide), rfl, rfl, rfl, rfl, rfl, rfl, rfl, (by intro u off h; injection h)⟩,
    ⟨{fm with dst := 6}, I, 0x40, 0x40, 64, rfl, ⟨rfl, by decide⟩, rfl, ⟨by decide, rfl, by decide, rfl⟩, ⟨_, ⟨by decide, rfl, by decide, rfl⟩, rfl⟩, (by decide), (by decide), rfl, rfl, rfl, (by unfold Room; decide)⟩,
    ⟨{fm with dst := 11}, S, 0x40, ⟨rfl, by decide⟩, rfl, ⟨by decide, rfl, by decide, rfl⟩, ⟨_, ⟨by decide, rfl, by decide, rfl⟩, rfl⟩⟩,
    ⟨{fm with size := 0}, S, 0x40, 0x40, ⟨rfl, by decide⟩, rfl, rfl, (by decide), ⟨_, ⟨by decide, rfl, by decide, rfl⟩, rfl⟩, ⟨rfl, rfl⟩, ⟨rfl, by decide⟩⟩⟩

theorem test_witness_AtomicResults :
    ∃ (f : FM), ∃ (s : State), ∃ a, ∃ off, ∃ x, ∃ y, (MTask s) ∧ (NoReplay s) ∧ (Alone s) ∧ (On f.p s) ∧ (Holds s f.dst x) ∧ ((if f.size = 7 then Holds s (BitVec.ofNat 8 (f.dst.toNat + 1)) y else y = 0)) ∧ (Address f s a) ∧ 
    let n := if f.aux.getLsbD 0 then 8 else 4
    (Own s a n off) ∧ (PortFree s off n) ∧ (Unarmed s off n) ∧ ((here s).store.bad1 = []) ∧ ((here s).store.bad2 = []) :=
  ⟨{fm with dst := 2, aux := 9}, S, 0x40, 0x40, 3, 0, rfl, rfl, ⟨rfl, by decide⟩, rfl, ⟨by decide, rfl, by decide, rfl⟩, rfl, ⟨_, ⟨by decide, rfl, by decide, rfl⟩, rfl⟩, ⟨rfl, rfl⟩, ⟨rfl, by decide⟩, rfl, rfl, rfl⟩

theorem test_witness_AccessesLeave :
    (∃ (f : FM), ∃ (s : State), ∃ (s' : State), ∃ a, ∃ ph, ((f.ord = 1 → MTask s)) ∧ (f.size.toNat < 4) ∧ (Alone s) ∧ (On f.p s) ∧ (Free true f.dst s) ∧ (f.dst.toNat < 56) ∧ (Address f s a) ∧ (Gives (resolve a (sizeBytes f.size) (sizeBytes f.size) false true) s ph s') ∧ (s'.cur = s.cur) ∧ (here s' = here s) ∧ ((∀ off, ph.home ≠ .tile s.cur off)) ∧ ((here s).sch.fx.sb = [])) ∧
    (∃ (f : FM), ∃ (s : State), ∃ (s' : State), ∃ a, ∃ ph, ∃ d, (MTask s) ∧ (Alone s) ∧ (On f.p s) ∧ (Data f s d) ∧ (f.dk = true) ∧ (Address f s a) ∧ (Gives (resolve a (sizeBytes f.size) (sizeBytes f.size) true true) s ph s') ∧ (s'.cur = s.cur) ∧ (here s' = here s) ∧ ((∀ off, ph.home ≠ .tile s.cur off))) ∧
    (∃ (f : FM), ∃ (s : State), ∃ a, ∃ off, ∃ d, (f.ord ≠ 2) ∧ (ITask s) ∧ (Alone s) ∧ (On f.p s) ∧ (Data f s d) ∧ (f.dk = true) ∧ (Address f s a) ∧ (f.size.toNat < 4) ∧ (Own s a (sizeBytes f.size) off) ∧ (Unarmed s off (sizeBytes f.size)) ∧ 
    let b := BufItem.acc (ownAcc s (.store d) a (sizeBytes f.size) off)
    (Room s b)) ∧
    (∃ (f : FM), ∃ (s : State), ∃ a, ∃ off, ∃ x, ∃ y, (f.aux.getLsbD 3 = false) ∧ (ITask s) ∧ (NoReplay s) ∧ (Alone s) ∧ (On f.p s) ∧ (Holds s f.dst x) ∧ ((if f.size = 7 then Holds s (BitVec.ofNat 8 (f.dst.toNat + 1)) y else y = 0)) ∧ (Address f s a) ∧ 
    let n := if f.aux.getLsbD 0 then 8 else 4
    (Own s a n off) ∧ (Unarmed s off n) ∧ 
    let b := BufItem.acc (ownAcc s (.amo f.size (f.aux.getLsbD 0) (f.aux.getLsbD 2) x y none) a n off)
    (Room s b)) ∧
    (∃ (f : FM), ∃ (s : State), ∃ a, ∃ off, ∃ n, (ITask s) ∧ (Alone s) ∧ (On f.p s) ∧ (Holds s f.dst n) ∧ (Address f s a) ∧ (1 ≤ n.toNat) ∧ (n.toNat < 2 ^ 24) ∧ (n.toNat % 4 = 0) ∧ (a.toNat % 4 = 0) ∧ (steer s.cur (here s).csr.stkbase a n.toNat = some (.tile s.cur off)) ∧
    (Room s (BufItem.acc (clearAcc s ⟨.tile s.cur off, 0, false, 0⟩ a n.toNat)))) ∧
    (∃ (f : FM), ∃ (s : State), ∃ (s' : State), ∃ a, ∃ ph, ∃ d, (f.ord ≠ 2) ∧ (ITask s) ∧ (Alone s) ∧ (On f.p s) ∧ (Data f s d) ∧ (f.dk = true) ∧ (Address f s a) ∧ (f.size.toNat < 4) ∧ (Gives (resolve a (sizeBytes f.size) (sizeBytes f.size) true true) s ph s') ∧ (s'.cur = s.cur) ∧ (here s' = here s) ∧ ((∀ off, ph.home ≠ .tile s.cur off)) ∧
    (Room s (BufItem.acc (farAcc s (.store d) ph a (sizeBytes f.size))))) ∧
    (∃ (f : FM), ∃ (s : State), ∃ (s' : State), ∃ a, ∃ ph, ∃ d, (f.dk = true) ∧ (MTask s) ∧ (NoReplay s) ∧ (Alone s) ∧ (On f.p s) ∧ (Data f s d) ∧ (Address f s a) ∧ (ModeOk (f.size == 0) s) ∧ 
    let n := if f.size = 2 then 8 else 4
    ((∃ va, steer s.cur (here s).csr.stkbase a n = some (.glob va))) ∧ (a.toNat % n = 0) ∧ (Gives (resolve a n n true false) s ph s') ∧ (s'.cur = s.cur) ∧ (here s' = here s) ∧ ((∀ off, ph.home ≠ .tile s.cur off))) ∧
    (∃ (f : FM), ∃ (s : State), ∃ a, ∃ d, ∃ u, ∃ off, (f.dk = true) ∧ (MTask s) ∧ (NoReplay s) ∧ (Alone s) ∧ (On f.p s) ∧ (Data f s d) ∧ (Address f s a) ∧ (ModeOk (f.size == 0) s) ∧ (steer s.cur (here s).csr.stkbase a (if f.size = 2 then 8 else 4) = some (.tile u off))) :=
  ⟨
    ⟨{fm with base := 5}, S, S, G, ⟨.dram 0x10000, sliceOfPa 0x10000, false, 0⟩, (fun _ => rfl), (by decide), ⟨rfl, by decide⟩, rfl, rfl, (by decide), ⟨_, ⟨by decide, rfl, by decide, rfl⟩, rfl⟩, rfl, rfl, rfl, (by intro e h; cases h), rfl⟩,
    ⟨{fm with base := 5, dst := 2}, S, S, G, ⟨.dram 0x10000, sliceOfPa 0x10000, false, 0⟩, (3#64).setWidth 512, rfl, ⟨rfl, by decide⟩, rfl, ⟨_, ⟨by decide, rfl, by decide, rfl⟩, rfl⟩, rfl, ⟨_, ⟨by decide, rfl, by decide, rfl⟩, rfl⟩, rfl, rfl, rfl, (by intro e h; cases h)⟩,
    ⟨{fm with dst := 2}, I, 0x40, 0x40, (3#64).setWidth 512, (by decide), rfl, ⟨rfl, by decide⟩, rfl, ⟨_, ⟨by decide, rfl, by decide, rfl⟩, rfl⟩, rfl, ⟨_, ⟨by decide, rfl, by decide, rfl⟩, rfl⟩, (by decide), ⟨rfl, rfl⟩, rfl, (by unfold Room; decide)⟩,
    ⟨{fm with dst := 2}, I, 0x40, 0x40, 3, 0, rfl, rfl, rfl, ⟨rfl, by decide⟩, rfl, ⟨by decide, rfl, by decide, rfl⟩, rfl, ⟨_, ⟨by decide, rfl, by decide, rfl⟩, rfl⟩, ⟨rfl, rfl⟩, rfl, (by unfold Room; decide)⟩,
    ⟨{fm with dst := 6}, I, 0x40, 0x40, 64, rfl, ⟨rfl, by decide⟩, rfl, ⟨by decide, rfl, by decide, rfl⟩, ⟨_, ⟨by decide, rfl, by decide, rfl⟩, rfl⟩, (by decide), (by decide), rfl, rfl, rfl, (by unfold Room; decide)⟩,
    ⟨{fm with base := 5, dst := 2}, I, I, G, ⟨.dram 0x10000, sliceOfPa 0x10000, false, 0⟩, (3#64).setWidth 512, (by decide), rfl, ⟨rfl, by decide⟩, rfl, ⟨_, ⟨by decide, rfl, by decide, rfl⟩, rfl⟩, rfl, ⟨_, ⟨by decide, rfl, by decide, rfl⟩, rfl⟩, (by decide), rfl, rfl, rfl, (by intro e h; cases h), (by unfold Room; decide)⟩,
    ⟨{fm with dst := 2, base := 5, size := 0}, S, S, G, ⟨.dram 0x10000, sliceOfPa 0x10000, false, 0⟩, (3#64).setWidth 512, rfl, rfl, rfl, ⟨rfl, by decide⟩, rfl, ⟨_, ⟨by decide, rfl, by decide, rfl⟩, rfl⟩, ⟨_, ⟨by decide, rfl, by decide, rfl⟩, rfl⟩, (fun _ => by decide), ⟨_, rfl⟩, rfl, rfl, rfl, rfl, (by intro e h; cases h)⟩,
    ⟨{fm with dst := 2, size := 1}, S, 0x40, (3#64).setWidth 512, 0, 0x40, rfl, rfl, rfl, ⟨rfl, by decide⟩, rfl, ⟨_, ⟨by decide, rfl, by decide, rfl⟩, rfl⟩, ⟨_, ⟨by decide, rfl, by decide, rfl⟩, rfl⟩, (fun _ => by decide), rfl⟩⟩

theorem test_witness_FenceCompletes :
    (∃ (f : FM), ∃ (s : State), (MTask s) ∧ (NoReplay s) ∧ (Alone s) ∧ (On f.p s)) ∧
    (∃ (s : State), ∃ (t : Nat), ∃ (e : Nat × Nat), ∃ (id : Nat), (e ∈ (s.tile t).sch.fences) ∧ (e.2 ≤ id) ∧ (scopeClear s t e.1 e.2 = false)) ∧
    (∃ (s : State), ∃ (t : Nat), ∃ (e : Nat × Nat), ∃ (id : Nat), (e ∈ (s.tile t).sch.fences) ∧ (e.2 ≤ id) ∧ ((∀ d ∈ (s.tile t).sch.fences, d ≠ e → id < d.2)) ∧ (scopeClear s t e.1 e.2 = true)) ∧
    (∃ (s : State), ∃ (t : Nat), ∃ (n : Nat), ∃ (i : Nat), ∃ (k : Nat), ∃ (a : Acc), ((netUnits (s.tile t))[n]? = some (i, k)) ∧ ((s.tile t).net[i]? = some a) ∧ (fenceOk s t a.id = false) ∧ (a.parts ≠ [])) :=
  ⟨
    ⟨fm, S, rfl, rfl, ⟨rfl, by decide⟩, rfl⟩,
    ⟨ms {x0 with net := [at0 (.store 0)], nextAcc := 1, sch := {x0.sch with fences := [(2, 1)]}}, 0, (2, 1), 1, .head _, (by decide), rfl⟩,
    ⟨ms {x0 with nextAcc := 1, sch := {x0.sch with fences := [(2, 1)]}}, 0, (2, 1), 1, .head _, (by decide), (by intro d hd h; cases hd with | head => exact absurd rfl h | tail _ hd => cases hd), rfl⟩,
    ⟨ms {x0 with net := [at0 (.store 0), { at0 (.store 1) with id := 1 }], nextAcc := 2, sch := {x0.sch with fences := [(2, 1)]}}, 0, 1, 1, 0, { at0 (.store 1) with id := 1 }, rfl, rfl, rfl, (by decide)⟩⟩

theorem test_witness_ChainIssue :
    (∃ (f : FE), ∃ (s : State), ∃ a, ∃ b, (NoReplay s) ∧ (NotRedundant s) ∧ (Alone s) ∧ (On f.p s) ∧ (Holds s f.ga a) ∧ (Holds s f.gb b) ∧ (a.toNat < 4096) ∧ (b.toNat < 0xFFFFFF) ∧ (((s.slice (a.toNat / 16)).chains.find? fun e => e.1 == a.toNat % 16) = none)) ∧
    (∃ (f : FM), ∃ (s : State), ∃ (s' : State), ∃ a, ∃ ph, ∃ (slice : Nat), ∃ (ch : Nat), ∃ (sn : BitVec 24), ∃ (pn : BitVec 24), ∃ (nn : BitVec 24), (f.dk = true) ∧ (f.size.toNat < 4) ∧ (MTask s) ∧ (NoReplay s) ∧ (NotRedundant s) ∧ (Alone s) ∧ (On f.p s) ∧ (Free true f.dst s) ∧ (f.dst.toNat < 56) ∧ ((here s).sch.chOut = none) ∧ (Pair f s slice ch sn pn nn) ∧ (Address f s a) ∧ (Gives (resolve a (sizeBytes f.size) (sizeBytes f.size) false false) s ph s') ∧ (ph.sl = true) ∧ (ph.slice = slice) ∧ (s'.cur = s.cur) ∧ (here s' = here s)) ∧
    (∃ (f : FM), ∃ (s : State), ∃ (s' : State), ∃ a, ∃ ph, ∃ d, ∃ (slice : Nat), ∃ (ch : Nat), ∃ (sn : BitVec 24), ∃ (pn : BitVec 24), ∃ (nn : BitVec 24), (f.dk = true) ∧ (f.size.toNat < 4) ∧ (MTask s) ∧ (NoReplay s) ∧ (NotRedundant s) ∧ (Alone s) ∧ (On f.p s) ∧ ((here s).sch.chOut = none) ∧ (Pair f s slice ch sn pn nn) ∧ (Data f s d) ∧ (Address f s a) ∧ (Gives (resolve a (sizeBytes f.size) (sizeBytes f.size) true false) s ph s') ∧ (ph.sl = true) ∧ (ph.slice = slice) ∧ (s'.cur = s.cur) ∧ (here s' = here s)) ∧
    (∃ (mk : FM → Instr), ∃ (f : FM), ∃ (s : State), ∃ id, (MTask s) ∧ (NoReplay s) ∧ (NotRedundant s) ∧ (Alone s) ∧ (On f.p s) ∧ ((here s).sch.chOut = some id) ∧ ((here s).net.any (·.id == id) = false)) ∧
    (∃ (mk : FM → Instr), ∃ (f : FM), ∃ (s : State), ∃ id, (MTask s) ∧ (NoReplay s) ∧ (NotRedundant s) ∧ (Alone s) ∧ (On f.p s) ∧ ((here s).sch.chOut = some id) ∧ ((here s).net.any (·.id == id) = true)) ∧
    (∃ (f : FM), ∃ (s : State), ∃ (s' : State), ∃ a, ∃ ph, ∃ d, ∃ (slice : Nat), ∃ (ch : Nat), ∃ (sn : BitVec 24), ∃ (pn : BitVec 24), ∃ (nn : BitVec 24), (f.dk = true) ∧ (f.size.toNat < 4) ∧ (ITask s) ∧ (NoReplay s) ∧ (NotRedundant s) ∧ (Alone s) ∧ (On f.p s) ∧ (Pair f s slice ch sn pn nn) ∧ (Data f s d) ∧ (Address f s a) ∧ (Gives (resolve a (sizeBytes f.size) (sizeBytes f.size) true false) s ph s') ∧ (ph.sl = true) ∧ (ph.slice = slice) ∧ (s'.cur = s.cur) ∧ (here s' = here s) ∧ 
    let b := BufItem.acc (farAcc s (.chStore ⟨slice, ch, sn, pn, nn⟩ d) ph a (sizeBytes f.size))
    (Room s b)) :=
  ⟨
    ⟨fe, S, 0x40, 3, rfl, rfl, ⟨rfl, by decide⟩, rfl, ⟨by decide, rfl, by decide, rfl⟩, ⟨by decide, rfl, by decide, rfl⟩, (by decide), (by decide), rfl⟩,
    ⟨{fm with base := 9, aux := 15}, C x0, C x0, G + 0x10000, ⟨.dram 0x20000, 5, true, 0⟩, 5, 0, 2, 1, 3, rfl, (by decide), rfl, rfl, rfl, ⟨rfl, by decide⟩, rfl, rfl, (by decide), rfl, ⟨(0x1000002 : Word), (3 : Word), by unfold Holds; decide, by unfold Holds; decide, by decide, ⟨0, by decide, by decide, rfl⟩, by decide, by decide⟩, ⟨_, ⟨by decide, rfl, by decide, rfl⟩, rfl⟩, rfl, rfl, rfl, rfl, rfl⟩,
    ⟨{fm with base := 9, dst := 2, aux := 15}, C x0, C x0, G + 0x10000, ⟨.dram 0x20000, 5, true, 0⟩, (3#64).setWidth 512, 5, 0, 2, 1, 3, rfl, (by decide), rfl, rfl, rfl, ⟨rfl, by decide⟩, rfl, rfl, ⟨(0x1000002 : Word), (3 : Word), by unfold Holds; decide, by unfold Holds; decide, by decide, ⟨0, by decide, by decide, rfl⟩, by decide, by decide⟩, ⟨_, ⟨by decide, rfl, by decide, rfl⟩, rfl⟩, ⟨_, ⟨by decide, rfl, by decide, rfl⟩, rfl⟩, rfl, rfl, rfl, rfl, rfl⟩,
    ⟨.ldc, fm, ms {x0 with sch := {x0.sch with chOut := some 3}}, 3, rfl, rfl, rfl, ⟨rfl, by decide⟩, rfl, rfl, rfl⟩,
    ⟨.ldc, fm, ms {x0 with net := [{ id := 3, parts := [], op := .load (.g 5) 0 1 false [] }], sch := {x0.sch with chOut := some 3}}, 3, rfl, rfl, rfl, ⟨rfl, by decide⟩, rfl, rfl, rfl⟩,
    ⟨{fm with base := 9, dst := 2, aux := 15}, C xi, C xi, G + 0x10000, ⟨.dram 0x20000, 5, true, 0⟩, (3#64).setWidth 512, 5, 0, 2, 1, 3, rfl, (by decide), rfl, rfl, rfl, ⟨rfl, by decide⟩, rfl, ⟨(0x1000002 : Word), (3 : Word), by unfold Holds; decide, by unfold Holds; decide, by decide, ⟨0, by decide, by decide, rfl⟩, by decide, by decide⟩, ⟨_, ⟨by decide, rfl, by decide, rfl⟩, rfl⟩, ⟨_, ⟨by decide, rfl, by decide, rfl⟩, rfl⟩, rfl, rfl, rfl, rfl, rfl, (by unfold Room; decide)⟩⟩

/-- Tile 0 with an address in g12, an entry without the write permission, and an uncorrectable unit under 0x40. -/
def aS (a : Word) : State := ms (reg12 a)
def roS : State := { aS (G + 0x20000) with fields := [(0, { tlb := [⟨1, 0, 0x100000000, 0x1001B, 0⟩] })] }
def dueS : State := ms { x0 with store := { x0.store with bad2 := [8] } }
def f12 : FM := { fm with base := 12 }
/-- Every form of an access, at an address in no aperture. -/
theorem test_witness_AccessChecks_forms :
    (∃ f s a n al w h, AccessForm (.ld f) f s a n al w h ∧ Alone s ∧ On f.p s ∧ Address f s a ∧ steer s.cur (here s).csr.stkbase a n = none) ∧
    (∃ f s a n al w h, AccessForm (.st f) f s a n al w h ∧ Alone s ∧ On f.p s ∧ Address f s a ∧ steer s.cur (here s).csr.stkbase a n = none) ∧
    (∃ f s a n al w h, AccessForm (.stf f) f s a n al w h ∧ Alone s ∧ On f.p s ∧ Address f s a ∧ steer s.cur (here s).csr.stkbase a n = none) ∧
    (∃ f s a n al w h, AccessForm (.lds f) f s a n al w h ∧ Alone s ∧ On f.p s ∧ Address f s a ∧ steer s.cur (here s).csr.stkbase a n = none) ∧
    (∃ f s a n al w h, AccessForm (.fetst f) f s a n al w h ∧ Alone s ∧ On f.p s ∧ Address f s a ∧ steer s.cur (here s).csr.stkbase a n = none) ∧
    (∃ f s a n al w h, AccessForm (.amo f) f s a n al w h ∧ Alone s ∧ On f.p s ∧ Address f s a ∧ steer s.cur (here s).csr.stkbase a n = none) ∧
    (∃ f s a n al w h, AccessForm (.feclr f) f s a n al w h ∧ Alone s ∧ On f.p s ∧ Address f s a ∧ steer s.cur (here s).csr.stkbase a n = none) :=
  ⟨⟨f12, aS 0xFFFFFFFFFFFFFFF0, 0xFFFFFFFFFFFFFFF0, 4, true, false, true, .inl ⟨rfl, rfl, by decide, rfl, rfl, rfl, fun _ => rfl, rfl⟩, ⟨rfl, by decide⟩, rfl,
      ⟨_, ⟨by decide, rfl, by decide, rfl⟩, rfl⟩, rfl⟩,
    ⟨{ f12 with dst := 2 }, aS 0xFFFFFFFFFFFFFFF0, 0xFFFFFFFFFFFFFFF0, 4, true, true, true, .inr (.inl ⟨rfl, rfl, by decide, rfl, rfl, rfl, rfl, fun _ => rfl,
      _, _, ⟨by decide, rfl, by decide, rfl⟩, rfl⟩), ⟨rfl, by decide⟩, rfl, ⟨_, ⟨by decide, rfl, by decide, rfl⟩, rfl⟩, rfl⟩,
    ⟨{ f12 with dst := 1, dk := false, size := 4 }, aS 0xFFFFFFFFFFFFFFF0, 0xFFFFFFFFFFFFFFF0, 64, false, true, false, .inr (.inr (.inl ⟨rfl, rfl, rfl, rfl, rfl, rfl, rfl,
      0x3F8000003F800000, rfl⟩)), ⟨rfl, by decide⟩, rfl, ⟨_, ⟨by decide, rfl, by decide, rfl⟩, rfl⟩, rfl⟩,
    ⟨f12, aS 0xFFFFFFFFFFFFFFF0, 0xFFFFFFFFFFFFFFF0, 4, true, false, false, .inr (.inr (.inr (.inl ⟨rfl, rfl, rfl, rfl, rfl, fun _ => rfl, rfl⟩))), ⟨rfl, by decide⟩, rfl,
      ⟨_, ⟨by decide, rfl, by decide, rfl⟩, rfl⟩, rfl⟩,
    ⟨f12, aS 0xFFFFFFFFFFFFFFF0, 0xFFFFFFFFFFFFFFF0, 1, true, false, false, .inr (.inr (.inr (.inr (.inl ⟨rfl, rfl, rfl, rfl, rfl, rfl⟩)))), ⟨rfl, by decide⟩, rfl,
      ⟨_, ⟨by decide, rfl, by decide, rfl⟩, rfl⟩, rfl⟩,
    ⟨{ f12 with dst := 2, size := 7 }, aS 0xFFFFFFFFFFFFFFF0, 0xFFFFFFFFFFFFFFF0, 4, true, true, false, .inr (.inr (.inr (.inr (.inr (.inl ⟨rfl, rfl, rfl, rfl, rfl, rfl, rfl,
      _, _, ⟨by decide, rfl, by decide, rfl⟩, fun _ => ⟨by decide, rfl, by decide, rfl⟩⟩))))), ⟨rfl, by decide⟩, rfl,
      ⟨_, ⟨by decide, rfl, by decide, rfl⟩, rfl⟩, rfl⟩,
    ⟨{ f12 with dst := 6 }, aS 0xFFFFFFFFFFFFFFF0, 0xFFFFFFFFFFFFFFF0, 64, true, true, false, .inr (.inr (.inr (.inr (.inr (.inr ⟨rfl, rfl, rfl, by decide,
      ⟨64, ⟨by decide, rfl, by decide, rfl⟩, rfl⟩, rfl⟩))))), ⟨rfl, by decide⟩, rfl, ⟨_, ⟨by decide, rfl, by decide, rfl⟩, rfl⟩, rfl⟩⟩
theorem test_witness_AccessChecks :
    (∃ i f s a n al w h, AccessForm i f s a n al w h ∧ Alone s ∧ On f.p s ∧ Address f s a ∧ steer s.cur (here s).csr.stkbase a n ≠ none ∧
      al = false) ∧
    (∃ i f s a n al w h, AccessForm i f s a n al w h ∧ Alone s ∧ On f.p s ∧ Address f s a ∧
      ∃ u off, steer s.cur (here s).csr.stkbase a n = some (.tile u off) ∧ al = true ∧ s.ownerOf u ≠ s.ownerOf s.cur) ∧
    (∃ i f s a n al w h, AccessForm i f s a n al w h ∧ Alone s ∧ On f.p s ∧ Address f s a ∧
      ∃ va e, steer s.cur (here s).csr.stkbase a n = some (.glob va) ∧ al = true ∧ migrating s (s.ctxOf s.cur) va = false ∧
        translate s s.cur (s.ctxOf s.cur) (s.refLevel s.cur) (pageCode s) va w h = .error e ∧ e ≠ 0) ∧
    (∃ s t c pg va e, tlbFind s (fieldOf t) c pg va = .error e) ∧
    (∃ s t c ref pg va, ∃ (writes host : Bool), ∃ e u, tlbFind s (fieldOf t) c pg va = .ok (e, u) ∧
      (e.pte.getLsbD (if writes then 5 else 4) = false ∨ (e.pte.getLsbD 3 = false ∧ ref = false) ∨ (e.pte.getLsbD 10 = true ∧ host = false))) ∧
    (∃ (f : FM), ∃ (s : State), ∃ a, ∃ off, ∃ u, (f.ord = 1 → MTask s) ∧ f.size.toNat < 4 ∧ Alone s ∧ On f.p s ∧ Free true f.dst s ∧
      f.dst.toNat < 56 ∧ Address f s a ∧ Own s a (sizeBytes f.size) off ∧ PortFree s off (sizeBytes f.size) ∧ (here s).sch.fx.sb = [] ∧
      (here s).store.badRead off (sizeBytes f.size) = some u) ∧
    (∃ (f : FM), ∃ (s : State), ∃ a, ∃ off, ∃ d, ∃ u, MTask s ∧ f.ord = 0 ∧ f.dk = true ∧ f.size.toNat < 4 ∧ Alone s ∧ On f.p s ∧ Data f s d ∧
      Address f s a ∧ Own s a (sizeBytes f.size) off ∧ PortFree s off (sizeBytes f.size) ∧ Unarmed s off (sizeBytes f.size) ∧
      (here s).store.badWrite off (sizeBytes f.size) = some u) ∧
    (∃ (a : Word), ∃ n, 0 < n ∧ a.toNat + n ≤ 0x180000) ∧ (∃ (a : Word), ∃ n, 0 < n ∧ 0x100000000000000 ≤ a.toNat) :=
  ⟨⟨.ld { fm with off := 2 }, { fm with off := 2 }, S, 0x42, 4, false, false, true, .inl ⟨rfl, rfl, by decide, rfl, rfl, rfl, fun _ => rfl, rfl⟩,
      ⟨rfl, by decide⟩, rfl, ⟨_, ⟨by decide, rfl, by decide, rfl⟩, rfl⟩, by decide, rfl⟩,
    ⟨.ld { fm with base := 7 }, { fm with base := 7 }, { S with parts := [{ part0 with x1 := 0 }] }, 0x10000200040, 4, true, false, true,
      .inl ⟨rfl, rfl, by decide, rfl, rfl, rfl, fun _ => rfl, rfl⟩, ⟨rfl, by decide⟩, rfl, ⟨_, ⟨by decide, rfl, by decide, rfl⟩, rfl⟩,
      1, 0x40, by decide, rfl, by decide⟩,
    ⟨.ld f12, f12, aS (G + 0x20000), G + 0x20000, 4, true, false, true, .inl ⟨rfl, rfl, by decide, rfl, rfl, rfl, fun _ => rfl, rfl⟩,
      ⟨rfl, by decide⟩, rfl, ⟨_, ⟨by decide, rfl, by decide, rfl⟩, rfl⟩, _, 4, rfl, rfl, rfl, rfl, by decide⟩,
    ⟨S, 0, 1, 0, G + 0x20000, 4, rfl⟩,
    ⟨roS, 0, 1, false, 0, G, true, true, _, _, rfl, .inl rfl⟩,
    ⟨fm, dueS, 0x40, 0x40, 8, fun _ => rfl, by decide, ⟨rfl, by decide⟩, rfl, rfl, by decide, ⟨_, ⟨by decide, rfl, by decide, rfl⟩, rfl⟩,
      ⟨rfl, rfl⟩, ⟨rfl, by decide⟩, rfl, rfl⟩,
    ⟨{ fm with dst := 2 }, dueS, 0x40, 0x40, _, 8, rfl, rfl, rfl, by decide, ⟨rfl, by decide⟩, rfl, ⟨_, ⟨by decide, rfl, by decide, rfl⟩, rfl⟩,
      ⟨_, ⟨by decide, rfl, by decide, rfl⟩, rfl⟩, ⟨rfl, rfl⟩, ⟨rfl, by decide⟩, rfl, rfl⟩,
    ⟨0, 0x180000, by decide, by decide⟩, ⟨0x100000000000000, 1, by decide, by decide⟩⟩

theorem test_witness_MemoryFrame :
    (∃ (mk : FM → Instr), ∃ (f : FM), ∃ (s : State), ∃ (t : State), ∃ a, ∃ off, ∃ d, (StoresCanonical s) ∧ (MTask s) ∧ (Alone s) ∧ (On f.p s) ∧ (f.ord = 0) ∧ (Data f s d) ∧ (f.dk = true) ∧ (Address f s a) ∧ (f.size.toNat < 4) ∧ (Own s a (sizeBytes f.size) off) ∧ (PortFree s off (sizeBytes f.size)) ∧ (Unarmed s off (sizeBytes f.size)) ∧ ((here s).store.badWrite off (sizeBytes f.size) = none) ∧ (exec (mk f) s = .next t) ∧ ∃ (k : Home), (Outside (.tile s.cur off) (sizeBytes f.size) k)) ∧
    (∃ (mk : FM → Instr), ∃ (f : FM), ∃ (s : State), ∃ (t : State), ∃ a, ∃ off, ∃ d, (StoresCanonical s) ∧ (MTask s) ∧ (Alone s) ∧ (On f.p s) ∧ (f.ord = 0) ∧ (Data f s d) ∧ (f.dk = true) ∧ (Address f s a) ∧ (f.size.toNat < 4) ∧ (Own s a (sizeBytes f.size) off) ∧ (PortFree s off (sizeBytes f.size)) ∧ (Unarmed s off (sizeBytes f.size)) ∧ ((here s).store.badWrite off (sizeBytes f.size) = none) ∧ (exec (mk f) s = .next t) ∧ ∃ (i : Nat), (i < sizeBytes f.size)) ∧
    (∃ (mk : FM → Instr), ∃ (f : FM), ∃ (s : State), ∃ (t : State), ∃ a, ∃ off, ∃ d, (StoresCanonical s) ∧ (MTask s) ∧ (Alone s) ∧ (On f.p s) ∧ (f.ord = 0) ∧ (Data f s d) ∧ (f.dk = true) ∧ (Address f s a) ∧ (f.size.toNat < 4) ∧ (Own s a (sizeBytes f.size) off) ∧ (PortFree s off (sizeBytes f.size)) ∧ (Unarmed s off (sizeBytes f.size)) ∧ ((here s).store.badWrite off (sizeBytes f.size) = none) ∧ (exec (mk f) s = .next t) ∧ ∃ (u : Nat), (u ≠ s.cur)) ∧
    (∃ (mk : FM → Instr), ∃ (f : FM), ∃ (s : State), ∃ (t : State), ∃ a, ∃ off, ∃ d, (StoresCanonical s) ∧ (MTask s) ∧ (Alone s) ∧ (On f.p s) ∧ (f.ord = 0) ∧ (Data f s d) ∧ (f.dk = true) ∧ (Address f s a) ∧ (f.size.toNat < 4) ∧ (Own s a (sizeBytes f.size) off) ∧ (PortFree s off (sizeBytes f.size)) ∧ (Unarmed s off (sizeBytes f.size)) ∧ ((here s).store.badWrite off (sizeBytes f.size) = none) ∧ (exec (mk f) s = .next t)) ∧
    (∃ (mk : FM → Instr), ∃ (f : FM), ∃ (s : State), ∃ (t : State), ∃ a, ∃ off, ∃ d, (StoresCanonical s) ∧ (MTask s) ∧ (Alone s) ∧ (Lanes f.p s 0xFFFF) ∧ (f.ord = 0) ∧ (Data f s d) ∧ (f.dk = false) ∧ (Address f s a) ∧ (f.size = 4) ∧ (Own s a 64 off) ∧ (PortFree s off 64) ∧ (Unarmed s off 64) ∧ (HurdlesAligned s) ∧ ((here s).store.bad2 = []) ∧ (exec (mk f) s = .next t) ∧ ∃ (k : Home), (Outside (.tile s.cur off) 64 k)) ∧
    (∃ f, ∃ (s : State), ∃ (t : State), ∃ a, ∃ off, ∃ x, ∃ y, (StoresCanonical s) ∧ (MTask s) ∧ (NoReplay s) ∧ (Alone s) ∧ (On f.p s) ∧ (Holds s f.dst x) ∧ ((f.size = 7 → Holds s (BitVec.ofNat 8 (f.dst.toNat + 1)) y)) ∧ (Address f s a) ∧ 
    let n := if f.aux.getLsbD 0 then 8 else 4
    (Own s a n off) ∧ (PortFree s off n) ∧ (Unarmed s off n) ∧ ((here s).store.bad2 = []) ∧ (exec (.amo f) s = .next t) ∧ ∃ (k : Home), (Outside (.tile s.cur off) n k)) ∧
    (∃ (mk : FM → Instr), ∃ (f : FM), ∃ (s : State), ∃ (t : State), ∃ a, ∃ off, (StoresCanonical s) ∧ ((f.ord = 1 → MTask s)) ∧ ((f.aux.getLsbD 0 = true → MTask s)) ∧ (Alone s) ∧ (On f.p s) ∧ (f.dk = true) ∧ (Free true f.dst s) ∧ (f.dst.toNat < 56) ∧ (Address f s a) ∧ (Own s a (sizeBytes f.size) off) ∧ ((here s).sch.fx.sb = []) ∧ ((here s).store.bad2 = []) ∧ (exec (mk f) s = .next t)) ∧
    (∃ f, ∃ (s : State), ∃ (t : State), ∃ a, ∃ off, ∃ n, (StoresCanonical s) ∧ (Alone s) ∧ (On f.p s) ∧ (Holds s f.dst n) ∧ (Address f s a) ∧ (1 ≤ n.toNat) ∧ (n.toNat < 2 ^ 24) ∧ (n.toNat % 4 = 0) ∧ (a.toNat % 4 = 0) ∧ (steer s.cur (here s).csr.stkbase a n.toNat = some (.tile s.cur off)) ∧ ((ITask s → Room s (.acc (clearAcc s ⟨.tile s.cur off, 0, false, 0⟩ a n.toNat)))) ∧ (exec (.feclr f) s = .next t)) ∧
    (∃ (mk : FM → Instr), ∃ (f : FM), ∃ (s : State), ∃ (t : State), ∃ a, ∃ off, ∃ d, (StoresCanonical s) ∧ (ITask s) ∧ (Alone s) ∧ (On f.p s) ∧ (f.ord ≠ 2) ∧ (Data f s d) ∧ (Address f s a) ∧ (Own s a (sizeBytes f.size) off) ∧ (Unarmed s off (sizeBytes f.size)) ∧ (Room s (.acc (ownAcc s (.store d) a (sizeBytes f.size) off))) ∧ (exec (mk f) s = .next t)) ∧
    (∃ f, ∃ (s : State), ∃ (t : State), ∃ a, ∃ off, ∃ x, ∃ y, (f.aux.getLsbD 3 = false) ∧ (StoresCanonical s) ∧ (ITask s) ∧ (NoReplay s) ∧ (Alone s) ∧ (On f.p s) ∧ (Holds s f.dst x) ∧ ((f.size = 7 → Holds s (BitVec.ofNat 8 (f.dst.toNat + 1)) y)) ∧ (Address f s a) ∧ 
    let n := if f.aux.getLsbD 0 then 8 else 4
    (Own s a n off) ∧ (Unarmed s off n) ∧ (Room s (.acc (ownAcc s (.amo f.size (f.aux.getLsbD 0) (f.aux.getLsbD 2) x y none) a n off))) ∧ (exec (.amo f) s = .next t)) :=
  ⟨
    ⟨.st, {fm with dst := 2}, S, done (rawWrite S (.tile 0 0x40) (lowBytes 4 3)) numbered, 0x40, 0x40, (3#64).setWidth 512, (by refine ⟨by decide, by decide, by decide, by decide, by decide⟩), rfl, ⟨rfl, by decide⟩, rfl, rfl, ⟨_, ⟨by decide, rfl, by decide, rfl⟩, rfl⟩, rfl, ⟨_, ⟨by decide, rfl, by decide, rfl⟩, rfl⟩, (by decide), ⟨rfl, rfl⟩, ⟨rfl, by decide⟩, rfl, rfl, rfl, .tile 0 0x80, (by intro i hi h; injection h with _ h; have : i < 4 := hi; omega)⟩,
    ⟨.st, {fm with dst := 2}, S, done (rawWrite S (.tile 0 0x40) (lowBytes 4 3)) numbered, 0x40, 0x40, (3#64).setWidth 512, (by refine ⟨by decide, by decide, by decide, by decide, by decide⟩), rfl, ⟨rfl, by decide⟩, rfl, rfl, ⟨_, ⟨by decide, rfl, by decide, rfl⟩, rfl⟩, rfl, ⟨_, ⟨by decide, rfl, by decide, rfl⟩, rfl⟩, (by decide), ⟨rfl, rfl⟩, ⟨rfl, by decide⟩, rfl, rfl, rfl, 0, (by decide)⟩,
    ⟨.st, {fm with dst := 2}, S, done (rawWrite S (.tile 0 0x40) (lowBytes 4 3)) numbered, 0x40, 0x40, (3#64).setWidth 512, (by refine ⟨by decide, by decide, by decide, by decide, by decide⟩), rfl, ⟨rfl, by decide⟩, rfl, rfl, ⟨_, ⟨by decide, rfl, by decide, rfl⟩, rfl⟩, rfl, ⟨_, ⟨by decide, rfl, by decide, rfl⟩, rfl⟩, (by decide), ⟨rfl, rfl⟩, ⟨rfl, by decide⟩, rfl, rfl, rfl, 1, (by decide)⟩,
    ⟨.st, {fm with dst := 2}, S, done (rawWrite S (.tile 0 0x40) (lowBytes 4 3)) numbered, 0x40, 0x40, (3#64).setWidth 512, (by refine ⟨by decide, by decide, by decide, by decide, by decide⟩), rfl, ⟨rfl, by decide⟩, rfl, rfl, ⟨_, ⟨by decide, rfl, by decide, rfl⟩, rfl⟩, rfl, ⟨_, ⟨by decide, rfl, by decide, rfl⟩, rfl⟩, (by decide), ⟨rfl, rfl⟩, ⟨rfl, by decide⟩, rfl, rfl, rfl⟩,
    ⟨.stv, {fm with dst := 1, dk := false, size := 4}, S, nx (exec (.stv {fm with dst := 1, dk := false, size := 4}) S), 0x40, 0x40, 0x3F8000003F800000, (by refine ⟨by decide, by decide, by decide, by decide, by decide⟩), rfl, ⟨rfl, by decide⟩, ⟨rfl, by decide⟩, rfl, rfl, rfl, ⟨_, ⟨by decide, rfl, by decide, rfl⟩, rfl⟩, rfl, ⟨rfl, rfl⟩, ⟨rfl, by decide⟩, rfl, (by intro e h; cases h), rfl, rfl, .tile 0 0x80, (by intro i hi h; injection h with _ h; have : i < 64 := hi; omega)⟩,
    ⟨{fm with dst := 2, aux := 9}, S, nx (exec (.amo {fm with dst := 2, aux := 9}) S), 0x40, 0x40, 3, 0, (by refine ⟨by decide, by decide, by decide, by decide, by decide⟩), rfl, rfl, ⟨rfl, by decide⟩, rfl, ⟨by decide, rfl, by decide, rfl⟩, (fun h => absurd h (by decide)), ⟨_, ⟨by decide, rfl, by decide, rfl⟩, rfl⟩, ⟨rfl, rfl⟩, ⟨rfl, by decide⟩, rfl, rfl, rfl, .tile 0 0x80, (by intro i hi h; injection h with _ h; have : i < 8 := hi; omega)⟩,
    ⟨.ld, fm, S, nx (exec (.ld fm) S), 0x40, 0x40, (by refine ⟨by decide, by decide, by decide, by decide, by decide⟩), (fun _ => rfl), (fun _ => rfl), ⟨rfl, by decide⟩, rfl, rfl, rfl, (by decide), ⟨_, ⟨by decide, rfl, by decide, rfl⟩, rfl⟩, ⟨rfl, rfl⟩, rfl, rfl, rfl⟩,
    ⟨{fm with dst := 6}, S, nx (exec (.feclr {fm with dst := 6}) S), 0x40, 0x40, 64, (by refine ⟨by decide, by decide, by decide, by decide, by decide⟩), ⟨rfl, by decide⟩, rfl, ⟨by decide, rfl, by decide, rfl⟩, ⟨_, ⟨by decide, rfl, by decide, rfl⟩, rfl⟩, (by decide), (by decide), rfl, rfl, rfl, (fun h => absurd (show (here _).isM = false from h) (by decide)), rfl⟩,
    ⟨.st, {fm with dst := 2}, I, nx (exec (.st {fm with dst := 2}) I), 0x40, 0x40, (3#64).setWidth 512, (by refine ⟨by decide, by decide, by decide, by decide, by decide⟩), rfl, ⟨rfl, by decide⟩, rfl, (by decide), ⟨_, ⟨by decide, rfl, by decide, rfl⟩, rfl⟩, ⟨_, ⟨by decide, rfl, by decide, rfl⟩, rfl⟩, ⟨rfl, rfl⟩, rfl, (by unfold Room; decide), rfl⟩,
    ⟨{fm with dst := 2}, I, nx (exec (.amo {fm with dst := 2}) I), 0x40, 0x40, 3, 0, (by decide), (by refine ⟨by decide, by decide, by decide, by decide, by decide⟩), rfl, rfl, ⟨rfl, by decide⟩, rfl, ⟨by decide, rfl, by decide, rfl⟩, (fun h => absurd h (by decide)), ⟨_, ⟨by decide, rfl, by decide, rfl⟩, rfl⟩, ⟨rfl, rfl⟩, rfl, (by unfold Room; decide), rfl⟩⟩

/-- Tile 0 with a running port. -/
def portS (p : Port) : State := ms { x0 with eng := { ports := [(0, { p with st := 1 })] } }
theorem test_witness_PortResults :
    (∃ (f : FE), ∃ (s : State), ∃ a, ∃ off, (MTask s) ∧ (Alone s) ∧ (On f.p s) ∧ (Holds s f.ga a) ∧ (((here s).port f.ix.toNat).st ≠ 1) ∧ (OwnBlock s a 64 64 off) ∧ (Plain s off 64)) ∧
    (∃ (f : FE), ∃ (s : State), (MTask s) ∧ (Alone s) ∧ (On f.p s) ∧ 
    let y := (here s).port f.ix.toNat
    (y.st ≠ 1) ∧ (ModeOk (y.conv != 0) s) ∧ ((y.isWrite = true → y.hden = true → (here s).armed y.hdx ≠ none ∧ Whole s))) ∧
    (∃ (s : State), ∃ (t : Nat), ∃ (p : Nat), ∃ (c : Nat), ∃ (car : Carried), 
    let y := (s.tile t).port p
    (y.isWrite = false) ∧ (y.pendHd = none)) ∧
    (∃ (f : FE), ∃ (s : State), (MTask s) ∧ (Alone s) ∧ (On f.p s) ∧ (((here s).port f.ix.toNat).st = 1)) ∧
    (∃ (f : FE), ∃ (s : State), (MTask s) ∧ (Alone s) ∧ (On f.p s) ∧ (((here s).port f.ix.toNat).st = 1) ∧ (((here s).port f.ix.toNat).acc = none) ∧ (((here s).port f.ix.toNat).eodDue = none)) ∧
    (∃ (f : FE), ∃ (s : State), (MTask s) ∧ (Alone s) ∧ (On f.p s) ∧ (((here s).port f.ix.toNat).st = 1) ∧ (((here s).port f.ix.toNat).acc ≠ none)) ∧
    (∃ (f : FE), ∃ (s : State), (MTask s) ∧ (Alone s) ∧ (On f.p s) ∧ (((here s).port f.ix.toNat).st = 1) ∧ (((here s).port f.ix.toNat).eodDue ≠ none)) ∧
    (∃ (s : State), ∃ (t : Nat), ∃ (p : Nat), 
    let y := (s.tile t).port p
    (y.st = 1) ∧ (y.acc = none) ∧ (y.eodDue = none) ∧ (y.halting = true)) ∧
    (∃ (s : State), ∃ (t : Nat), ∃ (p : Nat), 
    let y := (s.tile t).port p
    (y.st = 1) ∧ (y.acc = none) ∧ (y.eodDue = none) ∧ (y.halting = false) ∧ (y.total ≤ y.pos)) ∧
    (∃ (f : FE), ∃ (s : State), (MTask s) ∧ (Alone s) ∧ (On f.p s) ∧ (((here s).port f.ix.toNat).st ≠ 1)) ∧
    (∃ (f : FE), ∃ (s : State), (Alone s) ∧ (On f.p s) ∧ (Ready s f.ga)) :=
  ⟨
    ⟨fe, S, 0x40, 0x40, rfl, ⟨rfl, by decide⟩, rfl, ⟨by decide, rfl, by decide, rfl⟩, (by decide), ⟨rfl, rfl⟩, ⟨⟨rfl, rfl, rfl⟩, rfl, rfl, rfl⟩⟩,
    ⟨fe, S, rfl, ⟨rfl, by decide⟩, rfl, (by decide), (fun _ => by decide), (fun h => absurd h (by decide))⟩,
    ⟨ms (en { ports := [(0, port0 0)] }), 0, 0, 1, {}, rfl, rfl⟩,
    ⟨fe, ms {x0 with eng := { ports := [(0, { st := 1 })] }}, rfl, ⟨rfl, by decide⟩, rfl, rfl⟩,
    ⟨fe, portS {}, rfl, ⟨rfl, by decide⟩, rfl, rfl, rfl, rfl⟩,
    ⟨fe, portS { acc := some { parts := [] } }, rfl, ⟨rfl, by decide⟩, rfl, rfl, (by decide)⟩,
    ⟨fe, portS { eodDue := some 0 }, rfl, ⟨rfl, by decide⟩, rfl, rfl, (by decide)⟩,
    ⟨portS { halting := true }, 0, 0, rfl, rfl, rfl, rfl⟩,
    ⟨portS { pos := 5 }, 0, 0, rfl, rfl, rfl, rfl, (by decide)⟩,
    ⟨fe, S, rfl, ⟨rfl, by decide⟩, rfl, (by decide)⟩,
    ⟨fe, S, ⟨rfl, by decide⟩, rfl, ⟨by decide, by decide⟩⟩⟩

theorem test_witness_CopyResults :
    (∃ (f : FE), ∃ (s : State), ∃ (d : Word), ∃ a, ∃ n, (Alone s) ∧ (On f.p s) ∧ (Holds s f.ga d) ∧ (Holds s f.gb a) ∧ (Holds s f.gc n) ∧ 
    let o : CopyOp := {
      dst := d, src := a, rb := n.toNat, rows := 1, sstr := 0, dstr := 0, cvt := cvtOf f, hd := hdOf f
      car := (here s).csr.carry, pgsz := pageCode s, ctx := s.ctxOf s.cur, byTask := byTask s }
    (CopyOk s o)) ∧
    (∃ (f : FE), ∃ (s : State), ∃ a, ∃ off, (Listed s) ∧ (Alone s) ∧ (On f.p s) ∧ (Holds s f.ga a) ∧ (OwnBlock s a 32 32 off) ∧ (Plain s off 32) ∧ 
    let o : CopyOp := {
      dst := BitVec.ofNat 64 (ownNumber s off 8), src := BitVec.ofNat 64 (ownNumber s (off + 8) 8)
      rb := ownNumber s (off + 16) 4, rows := ownNumber s (off + 20) 4
      dstr := (BitVec.ofNat 32 (ownNumber s (off + 24) 4)).toInt, sstr := (BitVec.ofNat 32 (ownNumber s (off + 28) 4)).toInt
      cvt := cvtOf f, hd := hdOf f, car := (here s).csr.carry, pgsz := pageCode s, ctx := s.ctxOf s.cur, byTask := byTask s }
    (CopyOk s o)) ∧
    (∃ (f : FE), ∃ (s : State), ∃ (s' : State), ∃ a, ∃ n, ∃ (va : Word), ∃ pa, ∃ (slice : Nat), ∃ sl, ∃ (at_ : Nat), (f.cmd.getLsbD 0 = false) ∧ (Alone s) ∧ (On f.p s) ∧ (Holds s f.ga a) ∧ (Holds s f.gb n) ∧ (n.toNat % 64 = 0) ∧ (64 ≤ n.toNat) ∧ (n.toNat ≤ 4096) ∧ 
    let k := n.toNat / 64 + if f.cmd.getLsbD 1 then 1 else 0
    (k ≤ ((here s).inQ f.ix.toNat).depth) ∧ (steer s.cur (here s).csr.stkbase a n.toNat = some (.glob va)) ∧ (a.toNat % 64 = 0) ∧ (a.toNat / pageBytes (pageCode s) = (a.toNat + n.toNat - 1) / pageBytes (pageCode s)) ∧ (Gives (resolve a n.toNat 64 false false) s ⟨.dram pa, slice, sl, at_⟩ s') ∧ (s'.cur = s.cur) ∧ (here s' = here s) ∧ ((here s).eng.dreqs.length < 16) ∧ (k ≤ (here s).inFree f.ix.toNat)) ∧
    (∃ (f : FE), ∃ (s : State), ∃ (s' : State), ∃ a, ∃ n, ∃ (d : Word), ∃ (va : Word), ∃ pa, ∃ (slice : Nat), ∃ sl, ∃ (at_ : Nat), ∃ off, (f.cmd.getLsbD 0 = true) ∧ (f.cmd.getLsbD 1 = false) ∧ (Alone s) ∧ (On f.p s) ∧ (Holds s f.ga a) ∧ (Holds s f.gb n) ∧ (Holds s f.gc d) ∧ (n.toNat % 64 = 0) ∧ (64 ≤ n.toNat) ∧ (n.toNat ≤ 4096) ∧ ((ITask s → LocalSpelling d)) ∧ ((here s).armed f.ix.toNat ≠ none) ∧ (Whole s) ∧ (steer s.cur (here s).csr.stkbase a n.toNat = some (.glob va)) ∧ (a.toNat % 64 = 0) ∧ (a.toNat / pageBytes (pageCode s) = (a.toNat + n.toNat - 1) / pageBytes (pageCode s)) ∧ (Gives (resolve a n.toNat 64 false false) s ⟨.dram pa, slice, sl, at_⟩ s') ∧ (s'.cur = s.cur) ∧ (here s' = here s) ∧ (OwnBlock s d n.toNat 64 off) ∧ ((here s).eng.dreqs.length < 16)) :=
  ⟨
    ⟨{fe with gb := 4, gc := 6}, S, 0x40, 0x80, 64, ⟨rfl, by decide⟩, rfl, ⟨by decide, rfl, by decide, rfl⟩, ⟨by decide, rfl, by decide, rfl⟩, ⟨by decide, rfl, by decide, rfl⟩, ⟨by decide, fun h => absurd (show (here _).isM = false from h) (by decide), (by intro h hh; cases hh), (by intro r q hr hq; have hr : r < 1 := hr; have hq : q < 1 := hq; obtain rfl : r = 0 := (by omega); obtain rfl : q = 0 := (by omega); rfl), (by intro h; exact absurd h (by decide)), (by intro r hr; have hr : r < 1 := hr; obtain rfl : r = 0 := (by omega); exact ⟨⟨rfl, .inl rfl⟩, ⟨rfl, .inl rfl⟩⟩), by decide⟩⟩,
    ⟨fe, ms {x0 with store := { bytes := [(0x41, 1), (0x49, 2), (0x50, 64), (0x54, 1)] }}, 0x40, 0x40, rfl, ⟨rfl, by decide⟩, rfl, ⟨by decide, rfl, by decide, rfl⟩, ⟨rfl, rfl⟩, ⟨⟨rfl, rfl, rfl⟩, rfl, rfl, rfl⟩, ⟨by decide, fun h => absurd (show (here _).isM = false from h) (by decide), (by intro h hh; cases hh), (by intro r q hr hq; have hr : r < 1 := hr; have hq : q < 1 := hq; obtain rfl : r = 0 := (by omega); obtain rfl : q = 0 := (by omega); rfl), (by intro h; exact absurd h (by decide)), (by intro r hr; have hr : r < 1 := hr; obtain rfl : r = 0 := (by omega); exact ⟨⟨rfl, .inl rfl⟩, ⟨rfl, .inl rfl⟩⟩), by decide⟩⟩,
    ⟨{fe with ga := 5, gb := 6}, S, S, G, 64, G, 0x10000, sliceOfPa 0x10000, false, 0, rfl, ⟨rfl, by decide⟩, rfl, ⟨by decide, rfl, by decide, rfl⟩, ⟨by decide, rfl, by decide, rfl⟩, rfl, (by decide), (by decide), (by decide), rfl, rfl, rfl, rfl, rfl, rfl, (by decide), (by decide)⟩,
    ⟨{fe with cmd := 1, ga := 5, gb := 6, gc := 1}, H, H, G, 64, 0x40, G, 0x10000, sliceOfPa 0x10000, false, 0, 0x40, rfl, rfl, ⟨rfl, by decide⟩, rfl, ⟨by decide, rfl, by decide, rfl⟩, ⟨by decide, rfl, by decide, rfl⟩, ⟨by decide, rfl, by decide, rfl⟩, rfl, (by decide), (by decide), (fun h => absurd (show (here _).isM = false from h) (by decide)), (by decide), ⟨rfl, by decide⟩, rfl, rfl, rfl, rfl, rfl, rfl, ⟨rfl, rfl⟩, (by decide)⟩⟩

theorem test_witness_HurdleResults :
    (∃ (f : FE), ∃ (s : State), ∃ a, ∃ n, ∃ off, (Alone s) ∧ (On f.p s) ∧ (Ready s f.ga) ∧ (Holds s f.gb a) ∧ (Holds s f.gc n) ∧ (1 ≤ n.toNat) ∧ (n.toNat < 2 ^ 29) ∧ (OwnBlock s a 8 8 off) ∧ (PortFree s off 8) ∧ 
    let taken := (here s).eng.hds.any fun e => e.1 != f.ix.toNat && e.2.bound == some off
    
    let covered := (here s).sch.fx.sb.any fun b => b.covers (.tile s.cur off) 8
    (0 < ((here s).hd f.ix.toNat).pend)) ∧
    (∃ (f : FE), ∃ (s : State), ∃ a, ∃ n, ∃ off, (Alone s) ∧ (On f.p s) ∧ (Ready s f.ga) ∧ (Holds s f.gb a) ∧ (Holds s f.gc n) ∧ (1 ≤ n.toNat) ∧ (n.toNat < 2 ^ 29) ∧ (OwnBlock s a 8 8 off) ∧ (PortFree s off 8) ∧ 
    let taken := (here s).eng.hds.any fun e => e.1 != f.ix.toNat && e.2.bound == some off
    
    let covered := (here s).sch.fx.sb.any fun b => b.covers (.tile s.cur off) 8
    (((here s).hd f.ix.toNat).pend = 0) ∧ ((taken || covered) = true)) ∧
    (∃ (f : FE), ∃ (s : State), ∃ a, ∃ n, ∃ off, (Alone s) ∧ (On f.p s) ∧ (Ready s f.ga) ∧ (Holds s f.gb a) ∧ (Holds s f.gc n) ∧ (1 ≤ n.toNat) ∧ (n.toNat < 2 ^ 29) ∧ (OwnBlock s a 8 8 off) ∧ (PortFree s off 8) ∧ 
    let taken := (here s).eng.hds.any fun e => e.1 != f.ix.toNat && e.2.bound == some off
    
    let covered := (here s).sch.fx.sb.any fun b => b.covers (.tile s.cur off) 8
    (((here s).hd f.ix.toNat).pend = 0) ∧ ((taken || covered) = false)) ∧
    (∃ (f : FE), ∃ (s : State), ∃ c, ∃ (o : Nat), ∃ (w : Nat), (Alone s) ∧ (On f.p s) ∧ (Holds s f.ga c) ∧ (1 ≤ c.toNat) ∧ (c.toNat < 2 ^ 29) ∧ ((here s).armed f.ix.toNat = some (o, w)) ∧ (w / 2 ^ 34 % 2 = 0) ∧ (MTask s) ∧ (HurdleTurn s f.ix.toNat)) ∧
    (∃ (f : FE), ∃ (s : State), ∃ c, ∃ (o : Nat), ∃ (w : Nat), (Alone s) ∧ (On f.p s) ∧ (Holds s f.ga c) ∧ (1 ≤ c.toNat) ∧ (c.toNat < 2 ^ 29) ∧ ((here s).armed f.ix.toNat = some (o, w)) ∧ (w / 2 ^ 34 % 2 = 0) ∧ (ITask s) ∧ (Whole s) ∧ (Room s (.hdarr f.ix.toNat c.toNat (here s).nextAcc))) ∧
    (∃ (f : FE), ∃ (s : State), ∃ p, ∃ (o : Nat), ∃ (w : Nat), (Alone s) ∧ (On f.p s) ∧ (Holds s f.ga p) ∧ ((here s).armed f.ix.toNat = some (o, w)) ∧ (HurdleTurn s f.ix.toNat) ∧ 
    let past := w / 2 ^ 32 % 2 ≠ p.toNat % 2
    (past)) ∧
    (∃ (f : FE), ∃ (s : State), ∃ p, ∃ (o : Nat), ∃ (w : Nat), (Alone s) ∧ (On f.p s) ∧ (Holds s f.ga p) ∧ ((here s).armed f.ix.toNat = some (o, w)) ∧ (HurdleTurn s f.ix.toNat) ∧ 
    let past := w / 2 ^ 32 % 2 ≠ p.toNat % 2
    (¬ past)) ∧
    (∃ (f : FE), ∃ (s : State), ∃ p, (Alone s) ∧ (On f.p s) ∧ (Holds s f.ga p) ∧ ((here s).armed f.ix.toNat = none) ∧ (HurdleTurn s f.ix.toNat)) ∧
    (∃ (f : FE), ∃ (s : State), ∃ (o : Nat), ∃ (w : Nat), (Alone s) ∧ (On f.p s) ∧ ((here s).armed f.ix.toNat = some (o, w)) ∧ (HurdleTurn s f.ix.toNat)) :=
  ⟨
    ⟨{fe with ga := 2, gb := 1, gc := 2}, ms (hb [(0, { bound := some 0x100, pend := 1 })] []), 0x40, 3, 0x40, ⟨rfl, by decide⟩, rfl, ⟨by decide, by decide⟩, ⟨by decide, rfl, by decide, rfl⟩, ⟨by decide, rfl, by decide, rfl⟩, (by decide), (by decide), ⟨rfl, rfl⟩, ⟨rfl, by decide⟩, (by decide)⟩,
    ⟨{fe with ga := 2, gb := 1, gc := 2}, ms (hb [(1, { bound := some 0x40 })] []), 0x40, 3, 0x40, ⟨rfl, by decide⟩, rfl, ⟨by decide, by decide⟩, ⟨by decide, rfl, by decide, rfl⟩, ⟨by decide, rfl, by decide, rfl⟩, (by decide), (by decide), ⟨rfl, rfl⟩, ⟨rfl, by decide⟩, rfl, rfl⟩,
    ⟨{fe with ga := 2, gb := 1, gc := 2}, S, 0x40, 3, 0x40, ⟨rfl, by decide⟩, rfl, ⟨by decide, by decide⟩, ⟨by decide, rfl, by decide, rfl⟩, ⟨by decide, rfl, by decide, rfl⟩, (by decide), (by decide), ⟨rfl, rfl⟩, ⟨rfl, by decide⟩, rfl, rfl⟩,
    ⟨{fe with ga := 2, gb := 1, gc := 2}, H, 3, 0x100, 0xA00000000, ⟨rfl, by decide⟩, rfl, ⟨by decide, rfl, by decide, rfl⟩, (by decide), (by decide), rfl, rfl, rfl, ⟨⟨rfl, rfl, rfl⟩, (by intro o h; change some 0x100 = some o at h; cases h; exact ⟨rfl, rfl, rfl⟩)⟩⟩,
    ⟨{fe with ga := 2, gb := 1, gc := 2}, {H with tiles := [(0, {hb [(0, { bound := some 0x100 })] [(0x104, 0x0A)] with sch := xi.sch}), (1, y0)]}, 3, 0x100, 0xA00000000, ⟨rfl, by decide⟩, rfl, ⟨by decide, rfl, by decide, rfl⟩, (by decide), (by decide), rfl, rfl, rfl, ⟨rfl, by decide⟩, (by unfold Room; decide)⟩,
    ⟨{fe with ga := 2, gb := 1, gc := 2}, H, 3, 0x100, 0xA00000000, ⟨rfl, by decide⟩, rfl, ⟨by decide, rfl, by decide, rfl⟩, rfl, ⟨⟨rfl, rfl, rfl⟩, (by intro o h; change some 0x100 = some o at h; cases h; exact ⟨rfl, rfl, rfl⟩)⟩, (by decide)⟩,
    ⟨fe, H, 0x40, 0x100, 0xA00000000, ⟨rfl, by decide⟩, rfl, ⟨by decide, rfl, by decide, rfl⟩, rfl, ⟨⟨rfl, rfl, rfl⟩, (by intro o h; change some 0x100 = some o at h; cases h; exact ⟨rfl, rfl, rfl⟩)⟩, (by decide)⟩,
    ⟨{fe with ga := 2, gb := 1, gc := 2}, S, 3, ⟨rfl, by decide⟩, rfl, ⟨by decide, rfl, by decide, rfl⟩, rfl, ⟨⟨rfl, rfl, rfl⟩, (by intro o h; cases h)⟩⟩,
    ⟨{fe with ga := 2, gb := 1, gc := 2}, H, 0x100, 0xA00000000, ⟨rfl, by decide⟩, rfl, rfl, ⟨⟨rfl, rfl, rfl⟩, (by intro o h; change some 0x100 = some o at h; cases h; exact ⟨rfl, rfl, rfl⟩)⟩⟩⟩

theorem test_witness_PatchCommands :
    (∃ (f : FE), ∃ (s : State), (Alone s) ∧ (On f.p s) ∧ (PlainPatch s) ∧ (16 ≤ (here s).pu.q.length)) ∧
    (∃ (f : FE), ∃ (s : State), (Alone s) ∧ (On f.p s) ∧ (PlainPatch s) ∧ (16 ≤ (here s).pu.q.length) ∧ (Ready s f.ga)) ∧
    (∃ (f : FE), ∃ (s : State), (Alone s) ∧ (On f.p s) ∧ (PlainPatch s) ∧ (Ready s f.ga) ∧ (CmdRoom s)) ∧
    (∃ (f : FE), ∃ (s : State), (Alone s) ∧ (On f.p s) ∧ (PlainPatch s) ∧ (CmdRoom s)) ∧
    (∃ (f : FE), ∃ (s : State), (Alone s) ∧ (On f.p s) ∧ (PlainPatch s) ∧ (CmdRoom s) ∧ (f.cmd.getLsbD 0 = false)) ∧
    (∃ (f : FE), ∃ (s : State), (Alone s) ∧ (On f.p s) ∧ (PlainPatch s) ∧ (CmdRoom s) ∧ ∃ d, (f.cmd.getLsbD 0 = true) ∧ (ModeOk true s) ∧ (Holds s f.ga d) ∧ (1 ≤ d.toNat) ∧ (d.toNat ≤ 16)) ∧
    (∃ (f : FE), ∃ (s : State), ∃ a, (Alone s) ∧ (On f.p s) ∧ (PlainPatch s) ∧ (CmdRoom s) ∧ ((here s).view.ring = false) ∧ 
    let ty := f.cmd.setWidth 4
    
    let sc := f.cmd.getLsbD 4
    
    let i4 := f.cmd.getLsbD 5
    ((sc = true → 2 ≤ (here s).view.scq)) ∧ (CmdAddr s (f.ix == 4) f.ga (512 * (if i4 then 4 else tyWidth ty)) a)) ∧
    (∃ (f : FE), ∃ (s : State), ∃ n, ∃ a, (Alone s) ∧ (On f.p s) ∧ (PlainPatch s) ∧ (CmdRoom s) ∧ (Holds s f.gb n) ∧ (1 ≤ n.toNat) ∧ (n.toNat ≤ 8) ∧ ((here s).view.scq + n.toNat ≤ 8) ∧ (CmdAddr s (f.ix == 4) f.ga (64 * n.toNat) a)) ∧
    (∃ (f : FE), ∃ (s : State), ∃ rows, ∃ r0, ∃ a, (Alone s) ∧ (On f.p s) ∧ (PlainPatch s) ∧ (CmdRoom s) ∧ (Holds s f.gb rows) ∧ (Holds s f.gc r0) ∧ 
    let src := f.ix.toNat
    (runLegal s s.cur src rows.toNat r0.toNat (f.cmd.getLsbD 0) (f.cmd.getLsbD 1) (f.cmd.getLsbD 2) = true) ∧ (CmdAddr s (f.ix == 4) f.ga (8 * rows.toNat * tyWidth (tget {} (here s).view.fmts src : ActFmt).ty) a)) ∧
    (∃ (f : FE), ∃ (s : State), ∃ first, ∃ rows, ∃ a, (Alone s) ∧ (On f.p s) ∧ (PlainPatch s) ∧ (CmdRoom s) ∧ (Holds s f.gb first) ∧ (Holds s f.gc rows) ∧ 
    let ty := f.cmd.setWidth 4
    (first.toNat + rows.toNat ≤ 64) ∧ (drainLegal (here s).view ty (f.cmd.getLsbD 4) = true) ∧ (ModeOk (decide (8 ≤ ty.toNat)) s) ∧ 
    let c (toQueue : Bool) : PCmd := .drn toQueue f.ix.toNat a ty (f.cmd.getLsbD 4) (f.cmd.getLsbD 5) (f.cmd.getLsbD 6)
      first.toNat rows.toNat
    
    let n := 8 * rows.toNat * tyWidth ty
    (f.ix ≠ 16) ∧ (0 < ((here s).outQ f.ix.toNat).depth) ∧ (a = 0)) ∧
    (∃ (f : FE), ∃ (s : State), ∃ first, ∃ rows, ∃ a, (Alone s) ∧ (On f.p s) ∧ (PlainPatch s) ∧ (CmdRoom s) ∧ (Holds s f.gb first) ∧ (Holds s f.gc rows) ∧ 
    let ty := f.cmd.setWidth 4
    (first.toNat + rows.toNat ≤ 64) ∧ (drainLegal (here s).view ty (f.cmd.getLsbD 4) = true) ∧ (ModeOk (decide (8 ≤ ty.toNat)) s) ∧ 
    let c (toQueue : Bool) : PCmd := .drn toQueue f.ix.toNat a ty (f.cmd.getLsbD 4) (f.cmd.getLsbD 5) (f.cmd.getLsbD 6)
      first.toNat rows.toNat
    
    let n := 8 * rows.toNat * tyWidth ty
    (f.ix = 16) ∧ (CmdAddr s true f.ga n a)) ∧
    (∃ (f : FE), ∃ (s : State), ∃ n, (MTask s) ∧ (Alone s) ∧ (On f.p s) ∧ (Holds s f.ga n) ∧ ∃ (r : Nat × Nat × Nat × Nat), (regionOf s s.cur = some (n.toNat, r)) ∧ ((here s).view.rgn = !f.cmd.getLsbD 0) ∧ (CmdRoom s)) ∧
    (∃ (f : FE), ∃ (s : State), ∃ n, (MTask s) ∧ (Alone s) ∧ (On f.p s) ∧ (Holds s f.ga n) ∧ ((∀ r, regionOf s s.cur ≠ some (n.toNat, r)) ∨ (here s).view.rgn = f.cmd.getLsbD 0)) ∧
    (∃ (f : FE), ∃ (s : State), ∃ n, (MTask s) ∧ (Alone s) ∧ (On f.p s) ∧ (Holds s f.ga n) ∧ ∃ (r : Nat), (ringOf s s.cur = some (n.toNat, r)) ∧ ((here s).view.ring = !f.cmd.getLsbD 0) ∧ (CmdRoom s)) ∧
    (∃ (f : FE), ∃ (s : State), ∃ n, (MTask s) ∧ (Alone s) ∧ (On f.p s) ∧ (Holds s f.ga n) ∧ ((∀ r, ringOf s s.cur ≠ some (n.toNat, r)) ∨ (here s).view.ring = f.cmd.getLsbD 0)) ∧
    (∃ (f : FE), ∃ (s : State), (MTask s) ∧ (Alone s) ∧ (On f.p s) ∧ (CmdRoom s) ∧ ((here s).view.ring = true)) ∧
    (∃ (f : FE), ∃ (s : State), (MTask s) ∧ (Alone s) ∧ (On f.p s) ∧ (CmdRoom s) ∧ ((here s).view.ring = false)) :=
  ⟨
    ⟨fe, ms (pq {} (List.replicate 16 { cmd := .wsw, car := x0.csr.carry, pri := 0 })), ⟨rfl, by decide⟩, rfl, (fun _ => by decide), (by decide)⟩,
    ⟨fe, ms (pq {} (List.replicate 16 { cmd := .wsw, car := x0.csr.carry, pri := 0 })), ⟨rfl, by decide⟩, rfl, (fun _ => by decide), (by decide), ⟨by decide, by decide⟩⟩,
    ⟨fe, S, ⟨rfl, by decide⟩, rfl, (fun _ => by decide), ⟨by decide, by decide⟩, (by unfold CmdRoom; decide)⟩,
    ⟨fe, S, ⟨rfl, by decide⟩, rfl, (fun _ => by decide), (by unfold CmdRoom; decide)⟩,
    ⟨fe, S, ⟨rfl, by decide⟩, rfl, (fun _ => by decide), (by unfold CmdRoom; decide), rfl⟩,
    ⟨{fe with cmd := 1, ga := 2}, S, ⟨rfl, by decide⟩, rfl, (fun _ => by decide), (by unfold CmdRoom; decide), 3, rfl, (fun _ => by decide), ⟨by decide, rfl, by decide, rfl⟩, (by decide), (by decide)⟩,
    ⟨fe, S, 0, ⟨rfl, by decide⟩, rfl, (fun _ => by decide), (by unfold CmdRoom; decide), rfl, (by decide), rfl⟩,
    ⟨fe, S, 3, 0, ⟨rfl, by decide⟩, rfl, (fun _ => by decide), (by unfold CmdRoom; decide), ⟨by decide, rfl, by decide, rfl⟩, (by decide), (by decide), (by decide), rfl⟩,
    ⟨{fe with gc := 3}, S, 3, 1, 0, ⟨rfl, by decide⟩, rfl, (fun _ => by decide), (by unfold CmdRoom; decide), ⟨by decide, rfl, by decide, rfl⟩, ⟨by decide, rfl, by decide, rfl⟩, rfl, rfl⟩,
    ⟨{fe with ix := 1, cmd := 8}, S, 3, 1, 0, ⟨rfl, by decide⟩, rfl, (fun _ => by decide), (by unfold CmdRoom; decide), ⟨by decide, rfl, by decide, rfl⟩, ⟨by decide, rfl, by decide, rfl⟩, (by decide), rfl, (fun _ => by decide), (by decide), (by decide), rfl⟩,
    ⟨{fe with ix := 16, cmd := 8}, S, 3, 1, 0x40, ⟨rfl, by decide⟩, rfl, (fun _ => by decide), (by unfold CmdRoom; decide), ⟨by decide, rfl, by decide, rfl⟩, ⟨by decide, rfl, by decide, rfl⟩, (by decide), rfl, (fun _ => by decide), rfl, (by refine And.intro ?_ ⟨0x40, rfl, by decide⟩; exact ⟨by decide, rfl, by decide, rfl⟩)⟩,
    ⟨{fe with cmd := 1, ga := 2}, {S with cfgs := [{cfg0 with image := { actors := [{act0 with region := some (3, 1, 1, 0, 0)}, act0] }}]}, 3, rfl, ⟨rfl, by decide⟩, rfl, ⟨by decide, rfl, by decide, rfl⟩, (1, 1, 0, 0), rfl, rfl, (by unfold CmdRoom; decide)⟩,
    ⟨fe, ms (pq {rgn := some 1} []), 0x40, rfl, ⟨rfl, by decide⟩, rfl, ⟨by decide, rfl, by decide, rfl⟩, .inl (by intro r h; have h : none = some _ := h; cases h)⟩,
    ⟨{fe with cmd := 1, ga := 2}, {S with cfgs := [{cfg0 with image := { actors := [{act0 with ring := some (3, 1)}, act0] }}]}, 3, rfl, ⟨rfl, by decide⟩, rfl, ⟨by decide, rfl, by decide, rfl⟩, 1, rfl, rfl, (by unfold CmdRoom; decide)⟩,
    ⟨fe, ms (pq {ring := some 1} []), 0x40, rfl, ⟨rfl, by decide⟩, rfl, ⟨by decide, rfl, by decide, rfl⟩, .inl (by intro r h; have h : none = some _ := h; cases h)⟩,
    ⟨fe, ms (pq {ring := some 1} []), rfl, ⟨rfl, by decide⟩, rfl, (by unfold CmdRoom; decide), rfl⟩,
    ⟨fe, S, rfl, ⟨rfl, by decide⟩, rfl, (by unfold CmdRoom; decide), rfl⟩⟩

theorem test_witness_RemoteCommands :
    (∃ (f : FE), ∃ (s : State), ∃ t, ∃ n, ∃ p, (MTask s) ∧ (Alone s) ∧ (On f.p s) ∧ (Holds s f.ga t) ∧ (Holds s f.gb n) ∧ (Holds s f.gc p) ∧ ((here s).sch.cmdOut = none) ∧ (t.toNat < 9216) ∧ (s.ownerOf t.toNat = s.ownerOf s.cur) ∧ ((f.cmd = 1 → 8 ≤ p.toNat % 16 → p.toNat % 16 ≤ 13 → ModeOk true s))) ∧
    (∃ (f : FE), ∃ (s : State), ∃ t, ∃ n, ∃ p, (MTask s) ∧ (Alone s) ∧ (On f.p s) ∧ (Holds s f.ga t) ∧ (Holds s f.gb n) ∧ (Holds s f.gc p) ∧ ((here s).sch.cmdOut = none) ∧ ((9216 ≤ t.toNat ∨ s.ownerOf t.toNat ≠ s.ownerOf s.cur))) ∧
    (∃ (f : FE), ∃ (s : State), ∃ (r : RCmd), (MTask s) ∧ (Alone s) ∧ (On f.p s) ∧ ((here s).sch.cmdOut = some r) ∧ (r.reply = none)) ∧
    (∃ (f : FE), ∃ (s : State), ∃ (r : RCmd), (MTask s) ∧ (Alone s) ∧ (On f.p s) ∧ ((here s).sch.cmdOut = some r) ∧ (r.reply = some 1)) ∧
    (∃ (f : FE), ∃ (s : State), ∃ (r : RCmd), (MTask s) ∧ (Alone s) ∧ (On f.p s) ∧ ((here s).sch.cmdOut = some r) ∧ ∃ (v : BitVec 2), (r.reply = some v) ∧ (v ≠ 1)) ∧
    (∃ (s : State), ∃ (t : Nat), ∃ (r : RCmd), ((s.tile t).sch.cmdOut = some r) ∧ (r.reply = none) ∧ (s.ownerOf r.target ≠ s.ownerOf t)) ∧
    (∃ (s : State), ∃ (t : Nat), ∃ (r : RCmd), ∃ (c : PCmd), ((s.tile t).sch.cmdOut = some r) ∧ (r.reply = none) ∧ (s.ownerOf r.target = s.ownerOf t) ∧ (s.unreachable r.target = false) ∧ ((s.tile r.target).failStop = false) ∧ (remoteCmd s r.target r = some c) ∧ 
    let cap := tget 0 (s.tile r.target).eng.caps r.cap
    
    let answered (u : State) (v : BitVec 2) : State := u.modTile t fun x =>
      ({ x with sch := { x.sch with cmdOut := some { r with reply := some v } } } : Tile).perfAdd 6 1
    
    let granted := cap.getLsbD 63 = true ∧ cap.setWidth 32 = r.nonce ∧ cap.getLsbD (32 + r.op) = true ∧
      (s.tile r.target).view.rgn = false ∧ (s.tile r.target).view.ring = false
    (granted) ∧ ((s.tile r.target).pu.q.length < 16)) ∧
    (∃ (s : State), ∃ (t : Nat), ∃ (r : RCmd), ∃ (c : PCmd), ((s.tile t).sch.cmdOut = some r) ∧ (r.reply = none) ∧ (s.ownerOf r.target = s.ownerOf t) ∧ (s.unreachable r.target = false) ∧ ((s.tile r.target).failStop = false) ∧ (remoteCmd s r.target r = some c) ∧ 
    let cap := tget 0 (s.tile r.target).eng.caps r.cap
    
    let answered (u : State) (v : BitVec 2) : State := u.modTile t fun x =>
      ({ x with sch := { x.sch with cmdOut := some { r with reply := some v } } } : Tile).perfAdd 6 1
    
    let granted := cap.getLsbD 63 = true ∧ cap.setWidth 32 = r.nonce ∧ cap.getLsbD (32 + r.op) = true ∧
      (s.tile r.target).view.rgn = false ∧ (s.tile r.target).view.ring = false
    (¬ granted)) :=
  ⟨
    ⟨{fe with ga := 3, gb := 2, gc := 3, cmd := 2}, S, 1, 3, 1, rfl, ⟨rfl, by decide⟩, rfl, ⟨by decide, rfl, by decide, rfl⟩, ⟨by decide, rfl, by decide, rfl⟩, ⟨by decide, rfl, by decide, rfl⟩, rfl, (by decide), rfl, (fun h => absurd h (by decide))⟩,
    ⟨{fe with ga := 7, gb := 2, gc := 3, cmd := 2}, S, 0x10000200040, 3, 1, rfl, ⟨rfl, by decide⟩, rfl, ⟨by decide, rfl, by decide, rfl⟩, ⟨by decide, rfl, by decide, rfl⟩, ⟨by decide, rfl, by decide, rfl⟩, rfl, .inl (by decide)⟩,
    ⟨{fe with ga := 3, gb := 2, gc := 3, cmd := 2}, asks cmd0 y0, cmd0, rfl, ⟨rfl, by decide⟩, rfl, rfl, rfl⟩,
    ⟨{fe with ga := 3, gb := 2, gc := 3, cmd := 2}, asks {cmd0 with reply := some 1} y0, {cmd0 with reply := some 1}, rfl, ⟨rfl, by decide⟩, rfl, rfl, rfl⟩,
    ⟨{fe with ga := 3, gb := 2, gc := 3, cmd := 2}, asks {cmd0 with reply := some 2} y0, {cmd0 with reply := some 2}, rfl, ⟨rfl, by decide⟩, rfl, rfl, 2, rfl, (by decide)⟩,
    ⟨asks {cmd0 with target := 5} y0, 0, {cmd0 with target := 5}, rfl, rfl, (by decide)⟩,
    ⟨asks cmd0 {y0 with eng := { caps := [(0, 0x8000000400000003)] }}, 0, cmd0, .wsw, rfl, rfl, rfl, rfl, rfl, rfl, (by decide), (by decide)⟩,
    ⟨asks cmd0 y0, 0, cmd0, .wsw, rfl, rfl, rfl, rfl, rfl, rfl, (by decide)⟩⟩

theorem test_witness_TransferResults :
    (∃ (f : FC), ∃ (s : State), (Alone s) ∧ (On f.p s) ∧ 
    let t := target s f.off
    (t < 6144)) ∧
    (∃ (f : FC), ∃ (s : State), (Alone s) ∧ (On f.p s) ∧ 
    let t := target s f.off
    (6144 ≤ t)) ∧
    (∃ (f : FC), ∃ (s : State), (Alone s) ∧ (On f.p s) ∧ 
    let t := target s f.off
    ∃ g, (Holds s f.g g) ∧ (Branches f g) ∧ (t < 6144)) ∧
    (∃ (f : FC), ∃ (s : State), (Alone s) ∧ (On f.p s) ∧ 
    let t := target s f.off
    ∃ g, (Holds s f.g g) ∧ (¬ Branches f g)) ∧
    (∃ (f : FC), ∃ (s : State), (Alone s) ∧ (On f.p s) ∧ 
    let t := target s f.off
    (Ready s f.g) ∧ (t < 6144)) ∧
    (∃ (f : FC), ∃ (s : State), (Alone s) ∧ (On f.p s) ∧ 
    let t := target s f.off
    ∃ g, (Holds s f.g g) ∧ (g.toNat < 6144)) ∧
    (∃ (f : FC), ∃ (s : State), (Alone s) ∧ (On f.p s) ∧ 
    let t := target s f.off
    ∃ g, (Holds s f.g g) ∧ (6144 ≤ g.toNat)) ∧
    (∃ (f : FC), ∃ (s : State), ∃ c, (Alone s) ∧ (On f.p s) ∧ (Holds s f.g c) ∧ 
    let k := f.aux.toNat % 4
    
    let n : BitVec 32 := c.setWidth 32
    
    let e := (here s).regs.pc + f.off.toNat
    
    let rest := loopsLeft k (here s).regs.loops
    (n ≠ 0) ∧ (e < 6144)) ∧
    (∃ (f : FC), ∃ (s : State), ∃ c, (Alone s) ∧ (On f.p s) ∧ (Holds s f.g c) ∧ 
    let k := f.aux.toNat % 4
    
    let n : BitVec 32 := c.setWidth 32
    
    let e := (here s).regs.pc + f.off.toNat
    
    let rest := loopsLeft k (here s).regs.loops
    (n ≠ 0) ∧ (6144 ≤ e)) ∧
    (∃ (f : FC), ∃ (s : State), ∃ c, (Alone s) ∧ (On f.p s) ∧ (Holds s f.g c) ∧ 
    let k := f.aux.toNat % 4
    
    let n : BitVec 32 := c.setWidth 32
    
    let e := (here s).regs.pc + f.off.toNat
    
    let rest := loopsLeft k (here s).regs.loops
    (n = 0) ∧ (e + 1 < 6144)) ∧
    (∃ (f : FC), ∃ (s : State), (Alone s) ∧ (On f.p s) ∧ (f.aux.toNat % 4 ∈ (here s).regs.loops) ∧ (Good s .lc (f.aux.toNat % 4)) ∧ (((here s).regs.span (f.aux.toNat % 4)).2 + 1 < 6144)) ∧
    (∃ (f : FC), ∃ (s : State), (Alone s) ∧ (On f.p s) ∧ (f.aux.toNat % 4 ∉ (here s).regs.loops)) ∧
    (∃ (r : Regs), (r.loops ≠ [] ∧ ∀ k ∈ r.loops, (r.span k).2 ≠ r.pc)) ∧
    (∃ (r : Regs), ∃ (k : Nat), ∃ (rest : List Nat), (r.loops = k :: rest) ∧ ((r.span k).2 = r.pc) ∧ (1 < (r.getLc k).toNat)) ∧
    (∃ (r : Regs), ∃ (k : Nat), (r.loops = [k]) ∧ ((r.span k).2 = r.pc) ∧ ((r.getLc k).toNat ≤ 1)) :=
  ⟨
    ⟨{fc with off := 5, g := 3, aux := 1}, S, ⟨rfl, by decide⟩, rfl, (by decide)⟩,
    ⟨{fc with off := 0x7FFFFFF}, S, ⟨rfl, by decide⟩, rfl, (by decide)⟩,
    ⟨{fc with off := 5, g := 3, aux := 1}, S, ⟨rfl, by decide⟩, rfl, 1, ⟨by decide, rfl, by decide, rfl⟩, (fun h => absurd h (by decide)), (by decide)⟩,
    ⟨{fc with off := 5, g := 3, aux := 0}, S, ⟨rfl, by decide⟩, rfl, 1, ⟨by decide, rfl, by decide, rfl⟩, (by intro h; exact absurd (show (1 : Word) = 0 from h) (by decide))⟩,
    ⟨{fc with off := 5, g := 3, aux := 1}, S, ⟨rfl, by decide⟩, rfl, ⟨by decide, by decide⟩, (by decide)⟩,
    ⟨{fc with off := 5, g := 3, aux := 1}, S, ⟨rfl, by decide⟩, rfl, 1, ⟨by decide, rfl, by decide, rfl⟩, (by decide)⟩,
    ⟨{fc with g := 5}, S, ⟨rfl, by decide⟩, rfl, G, ⟨by decide, rfl, by decide, rfl⟩, (by decide)⟩,
    ⟨{fc with off := 5, g := 3, aux := 1}, S, 1, ⟨rfl, by decide⟩, rfl, ⟨by decide, rfl, by decide, rfl⟩, (by decide), (by decide)⟩,
    ⟨{fc with off := 0x7FFFFFF, g := 3, aux := 1}, S, 1, ⟨rfl, by decide⟩, rfl, ⟨by decide, rfl, by decide, rfl⟩, (by decide), (by decide)⟩,
    ⟨{fc with off := 5, g := 11, aux := 1}, S, 0, ⟨rfl, by decide⟩, rfl, ⟨by decide, rfl, by decide, rfl⟩, rfl, (by decide)⟩,
    ⟨{fc with off := 5, g := 3, aux := 1}, ms {x0 with regs := {x0.regs with loops := [1], lp := [(1, (2, 9))]}}, ⟨rfl, by decide⟩, rfl, (by decide), (by decide), (by decide)⟩,
    ⟨{fc with off := 5, g := 3, aux := 1}, S, ⟨rfl, by decide⟩, rfl, (by decide)⟩,
    ⟨{x0.regs with loops := [1], lp := [(1, (2, 9))]}, (by decide), (by decide)⟩,
    ⟨{x0.regs with pc := 9, loops := [1], lp := [(1, (2, 9))], lc := [(1, 5)]}, 1, [], rfl, rfl, (by decide)⟩,
    ⟨{x0.regs with pc := 9, loops := [1], lp := [(1, (2, 9))], lc := [(1, 1)]}, 1, rfl, rfl, (by decide)⟩⟩

theorem test_witness_QueueResults :
    (∃ (f : FA), ∃ (s : State), ∃ (s' : State), ∃ a, (f.dk = true) ∧ (Alone s) ∧ (On f.p s) ∧ (Slot s f.dst.toNat) ∧ (Gives (readScalar f.a) s a s')) ∧
    (∃ (f : FA), ∃ (s : State), ∃ (s' : State), ∃ (v : Vec), ∃ m, (f.dk = false) ∧ (Alone s) ∧ (Lanes f.p s m) ∧ (Slot s f.dst.toNat) ∧ (VectorSource f.a s v s')) ∧
    (∃ (f : FA), ∃ (s : State), ∃ (c : BitVec 8), (f.a = .lit c) ∧ (Alone s) ∧ (On f.p s) ∧ (Declared s c.toNat) ∧ (f.dk = true) ∧ (Free true f.dst s)) ∧
    (∃ (f : FA), ∃ (s : State), ∃ (c : BitVec 8), (f.a = .lit c) ∧ (Alone s) ∧ (On f.p s) ∧ (Declared s c.toNat) ∧ ∃ (tok : Token), (Free true f.dst s) ∧ ((here s).head c.toNat = some tok)) ∧
    (∃ (f : FA), ∃ (s : State), ∃ (c : BitVec 8), (f.a = .lit c) ∧ (Alone s) ∧ (On f.p s) ∧ (Declared s c.toNat) ∧ (Free true f.dst s) ∧ ((here s).head c.toNat = none) ∧ (f.m.getLsbD 0 = true)) ∧
    (∃ (f : FA), ∃ (s : State), ∃ (c : BitVec 8), (f.a = .lit c) ∧ (Alone s) ∧ (On f.p s) ∧ (Declared s c.toNat) ∧ (Free true f.dst s) ∧ ((here s).head c.toNat = none) ∧ (f.m.getLsbD 0 = false)) ∧
    (∃ (f : FA), ∃ (s : State), ∃ (c : BitVec 8), (f.a = .lit c) ∧ (Alone s) ∧ (On f.p s) ∧ (Declared s c.toNat) ∧ (Free true f.dst s) ∧ (f.m.getLsbD 0 = false)) ∧
    (∃ (f : FA), ∃ (s : State), ∃ (c : BitVec 8), ∃ m, (f.a = .lit c) ∧ (f.dk = false) ∧ (Alone s) ∧ (Lanes f.p s m) ∧ (Declared s c.toNat) ∧ (Free false f.dst s m)) ∧
    (∃ (f : FA), ∃ (s : State), ∃ (c : BitVec 8), (f.a = .lit c) ∧ (f.m.getLsbD 0 = true) ∧ (Alone s) ∧ (On f.p s) ∧ (c.toNat < 16) ∧ (0 < ((here s).outQ c.toNat).depth) ∧ (Free true f.dst s)) ∧
    (∃ (f : FA), ∃ (s : State), (Alone s) ∧ (On f.p s) ∧ (Slot s f.dst.toNat)) ∧
    (∃ (f : FA), ∃ (s : State), ∃ (s' : State), ∃ (c : Word), (f.m.getLsbD 0 = false) ∧ (Alone s) ∧ (On f.p s) ∧ (Slot s f.dst.toNat) ∧ (Gives (readScalar f.a) s c s') ∧ (1 ≤ c.toNat % 256) ∧ (c.toNat % 256 ≤ 0x1A)) ∧
    (∃ (f : FA), ∃ (s : State), ∃ (s' : State), ∃ (c : Word), (f.m.getLsbD 0 = true) ∧ (Alone s) ∧ (On f.p s) ∧ ((here s).declOut.Nodup) ∧ ((∀ q ∈ (here s).declOut, Slot s q)) ∧ (Gives (readScalar f.a) s c s') ∧ (1 ≤ c.toNat % 256) ∧ (c.toNat % 256 ≤ 0x1A)) :=
  ⟨
    ⟨{fa with dst := 1, a := .g 2 false}, S, S, 3, rfl, ⟨rfl, by decide⟩, rfl, ⟨by decide, by decide⟩, rfl⟩,
    ⟨{fa with dst := 1, dk := false, a := .v 1 false}, S, S, 0x3F8000003F800000, 0xFFFF, rfl, ⟨rfl, by decide⟩, ⟨rfl, by decide⟩, ⟨by decide, by decide⟩, rfl⟩,
    ⟨{fa with a := .lit 0}, S, 0, rfl, ⟨rfl, by decide⟩, rfl, ⟨by decide, by decide⟩, rfl, rfl⟩,
    ⟨{fa with a := .lit 0}, S, 0, rfl, ⟨rfl, by decide⟩, rfl, ⟨by decide, by decide⟩, .scalar 5, rfl, rfl⟩,
    ⟨{fa with a := .lit 0, m := 1}, ms {x0 with inq := [(0, { depth := 4 })]}, 0, rfl, ⟨rfl, by decide⟩, rfl, ⟨by decide, by decide⟩, rfl, rfl, rfl⟩,
    ⟨{fa with a := .lit 0}, ms {x0 with inq := [(0, { depth := 4 })]}, 0, rfl, ⟨rfl, by decide⟩, rfl, ⟨by decide, by decide⟩, rfl, rfl, rfl⟩,
    ⟨{fa with a := .lit 0}, S, 0, rfl, ⟨rfl, by decide⟩, rfl, ⟨by decide, by decide⟩, rfl, rfl⟩,
    ⟨{fa with a := .lit 0, dk := false}, S, 0, 0xFFFF, rfl, rfl, ⟨rfl, by decide⟩, ⟨rfl, by decide⟩, ⟨by decide, by decide⟩, rfl⟩,
    ⟨{fa with a := .lit 1, m := 1}, S, 1, rfl, rfl, ⟨rfl, by decide⟩, rfl, (by decide), (by decide), rfl⟩,
    ⟨{fa with dst := 1}, S, ⟨rfl, by decide⟩, rfl, ⟨by decide, by decide⟩⟩,
    ⟨{fa with dst := 1}, S, S, 3, rfl, ⟨rfl, by decide⟩, rfl, ⟨by decide, by decide⟩, rfl, (by decide), (by decide)⟩,
    ⟨{fa with dst := 1, m := 1}, S, S, 3, rfl, ⟨rfl, by decide⟩, rfl, (by decide), (by intro q hq; change q ∈ [1] at hq; obtain rfl : q = 1 := (by simpa using hq); exact ⟨by decide, by decide, by decide, by decide⟩), rfl, (by decide), (by decide)⟩⟩

theorem test_witness_TaskMessages :
    (∃ (f : FE), ∃ (s : State), ∃ a, ∃ k, ∃ (off : Nat), ∃ (d : ActorDecl), ∃ r, (Alone s) ∧ (On f.p s) ∧ (Holds s f.ga a) ∧ (Holds s f.gb k) ∧ (slotDecl s k.toNat = some d) ∧ (a.toNat + 32 ≤ 0x180000) ∧ (OwnBlock s a 32 32 off) ∧ (Plain s off 32) ∧ (parseRecord (ownNumber s off 32) d.handlers.length = some r) ∧ (roomAt s s.cur k.toNat = true) ∧ (MTask s) ∧ ((here s).sch.retBuf.length < 16)) ∧
    (∃ (f : FE), ∃ (s : State), ∃ a, ∃ k, ∃ (off : Nat), ∃ (d : ActorDecl), ∃ r, (Alone s) ∧ (On f.p s) ∧ (Holds s f.ga a) ∧ (Holds s f.gb k) ∧ (slotDecl s k.toNat = some d) ∧ (a.toNat + 32 ≤ 0x180000) ∧ (OwnBlock s a 32 32 off) ∧ (Plain s off 32) ∧ (parseRecord (ownNumber s off 32) d.handlers.length = some r) ∧ (roomAt s s.cur k.toNat = true) ∧ (ITask s)) ∧
    (∃ (f : FE), ∃ (s : State), ∃ k, ∃ (off : Word), ∃ (amt : Word), (Alone s) ∧ (On f.p s) ∧ (Holds s f.ga k) ∧ (Holds s f.gb off) ∧ (Holds s f.gc amt) ∧ (slotDecl s k.toNat ≠ none) ∧ (off.toNat % 4 = 0) ∧ (off.toNat < 0x180000) ∧ (1 ≤ amt.toNat) ∧ (amt.toNat < 2 ^ 31) ∧ (MTask s) ∧ ((here s).sch.retBuf.length < 16)) ∧
    (∃ (f : FE), ∃ (s : State), ∃ k, ∃ (off : Word), ∃ (amt : Word), (Alone s) ∧ (On f.p s) ∧ (Holds s f.ga k) ∧ (Holds s f.gb off) ∧ (Holds s f.gc amt) ∧ (slotDecl s k.toNat ≠ none) ∧ (off.toNat % 4 = 0) ∧ (off.toNat < 0x180000) ∧ (1 ≤ amt.toNat) ∧ (amt.toNat < 2 ^ 31) ∧ (MTask s) ∧ (16 ≤ (here s).sch.retBuf.length)) ∧
    (∃ (f : FE), ∃ (s : State), ∃ k, ∃ (off : Word), ∃ (amt : Word), (Alone s) ∧ (On f.p s) ∧ (Holds s f.ga k) ∧ (Holds s f.gb off) ∧ (Holds s f.gc amt) ∧ (slotDecl s k.toNat ≠ none) ∧ (off.toNat % 4 = 0) ∧ (off.toNat < 0x180000) ∧ (1 ≤ amt.toNat) ∧ (amt.toNat < 2 ^ 31) ∧ (ITask s)) :=
  ⟨
    ⟨{fe with ga := 4, gb := 3}, S, 0x80, 1, 0x80, {act0 with handlers := act0.handlers}, rec1, ⟨rfl, by decide⟩, rfl, ⟨by decide, rfl, by decide, rfl⟩, ⟨by decide, rfl, by decide, rfl⟩, rfl, (by decide), ⟨rfl, rfl⟩, ⟨⟨rfl, rfl, rfl⟩, rfl, rfl, rfl⟩, rfl, rfl, rfl, (by decide)⟩,
    ⟨{fe with ga := 4, gb := 3}, I, 0x80, 1, 0x80, {act0 with handlers := act0.handlers}, rec1, ⟨rfl, by decide⟩, rfl, ⟨by decide, rfl, by decide, rfl⟩, ⟨by decide, rfl, by decide, rfl⟩, rfl, (by decide), ⟨rfl, rfl⟩, ⟨⟨rfl, rfl, rfl⟩, rfl, rfl, rfl⟩, rfl, rfl, rfl⟩,
    ⟨{fe with ga := 3, gb := 1, gc := 2}, S, 1, 0x40, 3, ⟨rfl, by decide⟩, rfl, ⟨by decide, rfl, by decide, rfl⟩, ⟨by decide, rfl, by decide, rfl⟩, ⟨by decide, rfl, by decide, rfl⟩, (by decide), rfl, (by decide), (by decide), (by decide), rfl, (by decide)⟩,
    ⟨{fe with ga := 3, gb := 1, gc := 2}, ms { x0 with sch := { x0.sch with retBuf := List.replicate 16 (.spawn 1 rec1 0) } }, 1, 0x40, 3, ⟨rfl, by decide⟩, rfl, ⟨by decide, rfl, by decide, rfl⟩, ⟨by decide, rfl, by decide, rfl⟩, ⟨by decide, rfl, by decide, rfl⟩, (by decide), rfl, (by decide), (by decide), (by decide), rfl, (by decide)⟩,
    ⟨{fe with ga := 3, gb := 1, gc := 2}, I, 1, 0x40, 3, ⟨rfl, by decide⟩, rfl, ⟨by decide, rfl, by decide, rfl⟩, ⟨by decide, rfl, by decide, rfl⟩, ⟨by decide, rfl, by decide, rfl⟩, (by decide), rfl, (by decide), (by decide), (by decide), rfl⟩⟩

theorem test_witness_TaskEndAndGangs :
    (∃ (f : FC), ∃ (s : State), (MTask s) ∧ (Alone s) ∧ (On f.p s) ∧ (Single s) ∧ (Settled s) ∧ (ownOutstanding s s.cur = [])) ∧
    (∃ (f : FC), ∃ (s : State), (MTask s) ∧ (Alone s) ∧ (On f.p s) ∧ (Single s) ∧ (¬ Settled s ∨ ownOutstanding s s.cur ≠ [])) ∧
    (∃ (f : FC), ∃ (s : State), (ITask s) ∧ (Alone s) ∧ (On f.p s) ∧ (Single s) ∧ (Settled s) ∧ ((here s).net = []) ∧ ((here s).sch.fx.sb = []) ∧ ((here s).sch.fx.phase = 0) ∧ (cancelling s s.cur = false)) ∧
    (∃ (f : FC), ∃ (s : State), ∃ (s' : State), (ITask s) ∧ (Alone s) ∧ (On f.p s) ∧ (Single s) ∧ (Settled s) ∧ (commitStep s [s.cur] = (s', .done)) ∧ (s'.cur = s.cur)) ∧
    (∃ (f : FC), ∃ (s : State), ∃ (s' : State), (ITask s) ∧ (Alone s) ∧ (On f.p s) ∧ (Single s) ∧ (Settled s) ∧ (commitStep s [s.cur] = (s', .wait))) ∧
    (∃ (f : FC), ∃ (s : State), ∃ (d : ActorDecl), (Alone s) ∧ (On f.p s) ∧ (s.actorDecl s.cur = some d) ∧ (1 < d.gang) ∧ (team s s.cur = (List.range d.gang).map (s.cur + ·)) ∧ (f.g.toNat < 56) ∧ ((∀ i, i < d.gang → tget .full (s.tile (s.cur + i)).regs.gFe f.g.toNat ≠ .empty))) ∧
    (∃ (f : FC), ∃ (s : State), ∃ (d : ActorDecl), ∃ (i : Nat), (Alone s) ∧ (On f.p s) ∧ (s.actorDecl s.cur = some d) ∧ (1 < d.gang) ∧ (team s s.cur = (List.range d.gang).map (s.cur + ·)) ∧ (f.g.toNat < 56) ∧ (i < d.gang) ∧ (tget .full (s.tile (s.cur + i)).regs.gFe f.g.toNat = .empty)) ∧
    (∃ (f : FC), ∃ (s : State), ∃ (n : Nat), (Members s n) ∧ (On f.p s)) ∧
    (∃ (f : FC), ∃ (s : State), ∃ (n : Nat), (Members s n) ∧ (¬ On f.p s)) ∧
    (∃ (f : FC), ∃ (s : State), ∃ (n : Nat), (Formed f.p s n) ∧ ((∀ i, i < n → (s.tile (s.cur + i)).isM = true)) ∧ 
    let clear (i : Nat) : Bool := scopeClear s (s.cur + i) 3 (s.tile (s.cur + i)).nextAcc
    ((∀ i, i < n → clear i = true))) ∧
    (∃ (f : FC), ∃ (s : State), ∃ (n : Nat), (Formed f.p s n) ∧ ((∀ i, i < n → (s.tile (s.cur + i)).isM = true)) ∧ 
    let clear (i : Nat) : Bool := scopeClear s (s.cur + i) 3 (s.tile (s.cur + i)).nextAcc
    ((∃ i, i < n ∧ clear i = false))) :=
  ⟨
    ⟨{fc with g := 3}, S, rfl, ⟨rfl, by decide⟩, rfl, rfl, (by intro e h; cases h), rfl⟩,
    ⟨{fc with g := 3}, ms {x0 with net := [{ id := 0, parts := [⟨.dram 0, G, 4, 0, 0, 0⟩], op := .store 0 }]}, rfl, ⟨rfl, by decide⟩, rfl, rfl, .inr (by decide)⟩,
    ⟨{fc with g := 3}, I, rfl, ⟨rfl, by decide⟩, rfl, rfl, (by intro e h; cases h), rfl, rfl, rfl, rfl⟩,
    ⟨{fc with g := 3}, I, (commitStep I [0]).1, rfl, ⟨rfl, by decide⟩, rfl, rfl, (by intro e h; cases h), rfl, rfl⟩,
    ⟨{fc with g := 3}, ms {xi with net := [at0 (.store 0)]}, (commitStep (ms {xi with net := [at0 (.store 0)]}) [0]).1, rfl, ⟨rfl, by decide⟩, rfl, rfl, (by intro e h; cases h), rfl⟩,
    ⟨{fc with g := 3}, {S with cfgs := [{cfg0 with image := { actors := [{act0 with gang := 2}, act0] }}]}, {act0 with gang := 2}, ⟨rfl, by decide⟩, rfl, rfl, (by decide), rfl, (by decide), (by decide)⟩,
    ⟨{fc with g := 3}, {S with tiles := [(0, x0), (1, {y0 with regs := {y0.regs with gFe := [(3, .empty)]}})], cfgs := [{cfg0 with image := { actors := [{act0 with gang := 2}, act0] }}]}, {act0 with gang := 2}, 1, ⟨rfl, by decide⟩, rfl, rfl, (by decide), rfl, (by decide), (by decide), rfl⟩,
    ⟨{fc with g := 3}, gangs x0 y0, 2, ⟨by decide, by decide, by decide⟩, rfl⟩,
    ⟨{fc with g := 3, p := ⟨2, false⟩}, gangs x0 y0, 2, ⟨by decide, by decide, by decide⟩, (fun h : On _ _ => absurd h (by unfold On; decide))⟩,
    ⟨{fc with g := 3}, gangs x0 y0, 2, ⟨⟨by decide, by decide, by decide⟩, by decide⟩, (by decide), (by decide)⟩,
    ⟨{fc with g := 3}, gangs {x0 with net := [{ id := 0, parts := [⟨.dram 0, G, 4, 0, 0, 0⟩], op := .store 0 }], nextAcc := 1} y0, 2, ⟨⟨by decide, by decide, by decide⟩, by decide⟩, (by decide), ⟨0, by decide, by decide⟩⟩⟩

/-- A collective of 16 elements of a kind and a root in one page of DRAM, and the other rank's side; what its completion needs. -/
def collD (kind : BitVec 2) (root : Nat) : Coll :=
  { collN 2 with kind := kind, root := root, va := G, count := 16, pages := [⟨.dram 0x10000, G, 64, 0, sliceOfPa 0x10000, 0⟩] }
def sideD (kind : BitVec 2) (root : Nat) : CollSide := { ownSide (collD kind root) [] with rank := 1, data := List.replicate 64 1 }
def collS (kind : BitVec 2) (root : Nat) : State := { grp 2 [collD kind root] x0 with links := [(0, { st := 2 })] }
def Delivers (kind : BitVec 2) (root : Nat) : Prop :=
  ∃ s g c d pa va slice at_, Completes s g c d ∧ c.kind = kind ∧ c.root = root ∧ c.pages = [⟨.dram pa, va, c.bytes, 0, slice, at_⟩] ∧
    c.bytes % 64 = 0 ∧ d.data.length = c.bytes ∧ StoresCanonical s ∧ Quiescent s (.dram pa) c.bytes ∧ (at_ + 8 ≤ pa ∨ pa + c.bytes ≤ at_) ∧
    0 < c.count
theorem delivers (kind : BitVec 2) (root : Nat) (hk : kind ≠ 3) (hb : (collD kind root).bytes = 64)
    (ha : agrees (sideD kind root) (ownSide (collD kind root) []) = true) : Delivers kind root :=
  ⟨collS kind root, 0, collD kind root, sideD kind root, 0x10000, G, sliceOfPa 0x10000, 0,
    ⟨rfl, ⟨rfl, by show (0 : Nat) ∉ ([] : List Nat); simp⟩,
      ⟨show grpNr (collN 2).grp = 2 from rfl, show grpRank (collN 2).grp = 0 from rfl, rfl⟩, ⟨(0, { st := 2 }), by simp [collS], rfl⟩, ha, ⟨hk, rfl⟩,
      by intro a h; change a ∈ ([] : List Acc) at h; cases h⟩,
    rfl, rfl, by rw [hb]; rfl, by rw [hb], by rw [hb]; rfl, show StoresCanonical (ms x0) from ⟨rfl, by decide⟩, ⟨rfl, rfl, rfl⟩, .inl (by decide), by show 0 < 16; decide⟩
theorem test_witness_Collectives :
    (∃ (k : (FE → Instr) × BitVec 2), ∃ (f : FE), ∃ (s : State), ∃ a, ∃ n, ∃ (root : Nat), (MTask s) ∧ (NoReplay s) ∧ (NotRedundant s) ∧ (Alone s) ∧ (On f.p s) ∧ (Holds s f.ga a) ∧ (Holds s f.gb n) ∧ (CollOk f k.2 s a n.toNat root) ∧ 
    let ty : BitVec 4 := f.cmd.setWidth 4
    
    let hd : Option Nat := if f.cmd.getLsbD 7 then some (f.cmd.toNat / 256 % 32) else none
    
    let rank := grpRank (groupWord s f)
    
    let writes : Bool := k.2 == 0 || (if k.2 = 1 then rank != root else rank == root)
    ∃ parts, (Walked s a (n.toNat * if k.2 = 1 then 4 else collWidth ty) writes parts)) ∧
    (∃ (k : (FE → Instr) × BitVec 2), ∃ (f : FE), ∃ (s : State), ∃ a, ∃ n, ∃ (root : Nat), (MTask s) ∧ (NoReplay s) ∧ (NotRedundant s) ∧ (Alone s) ∧ (On f.p s) ∧ (Holds s f.ga a) ∧ (Holds s f.gb n) ∧ (CollOk f k.2 s a n.toNat root) ∧ 
    let ty : BitVec 4 := f.cmd.setWidth 4
    
    let hd : Option Nat := if f.cmd.getLsbD 7 then some (f.cmd.toNat / 256 % 32) else none
    
    let rank := grpRank (groupWord s f)
    
    let writes : Bool := k.2 == 0 || (if k.2 = 1 then rank != root else rank == root)
    ∃ parts, (Walked s a (n.toNat * if k.2 = 1 then 4 else collWidth ty) writes parts) ∧ ∃ (h : Nat), (hd = some h)) ∧
    (∃ (f : FE), ∃ (s : State), (MTask s) ∧ (NoReplay s) ∧ (NotRedundant s) ∧ (Alone s) ∧ (On f.p s) ∧ ((here s).sch.bar = none) ∧ (grpOk s f.ix.toNat = true) ∧ (scopeClear s s.cur 3 (here s).nextAcc = true) ∧ (f.ix.toNat ∉ s.coll.stopped) ∧ (s.coll.out.length < 8)) ∧
    (∃ (f : FE), ∃ (s : State), (MTask s) ∧ (NoReplay s) ∧ (NotRedundant s) ∧ (Alone s) ∧ (On f.p s) ∧ ∃ (h : Nat), ∃ (n : Nat), ((here s).sch.bar = some (h, n)) ∧ (n < tget 0 s.coll.barDone h)) ∧
    (∃ (f : FE), ∃ (s : State), (MTask s) ∧ (NoReplay s) ∧ (NotRedundant s) ∧ (Alone s) ∧ (On f.p s) ∧ ∃ (h : Nat), ∃ (n : Nat), ((here s).sch.bar = some (h, n)) ∧ (tget 0 s.coll.barDone h ≤ n)) ∧
    (∃ (s : State), ∃ (g : Nat), ∃ (c : Coll), (s.coll.out.find? (·.g == g) = some c) ∧ (s.written c.tile = false) ∧ (c.kind = 3) ∧ (g ∉ s.coll.stopped) ∧ (grpNr c.grp = 1) ∧ (grpRank c.grp = 0)) ∧
    (∃ (s : State), ∃ (g : Nat), ∃ (c : Coll), ∃ (d : CollSide), (s.coll.out.find? (·.g == g) = some c) ∧ (s.written c.tile = false) ∧ (c.kind = 3) ∧ (g ∉ s.coll.stopped) ∧ (grpNr c.grp = 2) ∧ (grpRank c.grp = 0) ∧ (d.rank = 1) ∧ ((∃ e ∈ s.links, e.2.st = 2)) ∧ (agrees d (ownSide c []) = true)) ∧
    (∃ (s : State), ∃ (g : Nat), ∃ (c : Coll), ∃ (d : CollSide), (s.coll.out.find? (·.g == g) = some c) ∧ (s.written c.tile = false) ∧ (c.kind = 3) ∧ (g ∉ s.coll.stopped) ∧ (grpNr c.grp = 2) ∧ (grpRank c.grp = 0) ∧ (d.rank = 1) ∧ ((∃ e ∈ s.links, e.2.st = 2)) ∧ (agrees d (ownSide c []) = false)) ∧
    (Delivers 0 0) ∧ (Delivers 1 0) ∧ (Delivers 1 1) ∧ (Delivers 2 0) ∧ (Delivers 2 1) :=
  ⟨
    ⟨(.car, 0), {fe with ga := 5, gb := 6}, grp 2 [] x0, G, 64, 0, rfl, rfl, rfl, ⟨rfl, by decide⟩, rfl, ⟨by decide, rfl, by decide, rfl⟩, ⟨by decide, rfl, by decide, rfl⟩, ⟨.inl ⟨rfl, rfl⟩, by decide, rfl, fun h => absurd h (by decide), fun h => absurd h (by decide), ⟨_, rfl⟩, by decide, fun h => by decide, by decide⟩, [⟨.dram 0x10000, G, 256, 0, sliceOfPa 0x10000, 0⟩], ⟨_, _, _, rfl, rfl, rfl, rfl, rfl⟩⟩,
    ⟨(.car, 0), {fe with ga := 5, gb := 6, cmd := 0x80}, grp 2 [] (hb [(0, { bound := some 0x100 })] [(0x104, 0x0E)]), G, 64, 0, rfl, rfl, rfl, ⟨rfl, by decide⟩, rfl, ⟨by decide, rfl, by decide, rfl⟩, ⟨by decide, rfl, by decide, rfl⟩, ⟨.inl ⟨rfl, rfl⟩, by decide, rfl, fun _ => ⟨⟨rfl, rfl, rfl⟩, 0x100, 0xE00000000, rfl, rfl⟩, fun h => absurd h (by decide), ⟨_, rfl⟩, by decide, fun h => by decide, by decide⟩, [⟨.dram 0x10000, G, 256, 0, sliceOfPa 0x10000, 0⟩], ⟨_, _, _, rfl, rfl, rfl, rfl, rfl⟩, 0, rfl⟩,
    ⟨fe, grp 2 [] x0, rfl, rfl, rfl, ⟨rfl, by decide⟩, rfl, rfl, rfl, rfl, (by decide), (by decide)⟩,
    ⟨fe, {S with tiles := [(0, {x0 with sch := {x0.sch with bar := some (0, 3)}}), (1, y0)], coll := { barDone := [(0, 4)] }}, rfl, rfl, rfl, ⟨rfl, by decide⟩, rfl, 0, 3, rfl, (by decide)⟩,
    ⟨fe, {S with tiles := [(0, {x0 with sch := {x0.sch with bar := some (0, 3)}}), (1, y0)]}, rfl, rfl, rfl, ⟨rfl, by decide⟩, rfl, 0, 3, rfl, (by decide)⟩,
    ⟨grp 1 [collN 1] x0, 0, collN 1, rfl, rfl, rfl, (by decide), rfl, rfl⟩,
    ⟨{grp 2 [collN 2] x0 with links := [(0, { st := 2 })]}, 0, collN 2, side0, rfl, rfl, rfl, (by decide), rfl, rfl, rfl, ⟨(0, { st := 2 }), by simp, rfl⟩, rfl⟩,
    ⟨{grp 2 [collN 2] x0 with links := [(0, { st := 2 })]}, 0, collN 2, {side0 with ty := 9}, rfl, rfl, rfl, (by decide), rfl, rfl, rfl, ⟨(0, { st := 2 }), by simp, rfl⟩, rfl⟩,
    delivers _ _ (by decide) (by decide) rfl, delivers _ _ (by decide) (by decide) rfl, delivers _ _ (by decide) (by decide) rfl, delivers _ _ (by decide) (by decide) rfl, delivers _ _ (by decide) (by decide) rfl⟩

theorem counterGood (n : Nat) : CounterGood S n := by
  intro k _ _
  show (RegKind.lc, k) ∉ ([] : List (RegKind × Nat))
  simp
theorem test_witness_CsrResults :
    (∃ (f : FI), ∃ (s : State), (CsrOpen s (csrOf f)) ∧ (Alone s) ∧ (On f.p s) ∧ (Free true f.dst s) ∧ (FlagsCome s (csrOf f)) ∧ (CounterGood s (csrOf f))) ∧
    (∃ (k : (FI → Instr) × CsrOp), ∃ (f : FI), ∃ (s : State), ∃ (s' : State), ∃ a, (CsrOpen s (csrOf f)) ∧ (Alone s) ∧ (On f.p s) ∧ (FlagsCome s (csrOf f)) ∧ ((f.dk = true ∨ k.2 ≠ .write → CounterGood s (csrOf f))) ∧ (Gives (readScalar f.a) s a s') ∧ (f.dk = false)) ∧
    (∃ (k : (FI → Instr) × CsrOp), ∃ (f : FI), ∃ (s : State), ∃ (s' : State), ∃ a, (CsrOpen s (csrOf f)) ∧ (Alone s) ∧ (On f.p s) ∧ (FlagsCome s (csrOf f)) ∧ ((f.dk = true ∨ k.2 ≠ .write → CounterGood s (csrOf f))) ∧ (Gives (readScalar f.a) s a s') ∧ (f.dk = true) ∧ (Free true f.dst s)) ∧
    (∃ (s : State), ∃ (t : Nat), ∃ (a : Word), 
    let x := s.tile t
    
    let y := (csrStore s t 0x018 .write a).tile t
    (a.getLsbD 28 = true)) ∧
    (∃ (s : State), ∃ (t : Nat), ∃ (a : Word), 
    let x := s.tile t
    
    let y := (csrStore s t 0x018 .write a).tile t
    (a.getLsbD 28 = false)) ∧
    (∃ (e : Nat × Word), ∃ (s : State), ∃ (t : Nat), ∃ (p : Partition), ∃ (o : CsrOp), ∃ (a : Word), (ReachesPart s t p)) ∧
    (∃ (s : State), ∃ (t : Nat), ∃ (p : Partition), ∃ (a : Word), (ReachesPart s t p)) ∧
    (∃ (s : State), ∃ (t : Nat), ∃ (p : Partition), ∃ (a : Word), (ReachesPart s t p) ∧ ∃ (c : Nat), (selCtx s p = some c)) ∧
    (∃ (s : State), ∃ (t : Nat), ∃ (p : Partition), ∃ (a : Word), (ReachesPart s t p) ∧ ∃ (c : Nat), (selCtx s p = some c) ∧ (a.getLsbD 1 = false)) ∧
    (∃ (f : FI), ∃ (s : State), (Alone s) ∧ (On f.p s) ∧ (Free true f.dst s)) :=
  ⟨
    ⟨{fi with imm := 5, a := .g 2 false, dk := false}, S, .inl rfl, ⟨rfl, by decide⟩, rfl, rfl, (fun _ => by decide), (counterGood _)⟩,
    ⟨(.csrw, .write), {fi with imm := 5, a := .g 2 false, dk := false}, S, S, 3, .inl rfl, ⟨rfl, by decide⟩, rfl, (fun _ => by decide), (fun _ => counterGood _), rfl, rfl⟩,
    ⟨(.csrw, .write), {fi with imm := 5, a := .g 2 false, dk := true}, S, S, 3, .inl rfl, ⟨rfl, by decide⟩, rfl, (fun _ => by decide), (fun _ => counterGood _), rfl, rfl, rfl⟩,
    ⟨S, 0, 0x10000000, rfl⟩,
    ⟨S, 0, 0, rfl⟩,
    ⟨(0x103, 0xFF), S, 0, part0, .write, 3, ⟨rfl, rfl⟩⟩,
    ⟨S, 0, part0, 3, ⟨rfl, rfl⟩⟩,
    ⟨{S with parts := [{part0 with ctxsel := 1}]}, 0, {part0 with ctxsel := 1}, 3, ⟨rfl, rfl⟩, 1, rfl⟩,
    ⟨{S with parts := [{part0 with ctxsel := 1}]}, 0, {part0 with ctxsel := 1}, 1, ⟨rfl, rfl⟩, 1, rfl, rfl⟩,
    ⟨{fi with imm := 5, a := .g 2 false, dk := false}, S, ⟨rfl, by decide⟩, rfl, rfl⟩⟩

theorem test_witness_TrapInstructions :
    (∃ (f : FI), ∃ (s : State), (Alone s) ∧ (On f.p s)) ∧
    (∃ (w : Word), ∃ (s : State), (stepper s s.cur = none)) ∧
    (∃ (f : FC), ∃ (s : State), (Alone s) ∧ (On f.p s) ∧ 
    let pc := (here s).csr.tepc.toNat % 8192 + if f.aux.getLsbD 0 then 1 else 0
    ((here s).csr.inTrap = true) ∧ (pc < 6144)) ∧
    (∃ (f : FC), ∃ (s : State), (Alone s) ∧ (On f.p s) ∧ 
    let pc := (here s).csr.tepc.toNat % 8192 + if f.aux.getLsbD 0 then 1 else 0
    ((here s).csr.inTrap = false)) ∧
    (∃ (mk : FE → Instr), ∃ (f : FE), ∃ (s : State), (Alone s) ∧ (s.refLevel s.cur = false)) ∧
    (∃ (f : FC), ∃ (s : State), (Alone s) ∧ (s.refLevel s.cur = false)) ∧
    (∃ (mk : FI → Instr), ∃ (f : FI), ∃ (s : State), (Alone s) ∧ ((csrLevel (csrOf f) = some .ref ∨ csrLevel (csrOf f) = some .refRo)) ∧ (s.refLevel s.cur = false)) ∧
    (∃ (mk : FI → Instr), ∃ (f : FI), ∃ (s : State), (Alone s) ∧ (csrLevel (csrOf f) = none)) :=
  ⟨
    ⟨fi, S, ⟨rfl, by decide⟩, rfl⟩,
    ⟨0xFFFFFFFFFFFFFFFF, S, rfl⟩,
    ⟨{fc with g := 3}, ms {x0 with csr := {x0.csr with inTrap := true, tepc := 5}}, ⟨rfl, by decide⟩, rfl, rfl, (by decide)⟩,
    ⟨{fc with g := 3}, S, ⟨rfl, by decide⟩, rfl, rfl⟩,
    ⟨.hgrpSet, fe, S, ⟨rfl, by decide⟩, rfl⟩,
    ⟨{fc with g := 3}, S, ⟨rfl, by decide⟩, rfl⟩,
    ⟨.csrr, {fi with imm := 0x10B}, S, ⟨rfl, by decide⟩, .inr rfl, rfl⟩,
    ⟨.csrr, {fi with imm := 0xFFF}, S, ⟨rfl, by decide⟩, rfl⟩⟩

theorem test_witness_TrapEntry :
    (∃ (s : State), ∃ (t : Nat), ∃ (c : Byte), ∃ (a : Word), ((s.tile t).gang = none)) ∧
    (∃ (s : State), ∃ (t : Nat), ∃ (c : Byte), ∃ (a : Word), ((s.tile t).gang = none) ∧ 
    let x := s.tile t
    
    let y := trapped s t c a
    (trapAct x c a = .deliver) ∧ (x.csr.inTrap = false) ∧ (x.csr.tvec.getLsbD 15 = true)) ∧
    (∃ (s : State), ∃ (t : Nat), ∃ (c : Byte), ∃ (a : Word), ((s.tile t).gang = none) ∧ 
    let x := s.tile t
    
    let y := trapped s t c a
    (trapAct x c a = .referee ∨ (trapAct x c a = .deliver ∧ (x.csr.inTrap = true ∨ x.csr.tvec.getLsbD 15 = false))) ∧ (x.sch.halted = none)) ∧
    (∃ (s : State), ∃ (t : Nat), ∃ (c : Byte), ∃ (a : Word), ((s.tile t).gang = none) ∧ 
    let x := s.tile t
    
    let y := trapped s t c a
    (trapAct x c a = .poison)) ∧
    (∃ (s : State), ∃ (t : Nat), ∃ (c : Byte), ∃ (a : Word), ((s.tile t).gang = none) ∧ 
    let x := s.tile t
    
    let y := trapped s t c a
    (trapAct x c a = .abortHalt) ∧ (team s t = [t]) ∧ (x.sch.halted = none) ∧ ∃ (k : Machine.Task), (x.sch.task = some k)) ∧
    (∃ (s : State), ∃ (t : Nat), ∃ (c : Byte), ∃ (a : Word), ((s.tile t).gang = none) ∧ 
    let x := s.tile t
    
    let y := trapped s t c a
    (c = 0x04)) ∧
    (∃ (s : State), ∃ (t : Nat), ∃ (c : Byte), ∃ (a : Word), ((s.tile t).gang = none) ∧ 
    let x := s.tile t
    
    let y := trapped s t c a
    (c = 0x05)) ∧
    (∃ (s : State), ∃ (t : Nat), ∃ (c : Byte), ∃ (a : Word), ((s.tile t).gang = none) ∧ 
    let x := s.tile t
    
    let y := trapped s t c a
    (c = 0x10) ∧ (a.toNat / 2 ^ 62 = 0)) ∧
    (∃ (s : State), ∃ (o : Nat), ∃ (p : Partition), ∃ (typ : Nat), ∃ (cause : Nat), ∃ (tile : Nat), ∃ (ctx : Nat), ∃ (slot : Nat), ∃ (d0 : Word), ∃ (d1 : Word), (s.part o = some p) ∧ 
    let hd := p.evhead.toNat % 256
    
    let lost := p.evhead.toNat / 65536 % 65536
    
    let takes := p.evbase.getLsbD 0 = true ∧ p.refs ≠ [] ∧ (hd + 1) % 256 ≠ p.evtail.toNat % 256
    
    let t := event s o typ cause tile ctx slot d0 d1
    (takes) ∧ (StoresCanonical s) ∧ (armedAt (s.tile (p.refs.headD 0)) (Nat.min (p.evbase.toNat / 2 ^ 13 % 2 ^ 8) 0xBF * 8192 + 32 * hd) 32 = none)) ∧
    (∃ (s : State), ∃ (o : Nat), ∃ (p : Partition), ∃ (typ : Nat), ∃ (cause : Nat), ∃ (tile : Nat), ∃ (ctx : Nat), ∃ (slot : Nat), ∃ (d0 : Word), ∃ (d1 : Word), (s.part o = some p) ∧ 
    let hd := p.evhead.toNat % 256
    
    let lost := p.evhead.toNat / 65536 % 65536
    
    let takes := p.evbase.getLsbD 0 = true ∧ p.refs ≠ [] ∧ (hd + 1) % 256 ≠ p.evtail.toNat % 256
    
    let t := event s o typ cause tile ctx slot d0 d1
    (¬ takes)) :=
  ⟨
    ⟨S, 0, 1, 7, rfl⟩,
    ⟨ms {x0 with csr := {x0.csr with tact := 0x0C0, tvec := 0x8010}}, 0, 1, 7, rfl, rfl, rfl, rfl⟩,
    ⟨S, 0, 1, 7, rfl, (by decide), rfl⟩,
    ⟨ms {x0 with csr := {x0.csr with tact := 0x80}}, 0, 1, 7, rfl, rfl⟩,
    ⟨I, 0, 5, 7, rfl, rfl, rfl, rfl, task0 false, rfl⟩,
    ⟨S, 0, 4, 7, rfl, (by decide)⟩,
    ⟨S, 0, 5, 7, rfl, (by decide)⟩,
    ⟨S, 0, 0x10, 7, rfl, rfl, rfl⟩,
    ⟨R x0, 1, {part0 with refs := [0]}, 1, 2, 0, 1, 0, 0, 0, rfl, (by decide), ⟨rfl, by decide⟩, rfl⟩,
    ⟨S, 1, part0, 1, 2, 0, 1, 0, 0, 0, rfl, (by decide)⟩⟩

theorem test_witness_HaltGroups :
    (∃ (f : FE), ∃ (s : State), ∃ a, ∃ g, (Referee s) ∧ (Alone s) ∧ (On f.p s) ∧ (Holds s f.ga a) ∧ (Holds s f.gb g) ∧ (Mine s a) ∧ (Answers s a) ∧ (g.toNat ≤ 64) ∧ ((∀ e ∈ s.tiles, e.2.sch.haltGrp = some g.toNat → s.ownerOf e.1 = s.ownerOf s.cur))) ∧
    (∃ (f : FE), ∃ (s : State), ∃ g, (Referee s) ∧ (Alone s) ∧ (On f.p s) ∧ (Holds s f.gb g) ∧ (g.toNat ≤ 64)) ∧
    (∃ (f : FE), ∃ (s : State), ∃ g, (Referee s) ∧ (Alone s) ∧ (On f.p s) ∧ (Holds s f.gb g) ∧ (g.toNat ≤ 64) ∧ 
    let us := groupTiles s (s.ownerOf s.cur) g.toNat
    (us = [])) ∧
    (∃ (f : FE), ∃ (s : State), ∃ g, (Referee s) ∧ (Alone s) ∧ (On f.p s) ∧ (Holds s f.gb g) ∧ (g.toNat ≤ 64) ∧ 
    let us := groupTiles s (s.ownerOf s.cur) g.toNat
    ∃ (t : Nat), ∃ (ts : List Nat), (us = t :: ts)) ∧
    (∃ (s : State), ∃ (t : Nat), ((s.tile t).sch.halted = none)) ∧
    (∃ (mk : FE → Instr), ∃ (f : FE), ∃ (s : State), ∃ a, (Referee s) ∧ (Alone s) ∧ (On f.p s) ∧ (Holds s f.ga a) ∧ (Mine s a) ∧ (s.unreachable a.toNat = true)) ∧
    (∃ (mk : FE → Instr), ∃ (f : FE), ∃ (s : State), ∃ a, (Referee s) ∧ (Alone s) ∧ (On f.p s) ∧ (Holds s f.ga a) ∧ (Mine s a) ∧ (s.unreachable a.toNat = false) ∧ ((s.tile a.toNat).failStop = true)) ∧
    (∃ (f : FE), ∃ (s : State), ∃ a, (Referee s) ∧ (Alone s) ∧ (On f.p s) ∧ (Holds s f.ga a) ∧ (Mine s a) ∧ (Answers s a) ∧ ((s.tile a.toNat).sch.halted = none ∨ (s.tile a.toNat).sch.halted = some .frozen)) ∧
    (∃ (f : FE), ∃ (s : State), ∃ a, (Referee s) ∧ (Alone s) ∧ (On f.p s) ∧ (Holds s f.ga a) ∧ (Mine s a) ∧ (Answers s a) ∧ ∃ (w : HaltWhy), ((s.tile a.toNat).sch.halted = some w) ∧ (w ≠ .frozen)) ∧
    (∃ (f : FE), ∃ (s : State), ∃ a, (Referee s) ∧ (Alone s) ∧ (On f.p s) ∧ (Holds s f.ga a) ∧ (Mine s a) ∧ (Answers s a)) ∧
    (∃ (f : FE), ∃ (s : State), ∃ a, (Referee s) ∧ (Alone s) ∧ (On f.p s) ∧ (Holds s f.ga a) ∧ (Mine s a) ∧ (Answers s a) ∧ (Ready s f.gc)) ∧
    (∃ (f : FE), ∃ (s : State), ∃ a, (Referee s) ∧ (Alone s) ∧ (On f.p s) ∧ (Holds s f.ga a) ∧ (Mine s a) ∧ (Answers s a) ∧ ∃ n, (Ready s f.gc) ∧ (Holds s f.gb n) ∧ (n.toNat < 4)) ∧
    (∃ (f : FC), ∃ (s : State), (Referee s) ∧ (Alone s) ∧ (On f.p s) ∧ ((EventWaits s ∨ (here s).sch.wfe = some 0))) ∧
    (∃ (f : FC), ∃ (s : State), (Referee s) ∧ (Alone s) ∧ (On f.p s) ∧ ∃ us, (¬ EventWaits s) ∧ ((here s).sch.wfe = none) ∧ (Holds s f.g us) ∧ (us ≠ 0)) ∧
    (∃ (f : FC), ∃ (s : State), (Referee s) ∧ (Alone s) ∧ (On f.p s) ∧ ∃ (n : Nat), (¬ EventWaits s) ∧ ((here s).sch.wfe = some (n + 1))) :=
  ⟨
    ⟨{fe with ga := 3, gb := 3}, R x0, 1, 1, rfl, ⟨rfl, by decide⟩, rfl, ⟨by decide, rfl, by decide, rfl⟩, ⟨by decide, rfl, by decide, rfl⟩, ⟨by decide, by decide⟩, ⟨rfl, rfl⟩, (by decide), (by intro e he h; change e ∈ [(0, x0), (1, y0)] at he; simp at he; obtain rfl | rfl := he <;> cases h)⟩,
    ⟨{fe with ga := 3, gb := 3}, R x0, 1, rfl, ⟨rfl, by decide⟩, rfl, ⟨by decide, rfl, by decide, rfl⟩, (by decide)⟩,
    ⟨{fe with ga := 3, gb := 3}, R x0, 1, rfl, ⟨rfl, by decide⟩, rfl, ⟨by decide, rfl, by decide, rfl⟩, (by decide), rfl⟩,
    ⟨{fe with ga := 3, gb := 3}, w2 {y0 with sch := {y0.sch with haltGrp := some 1}}, 1, rfl, ⟨rfl, by decide⟩, rfl, ⟨by decide, rfl, by decide, rfl⟩, (by decide), 1, [], rfl⟩,
    ⟨S, 0, rfl⟩,
    ⟨.hgrpStep, {fe with ga := 3, gb := 3}, w2 {y0 with dead := true}, 1, rfl, ⟨rfl, by decide⟩, rfl, ⟨by decide, rfl, by decide, rfl⟩, ⟨by decide, by decide⟩, rfl⟩,
    ⟨.hgrpStep, {fe with ga := 3, gb := 3}, w2 {y0 with failStop := true}, 1, rfl, ⟨rfl, by decide⟩, rfl, ⟨by decide, rfl, by decide, rfl⟩, ⟨by decide, by decide⟩, rfl, rfl⟩,
    ⟨{fe with ga := 3, gb := 3}, R x0, 1, rfl, ⟨rfl, by decide⟩, rfl, ⟨by decide, rfl, by decide, rfl⟩, ⟨by decide, by decide⟩, ⟨rfl, rfl⟩, (by decide)⟩,
    ⟨{fe with ga := 3, gb := 3}, w2 {y0 with sch := {y0.sch with halted := some .referee}}, 1, rfl, ⟨rfl, by decide⟩, rfl, ⟨by decide, rfl, by decide, rfl⟩, ⟨by decide, by decide⟩, ⟨rfl, rfl⟩, .referee, rfl, (by decide)⟩,
    ⟨{fe with ga := 3, gb := 3}, R x0, 1, rfl, ⟨rfl, by decide⟩, rfl, ⟨by decide, rfl, by decide, rfl⟩, ⟨by decide, by decide⟩, ⟨rfl, rfl⟩⟩,
    ⟨{fe with ga := 3, gb := 3}, R x0, 1, rfl, ⟨rfl, by decide⟩, rfl, ⟨by decide, rfl, by decide, rfl⟩, ⟨by decide, by decide⟩, ⟨rfl, rfl⟩, ⟨by decide, by decide⟩⟩,
    ⟨{fe with ga := 3, gb := 2}, R x0, 1, rfl, ⟨rfl, by decide⟩, rfl, ⟨by decide, rfl, by decide, rfl⟩, ⟨by decide, by decide⟩, ⟨rfl, rfl⟩, 3, ⟨by decide, by decide⟩, ⟨by decide, rfl, by decide, rfl⟩, (by decide)⟩,
    ⟨fc, R {x0 with sch := {x0.sch with wfe := some 0}}, rfl, ⟨rfl, by decide⟩, rfl, .inr rfl⟩,
    ⟨{fc with g := 2}, R x0, rfl, ⟨rfl, by decide⟩, rfl, 3, (by rintro ⟨p, hp, h⟩; have hp : some {part0 with refs := [0]} = some p := hp; cases hp; exact h rfl), rfl, ⟨by decide, rfl, by decide, rfl⟩, (by decide)⟩,
    ⟨fc, R {x0 with sch := {x0.sch with wfe := some 5}}, rfl, ⟨rfl, by decide⟩, rfl, 4, (by rintro ⟨p, hp, h⟩; have hp : some {part0 with refs := [0]} = some p := hp; cases hp; exact h rfl), rfl⟩⟩

theorem test_witness_SecurityResults :
    (∃ (f : FE), ∃ (s : State), ∃ b, ∃ (c : Word), ∃ (off : Nat), ∃ (dst : Nat), ∃ (o : Nat), ∃ (w : Nat), (MTask s) ∧ (Alone s) ∧ (On f.p s) ∧ (Ready s f.ga) ∧ (Holds s f.gb b) ∧ (Holds s f.gc c) ∧ (OwnBlock s b 64 64 off) ∧ (OwnBlock s c 10368 64 dst) ∧ (off + 64 ≤ dst ∨ dst + 10368 ≤ off) ∧ ((here s).armed f.ix.toNat = some (o, w)) ∧ (w / 2 ^ 34 % 2 = 1) ∧ (Plain s off 64) ∧ (16 ≤ s.sec.quotes.length)) ∧
    (∃ (f : FE), ∃ (s : State), ∃ b, ∃ (c : Word), ∃ (off : Nat), ∃ (dst : Nat), ∃ (o : Nat), ∃ (w : Nat), (MTask s) ∧ (Alone s) ∧ (On f.p s) ∧ (Ready s f.ga) ∧ (Holds s f.gb b) ∧ (Holds s f.gc c) ∧ (OwnBlock s b 64 64 off) ∧ (OwnBlock s c 10368 64 dst) ∧ (off + 64 ≤ dst ∨ dst + 10368 ≤ off) ∧ ((here s).armed f.ix.toNat = some (o, w)) ∧ (w / 2 ^ 34 % 2 = 1) ∧ (Plain s off 64) ∧ (s.sec.quotes.length < 16)) ∧
    (∃ (f : FE), ∃ (s : State), ∃ b, ∃ (c : Word), ∃ src, ∃ (dst : Nat), (MTask s) ∧ (Alone s) ∧ (On f.p s) ∧ (Ready s f.ga) ∧ (Holds s f.gb b) ∧ (Holds s f.gc c) ∧ 
    let n := (f.cmd.toNat % 64 + 1) * 64
    
    let pol := f.cmd.toNat / 256 % 8
    (OwnBlock s b n 64 src) ∧ (OwnBlock s c (n + 64) 64 dst) ∧ (src + n ≤ dst ∨ dst + (n + 64) ≤ src) ∧ (Plain s src n) ∧ 
    let blob := sealBlob (sealKey s s.cur pol) (lowBytes 12 s.sec.sealCtr) (readBytes (here s).store.bytes src n) pol
    (Unarmed s dst blob.length) ∧ (PortFree s dst blob.length)) ∧
    (∃ (f : FE), ∃ (s : State), ∃ b, ∃ (c : Word), ∃ src, ∃ (dst : Nat), (MTask s) ∧ (Alone s) ∧ (On f.p s) ∧ (Ready s f.ga) ∧ (Holds s f.gb b) ∧ (Holds s f.gc c) ∧ 
    let n := (f.cmd.toNat % 64 + 1) * 64
    (OwnBlock s b (n + 64) 64 src) ∧ (OwnBlock s c n 64 dst) ∧ (src + (n + 64) ≤ dst ∨ dst + n ≤ src) ∧ (Plain s src (n + 64)) ∧ 
    let r := openBlob s s.cur n (readBytes (here s).store.bytes src (n + 64))
    ∃ (v : Word), (r = .error v)) ∧
    (∃ (f : FE), ∃ (s : State), ∃ a, (Referee s) ∧ (Alone s) ∧ (On f.p s) ∧ (Holds s f.ga a) ∧ (Mine s a) ∧ (Answers s a) ∧ ∃ n, ∃ (ops : Word), (Holds s f.gb n) ∧ (Holds s f.gc ops) ∧ (n.toNat < 2 ^ 32) ∧ (ops.toNat < 16)) ∧
    (∃ (f : FE), ∃ (s : State), ∃ a, (Referee s) ∧ (Alone s) ∧ (On f.p s) ∧ (Holds s f.ga a) ∧ (Mine s a) ∧ (Answers s a)) :=
  ⟨
    ⟨{fe with ga := 2, gb := 1, gc := 4}, {ms (hb [(0, { bound := some 0x100 })] [(0x104, 0x0E)]) with sec := { quotes := List.replicate 16 { tile := 0, hd := 0, dst := 0, report := [], ctx := 0, owner := 0, cfg := 0 } }}, 0x40, 0x80, 0x40, 0x80, 0x100, 0xE00000000, rfl, ⟨rfl, by decide⟩, rfl, ⟨by decide, by decide⟩, ⟨by decide, rfl, by decide, rfl⟩, ⟨by decide, rfl, by decide, rfl⟩, ⟨rfl, rfl⟩, ⟨by decide, by decide⟩, .inl (by decide), rfl, rfl, ⟨⟨by decide, by decide⟩, rfl, rfl, rfl⟩, (by decide)⟩,
    ⟨{fe with ga := 2, gb := 1, gc := 4}, ms (hb [(0, { bound := some 0x100 })] [(0x104, 0x0E)]), 0x40, 0x80, 0x40, 0x80, 0x100, 0xE00000000, rfl, ⟨rfl, by decide⟩, rfl, ⟨by decide, by decide⟩, ⟨by decide, rfl, by decide, rfl⟩, ⟨by decide, rfl, by decide, rfl⟩, ⟨rfl, rfl⟩, ⟨by decide, by decide⟩, .inl (by decide), rfl, rfl, ⟨⟨by decide, by decide⟩, rfl, rfl, rfl⟩, (by decide)⟩,
    ⟨{fe with ga := 2, gb := 1, gc := 4}, S, 0x40, 0x80, 0x40, 0x80, rfl, ⟨rfl, by decide⟩, rfl, ⟨by decide, by decide⟩, ⟨by decide, rfl, by decide, rfl⟩, ⟨by decide, rfl, by decide, rfl⟩, ⟨rfl, rfl⟩, ⟨rfl, rfl⟩, .inl (by decide), ⟨⟨by decide, by decide⟩, rfl, rfl, rfl⟩, rfl, ⟨rfl, by decide⟩⟩,
    ⟨{fe with ga := 2, gb := 1, gc := 12}, ms (reg12 0x100), 0x40, 0x100, 0x40, 0x100, rfl, ⟨rfl, by decide⟩, rfl, ⟨by decide, by decide⟩, ⟨by decide, rfl, by decide, rfl⟩, ⟨by decide, rfl, by decide, rfl⟩, ⟨rfl, rfl⟩, ⟨rfl, rfl⟩, .inl (by decide), ⟨⟨by decide, by decide⟩, rfl, rfl, rfl⟩, 3, rfl⟩,
    ⟨{fe with ga := 3, gb := 2, gc := 3}, R x0, 1, rfl, ⟨rfl, by decide⟩, rfl, ⟨by decide, rfl, by decide, rfl⟩, ⟨by decide, by decide⟩, ⟨rfl, rfl⟩, 3, 1, ⟨by decide, rfl, by decide, rfl⟩, ⟨by decide, rfl, by decide, rfl⟩, (by decide), (by decide)⟩,
    ⟨{fe with ga := 3, gb := 2, gc := 3}, R x0, 1, rfl, ⟨rfl, by decide⟩, rfl, ⟨by decide, rfl, by decide, rfl⟩, ⟨by decide, by decide⟩, ⟨rfl, rfl⟩⟩⟩

theorem test_witness_DigestRegions :
    (∃ (f : FE), ∃ (s : State), ∃ a, ∃ n, ∃ (k : Word), ∃ (off : Nat), ∃ soff, (MTask s) ∧ (NoReplay s) ∧ (NotRedundant s) ∧ (Alone s) ∧ (On f.p s) ∧ (Holds s f.ga a) ∧ (Holds s f.gb n) ∧ (Holds s f.gc k) ∧ (1 ≤ n.toNat) ∧ (n.toNat < 2 ^ 32) ∧ ((∀ e ∈ (s.ctx (s.ctxOf s.cur)).regions, e.1 ≠ f.ix.toNat)) ∧ (OwnBlock s k 32 32 soff) ∧ 
    let region (homes : List (Nat × Phys)) : Region := {
      len := n.toNat, homes := homes.map fun e => (e.1, e.2.home), keys := digestKeys (readBytes (here s).store.bytes soff 32)
      slices := regionSlices n.toNat homes }
    (Plain s soff 32) ∧ (OwnBlock s a (4 * n.toNat) 4 off) ∧ (regionsIn s s.cur < 4)) ∧
    (∃ (f : FE), ∃ (s : State), ∃ a, ∃ n, ∃ (k : Word), ∃ (off : Nat), ∃ soff, (MTask s) ∧ (NoReplay s) ∧ (NotRedundant s) ∧ (Alone s) ∧ (On f.p s) ∧ (Holds s f.ga a) ∧ (Holds s f.gb n) ∧ (Holds s f.gc k) ∧ (1 ≤ n.toNat) ∧ (n.toNat < 2 ^ 32) ∧ ((∀ e ∈ (s.ctx (s.ctxOf s.cur)).regions, e.1 ≠ f.ix.toNat)) ∧ (OwnBlock s k 32 32 soff) ∧ 
    let region (homes : List (Nat × Phys)) : Region := {
      len := n.toNat, homes := homes.map fun e => (e.1, e.2.home), keys := digestKeys (readBytes (here s).store.bytes soff 32)
      slices := regionSlices n.toNat homes }
    ∃ (va : Word), ∃ (homes : List (Nat × Phys)), ∃ (s' : State), (steer s.cur (here s).csr.stkbase a (4 * n.toNat) = some (.glob va)) ∧ (a.toNat % 4 = 0) ∧ 
    let size := pageBytes (pageCode s)
    (Gives (regionHomes a (4 * n.toNat) size ((a.toNat + 4 * n.toNat - 1) / size - a.toNat / size + 1)) s homes s') ∧ (s'.cur = s.cur) ∧ (here s' = here s) ∧ (Plain s' soff 32) ∧ ((∀ i ∈ regionSlices n.toNat homes, regionsAt s' i < 32))) ∧
    (∃ (f : FE), ∃ (s : State), ∃ a, ∃ n, ∃ (k : Word), ∃ (off : Nat), ∃ soff, (MTask s) ∧ (NoReplay s) ∧ (NotRedundant s) ∧ (Alone s) ∧ (On f.p s) ∧ (Holds s f.ga a) ∧ (Holds s f.gb n) ∧ (Holds s f.gc k) ∧ (1 ≤ n.toNat) ∧ (n.toNat < 2 ^ 32) ∧ ((∀ e ∈ (s.ctx (s.ctxOf s.cur)).regions, e.1 ≠ f.ix.toNat)) ∧ (OwnBlock s k 32 32 soff) ∧ 
    let region (homes : List (Nat × Phys)) : Region := {
      len := n.toNat, homes := homes.map fun e => (e.1, e.2.home), keys := digestKeys (readBytes (here s).store.bytes soff 32)
      slices := regionSlices n.toNat homes }
    ∃ (va : Word), ∃ (homes : List (Nat × Phys)), ∃ (s' : State), (steer s.cur (here s).csr.stkbase a (4 * n.toNat) = some (.glob va)) ∧ (a.toNat % 4 = 0) ∧ 
    let size := pageBytes (pageCode s)
    (Gives (regionHomes a (4 * n.toNat) size ((a.toNat + 4 * n.toNat - 1) / size - a.toNat / size + 1)) s homes s') ∧ (s'.cur = s.cur) ∧ (here s' = here s) ∧ (Plain s' soff 32) ∧ ((∃ i ∈ regionSlices n.toNat homes, 32 ≤ regionsAt s' i))) ∧
    (∃ (f : FE), ∃ (s : State), (MTask s) ∧ (NoReplay s) ∧ (NotRedundant s) ∧ (Alone s) ∧ (On f.p s) ∧ ((∃ e ∈ (s.ctx (s.ctxOf s.cur)).regions, e.1 = f.ix.toNat)) ∧ (hasDg s = false)) ∧
    (∃ (f : FE), ∃ (s : State), ∃ (i : Nat), ∃ (r : Region), (Alone s) ∧ (On f.p s) ∧ (Ready s f.ga) ∧ (Ready s f.gb) ∧ (((s.ctx (s.ctxOf s.cur)).regions.find? (·.1 == f.ix.toNat)) = some (i, r)) ∧ (r.len ≤ r.scanned) ∧ (ownOutstanding s s.cur = [])) ∧
    (∃ (f : FE), ∃ (s : State), ∃ (i : Nat), ∃ (r : Region), (Alone s) ∧ (On f.p s) ∧ (Ready s f.ga) ∧ (Ready s f.gb) ∧ (((s.ctx (s.ctxOf s.cur)).regions.find? (·.1 == f.ix.toNat)) = some (i, r)) ∧ (r.scanned < r.len ∨ ownOutstanding s s.cur ≠ [])) ∧
    (∃ (f : FE), ∃ (s : State), (Alone s) ∧ (On f.p s) ∧ (Ready s f.ga)) ∧
    (∃ (s : State), ∃ (c : Nat), ∃ (g : Nat), ∃ (r : Region), ∃ (i : Nat), ∃ (h : Home), ((s.ctx c).regions.find? (·.1 == g) = some (i, r)) ∧ (r.scanned < r.len) ∧ (regionHome r.homes r.scanned = some h) ∧ (Quiescent s h 4)) ∧
    (∃ (s : State), ∃ (c : Nat), ∃ (g : Nat), ∃ (r : Region), ∃ (i : Nat), ∃ (h : Home), ((s.ctx c).regions.find? (·.1 == g) = some (i, r)) ∧ (r.scanned < r.len) ∧ (regionHome r.homes r.scanned = some h) ∧ ∃ (t : Nat), ∃ (off : Nat), ∃ (u : Nat), (h = .tile t off) ∧ ((s.tile t).store.badRead off 4 = some u)) :=
  ⟨
    ⟨{fe with ga := 1, gb := 2, gc := 4}, S, 0x40, 3, 0x80, 0x40, 0x80, rfl, rfl, rfl, ⟨rfl, by decide⟩, rfl, ⟨by decide, rfl, by decide, rfl⟩, ⟨by decide, rfl, by decide, rfl⟩, ⟨by decide, rfl, by decide, rfl⟩, (by decide), (by decide), (by decide), ⟨rfl, rfl⟩, ⟨⟨by decide, by decide⟩, rfl, rfl, rfl⟩, ⟨rfl, rfl⟩, (by decide)⟩,
    ⟨{fe with ga := 5, gb := 2, gc := 4}, S, G, 3, 0x80, 0x40, 0x80, rfl, rfl, rfl, ⟨rfl, by decide⟩, rfl, ⟨by decide, rfl, by decide, rfl⟩, ⟨by decide, rfl, by decide, rfl⟩, ⟨by decide, rfl, by decide, rfl⟩, (by decide), (by decide), (by decide), ⟨rfl, rfl⟩, G, [(0, ⟨.dram 0x10000, sliceOfPa 0x10000, false, 0⟩)], S, rfl, rfl, rfl, rfl, rfl, ⟨⟨by decide, by decide⟩, rfl, rfl, rfl⟩, (by decide)⟩,
    ⟨{fe with ga := 5, gb := 2, gc := 4}, {S with ctxs := [(1, { owner := 1 }), (2, { owner := 1, regions := List.replicate 32 (9, {region0 with slices := [sliceOfPa 0x10000]}) })]}, G, 3, 0x80, 0x40, 0x80, rfl, rfl, rfl, ⟨rfl, by decide⟩, rfl, ⟨by decide, rfl, by decide, rfl⟩, ⟨by decide, rfl, by decide, rfl⟩, ⟨by decide, rfl, by decide, rfl⟩, (by decide), (by decide), (by decide), ⟨rfl, rfl⟩, G, [(0, ⟨.dram 0x10000, sliceOfPa 0x10000, false, 0⟩)], {S with ctxs := [(1, { owner := 1 }), (2, { owner := 1, regions := List.replicate 32 (9, {region0 with slices := [sliceOfPa 0x10000]}) })]}, rfl, rfl, rfl, rfl, rfl, ⟨⟨by decide, by decide⟩, rfl, rfl, rfl⟩, ⟨sliceOfPa 0x10000, by decide, by decide⟩⟩,
    ⟨{fe with ga := 1, gb := 2, gc := 4}, D x0 region0, rfl, rfl, rfl, ⟨rfl, by decide⟩, rfl, ⟨_, .head _, rfl⟩, rfl⟩,
    ⟨{fe with ga := 2, gb := 3}, D x0 {region0 with scanned := 4}, 0, {region0 with scanned := 4}, ⟨rfl, by decide⟩, rfl, ⟨by decide, by decide⟩, ⟨by decide, by decide⟩, rfl, (by decide), rfl⟩,
    ⟨{fe with ga := 2, gb := 3}, D x0 region0, 0, region0, ⟨rfl, by decide⟩, rfl, ⟨by decide, by decide⟩, ⟨by decide, by decide⟩, rfl, (by decide)⟩,
    ⟨{fe with ga := 1, gb := 2, gc := 4}, S, ⟨rfl, by decide⟩, rfl, ⟨by decide, by decide⟩⟩,
    ⟨D x0 region0, 1, 0, region0, 0, .tile 0 0x40, rfl, (by decide), rfl, ⟨rfl, by decide⟩⟩,
    ⟨D { x0 with store := { bytes := [], bad2 := [8] } } region0, 1, 0, region0, 0, .tile 0 0x40, rfl, (by decide), rfl, 0, 0x40, 8, rfl, rfl⟩⟩

/-- Tile 1 stands in a commit that can no longer be undone. -/
def midS (x : Tile) : State :=
  { R x with tiles := [(0, x), (1, { y0 with sch := { y0.sch with task := some (task0 false), fx := { phase := 3 } } })] }
theorem test_witness_RefereeActions :
    (∃ (f : FE), ∃ (s : State), ∃ a, ∃ (p : Partition), (Referee s) ∧ (Alone s) ∧ (On f.p s) ∧ (Holds s f.ga a) ∧ (s.partOf s.cur = some p) ∧ 
    let r := rectOf a
    (p.x0 ≤ r.1) ∧ (r.1 ≤ r.2.2.1) ∧ (r.2.2.1 ≤ p.x1) ∧ (p.y0 ≤ r.2.1) ∧ (r.2.1 ≤ r.2.2.2) ∧ (r.2.2.2 ≤ p.y1) ∧ ((∀ t ∈ p.refs, inRect r t = false)) ∧ (p.fences.length < 4) ∧ (killWaits s (cfgTilesOn s (rectTiles r)) = false)) ∧
    (∃ (f : FE), ∃ (s : State), ∃ a, ∃ (p : Partition), (Referee s) ∧ (Alone s) ∧ (On f.p s) ∧ (Holds s f.ga a) ∧ (s.partOf s.cur = some p) ∧ 
    let r := rectOf a
    (p.x0 ≤ r.1) ∧ (r.1 ≤ r.2.2.1) ∧ (r.2.2.1 ≤ p.x1) ∧ (p.y0 ≤ r.2.1) ∧ (r.2.1 ≤ r.2.2.2) ∧ (r.2.2.2 ≤ p.y1) ∧ ((∀ t ∈ p.refs, inRect r t = false)) ∧ (p.fences.length < 4) ∧ (killWaits s (cfgTilesOn s (rectTiles r)) = true)) ∧
    (∃ (f : FE), ∃ (s : State), ∃ a, ∃ (p : Partition), (Referee s) ∧ (Alone s) ∧ (On f.p s) ∧ (Holds s f.ga a) ∧ (s.partOf s.cur = some p) ∧ 
    let r := rectOf a
    (¬ (p.x0 ≤ r.1 ∧ r.2.2.1 ≤ p.x1 ∧ p.y0 ≤ r.2.1 ∧ r.2.2.2 ≤ p.y1))) ∧
    (∃ (f : FE), ∃ (s : State), ∃ a, ∃ (p : Partition), (Referee s) ∧ (Alone s) ∧ (On f.p s) ∧ (Holds s f.ga a) ∧ (s.partOf s.cur = some p) ∧ 
    let r := rectOf a
    (r ∈ p.fences)) ∧
    (∃ (f : FE), ∃ (s : State), ∃ a, (Referee s) ∧ (Alone s) ∧ (On f.p s) ∧ (Holds s f.ga a) ∧ (Mine s a) ∧ ∃ (k : Machine.Task), (Answers s a) ∧ (committing s a.toNat = false) ∧ ((s.tile ((team s a.toNat).headD a.toNat)).sch.task = some k) ∧ (k.immediate = true) ∧ (killWaits s (cfgTilesOn s [a.toNat]) = false)) ∧
    (∃ (f : FE), ∃ (s : State), ∃ a, (Referee s) ∧ (Alone s) ∧ (On f.p s) ∧ (Holds s f.ga a) ∧ (Mine s a) ∧ ∃ (k : Machine.Task), (Answers s a) ∧ (committing s a.toNat = false) ∧ ((s.tile ((team s a.toNat).headD a.toNat)).sch.task = some k) ∧ (k.immediate = true) ∧ (killWaits s (cfgTilesOn s [a.toNat]) = true)) ∧
    (∃ (f : FE), ∃ (s : State), ∃ a, (Referee s) ∧ (Alone s) ∧ (On f.p s) ∧ (Holds s f.ga a) ∧ (Mine s a) ∧ ∃ (k : Machine.Task), (Answers s a) ∧ (committing s a.toNat = false) ∧ (team s a.toNat = [a.toNat]) ∧ ((s.tile a.toNat).sch.task = some k) ∧ (k.immediate = false)) ∧
    (∃ (f : FE), ∃ (s : State), ∃ a, (Referee s) ∧ (Alone s) ∧ (On f.p s) ∧ (Holds s f.ga a) ∧ (Mine s a) ∧ (Answers s a) ∧ (committing s a.toNat = true)) ∧
    (∃ (f : FE), ∃ (s : State), ∃ a, (Referee s) ∧ (Alone s) ∧ (On f.p s) ∧ (Holds s f.ga a) ∧ (Mine s a) ∧ ∃ (c : Cfg), (runsCfg s a.toNat = some c) ∧ ((c.st = .running ∨ c.st = .saving)) ∧ (killWaits s (cfgTilesOn s [a.toNat]) = false)) ∧
    (∃ (f : FE), ∃ (s : State), ∃ a, (Referee s) ∧ (Alone s) ∧ (On f.p s) ∧ (Holds s f.ga a) ∧ (Mine s a) ∧ (killWaits s (cfgTilesOn s [a.toNat]) = true)) ∧
    (∃ (f : FE), ∃ (s : State), ∃ a, (Referee s) ∧ (Alone s) ∧ (On f.p s) ∧ (Holds s f.ga a) ∧ (Mine s a) ∧ (runsCfg s a.toNat = none) ∧ (killWaits s (cfgTilesOn s [a.toNat]) = false)) ∧
    (∃ (f : FE), ∃ (s : State), ∃ a, (Referee s) ∧ (Alone s) ∧ (On f.p s) ∧ (Holds s f.ga a) ∧ 
    let c := a.toNat % 256
    ((s.ctx c).owner = s.ownerOf s.cur) ∧ (killWaits s (ctxTiles s c) = false)) ∧
    (∃ (f : FE), ∃ (s : State), ∃ a, (Referee s) ∧ (Alone s) ∧ (On f.p s) ∧ (Holds s f.ga a) ∧ 
    let c := a.toNat % 256
    ((s.ctx c).owner = s.ownerOf s.cur) ∧ (killWaits s (ctxTiles s c) = true)) ∧
    (∃ (mk : FE → Instr), ∃ (f : FE), ∃ (s : State), (Referee s) ∧ (Alone s) ∧ (On f.p s) ∧ ((here s).sch.starter = some none)) ∧
    (∃ (mk : FE → Instr), ∃ (f : FE), ∃ (s : State), (Referee s) ∧ (Alone s) ∧ (On f.p s) ∧ ∃ (v : Nat), ((here s).sch.starter = some (some v))) ∧
    (∃ (f : FE), ∃ (s : State), ∃ a, ∃ (c : Cfg), (Referee s) ∧ (Alone s) ∧ (On f.p s) ∧ (Ready s f.gc) ∧ ((here s).sch.starter = none) ∧ (Holds s f.ga a) ∧ (Mine s a) ∧ (runsCfg s a.toNat = some c) ∧ ((s.ctx c.ctx).savebase.getLsbD 0 = true) ∧ (c.st = .running)) ∧
    (∃ (f : FE), ∃ (s : State), ∃ a, ∃ (c : Cfg), (Referee s) ∧ (Alone s) ∧ (On f.p s) ∧ (Ready s f.gc) ∧ ((here s).sch.starter = none) ∧ (Holds s f.ga a) ∧ (Mine s a) ∧ (runsCfg s a.toNat = some c) ∧ ((s.ctx c.ctx).savebase.getLsbD 0 = false)) ∧
    (∃ (f : FE), ∃ (s : State), ∃ a, ∃ (c : Cfg), (Referee s) ∧ (Alone s) ∧ (On f.p s) ∧ (Ready s f.gc) ∧ ((here s).sch.starter = none) ∧ (Holds s f.ga a) ∧ (Mine s a) ∧ (runsCfg s a.toNat = some c) ∧ ∃ (k : Word), (Holds s f.gb k)) ∧
    (∃ (f : FE), ∃ (s : State), ∃ a, (Referee s) ∧ (Alone s) ∧ (On f.p s) ∧ (Ready s f.gc) ∧ ((here s).sch.starter = none) ∧ (Holds s f.ga a) ∧ 
    let c := a.toNat % 256
    ((s.ctx c).owner = s.ownerOf s.cur) ∧ ((restoreCtx s c).2.cur = s.cur)) :=
  ⟨
    ⟨{fe with ga := 12}, R (reg12 0x8001), 0x8001, {part0 with refs := [0]}, rfl, ⟨rfl, by decide⟩, rfl, ⟨by decide, rfl, by decide, rfl⟩, rfl, (by decide), (by decide), (by decide), (by decide), (by decide), (by decide), (by decide), (by decide), rfl⟩,
    ⟨{fe with ga := 12}, midS (reg12 0x8001), 0x8001, {part0 with refs := [0]}, rfl, ⟨rfl, by decide⟩, rfl, ⟨by decide, rfl, by decide, rfl⟩, rfl, (by decide), (by decide), (by decide), (by decide), (by decide), (by decide), (by decide), (by decide), rfl⟩,
    ⟨{fe with ga := 12}, R (reg12 0x24001), 0x24001, {part0 with refs := [0]}, rfl, ⟨rfl, by decide⟩, rfl, ⟨by decide, rfl, by decide, rfl⟩, rfl, (by decide)⟩,
    ⟨{fe with ga := 12}, {R (reg12 0x8001) with parts := [{part0 with refs := [0], fences := [(1, 0, 2, 0)]}]}, 0x8001, {part0 with refs := [0], fences := [(1, 0, 2, 0)]}, rfl, ⟨rfl, by decide⟩, rfl, ⟨by decide, rfl, by decide, rfl⟩, rfl, .head _⟩,
    ⟨{fe with ga := 3, gb := 2, gc := 6}, w2 {y0 with sch := {y0.sch with task := some (task0 true)}}, 1, rfl, ⟨rfl, by decide⟩, rfl, ⟨by decide, rfl, by decide, rfl⟩, ⟨by decide, by decide⟩, task0 true, ⟨rfl, rfl⟩, rfl, rfl, rfl, rfl⟩,
    ⟨{fe with ga := 3, gb := 2, gc := 6}, w2 {y0 with sch := {y0.sch with task := some (task0 true), cmdOut := some cmd0}}, 1, rfl, ⟨rfl, by decide⟩, rfl, ⟨by decide, rfl, by decide, rfl⟩, ⟨by decide, by decide⟩, task0 true, ⟨rfl, rfl⟩, rfl, rfl, rfl, rfl⟩,
    ⟨{fe with ga := 3, gb := 2, gc := 6}, w2 {y0 with sch := {y0.sch with task := some (task0 false)}}, 1, rfl, ⟨rfl, by decide⟩, rfl, ⟨by decide, rfl, by decide, rfl⟩, ⟨by decide, by decide⟩, task0 false, ⟨rfl, rfl⟩, rfl, rfl, rfl, rfl⟩,
    ⟨{fe with ga := 3, gb := 2, gc := 6}, w2 {y0 with sch := {y0.sch with task := some (task0 false), fx := { phase := 2 }}}, 1, rfl, ⟨rfl, by decide⟩, rfl, ⟨by decide, rfl, by decide, rfl⟩, ⟨by decide, by decide⟩, ⟨rfl, rfl⟩, rfl⟩,
    ⟨{fe with ga := 3, gb := 2, gc := 6}, R x0, 1, rfl, ⟨rfl, by decide⟩, rfl, ⟨by decide, rfl, by decide, rfl⟩, ⟨by decide, by decide⟩, cfg0, rfl, (by decide), rfl⟩,
    ⟨{fe with ga := 3, gb := 2, gc := 6}, midS x0, 1, rfl, ⟨rfl, by decide⟩, rfl, ⟨by decide, rfl, by decide, rfl⟩, ⟨by decide, by decide⟩, rfl⟩,
    ⟨{fe with ga := 3, gb := 2, gc := 6}, w2 {y0 with sch := {}}, 1, rfl, ⟨rfl, by decide⟩, rfl, ⟨by decide, rfl, by decide, rfl⟩, ⟨by decide, by decide⟩, rfl, rfl⟩,
    ⟨{fe with ga := 3, gb := 2, gc := 6}, R x0, 1, rfl, ⟨rfl, by decide⟩, rfl, ⟨by decide, rfl, by decide, rfl⟩, rfl, rfl⟩,
    ⟨{fe with ga := 3, gb := 2, gc := 6}, midS x0, 1, rfl, ⟨rfl, by decide⟩, rfl, ⟨by decide, rfl, by decide, rfl⟩, rfl, rfl⟩,
    ⟨.prempSave, {fe with ga := 3, gb := 2, gc := 6}, R {x0 with sch := {x0.sch with starter := some none}}, rfl, ⟨rfl, by decide⟩, rfl, rfl⟩,
    ⟨.prempSave, {fe with ga := 3, gb := 2, gc := 6}, R {x0 with sch := {x0.sch with starter := some (some 5)}}, rfl, ⟨rfl, by decide⟩, rfl, 5, rfl⟩,
    ⟨{fe with ga := 3, gb := 2, gc := 6}, {R x0 with ctxs := [(1, { owner := 1, savebase := 1 })]}, 1, cfg0, rfl, ⟨rfl, by decide⟩, rfl, ⟨by decide, by decide⟩, rfl, ⟨by decide, rfl, by decide, rfl⟩, ⟨by decide, by decide⟩, rfl, rfl, rfl⟩,
    ⟨{fe with ga := 3, gb := 2, gc := 6}, R x0, 1, cfg0, rfl, ⟨rfl, by decide⟩, rfl, ⟨by decide, by decide⟩, rfl, ⟨by decide, rfl, by decide, rfl⟩, ⟨by decide, by decide⟩, rfl, rfl⟩,
    ⟨{fe with ga := 3, gb := 2, gc := 6}, R x0, 1, cfg0, rfl, ⟨rfl, by decide⟩, rfl, ⟨by decide, by decide⟩, rfl, ⟨by decide, rfl, by decide, rfl⟩, ⟨by decide, by decide⟩, rfl, 3, ⟨by decide, rfl, by decide, rfl⟩⟩,
    ⟨{fe with ga := 3, gb := 2, gc := 6}, R x0, 1, rfl, ⟨rfl, by decide⟩, rfl, ⟨by decide, by decide⟩, rfl, ⟨by decide, rfl, by decide, rfl⟩, rfl, rfl⟩⟩

/-- A gang of two tiles that has been disbanded while its task runs on, on its anchor. -/
def disbanded : State := { S with
  cfgs := [{ cfg0 with image := { actors := [{ act0 with gang := 2 }, act0] } }]
  tiles := [(0, x0), (1, { y0 with sch := { actor := some { cfg := 1, slot := 0 } } })] }
theorem test_witness_ResultsArrive :
    (∃ (s : State), ∃ (t : Nat), ∃ (n : Nat), ∃ (d : RegRef), ∃ (v : Vec), ∃ (fl : Flags), (Due s t n d (.value v fl))) ∧
    (∃ (s : State), ∃ (t : Nat), ∃ (n : Nat), ∃ (d : RegRef), ∃ (c : Byte), ∃ (a : Word), (Due s t n d (.mark c a))) ∧
    (∃ (s : State), ∃ (t : Nat), ∃ (n : Nat), ∃ (d : RegRef), ∃ (q : Nat), ∃ (any : Bool), ∃ (word : Word), ∃ (lanes : BitVec 16), ∃ (ended : Bool), ∃ (tok : Token), (Due s t n d (.claim q any word lanes) ended) ∧ ((∀ m, m < n → ∀ p, (s.tile t).pend[m]? = some p → ∀ any' word' lanes', p.what ≠ .claim q any' word' lanes')) ∧ (((s.tile t).inQ q).toks[((s.tile t).inQ q).popped]? = some tok)) ∧
    (∃ (s : State), ∃ (t : Nat), ∃ (n : Nat), ∃ (d : RegRef), ∃ (q : Nat), ∃ (any : Bool), ∃ (word : Word), ∃ (lanes : BitVec 16), ∃ (tok : Token), (Due s t n d (.claim q any word lanes) true) ∧ (((s.tile t).inQ q).toks[((s.tile t).inQ q).popped]? = some tok)) ∧
    (∃ (s : State), ∃ (t : Nat), (s.taskTile t = t)) ∧
    (∃ (s : State), ∃ (t : Nat), (s.taskTile t ≠ t)) ∧
    (∃ (s : State), ∃ (t : Nat), ∃ (n : Nat), ∃ (d : RegRef), ∃ (a : Acc), ∃ (take : Bool), ∃ (ended : Bool), ∃ (u : State), ∃ (ps : List Part), (Due s t n d (.again a take) ended) ∧ (tileLive s t = true) ∧ ((s.tile t).sch.task ≠ none) ∧ ((∀ v ∈ gangTiles s t, (s.tile v).sch.halted = none ∧ (s.tile v).sch.asked = false)) ∧ (walkParts s t a.parts = .ok (ps, u))) ∧
    (∃ (s : State), ∃ (t : Nat), ∃ (n : Nat), ∃ (d : RegRef), ∃ (a : Acc), ∃ (take : Bool), ∃ (ended : Bool), ∃ (h : Home), ∃ (va : Word), ∃ (len : Nat), ∃ (slice : Nat), ∃ (at_ : Nat), (Due s t n d (.lds a take) ended) ∧ (Next s t a) ∧ (a.op = .lds d take []) ∧ (a.parts = [⟨h, va, len, 0, slice, at_⟩]) ∧ (len ≤ 64) ∧ (isFull s h len = true) ∧ (Quiescent s h len)) :=
  ⟨
    ⟨ms {x0 with pend := [{ dst := .g 5, what := .value 3 0 }]}, 0, 0, .g 5, 3, 0, ⟨rfl, rfl, _, rfl⟩⟩,
    ⟨ms {x0 with pend := [{ dst := .g 5, what := .mark 9 0 }]}, 0, 0, .g 5, 9, 0, ⟨rfl, rfl, _, rfl⟩⟩,
    ⟨ms {x0 with pend := [{ dst := .g 5, what := .claim 0 false 0 0xFFFF }]}, 0, 0, .g 5, 0, false, 0, 0xFFFF, false, .scalar 5, ⟨rfl, rfl, _, rfl⟩, (by intro m hm; exact absurd hm (Nat.not_lt_zero m)), rfl⟩,
    ⟨ms {x0 with pend := [{ dst := .g 5, what := .claim 0 false 0 0xFFFF, ended := true }]}, 0, 0, .g 5, 0, false, 0, 0xFFFF, .scalar 5, ⟨rfl, rfl, _, rfl⟩, rfl⟩,
    ⟨S, 0, rfl⟩,
    ⟨disbanded, 1, (by decide)⟩,
    ⟨ms {x0 with pend := [{ dst := .g 5, what := .again (at0 (.lds (.g 5) false [])) false }]}, 0, 0, .g 5, at0 (.lds (.g 5) false []), false, false, _, _, ⟨rfl, rfl, _, rfl⟩, rfl, (by decide), (by decide), rfl⟩,
    ⟨ms {x0 with pend := [{ dst := .g 5, what := .lds (own0 (.lds (.g 5) false [])) false }]}, 0, 0, .g 5, own0 (.lds (.g 5) false []), false, false, .tile 0 0x40, 0x40, 4, 0, 0, ⟨rfl, rfl, _, rfl⟩, ⟨rfl, by decide⟩, rfl, rfl, (by decide), rfl, ⟨rfl, by decide⟩⟩⟩

theorem test_witness_HomesPerform :
    (∃ (s : State), ∃ (t : Nat), ∃ (u : Nat), ∃ (n : Nat), ∃ (a : Acc), ∃ (pa : Nat), ∃ (va : Word), ∃ (len : Nat), ∃ (slice : Nat), ∃ (at_ : Nat), ∃ (dst : RegRef), ∃ (size : Nat), ∃ (sx : Bool), (UnitAt s t u n 0 a) ∧ (OnePart a pa va len slice at_) ∧ (PartNext s t a 0 ⟨.dram pa, va, len, 0, slice, at_⟩) ∧ (a.op = .load dst 0 size sx []) ∧ (size ≤ 8) ∧ (len = size) ∧ (Quiescent s (.dram pa) len)) ∧
    (∃ (s : State), ∃ (t : Nat), ∃ (u : Nat), ∃ (n : Nat), ∃ (a : Acc), ∃ (pa : Nat), ∃ (va : Word), ∃ (len : Nat), ∃ (slice : Nat), ∃ (at_ : Nat), ∃ (d : Vec), (UnitAt s t u n 0 a) ∧ (OnePart a pa va len slice at_) ∧ (PartNext s t a 0 ⟨.dram pa, va, len, 0, slice, at_⟩) ∧ (a.op = .store d) ∧ (Quiescent s (.dram pa) len)) ∧
    (∃ (s : State), ∃ (t : Nat), ∃ (u : Nat), ∃ (n : Nat), ∃ (k : Nat), ∃ (a : Acc), ∃ (p : Part), ∃ (d : Vec), (UnitAt s t u n k a) ∧ (PartNext s t a k p) ∧ (a.op = .store d) ∧ (1 < a.parts.length) ∧ ((∀ v off, p.home = .tile v off → armedAt (s.tile v) off p.len = none)) ∧ (Quiescent s p.home p.len) ∧ ((∀ pa, p.home ≠ .host pa)) ∧ ((s.tile t).isM = true) ∧ ((∀ v off, p.home = .tile v off → (s.tile v).isM = true))) ∧
    (∃ (s : State), ∃ (t : Nat), ∃ (u : Nat), ∃ (n : Nat), ∃ (a : Acc), ∃ (pa : Nat), ∃ (va : Word), ∃ (len : Nat), ∃ (slice : Nat), ∃ (at_ : Nat), ∃ (d : Vec), (UnitAt s t u n 0 a) ∧ (Next s t a) ∧ (OnePart a pa va len slice at_) ∧ (a.op = .stf d) ∧ (Quiescent s (.dram pa) len)) ∧
    (∃ (s : State), ∃ (t : Nat), ∃ (u : Nat), ∃ (n : Nat), ∃ (a : Acc), ∃ (pa : Nat), ∃ (va : Word), ∃ (len : Nat), ∃ (slice : Nat), ∃ (at_ : Nat), (UnitAt s t u n 0 a) ∧ (OnePart a pa va len slice at_) ∧ (PartNext s t a 0 ⟨.dram pa, va, len, 0, slice, at_⟩) ∧ (a.op = .feclr) ∧ (Quiescent s (.dram pa) len)) ∧
    (∃ (s : State), ∃ (t : Nat), ∃ (n : Nat), ∃ (a : Acc), ∃ (pa : Nat), ∃ (va : Word), ∃ (slice : Nat), ∃ (at_ : Nat), ∃ (op : BitVec 3), ∃ (w64 : Bool), ∃ (uns : Bool), ∃ (x : Word), ∃ (y : Word), ∃ (dst : Option RegRef), (Netted s t n a) ∧ 
    let len := if w64 then 8 else 4
    (OnePart a pa va len slice at_) ∧ (a.op = .amo op w64 uns x y dst) ∧ (Quiescent s (.dram pa) len)) ∧
    (∃ (s : State), ∃ (t : Nat), ∃ (n : Nat), ∃ (a : Acc), ∃ (ty : BitVec 3), ∃ (d : Vec), ∃ (mode : BitVec 3), ∃ (seed : BitVec 32), (Netted s t n a) ∧ (a.op = .red ty d mode seed) ∧ 
    let met := redMet s t n a
    
    let sum := ({} : Wide).addAll (a.redVal :: met.map fun e => e.2.2.redVal)
    
    let perform : Perf := match met, a.parts with
      | [], _ => performAcc s t a
      | _, p :: _ => match performRed s t p (fun w => ((w.join sum.1).1, (w.join sum.1).2 ||| sum.2)) mode seed (a.retries == 0) with
        | .ok u => .ok (met.foldl (fun s e => e.2.2.parts.foldl (fun s q => setDirty s q.pteAt) s) u)
        | r => r
      | _, [] => .ok s
    ∃ (u : State), (perform = .ok u)) ∧
    (∃ (s : State), ∃ (t : Nat), ∃ (pa : Nat), ∃ (va : Word), ∃ (slice : Nat), ∃ (at_ : Nat), ∃ (data : Nat), ∃ (mode : BitVec 3), ∃ (seed : BitVec 32), ∃ (first : Bool), 
    let p : Part := ⟨.dram pa, va, 4, 0, slice, at_⟩
    
    let add (w : Wide) : Wide × Flags := w.add (decodeVal f32 data)
    ∃ (sl : Nat), ∃ (i : Nat), ∃ (w : Window), (openWindow s pa = some (sl, i, w))) ∧
    (∃ (s : State), ∃ (t : Nat), ∃ (pa : Nat), ∃ (va : Word), ∃ (slice : Nat), ∃ (at_ : Nat), ∃ (data : Nat), ∃ (mode : BitVec 3), ∃ (seed : BitVec 32), ∃ (first : Bool), 
    let p : Part := ⟨.dram pa, va, 4, 0, slice, at_⟩
    
    let add (w : Wide) : Wide × Flags := w.add (decodeVal f32 data)
    (openWindow s pa = none) ∧ ((s.slice slice).wins.length < 512 + 16384) ∧ (s.dram.badRead pa 4 = none)) ∧
    (∃ (s : State), ∃ (t : Nat), ∃ (pa : Nat), ∃ (va : Word), ∃ (slice : Nat), ∃ (at_ : Nat), ∃ (data : Nat), ∃ (mode : BitVec 3), ∃ (seed : BitVec 32), ∃ (first : Bool), 
    let p : Part := ⟨.dram pa, va, 4, 0, slice, at_⟩
    
    let add (w : Wide) : Wide × Flags := w.add (decodeVal f32 data)
    (openWindow s pa = none) ∧ (512 + 16384 ≤ (s.slice slice).wins.length)) ∧
    (∃ (s : State), ∃ (w : Window), (StoresCanonical s) ∧ (s.dram.badWrite w.pa 4 = none) ∧ ∃ (i : Nat), (i < 4)) ∧
    (∃ (s : State), ∃ (w : Window), (StoresCanonical s) ∧ (s.dram.badWrite w.pa 4 ≠ none)) ∧
    (∃ (s : State), ∃ (t : Nat), ∃ (off : Nat), ∃ (double : Bool), (off < 0x180000)) ∧
    (∃ (f : RegKind), ∃ (i : Nat), (i < regCount f) ∧ (f ≠ .pa) ∧ (f = .k → i ≠ 0)) ∧
    (∃ (st : Store), ∃ (u : Nat), (u ∉ st.bad2)) ∧
    (∃ (st : Store), ∃ (u : Nat), (u ∉ st.bad2) ∧ (u ∈ st.bad1)) ∧
    (∃ (st : Store), ∃ (u : Nat), (u ∉ st.bad2) ∧ (u ∉ st.bad1)) :=
  ⟨
    ⟨ms (net x0 (at0 (.load (.g 5) 0 4 false []))), 0, 0, 0, at0 (.load (.g 5) 0 4 false []), 0x10000, G, 4, sliceOfPa 0x10000, 0, .g 5, 4, false, ⟨rfl, by decide⟩, rfl, ⟨by decide, rfl, by decide, rfl⟩, rfl, (by decide), rfl, ⟨rfl, by decide⟩⟩,
    ⟨ms (net x0 (at0 (.store 3))), 0, 0, 0, at0 (.store 3), 0x10000, G, 4, sliceOfPa 0x10000, 0, 3, ⟨rfl, by decide⟩, rfl, ⟨by decide, rfl, by decide, rfl⟩, rfl, ⟨rfl, by decide⟩⟩,
    ⟨ms (net x0 { at0 (.store 3) with parts := [part4 0x10000 G 4, part4 0x10040 (G + 0x40) 4] }), 0, 0, 0, 0, { at0 (.store 3) with parts := [part4 0x10000 G 4, part4 0x10040 (G + 0x40) 4] }, part4 0x10000 G 4, 3, ⟨rfl, by decide⟩, ⟨by decide, rfl, by decide, rfl⟩, rfl, (by decide), (by intro v off h; cases h), ⟨rfl, by decide⟩, (by intro pa h; cases h), rfl, (by intro v off h; cases h)⟩,
    ⟨ms (net x0 (at0 (.stf 3))), 0, 0, 0, at0 (.stf 3), 0x10000, G, 4, sliceOfPa 0x10000, 0, 3, ⟨rfl, by decide⟩, ⟨rfl, by decide⟩, rfl, rfl, ⟨rfl, by decide⟩⟩,
    ⟨ms (net x0 (at0 .feclr)), 0, 0, 0, at0 .feclr, 0x10000, G, 4, sliceOfPa 0x10000, 0, ⟨rfl, by decide⟩, rfl, ⟨by decide, rfl, by decide, rfl⟩, rfl, ⟨rfl, by decide⟩⟩,
    ⟨ms (net x0 (at8 (.amo 0 true false 3 0 none))), 0, 0, at8 (.amo 0 true false 3 0 none), 0x10000, G, sliceOfPa 0x10000, 0, 0, true, false, 3, 0, none, ⟨by decide, rfl, by decide, rfl⟩, rfl, rfl, ⟨rfl, by decide⟩⟩,
    ⟨ms (net x0 (at0 (.red 0 3 0 0))), 0, 0, at0 (.red 0 3 0 0), 0, 3, 0, 0, ⟨by decide, rfl, by decide, rfl⟩, rfl, okP (performAcc (ms (net x0 (at0 (.red 0 3 0 0)))) 0 (at0 (.red 0 3 0 0))), rfl⟩,
    ⟨{S with slices := [(sliceOfPa 0x10000, { wins := [⟨0x10000, {}, 0, 0, 0, 1⟩] })]}, 0, 0x10000, G, sliceOfPa 0x10000, 0, 3, 0, 0, true, sliceOfPa 0x10000, 0, ⟨0x10000, {}, 0, 0, 0, 1⟩, rfl⟩,
    ⟨S, 0, 0x10000, G, sliceOfPa 0x10000, 0, 3, 0, 0, true, rfl, (by decide), rfl⟩,
    ⟨fullS 16896, 0, 0x10000, G, sliceOfPa 0x10000, 0, 3, 0, 0, true, fullS_none _, (fullS_wins 16896).ge⟩,
    ⟨S, ⟨0x10000, {}, 0, 0, 0, 1⟩, (by refine ⟨by decide, by decide, by decide, by decide, by decide⟩), rfl, 0, (by decide)⟩,
    ⟨{S with dram := { bytes := [(1, 3)], bad2 := [0x2000] }}, ⟨0x10000, {}, 0, 0, 0, 1⟩, (by refine ⟨by decide, by decide, by decide, by decide, by decide⟩), (by decide)⟩,
    ⟨S, 0, 0x40, false, (by decide)⟩,
    ⟨.k, 15, (by decide), (by decide), (by decide)⟩,
    ⟨{}, 5, (by decide)⟩,
    ⟨{ bad1 := [5] }, 5, (by decide), (by decide)⟩,
    ⟨{}, 5, (by decide), (by decide)⟩⟩

theorem test_witness_AccessesRefused :
    (∃ (s : State), ∃ (t : Nat), ∃ (n : Nat), ∃ (a : Acc), ∃ (p : Part), ∃ (c : Byte), ∃ (o : Nat), ∃ (d : Nat), (flying s t n = some a) ∧ (a.miss s t = some (p, .reject c o d))) ∧
    (∃ (s : State), ∃ (t : Nat), ∃ (n : Nat), ∃ (a : Acc), ∃ (p : Part), ∃ (h : Home), (flying s t n = some a) ∧ (a.due s t = some (p, h)) ∧ (p.own t = true)) ∧
    (∃ (s : State), ∃ (t : Nat), ∃ (n : Nat), ∃ (a : Acc), ∃ (p : Part), ∃ (h : Home), (flying s t n = some a) ∧ (a.due s t = some (p, h)) ∧ (p.own t = false)) ∧
    (∃ (s : State), ∃ (t : Nat), ∃ (a : Acc), ∃ (pa : Nat), ∃ (va : Word), ∃ (len : Nat), ∃ (slice : Nat), ∃ (at_ : Nat), ∃ (dst : RegRef), ∃ (size : Nat), ∃ (sx : Bool), ∃ (v : Nat), (OnePart a pa va len slice at_) ∧ (a.op = .load dst 0 size sx []) ∧ (PartNext s t a 0 ⟨.dram pa, va, len, 0, slice, at_⟩) ∧ (touchWindows s (.dram pa) len = s) ∧ (s.dram.badRead pa len = some v)) ∧
    (∃ (s : State), ∃ (t : Nat), ∃ (m : Msg), ∃ (rest : List Msg), ∃ (u : Nat), ((s.tile t).sch.sent = m :: rest) ∧ (slotTile s t m.slot = some u) ∧ (s.unreachable u = true) ∧ (msgFree s t m = true) ∧ ((s.tile t).sch.retBuf.length < 16)) ∧
    (∃ (s : State), ∃ (t : Nat), ∃ (q : Nat), ∃ (k : Nat), ∃ (j : Nat), ∃ (u : Nat), (q < 16) ∧ (((s.tile t).outQ q).dest = some (k, j)) ∧ (slotTile s t k = some u) ∧ (s.unreachable u = true) ∧ (((s.tile t).outQ q).latch ≠ [])) ∧
    (∃ (s : State), ∃ (t : Nat), ∃ (n : Nat), ∃ (a : Acc), ∃ (p : Part), (flying s t n = some a) ∧ (a.miss s t = some (p, .dead))) ∧
    (∃ (s : State), ∃ (t : Nat), ∃ (n : Nat), ∃ (a : Acc), ∃ (p : Part), ∃ (c : Byte), ∃ (ta : Word), ((s.tile t).sch.chOut = some a.id) ∧ ((s.tile t).net.findIdx? (·.id == a.id) = some n)) ∧
    (∃ (s : State), ∃ (t : Nat), ∃ (a : Acc), ∃ (p : Part), ∃ (c : Byte), ∃ (ta : Word), ((s.tile t).sch.chOut ≠ some a.id) ∧ (1 ≤ (s.tile t).sch.fx.phase) ∧ (s.running t a.id = true)) ∧
    (∃ (s : State), ∃ (t : Nat), ∃ (a : Acc), ∃ (p : Part), ∃ (c : Byte), ∃ (ta : Word), ((s.tile t).sch.chOut ≠ some a.id) ∧ ((s.tile t).sch.fx.phase = 0) ∧ ∃ (d : RegRef), (a.op.dst = some d) ∧ (c ≠ 0x05 ∨ (s.tile (s.taskTile t)).isM = true)) ∧
    (∃ (s : State), ∃ (t : Nat), ∃ (a : Acc), ∃ (p : Part), ∃ (c : Byte), ∃ (ta : Word), ((s.tile t).sch.chOut ≠ some a.id) ∧ ((s.tile t).sch.fx.phase = 0) ∧ (a.op.dst = none) ∧ (s.running t a.id = true)) ∧
    (∃ (s : State), ∃ (t : Nat), ∃ (a : Acc), ∃ (p : Part), ∃ (c : Byte), ∃ (ta : Word), ((s.tile t).sch.chOut ≠ some a.id) ∧ ((s.tile t).sch.fx.phase = 0) ∧ (a.op.dst = none) ∧ (s.running t a.id = false) ∧ (c = 0x10)) :=
  ⟨
    ⟨{ms (net x0 peer0) with parts := [{part0 with x1 := 0}]}, 0, 0, peer0, peerP, 0x0F, 0, 1, rfl, rfl⟩,
    ⟨ms (net {x0 with store := {x0.store with bad2 := [8]}} (own0 ld0)), 0, 0, own0 ld0, ⟨.tile 0 0x40, 0x40, 4, 0, 0, 0⟩, .tile 0 0x40, rfl, rfl, rfl⟩,
    ⟨{ms (net x0 (at0 ld0)) with dram := { bytes := [], bad2 := [0x2000] }}, 0, 0, at0 ld0, part4 0x10000 G 4, far0, rfl, rfl, rfl⟩,
    ⟨{ms (net x0 (at0 ld0)) with dram := { bytes := [], bad2 := [0x2000] }}, 0, at0 ld0, 0x10000, G, 4, sliceOfPa 0x10000, 0, .g 5, 4, false, 0x2000, rfl, rfl, ⟨by decide, rfl, by decide, rfl⟩, rfl, rfl⟩,
    ⟨{ms {x0 with sch := {x0.sch with sent := [.spawn 1 rec1 0]}} with tiles := [(0, {x0 with sch := {x0.sch with sent := [.spawn 1 rec1 0]}}), (1, {y0 with fenced := true})]}, 0, .spawn 1 rec1 0, [], 1, rfl, rfl, rfl, rfl, (by decide)⟩,
    ⟨{S with tiles := [(0, {x0 with outq := [(1, { depth := 4, dest := some (1, 0), latch := [.scalar 5] })]}), (1, {y0 with fenced := true})]}, 0, 1, 1, 0, 1, (by decide), rfl, rfl, rfl, (by decide)⟩,
    ⟨{S with tiles := [(0, net x0 peer0), (1, {y0 with fenced := true})]}, 0, 0, peer0, peerP, rfl, rfl⟩,
    ⟨ms (net {x0 with sch := {x0.sch with chOut := some 0}} (at0 (.load (.g 5) 0 4 false []))), 0, 0, at0 (.load (.g 5) 0 4 false []), part4 0x10000 G 4, 0x10, 0, rfl, rfl⟩,
    ⟨ms (net {xi with sch := {xi.sch with fx := {xi.sch.fx with phase := 4}}} (at0 (.store 3))), 0, at0 (.store 3), part4 0x10000 G 4, 0x10, 0, (by decide), (by decide), rfl⟩,
    ⟨ms (net x0 (at0 (.load (.g 5) 0 4 false []))), 0, at0 (.load (.g 5) 0 4 false []), part4 0x10000 G 4, 0x10, 0, (by decide), rfl, .g 5, rfl, (by decide)⟩,
    ⟨ms (net x0 (at0 (.store 3))), 0, at0 (.store 3), part4 0x10000 G 4, 0x10, 0, (by decide), rfl, rfl, rfl⟩,
    ⟨ms (net {x0 with sch := {x0.sch with task := none}} (at0 (.store 3))), 0, at0 (.store 3), part4 0x10000 G 4, 0x10, 0, (by decide), rfl, rfl, rfl, rfl⟩⟩

/-- A chained store of two units. -/
def wide0 : Acc := { id := 0, parts := [part4 0x20000 (G + 0x10000) 4, part4 0x20040 (G + 0x10040) 4], op := .chStore tag0 3 }
theorem test_witness_ChainsMove :
    (∃ (s : State), ∃ (t : Nat), ∃ (n : Nat), ∃ (a : Acc), ∃ (g : ChainTag), ∃ (c : Chain), ∃ (u : State), (Netted s t n a) ∧ (a.chain = some g) ∧ (a.parts.length ≤ 1) ∧ (a.retries = 0) ∧ ((s.tile t).isM = true) ∧ ((s.slice g.slice).chain g.ch = some c) ∧ (g.pn = c.L) ∧ (c.E = g.sn ∨ c.E = 0xFFFFFF) ∧ ((∀ e ∈ (s.slice g.slice).ents, e.tag.ch ≠ g.ch)) ∧ (performAcc s t a = .ok u)) ∧
    (∃ (s : State), ∃ (t : Nat), ∃ (n : Nat), ∃ (a : Acc), ∃ (g : ChainTag), ∃ (c : Chain), (Netted s t n a) ∧ (a.chain = some g) ∧ (1 < a.parts.length) ∧ (a.retries = 0) ∧ ((s.tile t).isM = true) ∧ ((s.slice g.slice).chain g.ch = some c) ∧ (g.pn = c.L) ∧ (c.E = g.sn ∨ c.E = 0xFFFFFF) ∧ ((∀ e ∈ (s.slice g.slice).ents, e.tag.ch ≠ g.ch))) ∧
    (∃ (s : State), ∃ (t : Nat), ∃ (n : Nat), ∃ (sl : Nat), ∃ (e : ChEnt), ∃ (k : Nat), ∃ (pa : Nat), ∃ (va : Word), ∃ (len : Nat), ∃ (pos : Nat), ∃ (slice : Nat), ∃ (at_ : Nat), ∃ (d : Vec), ((chainUnits s t)[n]? = some (sl, e, k)) ∧ (1 < e.acc.parts.length) ∧ (e.acc.parts[k]? = some ⟨.dram pa, va, len, pos, slice, at_⟩) ∧ (e.acc.op = .chStore e.tag d) ∧ (Quiescent s (.dram pa) len)) ∧
    (∃ (s : State), ∃ (t : Nat), ∃ (n : Nat), ∃ (a : Acc), ∃ (g : ChainTag), (Netted s t n a) ∧ (a.chain = some g) ∧ (chainBusy s g = true)) ∧
    (∃ (s : State), ∃ (t : Nat), ∃ (n : Nat), ∃ (a : Acc), ∃ (g : ChainTag), (Netted s t n a) ∧ (a.chain = some g) ∧ (chainBusy s g = false) ∧ (a.retries = 0) ∧ (chainArrive s t a g (!(s.tile t).isM) = none) ∧ (((s.tile t).isM = true → 1 ≤ (chRetry s t).1))) ∧
    (∃ (s : State), ∃ (t : Nat), ∃ (n : Nat), ∃ (a : Acc), ∃ (g : ChainTag), (Netted s t n a) ∧ (a.chain = some g) ∧ (chainBusy s g = false) ∧ (0 < a.retries) ∧ (a.retries ≤ (chRetry s t).1) ∧ (a.refusedAt + (chRetry s t).2 ≤ s.now) ∧ ∃ (u : State), (chainArrive s t a g (!(s.tile t).isM) = some u)) ∧
    (∃ (s : State), ∃ (t : Nat), ∃ (n : Nat), ∃ (a : Acc), ∃ (g : ChainTag), (Netted s t n a) ∧ (a.chain = some g) ∧ (chainBusy s g = false) ∧ (0 < a.retries) ∧ (a.retries ≤ (chRetry s t).1) ∧ (a.refusedAt + (chRetry s t).2 ≤ s.now) ∧ (chainArrive s t a g (!(s.tile t).isM) = none) ∧ (a.retries = (chRetry s t).1) ∧ ((s.tile t).isM = true)) ∧
    (∃ (s : State), ∃ (t : Nat), ∃ (a : Acc), ∃ (g : ChainTag), ∃ (c : Chain), ((s.slice g.slice).chain g.ch = some c) ∧ (c.eligible g = true) ∧ ((s.slice g.slice).bypassFree g.ch = false) ∧ ((s.slice g.slice).sharedFree = false)) ∧
    (∃ (s : State), ∃ (t : Nat), (team s t = [t]) ∧ ((s.tile t).sch.fx.phase = 1 ∨ (s.tile t).sch.fx.phase = 2) ∧ 
    let mine (c : ChEnt) : Bool := c.tile == t && c.tentative && !c.cancelled
    
    let held := Machine.slicesOf s mine
    (mute (s.tile t) = false) ∧ ((∀ a ∈ (s.tile t).net, a.isChStore = false)) ∧ ((∀ b ∈ (s.tile t).sch.fx.sb, b.isCh = false)) ∧ (held ≠ [])) ∧
    (∃ (s : State), ∃ (t : Nat), (team s t = [t]) ∧ ((s.tile t).sch.fx.phase = 1 ∨ (s.tile t).sch.fx.phase = 2) ∧ 
    let mine (c : ChEnt) : Bool := c.tile == t && c.tentative && !c.cancelled
    
    let held := Machine.slicesOf s mine
    ((∃ a ∈ (s.tile t).net, a.isChStore = true) ∨ (∃ b ∈ (s.tile t).sch.fx.sb, b.isCh = true))) ∧
    (∃ (s : State), ∃ (t : Nat), ((∃ e ∈ s.slices, ∃ k ∈ e.2.ents, k.tile = t ∧ k.cancelled = true))) ∧
    (∃ (s : State), ∃ (t : Nat), ∃ (a : Acc), (team s t = [t]) ∧ ((s.tile t).isM = false) ∧ (mute (s.tile t) = false) ∧ ((∀ e ∈ s.slices, ∀ k ∈ e.2.ents, k.tile = t → k.cancelled = false)) ∧ ((s.tile t).net.find? (fun b => b.isChStore && decide ((chRetry s t).1 < b.retries)) = some a)) ∧
    (∃ (s : State), ∃ (sl : Nat), ∃ (ch : Nat), ∃ (c : Chain), ∃ (k : Cfg), ∃ (p : Partition), ∃ (g : Nat), ((s.slice sl).chain ch = some c) ∧ (s.cfg c.cfg = some k) ∧ (s.part k.owner = some p) ∧ (c.gapAt = some g) ∧ (c.gapSent = false) ∧ (0 < p.chgapt.toNat % 65536) ∧ (g + 1000 * (p.chgapt.toNat % 65536) ≤ s.now)) :=
  ⟨
    ⟨F (net x0 (chAt (.chStore tag0 3) 0)) chain0 [], 0, 0, chAt (.chStore tag0 3) 0, tag0, chain0, okP (performAcc (F (net x0 (chAt (.chStore tag0 3) 0)) chain0 []) 0 (chAt (.chStore tag0 3) 0)), ⟨by decide, rfl, by decide, rfl⟩, rfl, (by decide), rfl, rfl, rfl, rfl, .inl rfl, (by decide), rfl⟩,
    ⟨F (net x0 wide0) chain0 [], 0, 0, wide0, tag0, chain0, ⟨by decide, rfl, by decide, rfl⟩, rfl, (by decide), rfl, rfl, rfl, rfl, .inl rfl, (by decide)⟩,
    ⟨F x0 { chain0 with cur := some 0 } [{ ent0 (.chStore tag0 3) false with acc := wide0 }], 0, 0, 5, { ent0 (.chStore tag0 3) false with acc := wide0 }, 0, 0x20000, G + 0x10000, 4, 0, sliceOfPa 0x20000, 0, 3, rfl, (by decide), rfl, rfl, ⟨rfl, rfl, rfl⟩⟩,
    ⟨F (net x0 (chAt (.chStore tag0 3) 0)) { chain0 with cur := some 0 } [{ ent0 (.chStore tag0 3) false with acc := wide0 }], 0, 0, chAt (.chStore tag0 3) 0, tag0, ⟨by decide, rfl, by decide, rfl⟩, rfl, rfl⟩,
    ⟨ms (net x0 (chAt (.chStore tag0 3) 0)), 0, 0, chAt (.chStore tag0 3) 0, tag0, ⟨by decide, rfl, by decide, rfl⟩, rfl, rfl, rfl, rfl, (by decide)⟩,
    ⟨{F (net x0 (chAt (.chStore tag0 3) 1)) chain0 [] with now := 1000}, 0, 0, chAt (.chStore tag0 3) 1, tag0, ⟨by decide, rfl, by decide, rfl⟩, rfl, rfl, (by decide), (by decide), (by decide), okO (chainArrive {F (net x0 (chAt (.chStore tag0 3) 1)) chain0 [] with now := 1000} 0 (chAt (.chStore tag0 3) 1) tag0 false), rfl⟩,
    ⟨{ms (net x0 (chAt (.chStore tag0 3) 16)) with now := 1000}, 0, 0, chAt (.chStore tag0 3) 16, tag0, ⟨by decide, rfl, by decide, rfl⟩, rfl, rfl, (by decide), (by decide), (by decide), rfl, rfl, rfl⟩,
    ⟨F x0 chain0 ({ ent0 (.chStore tag0 3) false with bypass := true } :: List.replicate 64 (ent0 (.chStore tag0 3) false)), 0, chAt (.chStore tag0 3) 0, tag0, chain0, rfl, rfl, rfl, rfl⟩,
    ⟨F {xi with sch := {xi.sch with fx := {xi.sch.fx with phase := 1}}} chain0 [ent0 (.chStore tag0 3) true], 0, rfl, .inl rfl, rfl, (by intro e h; change e ∈ [] at h; cases h), (by intro b h; change b ∈ [] at h; cases h), (by intro h; cases h)⟩,
    ⟨F (net {xi with sch := {xi.sch with fx := {xi.sch.fx with phase := 1}}} (chAt (.chStore tag0 3) 0)) chain0 [], 0, rfl, .inl rfl, .inl ⟨_, .head _, rfl⟩⟩,
    ⟨F x0 chain0 [{ ent0 (.chStore tag0 3) true with cancelled := true }], 0, ⟨_, .head _, _, .head _, rfl, rfl⟩⟩,
    ⟨F (net xi (chAt (.chStore tag0 3) 17)) chain0 [], 0, chAt (.chStore tag0 3) 17, rfl, rfl, rfl, (by intro e he k hk; change e ∈ [_] at he; simp at he; subst he; cases hk), rfl⟩,
    ⟨{F x0 {chain0 with gapAt := some 0} [] with parts := [{part0 with chgapt := 1}], now := 2000}, 5, 0, {chain0 with gapAt := some 0}, cfg0, {part0 with chgapt := 1}, 0, rfl, rfl, rfl, rfl, rfl, (by decide), (by decide)⟩⟩

/-- A copy whose granule has two units to write, and a property of the numbers below 8. -/
def part64 (k : Nat) : Part := ⟨.tile 0 (0x40 + k), BitVec.ofNat 64 (0x40 + k), 8, k, 0, 0⟩
def accA : EngAcc := { parts := [part64 0, part64 8], data := 0x87 }
def copyA : CopyOp := { copy0 with acc := some accA }
def cpA : State := ms (en { copies := [copyA] })
theorem only8 {P : Nat → Prop} (h0 : P 0) (h1 : P 1) (h2 : P 2) (h3 : P 3) (h4 : P 4) (h5 : P 5) (h6 : P 6) (h7 : P 7) : ∀ i, i < 8 → P i
  | 0, _ => h0 | 1, _ => h1 | 2, _ => h2 | 3, _ => h3 | 4, _ => h4 | 5, _ => h5 | 6, _ => h6 | 7, _ => h7
theorem test_witness_EnginesMove :
    (∃ (s : State), ∃ (t : Nat), ∃ (o : CopyOp), ∃ (rest : List CopyOp), ∃ (seen : List (Nat × List Byte)), ∃ (u : State), ∃ (w : State), ((s.tile t).eng.copies = o :: rest) ∧ ((s.tile t).eng.copyFault = false) ∧ (enginesRun s t = true) ∧ (o.cvt = 0) ∧ (o.hd = none) ∧ (o.byTask = false) ∧ 
    let a := o.dstRow o.row + BitVec.ofNat 64 o.off
    
    let n := Nat.min (64 - a.toNat % 64) (o.rb - o.off)
    
    let src := o.srcRow o.row + BitVec.ofNat 64 o.off
    (copyUnits s t o [] (unitNums src n) o.seen = .ok (seen, u)) ∧ (engWrite u t o.acc o.ctx o.car.stkbase o.pgsz a (seenBytes seen src n) = .ok w)) ∧
    (∃ (s : State), ∃ (t : Nat), ∃ (o : CopyOp), ∃ (rest : List CopyOp), ∃ (k : Nat), ∃ (g : EngAcc), ∃ (p : Part), ∃ (r : EngAcc × State), ∃ (out : List Byte), ∃ (fl : Flags), ∃ (seen : List (Nat × List Byte)), ∃ (u : State), ((s.tile t).eng.copies = o :: rest) ∧ ((s.tile t).eng.copyFault = false) ∧ (enginesRun s t = true) ∧ (o.acc = some g) ∧ (2 ≤ g.parts.length) ∧ (g.parts[k]? = some p) ∧ (copyData s t o = .ok (out, fl, seen, u)) ∧ (engUnit u t g p = .ok r)) ∧
    (∃ (s : State), ∃ (t : Nat), ∃ (p : Nat), ∃ (ph : Phys), ∃ (u : State), ∃ (unit : Nat → List Byte), 
    let y := (s.tile t).port p
    (y.st = 1) ∧ (enginesRun s t = true) ∧ (y.isWrite = false) ∧ (portRoom (s.tile t) y = true) ∧ (y.eodDue = none) ∧ (y.conv = 0) ∧ (y.acc = none) ∧ ((y.addr y.pos).toNat % 64 = 0) ∧ (engReach s t y.ctx y.car.stkbase y.pg (y.addr y.pos) 64 false (!y.sync) = .ok (ph, u)) ∧ ((y.sync = true → isFull u ph.home 64 = true)) ∧ ((∀ i, i < 8 → homeRead u (ph.home.add (8 * i)) 8 = .ok (unit i, u))) ∧ (y.packN = 0)) ∧
    (∃ (s : State), ∃ (t : Nat), ∃ (p : Nat), ∃ (r : Rel), ∃ (rest : List Rel), ∃ (d : Vec), ∃ (w : State), 
    let y := (s.tile t).port p
    (y.st = 1) ∧ (enginesRun s t = true) ∧ (y.isWrite = true) ∧ (((s.tile t).outQ y.queue).toks = r :: rest) ∧ (released s t r = true) ∧ (r.tok = .vec d) ∧ (y.hden = false) ∧ (engWrite s t y.acc y.ctx y.car.stkbase y.pg (y.addr y.pos) (lowBytes 64 d.toNat) = .ok w)) ∧
    (∃ (s : State), ∃ (t : Nat), ∃ (n : Nat), ∃ (d : DreqOp), ∃ (unit : Nat → List Byte), ((s.tile t).eng.dreqs[n]? = some d) ∧ ((s.tile t).eng.dreqFault = false) ∧ (enginesRun s t = true) ∧ (d.mode1 = false) ∧ (granOwnerOf s (d.pa + 64 * d.got) = s.ownerOf t) ∧ ((∀ e ∈ (s.tile t).eng.dreqs.take n, e.mode1 = true ∨ e.q ≠ d.q)) ∧ (d.seen = []) ∧ ((∀ i, i < 8 → homeRead s (.dram (d.pa + 8 * (8 * d.got + i))) 8 = .ok (unit i, s))) ∧ (d.byTask = false) ∧ (64 * (d.got + 1) < d.bytes)) ∧
    (∃ (s : State), ∃ (t : Nat), ∃ (e : Nat), ∃ (c : Byte), (e ≤ 5) ∧ (engTry s t e = .error (.fault c))) ∧
    (∃ (s : State), ∃ (t : Nat), ∃ (e : Nat), ∃ (c : Byte), ∃ (o : Nat), ∃ (d : Nat), ∃ (a : Word), (e ≤ 5) ∧ (engTry s t e = .error (.reject c o d a))) ∧
    (∃ (s : State), ∃ (t : Nat), ((s.tile t).eng.stat.fault = true)) ∧
    (∃ (s : State), ∃ (t : Nat), ((s.tile t).eng.stat.due = true) ∧ ((s.tile t).failStop = false) ∧ ((∀ u ∈ gangTiles s t, (s.tile u).sch.task ≠ none → (s.tile u).sch.halted = none ∧ (s.tile u).sch.stepping = false ∧ (s.tile u).sch.asked = false))) :=
  ⟨
    ⟨cpS, 0, copy0, [], cpR.1, cpR.2, okF (engWrite cpR.2 0 none 1 0 0 0x40 (seenBytes cpR.1 0x80 64)), rfl, rfl, rfl, rfl, rfl, rfl, rfl, rfl⟩,
    ⟨cpA, 0, copyA, [], 0, accA, part64 0, ({ parts := [part64 8], done := [part64 0], data := 0x87 }, _), _, _, _, _, rfl, rfl, rfl, rfl, (by decide), rfl, rfl, rfl⟩,
    ⟨ms (en { ports := [(0, port0 0)] }), 0, 0, ⟨.tile 0 0x80, 0, false, 0⟩, ms (en { ports := [(0, port0 0)] }), (fun i => (if i = 0 then 1 else 0) :: List.replicate 7 0), rfl, rfl, rfl, rfl, rfl, rfl, rfl, rfl, rfl, (by decide), only8 (P := fun i => homeRead _ (Home.add _ (8 * i)) 8 = _) rfl rfl rfl rfl rfl rfl rfl rfl, rfl⟩,
    ⟨ms {en { ports := [(0, port0 5)] } with outq := [(1, { depth := 4, toks := [⟨.vec 3, 0⟩] })]}, 0, 0, ⟨.vec 3, 0⟩, [], 3, okF (engWrite (ms {en { ports := [(0, port0 5)] } with outq := [(1, { depth := 4, toks := [⟨.vec 3, 0⟩] })]}) 0 none 1 0 0 0x80 (lowBytes 64 3)), rfl, rfl, rfl, rfl, rfl, rfl, rfl, rfl⟩,
    ⟨ms (en { dreqs := [dreq0] }), 0, 0, dreq0, (fun i => if i = 0 then 0x21 :: 0x43 :: List.replicate 6 0 else List.replicate 8 0), rfl, rfl, rfl, rfl, rfl, (by decide), rfl, only8 (P := fun i => homeRead _ (.dram (_ + 8 * (8 * _ + i))) 8 = _) rfl rfl rfl rfl rfl rfl rfl rfl, rfl, (by decide)⟩,
    ⟨ms (en { ports := [(0, {port0 0 with desc := [(0, 0xFFFFFFFFFFFFFF00), (4, 0x100000001), (5, 1)]})] }), 0, 1, 0x03, (by decide), rfl⟩,
    ⟨{ms (en { ports := [(0, {port0 0 with desc := [(0, G), (4, 0x100000001), (5, 1)]})] }) with granOwner := []}, 0, 1, 0x05, 0, 0x8010, G, (by decide), rfl⟩,
    ⟨ms (en { stat := { fault := true } }), 0, rfl⟩,
    ⟨ms (en { stat := { due := true } }), 0, rfl, rfl, (by intro u hu _; change u ∈ [0] at hu; obtain rfl : u = 0 := (by simpa using hu); exact ⟨rfl, rfl, rfl⟩)⟩⟩

theorem test_witness_PatchMoves :
    (∃ (s : State), ∃ (t : Nat), ∃ (e : PEntry), ∃ (rest : List PEntry), (HeadCmd s t e rest) ∧ ∃ (src : Nat), ∃ (ty : BitVec 4), (e.cmd = .cfg src ty)) ∧
    (∃ (s : State), ∃ (t : Nat), ∃ (e : PEntry), ∃ (rest : List PEntry), (HeadCmd s t e rest) ∧ (e.cmd = .wsw) ∧ ((s.tile t).pu.st.ring = none) ∧ ((s.tile t).pu.st.shSt = 2)) ∧
    (∃ (s : State), ∃ (t : Nat), ∃ (e : PEntry), ∃ (rest : List PEntry), (HeadCmd s t e rest) ∧ ∃ (set : Bool), ∃ (all : Bool), (e.cmd = .clr set all)) ∧
    (∃ (s : State), ∃ (t : Nat), ∃ (e : PEntry), ∃ (rest : List PEntry), (HeadCmd s t e rest) ∧ ∃ (src : Nat), ∃ (addr : Word), ∃ (rows : Nat), ∃ (r0 : Nat), ∃ (set : Bool), ∃ (zero : Bool), ∃ (bs : List Byte), ∃ (u : State), (e.cmd = .run src addr rows r0 set zero false) ∧ ((s.tile t).pu.st.rgn = none) ∧ ((s.tile t).pu.st.recu = none) ∧ 
    let a : ActFmt := tget {} (s.tile t).pu.st.fmts src
    (takeSource s t e src addr e.done (8 * tyWidth a.ty) = .ok (bs, u))) ∧
    (∃ (s : State), ∃ (t : Nat), ∃ (e : PEntry), ∃ (rest : List PEntry), ∃ (n : Nat), ∃ (d : RegRef), ∃ (k : Nat), ∃ (clr : Bool), ((s.tile t).pu.q = e :: rest) ∧ (enginesRun s t = true) ∧ (e.cmd = .st clr) ∧ (e.byTask = true) ∧ ((∀ b r, rest = b :: r → b.cmd.starts = false)) ∧ ((s.tile t).isM = true) ∧ ((s.tile t).pend[n]? = some { dst := d, what := .status, stamp := k }) ∧ ((∀ m, m < n → ((s.tile t).pend[m]?).map (·.what) ≠ some .status))) ∧
    (∃ (s : State), ∃ (t : Nat), ((s.tile t).pu.ranAt ≠ none) ∧ ((∀ r ∈ (s.field (fieldOf t)).pacer.stops, r.tile ≠ t))) ∧
    (∃ (s : State), ∃ (f : Nat), ∃ (r : Req), ∃ (rest : List Req), ((s.field f).pacer.stops = r :: rest) ∧ (paced s (s.field f).pacer = true)) ∧
    (∃ (s : State), ∃ (f : Nat), ∃ (r : Req), ((s.field f).pacer.stops = []) ∧ (paced s (s.field f).pacer = true) ∧ (fieldCurrent2 s f ≤ 2 * ((s.field f).icrit.toNat % 65536)) ∧ ((s.field f).sw.ms = s.now / 1000000) ∧ (firstReq s.now (ageOf (s.field f)) (s.field f).pacer.starts = some r)) ∧
    (∃ (s : State), ∃ (t : Nat), ∃ (n : Nat), ((s.tile t).pu.gate = .awake n) ∧ ((s.tile t).pu.q = []) ∧ 
    let hold := (s.field (fieldOf t)).pgctl.toNat % 65536
    (hold ≠ 0) ∧ (n + hold < s.now)) ∧
    (∃ (s : State), ∃ (t : Nat), ∃ (n : Nat), ((s.tile t).pu.gate = .gating n false) ∧ (n ≤ s.now)) ∧
    (∃ (s : State), ∃ (f : Nat), ∃ (t : Nat), ∃ (at_ : Nat), ((s.field f).wakes = [(t, at_)]) ∧ 
    let slot := Nat.max ((s.field f).wakeSlot + 1) ((at_ + 63) / 64)
    (64 * slot ≤ s.now)) :=
  ⟨
    ⟨ms (pq {} [pe0 (.cfg 0 9) false]), 0, pe0 (.cfg 0 9) false, [], ⟨rfl, by decide, ⟨0, rfl, by decide⟩, by decide, rfl, rfl⟩, 0, 9, rfl⟩,
    ⟨ms (pq {shSt := 2} [pe0 .wsw true]), 0, pe0 .wsw true, [], ⟨rfl, by decide, ⟨0, rfl, by decide⟩, by decide, rfl, rfl⟩, rfl, rfl, rfl⟩,
    ⟨ms (pq {} [pe0 (.clr false true) false]), 0, pe0 (.clr false true) false, [], ⟨rfl, by decide, ⟨0, rfl, by decide⟩, by decide, rfl, rfl⟩, false, true, rfl⟩,
    ⟨ms (pq {} [pe0 (.run 4 0x40 1 0 false true false) true]), 0, pe0 (.run 4 0x40 1 0 false true false) true, [], ⟨rfl, by decide, ⟨0, rfl, by decide⟩, by decide, rfl, rfl⟩, 4, 0x40, 1, 0, false, true, readBytes x0.store.bytes 0x40 64, ms (pq {} [pe0 (.run 4 0x40 1 0 false true false) true]), rfl, rfl, rfl, rfl⟩,
    ⟨ms {pq {} [{ pe0 (.st true) false with byTask := true }] with pend := [{ dst := .g 5, what := .status }]}, 0, { pe0 (.st true) false with byTask := true }, [], 0, .g 5, 0, true, rfl, rfl, rfl, rfl, (by intro b r h; cases h), rfl, rfl, (by intro m hm; exact absurd hm (Nat.not_lt_zero m))⟩,
    ⟨ms {x0 with pu := { ranAt := some 5 }}, 0, (by decide), (by decide)⟩,
    ⟨fl { pacer := { stops := [⟨0, 0, 0⟩] } }, 0, ⟨0, 0, 0⟩, [], rfl, rfl⟩,
    ⟨fl { pacer := { starts := [⟨0, 0, 0⟩] } }, 0, ⟨0, 0, 0⟩, rfl, rfl, (by decide), rfl, rfl⟩,
    ⟨{ms {x0 with pu := { gate := .awake 0 }} with now := 100000}, 0, 0, rfl, rfl, (by decide), (by decide)⟩,
    ⟨{ms {x0 with pu := { gate := .gating 5 false }} with now := 100000}, 0, 5, rfl, (by decide)⟩,
    ⟨{fl { wakes := [(0, 5)] } with now := 100000}, 0, 0, 5, rfl, (by decide)⟩⟩

theorem test_witness_TasksMove :
    (∃ (s : State), ∃ (t : Nat), ∃ (d : ActorDecl), ∃ (a : ActorRef), (Lives s t d a) ∧ ((team s t).headD t = t) ∧ (a.done = false) ∧ ((s.tile t).firing = false) ∧ ((∀ e ∈ d.inQ, e.2.2 ≤ (s.tile t).resTokens e.1)) ∧ ((∀ r ∈ d.ranges, (s.tile t).store.allFull (r.1 / 4) (r.2 / 4) = true)) ∧ ((d.once = true → a.firings = 0)) ∧ ((d.source = true ∨ allClosed d (s.tile t) = false))) ∧
    (∃ (s : State), ∃ (t : Nat), ∃ (d : ActorDecl), ∃ (a : ActorRef), ∃ (e : RunEnt), ∃ (h : HandlerDecl), (Lives s t d a) ∧ ((s.tile t).sch.task = none) ∧ ((∀ u ∈ team s t, (s.tile u).sch.halted = none ∧ (s.tile u).eng.stat.due = false)) ∧ (firstEnt s.now (quantOf s t) ((s.tile t).sch.runl.filter fun e => !((e.rcd.map (·.launch)).getD false)) = some e) ∧ (d.handlers[(e.rcd.map (·.handler.toNat)).getD 0]? = some h)) ∧
    (∃ (s : State), ∃ (t : Nat), ∃ (e : RunEnt), ∃ (d : ActorDecl), ∃ (a : ActorRef), ∃ (h : HandlerDecl), (team s t = [t])) ∧
    (∃ (s : State), ∃ (t : Nat), ∃ (d : ActorDecl), ∃ (a : ActorRef), (Lives s t d a) ∧ ((team s t).headD t = t) ∧ (a.done = false) ∧ ((s.tile t).firing = false) ∧ ((s.tile t).sch.task = none) ∧ (d.once = false) ∧ (allClosed d (s.tile t) = true) ∧ ((∀ u ∈ team s t, ∀ q ∈ (s.tile u).declOut, 0 < (s.tile u).outFree q))) ∧
    (∃ (s : State), ∃ (t : Nat), ∃ (q : Nat), ∃ (k : Nat), ∃ (j : Nat), ∃ (u : Nat), ∃ (tok : Token), ∃ (rest : List Token), (((s.tile t).outQ q).dest = some (k, j)) ∧ (slotTile s t k = some u) ∧ (((s.tile t).outQ q).latch = tok :: rest) ∧ (takes s u = true) ∧ (s.written u = false) ∧ (0 < (s.tile u).inFree j) ∧ ((s.tile u).sch.actor.bind (·.moveTo) = none)) ∧
    (∃ (s : State), ∃ (t : Nat), ∃ (q : Nat), ∃ (k : Nat), ∃ (j : Nat), ∃ (u : Nat), ∃ (r : Rel), ∃ (rest : List Rel), (((s.tile t).outQ q).dest = some (k, j)) ∧ (slotTile s t k = some u) ∧ (((s.tile t).outQ q).latch = []) ∧ (((s.tile t).outQ q).toks = r :: rest) ∧ (released s t r = true) ∧ (s.unreachable u = false) ∧ (s.unreachable t = false) ∧ ((s.tile t).failStop = false) ∧ (s.written t = false) ∧ (0 < ((s.tile t).outQ q).links) ∧ (s.ownerOf u = s.ownerOf t)) ∧
    (∃ (s : State), ∃ (t : Nat), ∃ (q : Nat), ∃ (k : Nat), ∃ (j : Nat), ∃ (u : Nat), ∃ (r : Rel), ∃ (rest : List Rel), (((s.tile t).outQ q).dest = some (k, j)) ∧ (slotTile s t k = some u) ∧ (((s.tile t).outQ q).latch = []) ∧ (((s.tile t).outQ q).toks = r :: rest) ∧ (released s t r = true) ∧ (s.unreachable u = false) ∧ (s.unreachable t = false) ∧ ((s.tile t).failStop = false) ∧ (s.written t = false) ∧ (((s.tile t).outQ q).links = 0) ∧ (s.ownerOf u = s.ownerOf t) ∧ ((s.tile u).failStop = false) ∧ (s.written u = false) ∧ (0 < (s.tile u).inFree j) ∧ ((s.tile u).sch.actor.bind (·.moveTo) = none)) ∧
    (∃ (s : State), ∃ (t : Nat), ∃ (q : Nat), ∃ (k : Nat), ∃ (j : Nat), ∃ (u : Nat), ∃ (r : Rel), ∃ (rest : List Rel), (((s.tile t).outQ q).dest = some (k, j)) ∧ (slotTile s t k = some u) ∧ (((s.tile t).outQ q).latch = []) ∧ (((s.tile t).outQ q).toks = r :: rest) ∧ (released s t r = true) ∧ (s.unreachable u = false) ∧ (s.unreachable t = false) ∧ ((s.tile t).failStop = false) ∧ (s.written t = false) ∧ (s.ownerOf u ≠ s.ownerOf t)) ∧
    (∃ (s : State), ∃ (t : Nat), ∃ (q : Nat), ∃ (tok : Token), ∃ (rest : List Token), (((s.tile t).outQ q).latch = tok :: rest) ∧ (s.written t = false)) ∧
    (∃ (s : State), ∃ (t : Nat), ∃ (k : Nat), ∃ (r : Record), ∃ (n : Nat), ∃ (rest : List Msg), ∃ (u : Nat), ((s.tile t).sch.sent = .spawn k r n :: rest) ∧ (slotTile s t k = some u) ∧ (msgFree s t (.spawn k r n) = true) ∧ (takes s u = true) ∧ (s.written u = false) ∧ (s.ownerOf u = s.ownerOf t)) ∧
    (∃ (s : State), ∃ (u : Nat), ∃ (r : Record), ((r.cv = true → (s.tile u).store.bad1 = [] ∧ (s.tile u).store.bad2 = [])) ∧ (r.cv = false ∨ counterAt s u r.ctr.toNat ≤ 0)) ∧
    (∃ (s : State), ∃ (u : Nat), ∃ (r : Record), ((r.cv = true → (s.tile u).store.bad1 = [] ∧ (s.tile u).store.bad2 = [])) ∧ (r.cv = true) ∧ (0 < counterAt s u r.ctr.toNat)) ∧
    (∃ (s : State), ∃ (t : Nat), ∃ (k : Nat), ∃ (off : Nat), ∃ (amt : Nat), ∃ (n : Nat), ∃ (rest : List Msg), ∃ (u : Nat), ((s.tile t).sch.sent = .tdec k off amt n :: rest) ∧ (slotTile s t k = some u) ∧ (msgFree s t (.tdec k off amt n) = true) ∧ (takes s u = true) ∧ (s.written u = false) ∧ (s.ownerOf u = s.ownerOf t)) ∧
    (∃ (s : State), ∃ (t : Nat), ∃ (u : Nat), ∃ (off : Nat), ∃ (amt : Nat), ∃ (n : Nat), (armedAt (s.tile u) off 4 = none) ∧ ((s.tile u).store.badWrite off 4 = none) ∧ (0 < counterAt s u off) ∧ (amt < counterAt s u off)) ∧
    (∃ (s : State), ∃ (t : Nat), ∃ (u : Nat), ∃ (off : Nat), ∃ (amt : Nat), ∃ (n : Nat), (armedAt (s.tile u) off 4 = none) ∧ ((s.tile u).store.badWrite off 4 = none) ∧ (0 < counterAt s u off) ∧ (counterAt s u off = amt)) ∧
    (∃ (s : State), ∃ (t : Nat), ∃ (e : RunEnt), ∃ (r : Record), ((s.tile t).sch.runl = [e]) ∧ ((s.tile t).sch.ready = []) ∧ (e.rcd = some r) ∧ (r.launch = true) ∧ (tileLive s t = true) ∧ (r.a0.toNat % 64 = 0) ∧ (r.a0.toNat + 64 ≤ 0x180000) ∧ ((s.tile t).store.bad1 = []) ∧ ((s.tile t).store.bad2 = [])) ∧
    (∃ (s : State), ∃ (t : Nat), ∃ (d : Nat), ((s.tile t).sch.wfe = some d) ∧ (0 < d) ∧ (d ≤ s.now)) ∧
    (∃ (s : State), ∃ (t : Nat), ∃ (k : Machine.Task), ∃ (d : Nat), ((s.tile t).sch.task = some k) ∧ (k.drainAt = some d) ∧ (d ≤ (s.tile t).sch.cycles) ∧ (committing s t = false) ∧ (k.immediate = false) ∧ (k.policy ≠ 1)) ∧
    (∃ (s : State), ∃ (t : Nat), ∃ (k : Machine.Task), ∃ (d : Nat), ((s.tile t).sch.task = some k) ∧ (k.drainAt = some d) ∧ (d ≤ (s.tile t).sch.cycles) ∧ (committing s t = false) ∧ (k.immediate = true ∨ k.policy = 1)) :=
  ⟨
    ⟨tl (sched { actor := some actor1 }) y0, 0, act0, actor1, ⟨rfl, rfl, rfl⟩, rfl, rfl, rfl, (by decide), (by decide), (by decide), (by decide)⟩,
    ⟨tl (sched { actor := some actor1, runl := [⟨some rec1, 0, 0, 0⟩] }) y0, 0, act0, actor1, ⟨some rec1, 0, 0, 0⟩, { h0 with immediate := false }, ⟨rfl, rfl, rfl⟩, rfl, (by intro u hu; change u ∈ [0] at hu; obtain rfl : u = 0 := (by simpa using hu); exact ⟨rfl, rfl⟩), rfl, rfl⟩,
    ⟨S, 0, ⟨some rec1, 0, 0, 0⟩, act0, actor1, h0, rfl⟩,
    ⟨tl {sched { actor := some actor1 } with inq := [(0, { depth := 4, toks := [.close] })]} y0, 0, act0, actor1, ⟨rfl, rfl, rfl⟩, rfl, rfl, rfl, rfl, rfl, rfl, (by intro u hu q hq; change u ∈ [0] at hu; obtain rfl : u = 0 := (by simpa using hu); change q ∈ [1] at hq; obtain rfl : q = 1 := (by simpa using hq); decide)⟩,
    ⟨tl {x0 with outq := [(1, { depth := 4, dest := some (1, 0), latch := [.scalar 5] })]} y0, 0, 1, 1, 0, 1, .scalar 5, [], rfl, rfl, rfl, rfl, rfl, (by decide), rfl⟩,
    ⟨tl {x0 with outq := [(1, { depth := 4, dest := some (1, 0), links := 1, toks := [⟨.scalar 5, 0⟩] })]} y0, 0, 1, 1, 0, 1, ⟨.scalar 5, 0⟩, [], rfl, rfl, rfl, rfl, rfl, rfl, rfl, rfl, rfl, (by decide), rfl⟩,
    ⟨tl {x0 with outq := [(1, { depth := 4, dest := some (1, 0), links := 0, toks := [⟨.scalar 5, 0⟩] })]} y0, 0, 1, 1, 0, 1, ⟨.scalar 5, 0⟩, [], rfl, rfl, rfl, rfl, rfl, rfl, rfl, rfl, rfl, rfl, rfl, rfl, rfl, (by decide), rfl⟩,
    ⟨{tl {x0 with outq := [(1, { depth := 4, dest := some (1, 0), links := 0, toks := [⟨.scalar 5, 0⟩] })]} y0 with parts := [{part0 with x1 := 0}]}, 0, 1, 1, 0, 1, ⟨.scalar 5, 0⟩, [], rfl, rfl, rfl, rfl, rfl, rfl, rfl, rfl, rfl, (by decide)⟩,
    ⟨tl {x0 with outq := [(1, { depth := 4, dest := some (1, 0), latch := [.scalar 5] })]} y0, 0, 1, .scalar 5, [], rfl, rfl⟩,
    ⟨tl (sched { actor := some actor1, sent := [.spawn 1 rec1 0] }) y0, 0, 1, rec1, 0, [], 1, rfl, rfl, rfl, rfl, rfl, rfl⟩,
    ⟨S, 1, rec1, (by decide), (by decide)⟩,
    ⟨S, 0, { rec1 with cv := true, ctr := 0x40 }, (by decide), rfl, (by decide)⟩,
    ⟨tl (sched { actor := some actor1, sent := [.tdec 1 0x40 3 0] }) y0, 0, 1, 0x40, 3, 0, [], 1, rfl, rfl, rfl, rfl, rfl, rfl⟩,
    ⟨S, 0, 0, 0x40, 3, 0, rfl, rfl, (by decide), (by decide)⟩,
    ⟨S, 0, 0, 0x44, 7, 0, rfl, rfl, (by decide), rfl⟩,
    ⟨tl (sched { actor := some actor1, runl := [⟨some { rec1 with launch := true, a0 := 0x40 }, 0, 0, 0⟩] }) y0, 0, ⟨some { rec1 with launch := true, a0 := 0x40 }, 0, 0, 0⟩, { rec1 with launch := true, a0 := 0x40 }, rfl, rfl, rfl, rfl, rfl, rfl, (by decide), rfl, rfl⟩,
    ⟨{tl (sched { wfe := some 5 }) y0 with now := 9}, 0, 5, rfl, (by decide), (by decide)⟩,
    ⟨tl (sched { task := some { immediate := false, drainAt := some 0 } }) y0, 0, { immediate := false, drainAt := some 0 }, 0, rfl, rfl, (by decide), rfl, rfl, (by decide)⟩,
    ⟨tl (sched { task := some { immediate := true, drainAt := some 0 } }) y0, 0, { immediate := true, drainAt := some 0 }, 0, rfl, rfl, (by decide), rfl, .inl rfl⟩⟩

theorem test_witness_ConfigurationsMove :
    (∃ (s : State), ∃ (m : SMsg), ∃ (r : List SMsg), (s.seqQ = m :: r)) ∧
    (∃ (s : State), ∃ (c : Cfg), ∃ (p : Partition), (s.part c.owner = some p) ∧ 
    let n := s.seqNext
    
    let u : State := { s with seqNext := n + 1, cfgs := s.cfgs ++ [{ c with sq := n }] }
    (p.frozen = false) ∧ (c.status ≠ 8)) ∧
    (∃ (s : State), ∃ (c : Cfg), ∃ (p : Partition), (s.part c.owner = some p) ∧ 
    let n := s.seqNext
    
    let u : State := { s with seqNext := n + 1, cfgs := s.cfgs ++ [{ c with sq := n }] }
    ∃ (start : Bool), (p.frozen = false) ∧ (c.status = 8)) ∧
    (∃ (s : State), ∃ (c : Cfg), ∃ (p : Partition), (s.part c.owner = some p) ∧ 
    let n := s.seqNext
    
    let u : State := { s with seqNext := n + 1, cfgs := s.cfgs ++ [{ c with sq := n }] }
    ∃ (start : Bool), (p.frozen = true)) ∧
    (∃ (s : State), ∃ (sq : Nat), ∃ (t : Nat), (t < 9216)) ∧
    (∃ (s : State), ∃ (t : Nat), ∃ (spare : Bool), (t < 9216)) ∧
    (∃ (s : State), ∃ (sq : Nat), ∃ (c : Cfg), ∃ (p : Partition), (s.cfg sq = some c) ∧ (c.st = .placed) ∧ (s.part c.owner = some p) ∧ (p.frozen = false) ∧ ((∀ d ∈ s.cfgs, d.ctx = c.ctx → d.stream = c.stream → sq ≤ d.sq)) ∧ ((s.ctx c.ctx).saved = []) ∧ (c.stream ∉ (s.ctx c.ctx).gate) ∧ ((s.ctx c.ctx).cqWait.length < 16) ∧ (c.resume = false) ∧ (c.redundant = false)) ∧
    (∃ (s : State), ∃ (sq : Nat), ∃ (c : Cfg), (s.cfg sq = some c) ∧ (c.st = .running) ∧ (c.redundant = false) ∧ (restful s c.image c.place = true) ∧ (outsideRest s sq = true) ∧ (c.dg = none)) ∧
    (∃ (s : State), ∃ (sq : Nat), ∃ (c : Cfg), ∃ (e : Nat), (s.cfg sq = some c) ∧ (c.stageEnd = some e) ∧ (c.stage = true) ∧ (e ≤ s.now) ∧ (c.st = .staged ∨ c.st = .waiting)) ∧
    (∃ (s : State), ∃ (sq : Nat), ∃ (c : Cfg), (s.cfg sq = some c) ∧ (c.st = .placed) ∧ (c.stream ∈ (s.ctx c.ctx).gate)) ∧
    (∃ (s : State), ∃ (sq : Nat), ∃ (c : Cfg), (s.cfg sq = some c) ∧ (c.st = .staged)) ∧
    (∃ (s : State), ∃ (sq : Nat), ∃ (c : Cfg), ∃ (at_ : Nat), ∃ (g : Nat), ∃ (n : Nat), ∃ (w : Word), ∃ (others : List RankDigest), (s.cfg sq = some c) ∧ (c.snapAt = some at_) ∧ (c.dg = some (g, n, w)) ∧ 
    let own := grpRank w
    
    let nr := grpNr w
    (others.length + 1 = nr) ∧ ((∀ r, r < nr → r ≠ own → ((others.map (·.rank)).filter (· == r)).length = 1)) ∧ ((∀ d ∈ others, d.rank ≠ own)) ∧ (s.now ≤ at_ + 20000)) ∧
    (∃ (own : Nat), ∃ (vs : List RankDigest), ∃ (v : RankDigest), (v ∈ vs) ∧ ((∀ w ∈ vs, w.regions = v.regions))) ∧
    (∃ (own : Nat), ∃ (v : RankDigest), ∃ (w : RankDigest), (v.regions ≠ w.regions)) ∧
    (∃ (s : State), ∃ (sq : Nat), ∃ (c : Cfg), ∃ (at_ : Nat), (s.cfg sq = some c) ∧ (c.snapAt = some at_) ∧ (at_ + 20000 ≤ s.now)) ∧
    (∃ (s : State), ∃ (sq : Nat), ∃ (c : Cfg), ∃ (a : RedRun), ∃ (b : RedRun), (s.cfg sq = some c) ∧ (c.redundant = true) ∧ (c.st = .running) ∧ (a.done = true) ∧ (b.done = true) ∧ (c.runs = [a, b]) ∧ (a.sig = b.sig)) ∧
    (∃ (s : State), ∃ (sq : Nat), ∃ (c : Cfg), ∃ (a : RedRun), ∃ (b : RedRun), (s.cfg sq = some c) ∧ (c.redundant = true) ∧ (c.st = .running) ∧ (a.done = true) ∧ (b.done = true) ∧ (c.runs = [a, b]) ∧ (a.sig ≠ b.sig)) ∧
    (∃ (s : State), ∃ (sq : Nat), ∃ (c : Cfg), ∃ (a : RedRun), ∃ (b : RedRun), ∃ (r : RedRun), (s.cfg sq = some c) ∧ (c.redundant = true) ∧ (c.st = .running) ∧ (a.done = true) ∧ (b.done = true) ∧ (r.done = true) ∧ (c.runs = [a, b, r]) ∧ (r.sig = a.sig)) ∧
    (∃ (s : State), ∃ (sq : Nat), ∃ (c : Cfg), ∃ (a : RedRun), ∃ (b : RedRun), ∃ (r : RedRun), (s.cfg sq = some c) ∧ (c.redundant = true) ∧ (c.st = .running) ∧ (a.done = true) ∧ (b.done = true) ∧ (r.done = true) ∧ (c.runs = [a, b, r]) ∧ (r.sig ≠ a.sig) ∧ (r.sig = b.sig)) ∧
    (∃ (s : State), ∃ (sq : Nat), ∃ (c : Cfg), ∃ (a : RedRun), ∃ (b : RedRun), ∃ (r : RedRun), (s.cfg sq = some c) ∧ (c.redundant = true) ∧ (c.st = .running) ∧ (a.done = true) ∧ (b.done = true) ∧ (r.done = true) ∧ (c.runs = [a, b, r]) ∧ (r.sig ≠ a.sig) ∧ (r.sig ≠ b.sig)) :=
  ⟨
    ⟨{S with seqQ := [.endNotice 1]}, .endNotice 1, [], rfl⟩,
    ⟨S, cfg0, part0, rfl, rfl, (by decide)⟩,
    ⟨S, {cfg0 with status := 8}, part0, rfl, true, rfl, rfl⟩,
    ⟨{S with parts := [{part0 with frozen := true}]}, cfg0, {part0 with frozen := true}, rfl, true, rfl⟩,
    ⟨S, 1, 5, (by decide)⟩,
    ⟨S, 1, true, (by decide)⟩,
    ⟨cf {cfg0 with st := .placed}, 1, {cfg0 with st := .placed}, part0, rfl, rfl, rfl, rfl, (by decide), rfl, (by decide), (by decide), rfl, rfl⟩,
    ⟨tl rest0 rest1, 1, cfg0, rfl, rfl, rfl, rfl, rfl, rfl⟩,
    ⟨cf {cfg0 with st := .staged, stage := true, stageEnd := some 0}, 1, {cfg0 with st := .staged, stage := true, stageEnd := some 0}, 0, rfl, rfl, rfl, (by decide), .inl rfl⟩,
    ⟨{cf {cfg0 with st := .placed} with ctxs := [(1, { owner := 1, gate := [0] })]}, 1, {cfg0 with st := .placed}, rfl, rfl, .head _⟩,
    ⟨cf {cfg0 with st := .staged}, 1, {cfg0 with st := .staged}, rfl, rfl⟩,
    ⟨cf {cfg0 with snapAt := some 0, dg := some (0, 0, 0x8000200000000000)}, 1, {cfg0 with snapAt := some 0, dg := some (0, 0, 0x8000200000000000)}, 0, 0, 0, 0x8000200000000000, [⟨1, []⟩], rfl, rfl, rfl, rfl, (by decide), (by decide), (by decide)⟩,
    ⟨0, [⟨1, []⟩, ⟨2, []⟩], ⟨1, []⟩, (by decide), (by decide)⟩,
    ⟨0, ⟨1, []⟩, ⟨2, [(0, 1, 2)]⟩, (by decide)⟩,
    ⟨{cf {cfg0 with snapAt := some 0} with now := 30000}, 1, {cfg0 with snapAt := some 0}, 0, rfl, rfl, (by decide)⟩,
    ⟨cf {cfg0 with redundant := true, runs := [run0 0 1 (1, 2), run0 2 3 (1, 2)]}, 1, {cfg0 with redundant := true, runs := [run0 0 1 (1, 2), run0 2 3 (1, 2)]}, run0 0 1 (1, 2), run0 2 3 (1, 2), rfl, rfl, rfl, rfl, rfl, rfl, rfl⟩,
    ⟨cf {cfg0 with redundant := true, runs := [run0 0 1 (1, 2), run0 2 3 (1, 3)]}, 1, {cfg0 with redundant := true, runs := [run0 0 1 (1, 2), run0 2 3 (1, 3)]}, run0 0 1 (1, 2), run0 2 3 (1, 3), rfl, rfl, rfl, rfl, rfl, rfl, (by decide)⟩,
    ⟨cf {cfg0 with redundant := true, runs := [run0 0 1 (1, 2), run0 2 3 (1, 3), run0 0 1 (1, 2)]}, 1, {cfg0 with redundant := true, runs := [run0 0 1 (1, 2), run0 2 3 (1, 3), run0 0 1 (1, 2)]}, run0 0 1 (1, 2), run0 2 3 (1, 3), run0 0 1 (1, 2), rfl, rfl, rfl, rfl, rfl, rfl, rfl, rfl⟩,
    ⟨cf {cfg0 with redundant := true, runs := [run0 0 1 (1, 2), run0 2 3 (1, 3), run0 0 1 (1, 3)]}, 1, {cfg0 with redundant := true, runs := [run0 0 1 (1, 2), run0 2 3 (1, 3), run0 0 1 (1, 3)]}, run0 0 1 (1, 2), run0 2 3 (1, 3), run0 0 1 (1, 3), rfl, rfl, rfl, rfl, rfl, rfl, rfl, (by decide), rfl⟩,
    ⟨cf {cfg0 with redundant := true, runs := [run0 0 1 (1, 2), run0 2 3 (1, 3), run0 0 1 (1, 4)]}, 1, {cfg0 with redundant := true, runs := [run0 0 1 (1, 2), run0 2 3 (1, 3), run0 0 1 (1, 4)]}, run0 0 1 (1, 2), run0 2 3 (1, 3), run0 0 1 (1, 4), rfl, rfl, rfl, rfl, rfl, rfl, rfl, (by decide), (by decide)⟩⟩

theorem test_witness_PlacementMoves :
    (∃ (s : State), ∃ (f : Nat), (f < 64) ∧ 
    let at_ := 64 * (s.field f).sampN
    (at_ ≤ s.now) ∧ ((∀ p ∈ s.parts, p.inField f = true → at_ < p.winEnd))) ∧
    (∃ (s : State), ∃ (f : Nat), (f < 64) ∧ 
    let at_ := 64 * (s.field f).sampN
    (at_ ≤ s.now) ∧ ((∀ p ∈ s.parts, p.inField f = true → at_ < p.winEnd)) ∧ ∃ (t : Nat), ∃ (p : Partition), ∃ (a : ActorRef), (fieldOf t = f) ∧ (s.partOf t = some p) ∧ (p.winStart ≤ at_) ∧ ((s.tile t).sch.actor = some a)) ∧
    (∃ (s : State), ∃ (o : Nat), ∃ (p : Partition), (s.part o = some p) ∧ 
    let e := p.winStart + 1000 * Nat.max 1 (p.rbNow.toNat / 2 ^ 16 % 2 ^ 16)
    (e ≤ s.now) ∧ ((∀ f, f < 64 → p.inField f = true → e ≤ 64 * (s.field f).sampN))) ∧
    (∃ (s : State), ∃ (o : Nat), ∃ (p : Partition), (s.part o = some p) ∧ 
    let e := p.winStart + 1000 * Nat.max 1 (p.rbNow.toNat / 2 ^ 16 % 2 ^ 16)
    (e ≤ s.now) ∧ ((∀ f, f < 64 → p.inField f = true → e ≤ 64 * (s.field f).sampN)) ∧ ∃ (t : Nat), ∃ (a : ActorRef), (p.has t = true) ∧ ((s.tile t).sch.actor = some a)) ∧
    (∃ (s : State), ∃ (o : Nat), ∃ (p : Partition), ∃ (c : Cfg), ∃ (slot : Nat), ∃ (t : Nat), (s.part o = some p) ∧ (s.cfgs = [c]) ∧ (c.owner = o) ∧ (c.members = [(slot, 0, t)]) ∧ (slot < c.slots) ∧ 
    let aim (v : Option Nat) := s.modTile t fun x =>
      { x with sch := { x.sch with actor := x.sch.actor.map fun a => { a with moveTo := v } } }
    ∃ (u : Nat), ((s.tile t).sch.actor.bind (·.moveTo) = some u) ∧ (c.st = .running) ∧ (s.unreachable t = false) ∧ (takes s u = true) ∧ ((s.tile u).noClock = false) ∧ (moveReady s t = true) ∧ ∃ v, (readTile s t (· == .lc) = .ok v)) ∧
    (∃ (s : State), ∃ (o : Nat), ∃ (p : Partition), ∃ (c : Cfg), ∃ (slot : Nat), ∃ (t : Nat), (s.part o = some p) ∧ (s.cfgs = [c]) ∧ (c.owner = o) ∧ (c.members = [(slot, 0, t)]) ∧ (slot < c.slots) ∧ 
    let aim (v : Option Nat) := s.modTile t fun x =>
      { x with sch := { x.sch with actor := x.sch.actor.map fun a => { a with moveTo := v } } }
    ∃ (u : Nat), ((s.tile t).sch.actor.bind (·.moveTo) = some u) ∧ (c.st = .running) ∧ (s.unreachable t = false) ∧ (takes s u = true) ∧ ((s.tile u).noClock = false) ∧ (moveReady s t = true) ∧ (∃ a, readTile s t (· == .lc) = .error a)) ∧
    (∃ (s : State), ∃ (o : Nat), ∃ (p : Partition), ∃ (c : Cfg), ∃ (slot : Nat), ∃ (t : Nat), (s.part o = some p) ∧ (s.cfgs = [c]) ∧ (c.owner = o) ∧ (c.members = [(slot, 0, t)]) ∧ (slot < c.slots) ∧ 
    let aim (v : Option Nat) := s.modTile t fun x =>
      { x with sch := { x.sch with actor := x.sch.actor.map fun a => { a with moveTo := v } } }
    ∃ (u : Nat), ((s.tile t).sch.actor.bind (·.moveTo) = some u) ∧ (c.st ≠ .running ∨ s.unreachable t = true ∨ takes s u = false ∨ (s.tile u).noClock = true)) ∧
    (∃ (s : State), ∃ (m : MigrSpec), ∃ (at_ : Nat), ∃ (p : Nat), ∃ (u : State), (s.migr = none) ∧ (walkCtx s m.ctx m.va.toNat (leafLowOf m.size) = .ok (at_, p, u)) ∧ (p / 2 ^ 10 % 2 = 0) ∧ 
    let old := p / 2 ^ 16 % 2 ^ 36 * 65536
    (pageOwned u m old = true)) ∧
    (∃ (s : State), ∃ (g : Migr), (s.migr = some g) ∧ (pageBusy s g = false) ∧ (pageHeld s g = false) ∧ (pageOwned s g.spec g.oldPa = true)) ∧
    (∃ (s : State), ∃ (g : Migr), (s.migr = some g) ∧ (pageBusy s g = false) ∧ (pageHeld s g = false) ∧ (pageOwned s g.spec g.oldPa = false)) ∧
    (∃ (s : State), ∃ (g : Migr), (s.migr = some g) ∧ (pageBusy s g = false) ∧ (pageHeld s g = true) ∧ (g.step ≠ 3)) ∧
    (∃ (s : State), ∃ (g : Migr), (s.migr = some g) ∧ (g.step = 3)) ∧
    (∃ (s : State), ∃ (t : Nat), 
    let x := s.tile t
    
    let per := 100 * Nat.max 1 ((s.field (fieldOf t)).hbctl.toNat % 2 ^ 16)
    (x.lastBeat + per * (x.missed + 1) ≤ s.now) ∧ (x.dead = false) ∧ (s.tileState t ≠ 3)) ∧
    (∃ (s : State), ∃ (t : Nat), ((s.tile t).dead = false) ∧ (s.tileState t ≠ 3) ∧ (Nat.max 1 ((s.field (fieldOf t)).hbctl.toNat / 2 ^ 16 % 2 ^ 8) ≤ (s.tile t).missed)) ∧
    (∃ (s : State), ∃ (t : Nat), (t < 9216)) :=
  ⟨
    ⟨S, 3, (by decide), (by decide), (by decide)⟩,
    ⟨S, 0, (by decide), (by decide), (by decide), 0, part0, actor1, rfl, rfl, (by decide), rfl⟩,
    ⟨{S with now := 1000000, fields := [(0, { sampN := 100000 })]}, 1, part0, rfl, (by decide), (by decide)⟩,
    ⟨{S with now := 1000000, fields := [(0, { sampN := 100000 })]}, 1, part0, rfl, (by decide), (by decide), 0, actor1, rfl, rfl⟩,
    ⟨{tl (sched { actor := some { actor1 with moveTo := some 2 } }) y0 with cfgs := [{cfg0 with place := [(0, 0)], reserves := [2]}]}, 1, part0, {cfg0 with place := [(0, 0)], reserves := [2]}, 0, 0, rfl, rfl, rfl, rfl, (by decide), 2, rfl, rfl, rfl, rfl, rfl, rfl, {tl (sched { actor := some { actor1 with moveTo := some 2 } }) y0 with cfgs := [{cfg0 with place := [(0, 0)], reserves := [2]}]}, rfl⟩,
    ⟨badS, 1, part0, {cfg0 with place := [(0, 0)], reserves := [2]}, 0, 0, rfl, rfl, rfl, rfl, (by decide), 2, rfl, rfl, rfl, rfl, rfl, rfl, badS_error⟩,
    ⟨{S with tiles := [(0, (sched { actor := some { actor1 with moveTo := some 2 } })), (2, {y0 with fenced := true})], cfgs := [{cfg0 with place := [(0, 0)], reserves := [2]}]}, 1, part0, {cfg0 with place := [(0, 0)], reserves := [2]}, 0, 0, rfl, rfl, rfl, rfl, (by decide), 2, rfl, .inr (.inr (.inl rfl))⟩,
    ⟨{S with ctxs := [(1, { owner := 1, root := 0x10000 })], dram := { bytes := [(0x10000, 1), (0x10002, 2), (0x20000, 1), (0x20002, 3), (0x30000, 1), (0x30002, 4), (0x40000, 0x0B), (0x40002, 5)] }}, mig0, 262144, 327691, (match walkCtx {S with ctxs := [(1, { owner := 1, root := 0x10000 })], dram := { bytes := [(0x10000, 1), (0x10002, 2), (0x20000, 1), (0x20002, 3), (0x30000, 1), (0x30002, 4), (0x40000, 0x0B), (0x40002, 5)] }} 1 0 (leafLowOf 0) with | .ok r => r.2.2 | .error _ => {}), rfl, rfl, rfl, rfl⟩,
    ⟨{S with migr := some { spec := mig0, oldPa := 0x40000, pteAt := 0, step := 1 }}, { spec := mig0, oldPa := 0x40000, pteAt := 0, step := 1 }, rfl, rfl, rfl, rfl⟩,
    ⟨{S with migr := some { spec := mig0, oldPa := 0x400000, pteAt := 0, step := 1 }}, { spec := mig0, oldPa := 0x400000, pteAt := 0, step := 1 }, rfl, rfl, rfl, rfl⟩,
    ⟨{S with migr := some { spec := mig0, oldPa := 0x40000, pteAt := 0, step := 1 }, slices := [(5, { wins := [⟨0x40000, {}, 0, 0, 0, 1⟩] })]}, { spec := mig0, oldPa := 0x40000, pteAt := 0, step := 1 }, rfl, rfl, rfl, (by decide)⟩,
    ⟨{S with migr := some { spec := mig0, oldPa := 0x40000, pteAt := 0, step := 3 }}, { spec := mig0, oldPa := 0x40000, pteAt := 0, step := 3 }, rfl, rfl⟩,
    ⟨{S with now := 100000}, 0, (by decide), rfl, (by decide)⟩,
    ⟨tl {x0 with missed := 4} y0, 0, rfl, (by decide), (by decide)⟩,
    ⟨S, 0, (by decide)⟩⟩

theorem test_witness_PowerMoves :
    (∃ (s : State), ∃ (t : Nat), ∃ (m : SensorReading), (t < 9216)) ∧
    (∃ (s : State), ∃ (t : Nat), ∃ (m : SensorReading), (t < 9216) ∧ ((s.field (fieldOf t)).sw.ms = s.now / 1000000)) ∧
    (∃ (s : State), ∃ (f : Nat), (f < 64) ∧ ((s.field f).throtAt + 100000 ≤ s.now) ∧ 
    let y := s.field f
    
    let temp := (fieldTemp2 s f).getD 0
    ((3360 < temp ∨ (y.throttled = true ∧ 3200 ≤ temp))) ∧ (560 ≤ y.compMv)) ∧
    (∃ (s : State), ∃ (f : Nat), (f < 64) ∧ ((s.field f).throtAt + 100000 ≤ s.now) ∧ 
    let y := s.field f
    
    let temp := (fieldTemp2 s f).getD 0
    ((3360 < temp ∨ (y.throttled = true ∧ 3200 ≤ temp))) ∧ (560 ≤ y.compMv) ∧ (y.sw.ms = s.now / 1000000)) ∧
    (∃ (s : State), ∃ (f : Nat), (f < 64) ∧ ((s.field f).throtAt + 100000 ≤ s.now) ∧ 
    let y := s.field f
    
    let temp := (fieldTemp2 s f).getD 0
    ((3360 < temp ∨ (y.throttled = true ∧ 3200 ≤ temp))) ∧ (y.compMv < 560)) ∧
    (∃ (s : State), ∃ (f : Nat), (f < 64) ∧ ((s.field f).throtAt + 100000 ≤ s.now) ∧ 
    let y := s.field f
    
    let temp := (fieldTemp2 s f).getD 0
    (¬ (3360 < temp ∨ (y.throttled = true ∧ 3200 ≤ temp)))) ∧
    (∃ (s : State), ∃ (f : Nat), ∃ (occ : Nat), (f < 64) ∧ ((s.field f).govAt + 10000 ≤ s.now)) ∧
    (∃ (s : State), ∃ (f : Nat), (f < 64) ∧ ((s.field f).swNext < s.now / 1000000) ∧ 
    let y := s.field f
    
    let r := stopwatchBytes f (nextAcc s f) y.swLost s.free
    ∃ (n : Nat), (s.tm.size = some n) ∧ ((s.tm.head.toNat + 1) % n ≠ s.tm.tail.toNat % n)) ∧
    (∃ (s : State), ∃ (f : Nat), (f < 64) ∧ ((s.field f).swNext < s.now / 1000000) ∧ 
    let y := s.field f
    
    let r := stopwatchBytes f (nextAcc s f) y.swLost s.free
    (s.tm.size = none)) ∧
    (∃ (s : State), ∃ (f : Nat), ∃ (at_ : Nat), ∃ (c : Cfg), ∃ (rest : List Cfg), (killWaits s ((s.cfgs.filter (·.ctx == c.ctx)).map Cfg.tiles).flatten = true) ∧ ((s.field f).overSince = some at_) ∧ (at_ + 1000 * Nat.max 1 ((s.field f).icrit.toNat / 2 ^ 16 % 2 ^ 16) ≤ s.now) ∧ (2 * ((s.field f).icrit.toNat % 65536) < fieldCurrent2 s f) ∧ (killOrder s f = c :: rest)) ∧
    (∃ (s : State), ∃ (f : Nat), ∃ (at_ : Nat), ∃ (c : Cfg), ∃ (rest : List Cfg), (killWaits s ((s.cfgs.filter (·.ctx == c.ctx)).map Cfg.tiles).flatten = false) ∧ ((s.field f).overSince = some at_) ∧ (at_ + 1000 * Nat.max 1 ((s.field f).icrit.toNat / 2 ^ 16 % 2 ^ 16) ≤ s.now) ∧ (2 * ((s.field f).icrit.toNat % 65536) < fieldCurrent2 s f) ∧ (killOrder s f = c :: rest)) ∧
    (∃ (s : State), ∃ (f : Nat), ∃ (n : Nat), ∃ (p : Nat × Nat), ((((fieldTiles f).map fun t => (s.tile t).net.map fun a => (t, a.id)).flatten)[n]? = some p) ∧ (p ∉ (s.field f).mesh)) :=
  ⟨
    ⟨{S with now := 3000000}, 0, { mv := 1, temp := 1, cur := 1 }, (by decide)⟩,
    ⟨{S with now := 3000000, fields := [(0, { fld0 with sw := { ms := 3 } })]}, 0, { mv := 1, temp := 1, cur := 1 }, (by decide), rfl⟩,
    ⟨{tl {x0 with sens := { hist := [{mv := 0, temp := 4000, cur := 0}] }} y0 with now := 3000000}, 0, (by decide), (by decide), .inl (by decide +kernel), (by decide)⟩,
    ⟨{tl {x0 with sens := { hist := [{mv := 0, temp := 4000, cur := 0}] }} y0 with now := 3000000, fields := [(0, { fld0 with sw := { ms := 3 } })]}, 0, (by decide), (by decide), .inl (by decide +kernel), (by decide), rfl⟩,
    ⟨{tl {x0 with sens := { hist := [{mv := 0, temp := 4000, cur := 0}] }} y0 with now := 3000000, fields := [(0, { fld0 with compMv := 555 })]}, 0, (by decide), (by decide), .inl (by decide +kernel), (by decide)⟩,
    ⟨{S with now := 3000000}, 0, (by decide), (by decide), (by decide +kernel)⟩,
    ⟨{S with now := 3000000}, 0, 70, (by decide), (by decide)⟩,
    ⟨{S with now := 3000000, tm := { log := 8, tail := 9 }}, 0, (by decide), (by decide), 256, rfl, (by decide)⟩,
    ⟨{S with now := 3000000}, 0, (by decide), (by decide), rfl⟩,
    ⟨{S with tiles := [(0, {x0 with sens := { hist := [⟨850, 0, 10⟩] }, sch := { x0.sch with fx := { phase := 3 } }}), (1, y0)], fields := [(0, {fld0 with overSince := some 0, icrit := 0})], now := 3000000}, 0, 0, cfg0, [], rfl, rfl, (by decide), (by decide), (by show List.mergeSort [cfg0] _ = _; exact List.mergeSort_singleton ..)⟩,
    ⟨{S with tiles := [(0, {x0 with sens := { hist := [⟨850, 0, 10⟩] }}), (1, y0)], fields := [(0, {fld0 with overSince := some 0, icrit := 0})], now := 3000000}, 0, 0, cfg0, [], rfl, rfl, (by decide), (by decide), (by show List.mergeSort [cfg0] _ = _; exact List.mergeSort_singleton ..)⟩,
    ⟨tl (net x0 (at0 .feclr)) y0, 0, 0, (0, 0), rfl, (by decide)⟩⟩

theorem test_witness_SecurityMoves :
    (∃ (s : State), ∃ (b : BootInput), ∃ (f : List Byte), ∃ (ds : List (Bool × List Byte)), (b.romOk = true) ∧ (b.fw = (true, f) :: ds) ∧ (b.repairOk = true)) ∧
    (∃ (s : State), ∃ (b : BootInput), (b.romOk = true) ∧ ((∀ e ∈ b.fw, e.1 = false))) ∧
    (∃ (s : State), ∃ (b : BootInput), (b.romOk = false)) ∧
    (∃ (s : State), ∃ (q : PartSpec), (partOk s q = true)) ∧
    (∃ (s : State), ∃ (q : PartSpec), (partOk s q = true)) ∧
    (∃ (s : State), ∃ (o : Nat), ∃ (p : Partition), (s.part o = some p) ∧ ((p.frozen = true ∨ ∀ c ∈ s.cfgs, ∀ t ∈ c.tiles, p.has t = false))) ∧
    (∃ (c : Sec), ∃ (fails : Bool), ∃ (i : Nat), ∃ (d : Sec), (c.nextIndex fails = (some i, d))) ∧
    (∃ (s : State), ∃ (o : Nat), ∃ (ctx : Nat), ∃ (m : List Byte), ∃ (p : List Byte), ((∀ n, (s.sec.measure n).length = 32))) ∧
    (∃ (s : State), ∃ (o : Nat), ∃ (n : List Byte), ∃ (p : Partition), (s.part o = some p) ∧ (n.length = 32) ∧ (s.sec.boot = 8)) ∧
    (∃ (s : State), ∃ (o : Nat), ∃ (ct : List Byte), ∃ (n : List Byte), ∃ (k : Nat), ∃ (p : Partition), (s.part o = some p) ∧ (p.hs = some (n, k)) ∧ (ct.length = 1568)) ∧
    (∃ (s : State), ∃ (a : Nat), (2 ≤ alarmLevel s.sec.alarmpol .lid)) ∧
    (∃ (s : State), ∃ (o : Nat), ∃ (p : Partition), (s.part o = some p) ∧ (p.rejFired = false) ∧ (s.sec.alarmpol.toNat / 2 ^ 16 % 2 ^ 16 < p.rejects)) ∧
    (∃ (s : State), ∃ (o : Nat), ∃ (p : Partition), ∃ (key : List Byte), ∃ (tag : List Byte), (s.part o = some p) ∧ (p.sess = some key) ∧ (p.frozen = true) ∧ (tag = kmac256 key (Config.unfreezeMessage o) Config.unfreezeLength Config.unfreezeCustom)) ∧
    (∃ (s : State), ∃ (p : Nat), (p < 4) ∧ (s.sec.boot = 8) ∧ 
    let y : LinkPort := tget {} s.links p
    
    let k := Config.linkSecret s.free
    
    let keyed (y : LinkPort) : LinkPort :=
      { y with frames := 0, framesIn := 0, keys := y.keys + 1, keyOut := k.take 32, keyIn := (k.drop 32).take 32 }
    (y.st = 0 ∨ y.st = 3)) ∧
    (∃ (s : State), ∃ (p : Nat), (p < 4) ∧ (s.sec.boot = 8) ∧ 
    let y : LinkPort := tget {} s.links p
    
    let k := Config.linkSecret s.free
    
    let keyed (y : LinkPort) : LinkPort :=
      { y with frames := 0, framesIn := 0, keys := y.keys + 1, keyOut := k.take 32, keyIn := (k.drop 32).take 32 }
    ∃ (q : List Byte), ∃ (c : List Byte), (y.st = 1) ∧ ((y.quote.drop 0x10).take 5 ≠ List.replicate 5 0xFF)) ∧
    (∃ (s : State), ∃ (p : Nat), (p < 4) ∧ (s.sec.boot = 8) ∧ 
    let y : LinkPort := tget {} s.links p
    
    let k := Config.linkSecret s.free
    
    let keyed (y : LinkPort) : LinkPort :=
      { y with frames := 0, framesIn := 0, keys := y.keys + 1, keyOut := k.take 32, keyIn := (k.drop 32).take 32 }
    ∃ (frame : List Byte), ∃ (tag : List Byte), (y.st = 2) ∧ (tag ≠ y.tagIn p frame) ∧ (y.fails < 15) ∧ (Nat.max y.frames y.framesIn + 1 < 2 ^ 40)) ∧
    (∃ (s : State), ∃ (p : Nat), (p < 4) ∧ (s.sec.boot = 8) ∧ 
    let y : LinkPort := tget {} s.links p
    
    let k := Config.linkSecret s.free
    
    let keyed (y : LinkPort) : LinkPort :=
      { y with frames := 0, framesIn := 0, keys := y.keys + 1, keyOut := k.take 32, keyIn := (k.drop 32).take 32 }
    ∃ (frame : List Byte), ∃ (tag : List Byte), (y.st = 2) ∧ (tag ≠ y.tagIn p frame) ∧ (y.fails < 15) ∧ (2 ^ 40 ≤ Nat.max y.frames y.framesIn + 1)) ∧
    (∃ (s : State), ∃ (p : Nat), (p < 4) ∧ (s.sec.boot = 8) ∧ 
    let y : LinkPort := tget {} s.links p
    
    let k := Config.linkSecret s.free
    
    let keyed (y : LinkPort) : LinkPort :=
      { y with frames := 0, framesIn := 0, keys := y.keys + 1, keyOut := k.take 32, keyIn := (k.drop 32).take 32 }
    ∃ (frame : List Byte), ∃ (tag : List Byte), (y.st = 2) ∧ (tag ≠ y.tagIn p frame) ∧ (y.fails = 15)) ∧
    (∃ (s : State), ∃ (p : Nat), (p < 4) ∧ (s.sec.boot = 8) ∧ 
    let y : LinkPort := tget {} s.links p
    
    let k := Config.linkSecret s.free
    
    let keyed (y : LinkPort) : LinkPort :=
      { y with frames := 0, framesIn := 0, keys := y.keys + 1, keyOut := k.take 32, keyIn := (k.drop 32).take 32 }
    (y.st = 2)) ∧
    (∃ (s : State), ∃ (p : Nat), (p < 4) ∧ (s.sec.boot = 8)) :=
  ⟨
    ⟨S, boot0 true, [1], [], rfl, rfl, rfl⟩,
    ⟨S, boot0 false, rfl, (by decide)⟩,
    ⟨S, { boot0 true with romOk := false }, rfl⟩,
    ⟨{S with sec := { boot := 8 }}, spec0, rfl⟩,
    ⟨{S with sec := { boot := 8 }}, {spec0 with granules := [1]}, rfl⟩,
    ⟨{S with parts := [{part0 with frozen := true}]}, 1, {part0 with frozen := true}, rfl, .inl rfl⟩,
    ⟨{ boot := 8, idOk := true }, false, 0, ({ boot := 8, idOk := true } : Sec).nextIndex false |>.2, rfl⟩,
    ⟨{S with sec := {}}, 1, 0, [], [], (by intro n; rfl)⟩,
    ⟨{S with sec := { boot := 8 }}, 1, List.replicate 32 0, part0, rfl, rfl, rfl⟩,
    ⟨{S with parts := [{part0 with hs := some ([], 3)}]}, 1, List.replicate 1568 0, [], 3, {part0 with hs := some ([], 3)}, rfl, rfl, List.length_replicate ..⟩,
    ⟨{S with sec := { alarmpol := 0xFFFFFFFFFFFFFFFF }}, 0, (by decide)⟩,
    ⟨{S with parts := [{part0 with rejects := 200000}]}, 1, {part0 with rejects := 200000}, rfl, rfl, (by decide +kernel)⟩,
    ⟨{S with parts := [{part0 with sess := some [7], frozen := true}]}, 1, {part0 with sess := some [7], frozen := true}, [7], kmac256 [7] (Config.unfreezeMessage 1) Config.unfreezeLength Config.unfreezeCustom, rfl, rfl, rfl, rfl⟩,
    ⟨{S with sec := { boot := 8 }}, 1, (by decide), rfl, .inl rfl⟩,
    ⟨{S with sec := { boot := 8 }, links := [(1, { st := 1 })]}, 1, (by decide), rfl, [], [], rfl, (by decide)⟩,
    ⟨{S with sec := { boot := 8 }, links := [(1, {st := 2})]}, 1, (by decide), rfl, [], 0 :: ({st := 2} : LinkPort).tagIn 1 [], rfl, List.cons_ne_self _ _, (by decide), (by decide)⟩,
    ⟨{S with sec := { boot := 8 }, links := [(1, {st := 2, framesIn := 1099511627775})]}, 1, (by decide), rfl, [], 0 :: ({st := 2, framesIn := 1099511627775} : LinkPort).tagIn 1 [], rfl, List.cons_ne_self _ _, (by decide), (by decide)⟩,
    ⟨{S with sec := { boot := 8 }, links := [(1, {st := 2, fails := 15})]}, 1, (by decide), rfl, [], 0 :: ({st := 2, fails := 15} : LinkPort).tagIn 1 [], rfl, List.cons_ne_self _ _, rfl⟩,
    ⟨{S with sec := { boot := 8 }, links := [(1, { st := 2 })]}, 1, (by decide), rfl, rfl⟩,
    ⟨{S with sec := { boot := 8 }}, 1, (by decide), rfl⟩⟩

theorem test_witness_HostMoves :
    (∃ (s : State), ∃ (pa : Nat), (s.sec.ide = true) ∧ (pa < 256 * 8 * 2 ^ 30) ∧ 
    let line := pa / 64 * 64
    (granOwnerOf s pa = 0) ∧ (Quiescent s (.dram line) 64)) ∧
    (∃ (s : State), ∃ (pa : Nat), (s.sec.ide = true) ∧ (pa < 256 * 8 * 2 ^ 30) ∧ 
    let line := pa / 64 * 64
    (granOwnerOf s pa ≠ 0)) ∧
    (∃ (s : State), ∃ (pa : Nat), (s.sec.ide = true) ∧ (pa < 256 * 8 * 2 ^ 30) ∧ 
    let line := pa / 64 * 64
    ∃ (d : List Byte), (d ≠ []) ∧ (pa + d.length ≤ line + 64) ∧ (granOwnerOf s pa = 0) ∧ (Quiescent s (.dram pa) d.length)) ∧
    (∃ (s : State), ∃ (pa : Nat), (s.sec.ide = true) ∧ (pa < 256 * 8 * 2 ^ 30) ∧ 
    let line := pa / 64 * 64
    ∃ (d : List Byte), (d ≠ []) ∧ (pa + d.length ≤ line + 64) ∧ (granOwnerOf s pa ≠ 0)) ∧
    (∃ (s : State), ∃ (c : Nat), ∃ (n : Nat), ∃ (v : BitVec 32), (ringSize (s.ctx c).sqlog = some n) ∧ (s.sec.ide = true) ∧ (v.toNat < n)) ∧
    (∃ (s : State), ∃ (n : Nat), ∃ (i : Nat), ∃ (v : Word), (csrLevel n = some .user) ∧ (i < 9216)) ∧
    (∃ (s : State), ∃ (n : Nat), ∃ (i : Nat), ∃ (v : Word), (csrLevel n = some .ref) ∧ (s.part i ≠ none)) ∧
    (∃ (s : State), ∃ (n : Nat), ∃ (i : Nat), ∃ (v : Word), (csrLevel n = some .refRo) ∧ (n ≠ 0x182)) ∧
    (∃ (s : State), ∃ (n : Nat), ∃ (v : Word), (n < 64)) ∧
    (∃ (s : State), ∃ (n : Nat), ∃ (v : Word), (n < 64) ∧ ∃ (m : Nat), (m ≠ n)) ∧
    (∃ (s : State), ∃ (c : Nat), ∃ (v : Word), (c < 256)) ∧
    (∃ (s : State), ∃ (c : Nat), ∃ (v : Word), (v.getLsbD 1 = false)) ∧
    (∃ (s : State), ∃ (c : Nat), ∃ (v : BitVec 32), (c < 256) ∧ (s.sec.ide = true) ∧ ((s.ctx c).cqWait = [])) ∧
    (∃ (s : State), ∃ (v : Word), (s.sec.ide = true)) ∧
    (∃ (s : State), ∃ (n : Nat), ∃ (v : Word), (n < 16)) :=
  ⟨
    ⟨{S with sec := { ide := true }}, 0x200040, rfl, (by decide), rfl, ⟨rfl, by decide⟩⟩,
    ⟨{S with sec := { ide := true }}, 0x40, rfl, (by decide), (by decide)⟩,
    ⟨{S with sec := { ide := true }}, 0x200040, rfl, (by decide), [7], (by decide), (by decide), rfl, ⟨rfl, by decide⟩⟩,
    ⟨{S with sec := { ide := true }}, 0x40, rfl, (by decide), [7], (by decide), (by decide), (by decide)⟩,
    ⟨{S with sec := { ide := true }, ctxs := [(1, { owner := 1, sqlog := 4 })]}, 1, 16, 3, rfl, rfl, (by decide)⟩,
    ⟨{S with sec := { ide := true }}, 5, 1, 3, rfl, (by decide)⟩,
    ⟨{S with sec := { ide := true }}, 0x100, 1, 3, rfl, (by decide)⟩,
    ⟨{S with sec := { ide := true }}, 0x180, 1, 3, rfl, (by decide)⟩,
    ⟨{S with sec := { ide := true }}, 5, 3, (by decide)⟩,
    ⟨{S with sec := { ide := true }}, 3, 3, (by decide), 5, (by decide)⟩,
    ⟨{S with sec := { ide := true }}, 1, 3, (by decide)⟩,
    ⟨{S with sec := { ide := true }}, 1, 1, rfl⟩,
    ⟨{S with sec := { ide := true }}, 1, 3, (by decide), rfl, rfl⟩,
    ⟨{S with sec := { ide := true }}, 3, rfl⟩,
    ⟨{S with sec := { ide := true }}, 5, 3, (by decide)⟩⟩

end Sys2Proof.Tests
end

section
/-! SUPPORT. The canonical form of the stores, kept: what it says of a tile and of a saved tile, what each update of the state has
to show, and the predicates that carry it through options, results, accesses and meanings. -/

namespace Sys2Proof.Spec

open Sys2Proof.Machine

variable {α β γ ε : Type} {s : State}

/-! ## What the form says -/

/-- The tiles that a list of saved configurations holds have canonical stores. -/
def SavedCanonical (l : List Saved) : Prop := ∀ k ∈ l, ∀ e ∈ k.tiles, e.2.store.bytes.wf = true

/-- The form depends on the tiles, the bytes of DRAM and of the host, and the contexts alone: the other fields may change at will. -/
theorem StoresCanonical.frame {now tick free agenda cur tileMap taken granOwner parts fields slices cfgs images seqNext placeNext seqQ
    tileReq coll migr owed sec edgeMv secMv links tm mgmt hostOut} (w : StoresCanonical s) :
    StoresCanonical { s with
      now, tick, free, agenda, cur, tileMap, taken, granOwner, parts, fields, slices, cfgs, images,
      seqNext, placeNext, seqQ, tileReq, coll, migr, owed, sec, edgeMv, secMv, links, tm, mgmt, hostOut } := w
theorem StoresCanonical.memWf (w : StoresCanonical s) : MemWf s :=
  let ⟨_, hd, hh, ht, _⟩ := w
  ⟨hd, hh, ht⟩
theorem StoresCanonical.dram (w : StoresCanonical s) : s.dram.bytes.wf = true := w.memWf.1
theorem StoresCanonical.tile (w : StoresCanonical s) {t : Nat} : (s.tile t).store.bytes.wf = true := w.memWf.tile t
theorem StoresCanonical.home (w : StoresCanonical s) {h : Home} : (s.homeStore h).1.bytes.wf = true := w.memWf.home h
theorem StoresCanonical.saved (w : StoresCanonical s) {c : Nat} : SavedCanonical (s.ctx c).saved := by
  obtain ⟨-, -, -, -, hc⟩ := w
  rcases tget_cases ({} : Ctx) s.ctxs c with ⟨e, he, h⟩ | h
  · unfold State.ctx
    rw [h]
    exact hc e he
  · unfold State.ctx
    rw [h]
    exact fun k hk => nomatch hk

theorem SavedCanonical.filter {l : List Saved} {p : Saved → Bool} (h : SavedCanonical l) : SavedCanonical (l.filter p) :=
  fun k hk => h k (List.mem_of_mem_filter hk)
theorem SavedCanonical.append {l r : List Saved} (h : SavedCanonical l) (h' : SavedCanonical r) : SavedCanonical (l ++ r) :=
  fun k hk => (List.mem_append.1 hk).elim (h k) (h' k)

/-! ## What an update has to show -/

theorem StoresCanonical.setTile (w : StoresCanonical s) {t : Nat} {x : Tile} (h : x.store.bytes.wf = true) :
    StoresCanonical (s.setTile t x) := by
  obtain ⟨hr, hd, hh, ht, hc⟩ := w
  refine ⟨trises_tput _ _ _ hr (Nat.zero_le _), hd, hh, fun e he => ?_, hc⟩
  rcases mem_tput he with rfl | he
  · exact h
  · exact ht e he
/-- A tile whose store's bytes change to canonical ones. -/
theorem StoresCanonical.writeTile (w : StoresCanonical s) {t : Nat} {f : Tile → Tile}
    (h : (f (s.tile t)).store.bytes.wf = true) : StoresCanonical (s.modTile t f) := w.setTile h
/-- A tile that keeps its store's bytes. -/
theorem StoresCanonical.modTile (w : StoresCanonical s) {t : Nat} {f : Tile → Tile}
    (h : (f (s.tile t)).store.bytes = (s.tile t).store.bytes) : StoresCanonical (s.modTile t f) := w.setTile (h ▸ w.tile)
theorem trises_mapTiles {f : Nat × Tile → Tile} {l : Tbl Tile} {lo : Nat} :
    trises lo (l.map fun e => (e.1, f e)) = trises lo l := by
  induction l generalizing lo with
  | nil => rfl
  | cons e r ih => simp [trises, ih]
/-- Tiles changed alike, each keeping its store's bytes. -/
theorem StoresCanonical.mapTiles (w : StoresCanonical s) {f : Nat × Tile → Tile}
    (h : ∀ e, (f e).store.bytes = e.2.store.bytes) : StoresCanonical { s with tiles := s.tiles.map fun e => (e.1, f e) } := by
  obtain ⟨hr, hd, hh, ht, hc⟩ := w
  refine ⟨trises_mapTiles.trans hr, hd, hh, fun e he => ?_, hc⟩
  obtain ⟨x, hx, rfl⟩ := List.mem_map.1 he
  exact (h x) ▸ ht x hx
theorem StoresCanonical.setDram (w : StoresCanonical s) {st : Store} (h : st.bytes.wf = true) :
    StoresCanonical { s with dram := st } :=
  let ⟨hr, _, hh, ht, hc⟩ := w
  ⟨hr, h, hh, ht, hc⟩
theorem StoresCanonical.putHome (w : StoresCanonical s) {h : Home} {st : Store} (k : st.bytes.wf = true) :
    StoresCanonical (s.putHome h st) := by
  cases h with
  | tile t off => exact w.writeTile k
  | dram pa => exact w.setDram k
  | host pa =>
    obtain ⟨hr, hd, -, ht, hc⟩ := w
    exact ⟨hr, hd, k, ht, hc⟩
/-- A context whose saved configurations change to canonical ones. -/
theorem StoresCanonical.modSaved (w : StoresCanonical s) {c : Nat} {f : Ctx → Ctx} (h : SavedCanonical (f (s.ctx c)).saved) :
    StoresCanonical (s.modCtx c f) := by
  obtain ⟨hr, hd, hh, ht, hc⟩ := w
  refine ⟨hr, hd, hh, ht, fun e he => ?_⟩
  rcases mem_tput he with rfl | he
  · exact h
  · exact hc e he
/-- A context that keeps what is saved of its configurations. -/
theorem StoresCanonical.modCtx (w : StoresCanonical s) {c : Nat} {f : Ctx → Ctx} (h : (f (s.ctx c)).saved = (s.ctx c).saved) :
    StoresCanonical (s.modCtx c f) := w.modSaved (h ▸ w.saved)
/-- Contexts changed alike, each keeping the form of what is saved of its configurations. -/
theorem StoresCanonical.mapCtxs (w : StoresCanonical s) {f : Nat × Ctx → Ctx}
    (h : ∀ e, SavedCanonical e.2.saved → SavedCanonical (f e).saved) :
    StoresCanonical { s with ctxs := s.ctxs.map fun e => (e.1, f e) } := by
  obtain ⟨hr, hd, hh, ht, hc⟩ := w
  refine ⟨hr, hd, hh, ht, fun e he => ?_⟩
  obtain ⟨x, hx, rfl⟩ := List.mem_map.1 he
  exact h x (hc x hx)

theorem StoresCanonical.ite {c : Prop} [Decidable c] {a b : State} (ha : StoresCanonical a) (hb : StoresCanonical b) :
    StoresCanonical (if c then a else b) := by
  split
  · exact ha
  · exact hb
/-- A further update that is made only on a condition. -/
theorem StoresCanonical.when {c : Prop} [Decidable c] {a : State} (w : StoresCanonical s) (h : StoresCanonical s → StoresCanonical a) :
    StoresCanonical (if c then a else s) := .ite (h w) w
theorem StoresCanonical.unless {c : Prop} [Decidable c] {a : State} (w : StoresCanonical s) (h : StoresCanonical s → StoresCanonical a) :
    StoresCanonical (if c then s else a) := .ite w (h w)
/-- Steps each of which keeps the form. -/
theorem StoresCanonical.foldl (w : StoresCanonical s) {l : List α} {f : State → α → State}
    (h : ∀ s a, StoresCanonical s → StoresCanonical (f s a)) : StoresCanonical (l.foldl f s) := by
  induction l generalizing s with
  | nil => exact w
  | cons a r ih => exact ih (h s a w)

theorem StoresCanonical.foldl_snd {p : β × State} (w : StoresCanonical p.2) {l : List α} {f : β × State → α → β × State}
    (h : ∀ p a, StoresCanonical p.2 → StoresCanonical (f p a).2) : StoresCanonical (l.foldl f p).2 := by
  induction l generalizing p with
  | nil => exact w
  | cons a r ih => exact ih (h p a w)

/-! ## Options and results -/

/-- What an option holds, if it holds anything. -/
inductive IfSome (P : α → Prop) : Option α → Prop where
  | none : IfSome P none
  | some {a : α} (h : P a) : IfSome P (some a)
/-- What a result gives, if it is no error. -/
inductive IfOk (P : α → Prop) : Except ε α → Prop where
  | error {e : ε} : IfOk P (.error e)
  | ok {a : α} (h : P a) : IfOk P (.ok a)
abbrev SndCanonical (p : α × State) : Prop := StoresCanonical p.2
abbrev ThdCanonical (p : α × β × State) : Prop := StoresCanonical p.2.2
abbrev FthCanonical (p : α × β × γ × State) : Prop := StoresCanonical p.2.2.2

theorem StoresCanonical.pfst {p : State × α} {a : α} (e : p = (s, a)) (w : StoresCanonical p.1) : StoresCanonical s := by
  subst e
  exact w
theorem StoresCanonical.psnd {p : α × State} {a : α} (e : p = (a, s)) (w : StoresCanonical p.2) : StoresCanonical s := by
  subst e
  exact w
theorem StoresCanonical.pthd {p : α × β × State} {a : α} {b : β} (e : p = (a, b, s)) (w : StoresCanonical p.2.2) :
    StoresCanonical s := by
  subst e
  exact w

section
variable {P : α → Prop} {Q : β → Prop} {o o' : Option α} {r : Except ε α}

theorem IfSome.ite {c : Prop} [Decidable c] (h : IfSome P o) (h' : IfSome P o') : IfSome P (if c then o else o') := by
  split
  · exact h
  · exact h'
theorem IfSome.bind {f : α → Option β} (h : IfSome P o) (k : ∀ a, P a → IfSome Q (f a)) : IfSome Q (o.bind f) := by
  cases h with
  | none => exact .none
  | some h => exact k _ h
theorem IfSome.map {f : α → β} (h : IfSome P o) (k : ∀ a, P a → Q (f a)) : IfSome Q (o.map f) := by
  cases h with
  | none => exact .none
  | some h => exact .some (k _ h)
theorem IfSome.or (h : IfSome P o) (h' : IfSome P o') : IfSome P (o.or o') := by
  cases h with
  | none => exact h'
  | some h => exact .some h
theorem IfSome.getD {a : α} (h : IfSome P o) (h' : P a) : P (o.getD a) := by
  cases h with
  | none => exact h'
  | some h => exact h
/-- An option of which nothing is known. -/
theorem IfSome.any : IfSome (fun _ => True) o := by
  cases o with
  | none => exact .none
  | some a => exact .some trivial
/-- The first of what some of a list's members give. -/
theorem IfSome.findSome {l : List β} {f : β → Option α} (h : ∀ b ∈ l, IfSome P (f b)) : IfSome P (l.findSome? f) := by
  induction l with
  | nil => exact .none
  | cons b r ih =>
    rw [List.findSome?_cons]
    split
    · rename_i e
      exact e ▸ h b (.head _)
    · exact ih fun c hc => h c (.tail _ hc)
/-- What each member of a list gives. -/
theorem IfSome.each {l : List β} {f : β → Option α} (h : ∀ b, IfSome P (f b)) : ∀ o ∈ l.map f, IfSome P o := by
  intro o ho
  obtain ⟨b, -, rfl⟩ := List.mem_map.1 ho
  exact h b
theorem IfSome.both {l r : List (Option α)} (h : ∀ o ∈ l, IfSome P o) (h' : ∀ o ∈ r, IfSome P o) :
    ∀ o ∈ l ++ r, IfSome P o := fun o ho => (List.mem_append.1 ho).elim (h o) (h' o)
theorem IfSome.get {a : α} (e : o = .some a) (h : IfSome P o) : P a := by
  subst e
  cases h with
  | some h => exact h
theorem IfSome.state {o : Option State} (e : o = .some s) (h : IfSome StoresCanonical o) : StoresCanonical s := IfSome.get e h
theorem IfSome.snd {o : Option (β × State)} {b : β} (e : o = .some (b, s)) (h : IfSome SndCanonical o) : StoresCanonical s :=
  IfSome.get (P := SndCanonical) e h
theorem IfSome.fth {o : Option (α × β × γ × State)} {a : α} {b : β} {c : γ} (e : o = .some (a, b, c, s))
    (h : IfSome FthCanonical o) : StoresCanonical s := IfSome.get (P := FthCanonical) e h
theorem IfSome.thd {o : Option (β × γ × State)} {b : β} {c : γ} (e : o = .some (b, c, s))
    (h : IfSome ThdCanonical o) : StoresCanonical s := IfSome.get (P := ThdCanonical) e h

theorem IfOk.ite {r' : Except ε α} {c : Prop} [Decidable c] (h : IfOk P r) (h' : IfOk P r') : IfOk P (if c then r else r') := by
  split
  · exact h
  · exact h'
theorem IfOk.map {f : α → β} (h : IfOk P r) (k : ∀ a, P a → Q (f a)) : IfOk Q (r.map f) := by
  cases h with
  | error => exact .error
  | ok h => exact .ok (k _ h)
theorem IfSome.toOption (h : IfOk P r) : IfSome P r.toOption := by
  cases h with
  | error => exact .none
  | ok h => exact .some h
theorem IfOk.get {a : α} (e : r = .ok a) (h : IfOk P r) : P a := by
  subst e
  cases h with
  | ok h => exact h
theorem IfOk.state {r : Except ε State} (e : r = .ok s) (h : IfOk StoresCanonical r) : StoresCanonical s := IfOk.get e h
theorem IfOk.snd {r : Except ε (β × State)} {b : β} (e : r = .ok (b, s)) (h : IfOk SndCanonical r) : StoresCanonical s :=
  IfOk.get (P := SndCanonical) e h
theorem IfOk.fth {r : Except ε (α × β × γ × State)} {a : α} {b : β} {c : γ} (e : r = .ok (a, b, c, s))
    (h : IfOk FthCanonical r) : StoresCanonical s := IfOk.get (P := FthCanonical) e h
theorem IfOk.thd {r : Except ε (β × γ × State)} {b : β} {c : γ} (e : r = .ok (b, c, s))
    (h : IfOk ThdCanonical r) : StoresCanonical s := IfOk.get (P := ThdCanonical) e h
end

/-! ## Accesses, deeds and outcomes -/

/-- The state that performing leaves is canonical. -/
inductive PerfCanonical : Perf → Prop where
  | ok {s : State} (w : StoresCanonical s) : PerfCanonical (.ok s)
  | due {h : Home} : PerfCanonical (.due h)
  | wait {s : State} (w : StoresCanonical s) : PerfCanonical (.wait s)
theorem PerfCanonical.ite {c : Prop} [Decidable c] {a b : Perf} (ha : PerfCanonical a) (hb : PerfCanonical b) :
    PerfCanonical (if c then a else b) := by
  split
  · exact ha
  · exact hb
theorem PerfCanonical.get {p : Perf} (e : p = .ok s) (h : PerfCanonical p) : StoresCanonical s := by
  subst e
  cases h with
  | ok w => exact w
theorem PerfCanonical.waits {p : Perf} (e : p = .wait s) (h : PerfCanonical p) : StoresCanonical s := by
  subst e
  cases h with
  | wait w => exact w
/-- The state that a unit of an engine's write leaves is canonical. -/
inductive UnitCanonical : UnitEnd → Prop where
  | ok {s : State} {wrote : Bool} (w : StoresCanonical s) : UnitCanonical (.ok s wrote)
  | clob : UnitCanonical .clob
  | due {u : Nat} : UnitCanonical (.due u)
theorem UnitCanonical.ite {c : Prop} [Decidable c] {a b : UnitEnd} (ha : UnitCanonical a) (hb : UnitCanonical b) :
    UnitCanonical (if c then a else b) := by
  split
  · exact ha
  · exact hb
theorem UnitCanonical.get {u : UnitEnd} {b : Bool} (e : u = .ok s b) (h : UnitCanonical u) : StoresCanonical s := by
  subst e
  cases h with
  | ok w => exact w
/-- The state that a store of a save area leaves is canonical. -/
inductive SaveCanonical : SaveRes → Prop where
  | ok {s : State} (w : StoresCanonical s) : SaveCanonical (.ok s)
  | wait : SaveCanonical .wait
  | fault : SaveCanonical .fault
theorem SaveCanonical.ite {c : Prop} [Decidable c] {a b : SaveRes} (ha : SaveCanonical a) (hb : SaveCanonical b) :
    SaveCanonical (if c then a else b) := by
  split
  · exact ha
  · exact hb
theorem SaveCanonical.get {r : SaveRes} (e : r = .ok s) (h : SaveCanonical r) : StoresCanonical s := by
  subst e
  cases h with
  | ok w => exact w
/-- The state that the head of a placement order leaves is canonical. -/
inductive HeadCanonical : Head → Prop where
  | moved {s : State} (w : StoresCanonical s) : HeadCanonical (.moved s)
  | stuck {s : State} (w : StoresCanonical s) : HeadCanonical (.stuck s)
theorem HeadCanonical.get {r : Head} (e : r = .moved s) (h : HeadCanonical r) : StoresCanonical s := by
  subst e
  cases h with
  | moved w => exact w
theorem HeadCanonical.rest {r : Head} (e : r = .stuck s) (h : HeadCanonical r) : StoresCanonical s := by
  subst e
  cases h with
  | stuck w => exact w
/-- The state in which an instruction or event is to execute, or which a turn has reached, is canonical. -/
inductive DeedCanonical : Deed → Prop where
  | run {s : State} {i : Instr} (w : StoresCanonical s) : DeedCanonical (.run i s)
  | done {s : State} (w : StoresCanonical s) : DeedCanonical (.done s)
  | dead : DeedCanonical .dead
theorem DeedCanonical.ite {c : Prop} [Decidable c] {a b : Deed} (ha : DeedCanonical a) (hb : DeedCanonical b) :
    DeedCanonical (if c then a else b) := by
  split
  · exact ha
  · exact hb
theorem DeedCanonical.runs {d : Deed} {i : Instr} (e : d = .run i s) (h : DeedCanonical d) : StoresCanonical s := by
  subst e
  cases h with
  | run w => exact w
theorem DeedCanonical.ends {d : Deed} (e : d = .done s) (h : DeedCanonical d) : StoresCanonical s := by
  subst e
  cases h with
  | done w => exact w
/-- The state that the members of a gang have reached is canonical. -/
inductive GangCanonical : GangRun → Prop where
  | done {s : State} {g : Go} (w : StoresCanonical s) : GangCanonical (.done s g)
  | held {s : State} (w : StoresCanonical s) : GangCanonical (.held s)
  | trapped {s : State} {t : Nat} {fl : Flags} {c : Byte} {a : Word} (w : StoresCanonical s) : GangCanonical (.trapped s t fl c a)
theorem GangCanonical.ends {r : GangRun} {g : Go} (e : r = .done s g) (h : GangCanonical r) : StoresCanonical s := by
  subst e
  cases h with
  | done w => exact w
theorem GangCanonical.holds {r : GangRun} (e : r = .held s) (h : GangCanonical r) : StoresCanonical s := by
  subst e
  cases h with
  | held w => exact w
theorem GangCanonical.traps {r : GangRun} {t : Nat} {fl : Flags} {c : Byte} {a : Word} (e : r = .trapped s t fl c a)
    (h : GangCanonical r) : StoresCanonical s := by
  subst e
  cases h with
  | trapped w => exact w
/-- The next state, where a step has one, is canonical. -/
inductive NextCanonical : Host.Outcome State Fault Refusal → Prop where
  | next {s : State} (w : StoresCanonical s) : NextCanonical (.next s)
  | fault {r : Fault} : NextCanonical (.fault r)
  | refused {r : Refusal} : NextCanonical (.refused r)

/-! ## Meanings -/

/-- The state that a stop holds is canonical. -/
inductive StopCanonical : Stop → Prop where
  | hold : StopCanonical .hold
  | empty : StopCanonical .empty
  | sent {s : State} (w : StoresCanonical s) : StopCanonical (.sent s)
  | trap {c : Byte} {a : Word} : StopCanonical (.trap c a)
  | illop : StopCanonical .illop
  | priv : StopCanonical .priv
  | fptrap {fl : Flags} {a : Word} : StopCanonical (.fptrap fl a)
  | late {s : State} {c : Byte} {a : Word} (w : StoresCanonical s) : StopCanonical (.late s c a)
/-- What a meaning comes to leaves canonical stores, whether it completes or stops. -/
inductive RunCanonical : Except Stop (α × State) → Prop where
  | ok {s : State} {a : α} (w : StoresCanonical s) : RunCanonical (.ok (a, s))
  | error {e : Stop} (h : StopCanonical e) : RunCanonical (.error e)
/-- A meaning that keeps the canonical form of every store. -/
def Keeps (m : M α) : Prop := ∀ s, StoresCanonical s → RunCanonical (m s)

theorem Keeps.pure {a : α} : Keeps (pure a : M α) := fun _ w => .ok w
theorem Keeps.bind {m : M α} {k : α → M β} (hm : Keeps m) (hk : ∀ a, Keeps (k a)) : Keeps (m >>= k) := by
  intro s w
  cases e : m s with
  | error x =>
    have h := hm s w
    rw [e] at h
    rw [bind_error e]
    cases h with
    | error h => exact .error h
  | ok r =>
    have h := hm s w
    rw [e] at h
    rw [bind_ok (a := r.1) (s' := r.2) e]
    cases h with
    | ok w => exact hk _ _ w
theorem Keeps.ite {c : Prop} [Decidable c] {m m' : M α} (h : Keeps m) (h' : Keeps m') : Keeps (if c then m else m') := by
  split
  · exact h
  · exact h'
/-- A step that is made only on a condition, and what follows. -/
theorem Keeps.ifBind {c : Prop} [Decidable c] {m : M Unit} {k : Unit → M β} (h : Keeps m) (hk : ∀ a, Keeps (k a)) :
    Keeps (if c then m >>= k else k ()) := .ite (.bind h hk) (hk ())
/-- One of two steps, and what follows. -/
theorem Keeps.iteBind {c : Prop} [Decidable c] {m m' : M α} {k : α → M β} (h : Keeps m) (h' : Keeps m') (hk : ∀ a, Keeps (k a)) :
    Keeps (if c then m >>= k else m' >>= k) := .ite (.bind h hk) (.bind h' hk)
theorem Keeps.stop {e : Stop} (h : StopCanonical e) : Keeps (stop e : M α) := fun _ _ => .error h
theorem Keeps.hold : Keeps (hold : M α) := .stop .hold
theorem Keeps.illop : Keeps (illop : M α) := .stop .illop
theorem Keeps.trap {c : Byte} {a : Word} : Keeps (trap c a : M α) := .stop .trap
theorem Keeps.sentHold : Keeps (sentHold : M α) := fun _ w => .error (.sent w)
theorem Keeps.me : Keeps me := fun _ w => .ok w
theorem Keeps.getT : Keeps getT := fun _ w => .ok w
/-- What follows a look at the state may use that it is canonical. -/
theorem Keeps.look {k : State → M α} (h : ∀ s, StoresCanonical s → Keeps (k s)) : Keeps (Machine.getS >>= k) :=
  fun s w => h s w s w
theorem Keeps.modS {f : State → State} (h : ∀ s, StoresCanonical s → StoresCanonical (f s)) : Keeps (modS f) :=
  fun s w => .ok (h s w)
/-- The tile that executes keeps its store's bytes. -/
theorem Keeps.modT {f : Tile → Tile} (h : ∀ x, (f x).store.bytes = x.store.bytes) : Keeps (modT f) :=
  fun _ w => .ok (w.modTile (h _))
theorem Keeps.modR {f : Regs → Regs} : Keeps (modR f) := .modT fun _ => rfl
theorem Keeps.need {b : Bool} : Keeps (need b) := .ite .pure .illop
theorem Keeps.await {b : Bool} : Keeps (await b) := .ite .pure .hold
theorem Keeps.noCheck {m : BitVec 16} {a b : List Nat} : Keeps (noCheck m a b) := .pure
/-- A loop each of whose rounds keeps the form. -/
theorem Keeps.forIn {l : List β} {a : α} {f : β → α → M (ForInStep α)} (h : ∀ b a, Keeps (f b a)) : Keeps (forIn l a f) := by
  induction l generalizing a with
  | nil => exact .pure
  | cons b r ih =>
    rw [List.forIn_cons]
    refine .bind (h b a) fun x => ?_
    split
    · exact .pure
    · exact ih

end Sys2Proof.Spec
end

section
/-! ## Bytes written at a home -/

namespace Sys2Proof.Spec

open Sys2Proof.Machine

variable {s : State} {h k : Home}

theorem StoresCanonical.digestWrite {n : Nat} {old new : Store} (w : StoresCanonical s) :
    StoresCanonical (digestWrite s h n old new) :=
  .ite w (.mapCtxs w fun _ k => k)
theorem StoresCanonical.rawWrite {bs : List Byte} (w : StoresCanonical s) : StoresCanonical (rawWrite s h bs) :=
  .digestWrite (h := h) (.putHome w (wf_put _ _ _ w.home))

/-- The digests of the regions open stand in the contexts, apart from the stores. -/
theorem homeStore_digestWrite {n : Nat} {old new : Store} : (digestWrite s h n old new).homeStore k = s.homeStore k := by
  unfold Machine.digestWrite
  split
  · rfl
  · cases k <;> rfl
theorem byteAt_rawWrite {bs : List Byte} :
    byteAt (rawWrite s h bs) k = byteAt (s.putHome h ((s.homeStore h).1.put (s.homeStore h).2 bs)) k := by
  unfold byteAt Machine.rawWrite
  rw [homeStore_digestWrite]

/-- The store that homes at h are in, once it is put. -/
theorem homeStore_putHome_add {st : Store} {i : Nat} :
    ((s.putHome h st).homeStore (h.add i)).1.bytes = st.bytes ∧
      ((s.putHome h st).homeStore (h.add i)).2 = (s.homeStore h).2 + i := by
  cases h with
  | tile t off => exact ⟨by simp [State.putHome, Home.add, State.homeStore], rfl⟩
  | dram pa => exact ⟨rfl, rfl⟩
  | host pa => exact ⟨rfl, rfl⟩

/-- A home that is none of those written keeps its byte: it is in another store, or at another offset of the same. -/
theorem byteAt_putHome_outside {bs : List Byte} (w : StoresCanonical s) (o : Outside h bs.length k) :
    byteAt (s.putHome h ((s.homeStore h).1.put (s.homeStore h).2 bs)) k = byteAt s k := by
  have apart {a b : Nat} (e : ∀ i, b = a + i → k = h.add i) : b < a ∨ a + bs.length ≤ b := by
    by_contra c
    exact o (b - a) (by omega) (e _ (by omega))
  cases h with
  | tile t off =>
    cases k with
    | tile u off' =>
      by_cases e : u = t
      · subst e
        simp only [byteAt, State.homeStore, State.putHome, tile_modTile]
        exact read_writeBytes_outside _ _ _ _ w.tile (apart fun _ e => congrArg _ e)
      · simp only [byteAt, State.homeStore, State.putHome, State.tile_modTile_ne _ _ _ _ w.1 e]
    | dram pa => rfl
    | host pa => rfl
  | dram pa =>
    cases k with
    | tile u off' => rfl
    | dram pa' => exact read_writeBytes_outside _ _ _ _ w.dram (apart fun _ e => congrArg _ e)
    | host pa => rfl
  | host pa =>
    cases k with
    | tile u off' => rfl
    | dram pa' => rfl
    | host pa' => exact read_writeBytes_outside _ _ _ _ w.memWf.2.1 (apart fun _ e => congrArg _ e)

/-- Settles O22: the write changes one store, where `writeBytes` puts the bytes at their offsets and nothing else. -/
theorem writtenBytes : Obligations.WrittenBytes := by
  unfold Obligations.WrittenBytes
  intro s h bs w
  refine ⟨fun i hi => ?_, fun k o => byteAt_rawWrite.trans (byteAt_putHome_outside w o), .rawWrite w⟩
  rw [byteAt_rawWrite]
  unfold byteAt
  rw [homeStore_putHome_add.1, homeStore_putHome_add.2]
  exact read_writeBytes_inside _ _ _ _ w.home hi
end Sys2Proof.Spec
end

section
/-! SUPPORT. Operations on a tile that leave its store as it is. -/

namespace Sys2Proof.Spec

open Sys2Proof.Machine

variable {α : Type} {x : Tile}

theorem store_foldl {l : List α} {f : Tile → α → Tile} (h : ∀ x a, (f x a).store = x.store) : (l.foldl f x).store = x.store := by
  induction l generalizing x with
  | nil => rfl
  | cons a r ih => exact ih.trans (h x a)
@[simp] theorem store_perfAdd {k n : Nat} : (x.perfAdd k n).store = x.store := rfl
@[simp] theorem store_dropHead {q : Nat} : (x.dropHead q).store = x.store := rfl
@[simp] theorem store_dropPend {n : Nat} : (x.dropPend n).store = x.store := rfl
@[simp] theorem store_setPort {p : Nat} {y : Port} : (x.setPort p y).store = x.store := rfl
@[simp] theorem store_emit {q n : Nat} {tok : Token} : (x.emit q n tok).store = x.store := by
  simp only [Tile.emit]
  split <;> rfl
@[simp] theorem store_push {q : Nat} {tok : Token} : (x.push q tok).store = x.store := by
  simp only [Tile.push]
  split
  · exact store_emit
  · rfl
@[simp] theorem store_retire {g : Go} : (x.retire g).store = x.store := by cases g <;> rfl
@[simp] theorem store_fillValue {d : RegRef} {v : Vec} {fl : Flags} : (x.fillValue d v fl).store = x.store := by
  cases d with
  | g i => rfl
  | v i => rfl
  | win q vector => exact store_push
@[simp] theorem store_fillMark {d : RegRef} {c : Byte} {a : Word} : (x.fillMark d c a).store = x.store := by cases d <;> rfl
@[simp] theorem store_popClaim {q : Nat} {ended : Bool} : (x.popClaim q ended).store = x.store := by cases ended <;> rfl
@[simp] theorem store_fillEnded {d : RegRef} {lanes : BitVec 16} {v : Vec} : (x.fillEnded d lanes v).store = x.store := by
  cases d with
  | g i => rfl
  | v i => rfl
  | win q vector => exact store_emit
@[simp] theorem store_fillLanes {d : RegRef} {lanes : BitVec 16} {v : Vec} : (x.fillLanes d lanes v).store = x.store := by
  simp only [Tile.fillLanes]
  split
  · split <;> exact store_fillValue
  · exact store_fillValue
@[simp] theorem store_fillToken {d : RegRef} {q : Nat} {any : Bool} {w : Word} {lanes : BitVec 16} {ended : Bool} {tok : Token} :
    (x.fillToken d q any w lanes ended tok).store = x.store := by
  have fill {v : Vec} :
      (if ended then (x.popClaim q ended).fillEnded d lanes v else (x.popClaim q ended).fillLanes d lanes v).store = x.store := by
    split <;> simp
  have mark {c : Byte} {a : Word} :
      (if ended then x.popClaim q ended else (x.popClaim q ended).fillMark d c a).store = x.store := by
    split <;> simp
  cases tok with
  | vec v => exact fill
  | scalar v => exact fill
  | poison c => exact mark
  | eod | close =>
    simp only [Tile.fillToken]
    split
    · exact fill
    · exact mark
@[simp] theorem store_forgetPart {a : Acc} {p : Part} : (x.forgetPart a p).store = x.store := by
  simp only [Tile.forgetPart]
  split <;> rfl
@[simp] theorem store_keepPatch : x.keepPatch.store = x.store := by
  simp only [Tile.keepPatch]
  split <;> rfl
@[simp] theorem store_giveStatus {b : Bool} : (x.giveStatus b).store = x.store := by
  simp only [Tile.giveStatus]
  split <;> rfl
@[simp] theorem store_closeOut : x.closeOut.store = x.store := store_foldl fun _ _ => store_emit
@[simp] theorem store_csrWrite {n : Nat} {o : CsrOp} {a : Word} : (x.csrWrite n o a).store = x.store := by
  unfold Tile.csrWrite
  split
  case h_12 =>
    dsimp only
    split <;> rfl
  all_goals rfl
@[simp] theorem store_send {m : Msg} : (x.send m).store = x.store := by
  simp only [Tile.send]
  split <;> rfl
@[simp] theorem store_release : x.release.store = x.store := by
  simp only [Tile.release]
  rw [store_foldl fun _ _ => store_send]
  exact (store_foldl fun _ _ => store_send).trans (store_foldl fun _ _ => store_emit)
@[simp] theorem store_settlePend : x.settlePend.store = x.store := store_foldl (x := { x with pend := _ }) fun _ _ => store_fillValue
@[simp] theorem store_endTask : x.endTask.store = x.store := store_release.trans store_settlePend
@[simp] theorem store_sendTentative {b : BufItem} : (x.sendTentative b).store = x.store := by cases b <;> rfl
@[simp] theorem store_sendChained : x.sendChained.store = x.store := store_foldl (x := x.setSb _) fun _ _ => store_sendTentative
@[simp] theorem store_giveG {i : Nat} {d : Word} : (x.giveG i d).store = x.store := by
  simp only [Tile.giveG]
  split
  · rfl
  · exact store_push
@[simp] theorem store_spoil {f : RegKind} {i : Nat} : (x.spoil f i).store = x.store := by
  cases f with
  | pa => rfl
  | _ =>
    simp only [Tile.spoil]
    split <;> rfl
@[simp] theorem store_nextWindow : x.nextWindow.store = x.store := by
  simp only [Tile.nextWindow]
  split <;> rfl

end Sys2Proof.Spec
end

section
/-! PROOF. Every step keeps every store in its canonical form (O6). Each function of the model that gives a state, in the model's own
order, keeps it; a function that gives a meaning, an option, a result or an outcome keeps it in what that holds. Where a function calls
another, its lemma cites the other's. -/

namespace Sys2Proof.Spec

open Sys2Proof.Machine

/-! ## Mem -/

theorem StoresCanonical.modField (w : StoresCanonical s) : StoresCanonical (State.modField s n f) := w
theorem StoresCanonical.modSlice (w : StoresCanonical s) : StoresCanonical (State.modSlice s n f) := w
theorem StoresCanonical.modPart (w : StoresCanonical s) : StoresCanonical (State.modPart s o f) := w
theorem StoresCanonical.modCfg (w : StoresCanonical s) : StoresCanonical (State.modCfg s n f) := w
theorem StoresCanonical.count (w : StoresCanonical s) : StoresCanonical (State.count s n g) := w
theorem StoresCanonical.takeFree (w : StoresCanonical s) : StoresCanonical (State.takeFree s).2 := w
theorem StoresCanonical.setTileState (w : StoresCanonical s) : StoresCanonical (State.setTileState s t v) := w
theorem StoresCanonical.event (w : StoresCanonical s) : StoresCanonical (event s owner typ cause tile' ctx slot d0 d1) := by
  unfold Machine.event
  split
  · exact w
  · exact .ite (.modPart w) (.modPart (.ite w (.rawWrite w)))
theorem StoresCanonical.tileEvent (w : StoresCanonical s) : StoresCanonical (tileEvent s t typ cause d0 d1) := .event w
theorem StoresCanonical.closeWindow (w : StoresCanonical s) : StoresCanonical (closeWindow s x) := by
  unfold Machine.closeWindow
  split
  · exact .event w
  · exact .modCfg (.rawWrite w)
theorem StoresCanonical.closeWindows (w : StoresCanonical s) : StoresCanonical (closeWindows s p) :=
  .ite w (.foldl (.frame w) fun _ _ => .closeWindow)
theorem StoresCanonical.touchWindows (w : StoresCanonical s) : StoresCanonical (touchWindows s hm n) := by
  unfold Machine.touchWindows
  split
  · exact .closeWindows w
  · exact w
theorem IfOk.homeRead (w : StoresCanonical s) : IfOk SndCanonical (homeRead s hm n) := by
  have k : StoresCanonical (touchWindows s hm n) := .touchWindows w
  simp only [Machine.homeRead]
  split
  · exact .error
  · exact .ok (.ite k (.putHome k ((scrub_bytes _ _ _).symm ▸ k.home)))
theorem StoresCanonical.keepWrite (w : StoresCanonical s) : StoresCanonical (keepWrite s hm bs) := by
  unfold Machine.keepWrite
  split
  · exact .ite w (.modTile w rfl)
  · exact w
theorem IfOk.homeWrite (w : StoresCanonical s) : IfOk StoresCanonical (homeWrite s hm bs) := by
  unfold Machine.homeWrite
  dsimp only
  split
  · exact .error
  · exact .ok (.keepWrite (.rawWrite (.touchWindows w)))
theorem StoresCanonical.setFull (w : StoresCanonical s) : StoresCanonical (setFull s hm n b) := by
  cases hm with
  | host pa => exact w
  | tile t off => exact .putHome w ((setFes_bytes _ _ _ _).symm ▸ w.tile)
  | dram pa => exact .putHome w ((setFes_bytes _ _ _ _).symm ▸ w.dram)
theorem IfOk.walkReads (w : StoresCanonical s) : IfOk StoresCanonical (walkReads l s) := by
  induction l generalizing s with
  | nil => exact .ok w
  | cons p r ih =>
    unfold Machine.walkReads
    split
    · exact .error
    · exact ih (IfOk.snd ‹_› (.homeRead w))
theorem IfOk.walkCtx (w : StoresCanonical s) : IfOk ThdCanonical (walkCtx s c va leafLow) := by
  unfold Machine.walkCtx
  dsimp only
  split
  · exact .error
  · split
    · exact .error
    · split
      · exact .error
      · exact .ok (IfOk.state ‹_› (.walkReads w))
theorem StoresCanonical.settleOwed (w : StoresCanonical s) : StoresCanonical (settleOwed s c pa size hit) :=
  .ite w (.foldl (.frame w) fun _ _ k => .ite (.setFull k) k)
theorem IfOk.tlbFind (w : StoresCanonical s) : IfOk SndCanonical (tlbFind s fl c pg va) := by
  unfold Machine.tlbFind
  dsimp only
  split
  · exact .ok w
  · exact .ok w
  · split
    · exact .error
    · exact .ok (.modField (.ite (IfOk.thd ‹_› (.walkCtx w)) (.settleOwed (IfOk.thd ‹_› (.walkCtx w)))))
theorem StoresCanonical.pteDue (w : StoresCanonical s) : StoresCanonical (pteDue s a) := .event w
theorem StoresCanonical.setPteBit (w : StoresCanonical s) : StoresCanonical (setPteBit s a bit) :=
  .ite (.pteDue w) (.ite w (.rawWrite w))
theorem IfOk.translate1 (w : StoresCanonical s) : IfOk SndCanonical (translate1 s t c ref pg va store hostOk) := by
  unfold Machine.translate1
  split
  · exact .error
  · exact .ite .error (.ite .error (.ite .error (.ok (.setPteBit (IfOk.snd ‹_› (.tlbFind w))))))
theorem StoresCanonical.copyDram (w : StoresCanonical s) : StoresCanonical (copyDram s a b n) :=
  have k := w.closeWindows
  .digestWrite (.setDram k (wf_copyPage _ _ _ _ k.dram))
theorem IfOk.shadowPage (w : StoresCanonical s) : IfOk SndCanonical (shadowPage s t c pg va store ph) := by
  simp only [Machine.shadowPage]
  split
  · split
    · exact .ok (.settleOwed w)
    · split
      · exact .ok w
      · split
        · exact .error
        · split
          · exact .error
          · exact .ite .error (.ok (.settleOwed (.modCfg (.copyDram (IfOk.thd ‹_› (.walkCtx w))))))
  · exact .ite .error (.ok w)
  · exact .ok w
theorem IfOk.translate (w : StoresCanonical s) : IfOk SndCanonical (translate s t c ref pg va store hostOk) := by
  unfold Machine.translate
  split
  · exact .error
  · exact .shadowPage (IfOk.snd ‹_› (.translate1 w))
theorem StoresCanonical.setDirty (w : StoresCanonical s) : StoresCanonical (setDirty s pteAt) := .ite w (.setPteBit w)
theorem UnitCanonical.writeUnit (w : StoresCanonical s) : UnitCanonical (writeUnit s t p bs) := by
  unfold Machine.writeUnit
  dsimp only
  split
  · exact .ite .clob (.ok (.tileEvent w))
  · split
    · exact .due
    · exact .ok (.setDirty (IfOk.state ‹_› (.homeWrite w)))
theorem StoresCanonical.setFulls (w : StoresCanonical s) : StoresCanonical (setFulls s ps) := .foldl w fun _ _ => .setFull
theorem StoresCanonical.finishGranule (w : StoresCanonical s) : StoresCanonical (finishGranule t l g s) := by
  induction l generalizing t g s with
  | nil => exact .setFulls w
  | cons p r ih =>
    unfold Machine.finishGranule
    split
    · exact ih (UnitCanonical.get ‹_› (.writeUnit w))
    · exact w

/-! ## Chain -/

theorem StoresCanonical.settleGap (w : StoresCanonical s) : StoresCanonical (settleGap s sl ch performed) := w
theorem StoresCanonical.mapEnts (w : StoresCanonical s) : StoresCanonical (mapEnts s f) := w
theorem StoresCanonical.cancelTentative (w : StoresCanonical s) : StoresCanonical (cancelTentative s ts) := .ite w (.mapEnts w)

/-! ## Ops -/

theorem Keeps.parityGood : Keeps (parityGood f i) := .bind .getT fun _ => .ite .trap .pure
theorem Keeps.readK : Keeps (readK i) := by
  unfold Machine.readK
  exact .ifBind .parityGood fun _ => .bind .getT fun _ => .pure
theorem Keeps.readC : Keeps (readC i) := .bind .parityGood fun _ => .bind .getT fun _ => .pure
theorem Keeps.readReg : Keeps (readReg scalar i wait fe v) := by
  unfold Machine.readReg
  refine .bind .getT fun _ => ?_
  split
  · exact .bind .parityGood fun _ => .pure
  · exact .ite .trap (.stop .empty)
  · exact .trap
theorem Keeps.pushTok : Keeps (pushTok q tok) :=
  .bind .getT fun _ => .bind .need fun _ => .bind .await fun _ => .modT fun _ => by simp
theorem Keeps.readWindow : Keeps (readWindow vector n wait) := by
  unfold Machine.readWindow
  refine .bind .getT fun _ => .bind .need fun _ => ?_
  split
  · exact .ite .trap .hold
  · refine .bind .await fun _ => ?_
    split
    · exact .bind (.modT fun _ => rfl) fun _ => .pure
    · exact .bind (.modT fun _ => rfl) fun _ => .pure
    · exact .trap
    · exact .illop
theorem Keeps.readG : Keeps (readG i wait) := .bind .getT fun _ => .ite .readReg (.bind .readWindow fun _ => .pure)
theorem Keeps.readV : Keeps (readV i wait) := .bind .getT fun _ => .ite .readReg .readWindow
theorem Keeps.dstReady : Keeps (dstReady scalar i m) :=
  .bind .getT fun _ => .ite (.bind .need fun _ => .await) (.ite (.ite .pure .parityGood) (.stop .empty))
theorem Keeps.writeG : Keeps (writeG i d) := .ite .modR (.bind .getT fun _ => .modT fun _ => by simp)
theorem Keeps.writeV : Keeps (writeV i m d) := .bind .getT fun _ => .ite .modR (.modT fun _ => by simp)
theorem Keeps.writeK : Keeps (writeK i d) := .modR
theorem Keeps.dstRef : Keeps (dstRef scalar i) := .bind .getT fun _ => .ite .pure .pure
theorem Keeps.sendResult : Keeps (sendResult d x) := .modT fun _ => rfl
theorem Keeps.getMask : Keeps (getMask p) := by
  unfold Machine.getMask
  exact .ifBind .parityGood fun _ => .bind .getT fun _ => .pure
theorem Keeps.whenBit0 (hx : Keeps m) : Keeps (whenBit0 p m) := .bind .getMask fun _ => .ite hx .pure
theorem Keeps.whenLanes (hx : ∀ a0, Keeps (m a0)) : Keeps (whenLanes p m) := .bind .getMask fun _ => .ite .pure (hx _)
theorem Keeps.needMode : Keeps needMode := .bind .getT fun _ => .ite .trap .pure
theorem Keeps.checkFp : Keeps (checkFp fl lanes) := .bind .getT fun _ => .ite .pure (.stop .fptrap)
theorem Keeps.needM : Keeps needM := .bind .getT fun _ => .need
theorem Keeps.notReplay : Keeps notReplay := .look fun _ _ => .need
theorem Keeps.notRedundant : Keeps notRedundant := .look fun _ _ => .need
theorem Keeps.needReferee : Keeps needReferee := .look fun _ _ => .ite .pure (.stop .priv)
theorem StoresCanonical.haltTile (w : StoresCanonical s) : StoresCanonical (haltTile s t why) := .modTile w (by split <;> rfl)
theorem StoresCanonical.haltGroupOf (w : StoresCanonical s) : StoresCanonical (haltGroupOf s t why) := by
  unfold Machine.haltGroupOf
  dsimp only
  split
  · exact .tileEvent (.haltTile w)
  · exact .tileEvent (.foldl (.haltTile w) fun _ _ k => .ite (.haltTile k) k)
theorem StoresCanonical.undoHurdles (w : StoresCanonical s) : StoresCanonical (undoHurdles s t) := by
  unfold Machine.undoHurdles
  split
  · exact w
  · exact .foldl w fun _ _ k => .ite k (.rawWrite k)
theorem StoresCanonical.disband (w : StoresCanonical s) : StoresCanonical (disband s t) :=
  .foldl w fun _ _ k => .modTile k (by split <;> rfl)
theorem StoresCanonical.askStart (w : StoresCanonical s) : StoresCanonical (askStart s t) := by
  unfold Machine.askStart
  dsimp only
  split
  · exact w
  · exact .ite w (.ite (.count (.modField (.modTile w rfl))) (.modField (.modTile w rfl)))
theorem StoresCanonical.askWake (w : StoresCanonical s) : StoresCanonical (askWake s t) := by
  unfold Machine.askWake
  dsimp only
  split
  · exact .modField (.modTile w rfl)
  · exact .modTile w rfl
theorem StoresCanonical.finishBegun (w : StoresCanonical s) : StoresCanonical (finishBegun s t) :=
  .ite (.foldl w fun _ _ => .finishGranule) w
theorem StoresCanonical.undoTile (w : StoresCanonical s) : StoresCanonical (undoTile s t) := by
  unfold Machine.undoTile
  dsimp only
  split
  · exact .when (.modTile (.undoHurdles (.finishBegun w)) rfl) fun k => .modTile k rfl
  · exact .askStart (.when (.when (.when (.modTile (.undoHurdles (.finishBegun w)) rfl) fun k => .modTile k rfl) fun k =>
      .modTile k rfl) fun k => .modField k)
theorem StoresCanonical.requeue (w : StoresCanonical s) : StoresCanonical (requeue s t) :=
  .modTile (.disband (.foldl (.cancelTentative w) fun _ _ => .undoTile)) (by split <;> rfl)
theorem StoresCanonical.trapEvent (w : StoresCanonical s) : StoresCanonical (trapEvent s t cause taddr) := .tileEvent w
theorem StoresCanonical.abort (w : StoresCanonical s) : StoresCanonical (abort s t) :=
  .foldl (.requeue w) fun _ _ k => .modTile k rfl
theorem StoresCanonical.abortHalt (w : StoresCanonical s) : StoresCanonical (abortHalt s t cause taddr) :=
  .trapEvent (.haltTile (.abort w))
theorem StoresCanonical.abortTask (w : StoresCanonical s) : StoresCanonical (abortTask s t cause taddr) :=
  .ite (.abortHalt w) (.abort w)
theorem StoresCanonical.poisonTile (w : StoresCanonical s) : StoresCanonical (poisonTile s t cause) :=
  .modTile w (congrArg Store.bytes (store_foldl fun _ _ => store_emit))
theorem StoresCanonical.failStopTile (w : StoresCanonical s) : StoresCanonical (failStopTile s t taddr) :=
  .modTile (.tileEvent w) rfl
theorem StoresCanonical.recordTrap (w : StoresCanonical s) : StoresCanonical (recordTrap s t cause taddr) := .modTile w rfl
theorem StoresCanonical.takeTrapFor (w : StoresCanonical s) : StoresCanonical (takeTrapFor s t cause taddr c origin) := by
  unfold Machine.takeTrapFor
  dsimp only
  split
  · exact .ite (.trapEvent (.haltTile (.recordTrap w))) (.modTile (.recordTrap w) rfl)
  · exact .trapEvent (.haltTile (.recordTrap w))
  · exact .trapEvent (.poisonTile (.recordTrap w))
  · exact .abortHalt (.recordTrap w)
  · exact .trapEvent (.haltTile (.recordTrap w))
  · exact .haltGroupOf (.recordTrap w)
  · exact .failStopTile (.recordTrap w)
theorem StoresCanonical.takeTrapAct (w : StoresCanonical s) : StoresCanonical (takeTrapAct s t cause taddr c) := .takeTrapFor w
theorem StoresCanonical.trapMembers (w : StoresCanonical s) : StoresCanonical (trapMembers s t cause taddr) := by
  unfold Machine.trapMembers
  dsimp only
  split
  · exact .takeTrapAct w
  · split
    · exact .foldl (.trapEvent (.abort (.foldl (.recordTrap w) fun _ _ => .recordTrap))) fun _ _ => .haltTile
    · exact .foldl (.takeTrapAct (.disband w)) fun _ _ => .takeTrapFor
theorem StoresCanonical.takeTrap (w : StoresCanonical s) : StoresCanonical (takeTrap s t cause taddr) :=
  .when (.trapMembers w) fun k => .foldl k fun _ _ k1 => .modTile k1 rfl
theorem Keeps.returnFromTrap : Keeps (returnFromTrap skip') :=
  .bind .getT fun _ => .bind .need fun _ => .bind (.modT fun _ => rfl) fun _ => .pure
theorem Keeps.jumpTo : Keeps (jumpTo p) := .ite .pure .trap
theorem StoresCanonical.takeForced (w : StoresCanonical s) : StoresCanonical (takeForced s t cause taddr) :=
  .foldl (.takeTrapAct (.disband w)) fun _ _ => .takeTrapAct
theorem StoresCanonical.countHeld (w : StoresCanonical s) : StoresCanonical (countHeld s t) := .modTile w rfl
theorem StoresCanonical.heldState (w : StoresCanonical s) (hx : StopCanonical e) : StoresCanonical (heldState s t e) := by
  cases hx with
  | sent k => exact k
  | late k => exact .takeForced k
  | empty => exact .countHeld w
  | hold => exact w
  | trap => exact w
  | illop => exact w
  | priv => exact w
  | fptrap => exact w
theorem StoresCanonical.stepDone (w : StoresCanonical s) : StoresCanonical (stepDone s u) := by
  unfold Machine.stepDone
  split
  · exact w
  · exact .ite w (.modTile (.takeTrap w) rfl)
theorem StoresCanonical.haltLast (w' : StoresCanonical s) : StoresCanonical (haltLast before s) :=
  .ite w' (.foldl w' fun _ _ k => .modTile k rfl)
theorem StoresCanonical.issueOne (hx : Keeps m) (w : StoresCanonical s) : StoresCanonical (issueOne i m s) := by
  have k := hx s w
  unfold Machine.issueOne
  split
  · rename_i e
    rw [e] at k
    cases k with
    | ok k => exact .stepDone (.modTile k (by simp))
  · rename_i e
    rw [e] at k
    cases k with
    | error k =>
      split
      · exact .stepDone (.takeTrap (.ite w (.modTile w rfl)))
      · exact .heldState w k
theorem GangCanonical.heldMember (hx : Keeps m) (w : StoresCanonical s0) (w' : StoresCanonical s) :
    GangCanonical (heldMember i m s0 s t) := by
  have k := hx { s with cur := t } w'
  unfold Machine.heldMember
  split
  · exact .held w'
  · rename_i e
    rw [e] at k
    cases k with
    | error k =>
      split
      · exact .trapped w
      · exact .held (.heldState w' k)
theorem GangCanonical.runMembers (hx : Keeps m) (w : StoresCanonical s0) (hx' : GangCanonical r) :
    GangCanonical (runMembers i m s0 l r) := by
  induction l generalizing r with
  | nil => exact hx'
  | cons t ts ih =>
    cases hx' with
    | trapped w' => exact .trapped w'
    | @done s g w' =>
      have k := hx { s with cur := t } w'
      unfold Machine.runMembers
      dsimp only
      split
      · rename_i e
        rw [e] at k
        cases k with
        | ok k => exact ih (.done k)
      · split
        · exact .trapped w
        · exact ih (.heldMember hx w w)
    | held w' =>
      unfold Machine.runMembers
      dsimp only
      split
      · exact .held w'
      · exact ih (.heldMember hx w w')
theorem StoresCanonical.syncGang (w : StoresCanonical s) : StoresCanonical (syncGang s t ts) :=
  .foldl w fun _ _ k => .modTile k rfl
theorem StoresCanonical.issueGang (hx : Keeps m) (w : StoresCanonical s) : StoresCanonical (issueGang i m s) := by
  unfold Machine.issueGang
  dsimp only
  split
  · exact .stepDone (.foldl (.syncGang (.modTile (.frame (GangCanonical.ends ‹_›
      (.runMembers hx (.syncGang w) (.done (.syncGang w))))) (by simp))) fun _ _ k => .modTile k rfl)
  · exact .frame (GangCanonical.holds ‹_› (.runMembers hx (.syncGang w) (.done (.syncGang w))))
  · exact .stepDone (.frame (.takeTrap (.ite (GangCanonical.traps ‹_› (.runMembers hx (.syncGang w) (.done (.syncGang w))))
      (.modTile (GangCanonical.traps ‹_› (.runMembers hx (.syncGang w) (.done (.syncGang w)))) rfl))))
theorem NextCanonical.issue (hx : Keeps m) (w : StoresCanonical s) : NextCanonical (issue i m s) := by
  unfold Machine.issue
  refine .next (.haltLast ?_)
  split
  · exact .issueOne hx w
  · exact .issueGang hx w
theorem NextCanonical.occur (hx : ∀ s, StoresCanonical s → IfSome StoresCanonical (f s)) (w : StoresCanonical s) : NextCanonical
  (occur f s) :=
  .next (IfSome.getD (hx _ w) w)

/-! ## Access -/

theorem Keeps.portTurn : Keeps (portTurn hm n) := .look fun _ _ => .await
theorem StoresCanonical.logViolation (w : StoresCanonical s) : StoresCanonical (logViolation s r) := .frame w
theorem StoresCanonical.alarmNext (w : StoresCanonical s) : StoresCanonical (State.alarmNext s a a') := .ite w (.frame w)
theorem StoresCanonical.recordReject (w : StoresCanonical s) : StoresCanonical (recordReject s t kind cls down dtile addr) :=
  .tileEvent (.logViolation (.when (.modPart w) fun k => .alarmNext k))
theorem Keeps.resolve : Keeps (resolve a n align store hostOk) := by
  unfold Machine.resolve
  refine .look fun _ k => ?_
  dsimp only
  split
  · exact .trap
  · refine .ite .trap ?_
    split
    · exact .ite .trap .pure
    · refine .bind .await fun _ => ?_
      split
      · exact .ite .hold .trap
      · exact .bind (.modS fun _ _ => IfOk.snd ‹_› (.translate k)) fun _ => .pure
theorem Keeps.notArmed : Keeps (notArmed hm n) := by
  unfold Machine.notArmed
  refine .look fun _ _ => ?_
  split
  · refine .ite ?_ .pure
    split
    · exact .trap
    · exact .pure
  · exact .pure
theorem Keeps.buffer : Keeps (buffer b) := .bind .getT fun _ => .ite .trap (.modT fun _ => rfl)
theorem StoresCanonical.arriveResult (w : StoresCanonical s) : StoresCanonical (arriveResult s t d v) := .modTile w rfl
theorem IfOk.performWrite (w : StoresCanonical s) : IfOk StoresCanonical (performWrite s t p bs full) := by
  unfold Machine.performWrite
  dsimp only
  split
  · exact .ok (.tileEvent w)
  · split
    · exact .error
    · exact .ok (.setDirty (.ite (.setFull (IfOk.state ‹_› (.homeWrite w))) (IfOk.state ‹_› (.homeWrite w))))
theorem IfOk.performWrites (w : StoresCanonical s) : IfOk StoresCanonical (performWrites s t data full l) := by
  induction l generalizing s t data full with
  | nil => exact .ok w
  | cons p r ih =>
    unfold Machine.performWrites
    split
    · exact .error
    · exact ih (IfOk.state ‹_› (.performWrite w))
theorem IfOk.performReads (w : StoresCanonical s) : IfOk SndCanonical (performReads s v l) := by
  induction l generalizing s v with
  | nil => exact .ok w
  | cons p r ih =>
    unfold Machine.performReads
    split
    · exact .error
    · exact ih (IfOk.snd ‹_› (.homeRead w))
theorem PerfCanonical.performRed (w : StoresCanonical s) : PerfCanonical (performRed s t p add mode seed first) := by
  unfold Machine.performRed
  split
  · dsimp only
    split
    · exact .ok (.modCfg (.setDirty (.modSlice w)))
    · split
      · exact .wait (.ite (.event w) w)
      · split
        · exact .due
        · exact .ok (.modCfg (.setDirty (.modSlice w)))
  · exact .ok w
theorem PerfCanonical.performAmo (w : StoresCanonical s) : PerfCanonical (performAmo s t p op w64 uns x y dst) := by
  unfold Machine.performAmo
  split
  · exact .due
  · dsimp only
    split
    · exact .due
    · refine .ok ?_
      split
      · exact .arriveResult (IfOk.state ‹_› (.performWrite (IfOk.snd ‹_› (.homeRead w))))
      · exact IfOk.state ‹_› (.performWrite (IfOk.snd ‹_› (.homeRead w)))
theorem IfOk.performPart (w : StoresCanonical s) : IfOk SndCanonical (performPart s t a p) := by
  unfold Machine.performPart
  generalize a.op = o
  cases o with
  | load =>
    dsimp only
    split
    · exact .error
    · exact .ok (IfOk.snd ‹_› (.homeRead w))
  | store => exact .map (.performWrite w) fun _ k => k
  | feclr => exact .ok (.setFull (.touchWindows w))
  | _ => exact .ok w
theorem StoresCanonical.finishAcc (w : StoresCanonical s) : StoresCanonical (finishAcc s t a) := by
  unfold Machine.finishAcc
  split
  · exact .arriveResult w
  · exact w
theorem PerfCanonical.performAcc (w : StoresCanonical s) : PerfCanonical (performAcc s t a) := by
  unfold Machine.performAcc
  split
  · split
    · exact .due
    · exact .ok (.arriveResult (.ite (.foldl (IfOk.snd ‹_› (.performReads w)) fun _ _ => .setFull)
        (IfOk.snd ‹_› (.performReads w))))
  · split
    · exact .due
    · exact .ok (IfOk.state ‹_› (.performWrites w))
  · split
    · exact .ok (.arriveResult (.touchWindows w))
    · exact .ok w
  · split
    · exact .performAmo w
    · exact .ok w
  · split
    · exact .ite (.performRed w) (.performAmo w)
    · exact .ok w
  · split
    · exact .due
    · exact .ok (.arriveResult (IfOk.snd ‹_› (.performReads w)))
  · split
    · exact .due
    · exact .ok (IfOk.state ‹_› (.performWrites w))
  · exact .ok w
theorem Keeps.newAcc : Keeps (newAcc parts op) := .bind .getT fun _ => .bind (.modT fun _ => rfl) fun _ => .pure
theorem IfOk.partsNow (w : StoresCanonical s) : IfOk ThdCanonical (partsNow s t a left l) := by
  induction l generalizing s t a left with
  | nil => exact .ok w
  | cons p r ih =>
    unfold Machine.partsNow
    split
    · split
      · exact .error
      · exact ih (IfOk.snd ‹_› (.performPart w))
    · exact ih w
theorem IfOk.sendFrom (w : StoresCanonical s) : IfOk StoresCanonical (sendFrom s t a) := by
  unfold Machine.sendFrom
  split
  · split
    · exact .error
    · exact .ok (.finishAcc (IfOk.thd ‹_› (.partsNow w)))
    · exact .ok (.modTile (IfOk.thd ‹_› (.partsNow w)) rfl)
  · split
    · split
      · exact .ok (PerfCanonical.get ‹_› (.performAcc w))
      · exact .ok (.modTile (PerfCanonical.waits ‹_› (.performAcc w)) rfl)
      · exact .error
    · exact .ok (.modTile w rfl)
theorem Keeps.sendAcc : Keeps (sendAcc a) := by
  unfold Machine.sendAcc
  refine .look fun _ k => ?_
  split
  · exact .modS fun _ _ => IfOk.state ‹_› (.sendFrom k)
  · exact .trap
theorem Keeps.emptyDst : Keeps (emptyDst d) := .modR
theorem Keeps.issueLoad : Keeps (issueLoad dst old size sx lanes ps) :=
  .bind .getT fun _ => .bind .newAcc fun _ => .bind .emptyDst fun _ => .sendAcc
theorem Keeps.issueStore : Keeps (issueStore op ps) :=
  .bind (.forIn fun _ _ => .bind .notArmed fun _ => .pure) fun _ => .bind .newAcc fun _ => .bind .getT fun _ => .ite .sendAcc
    .buffer

/-! ## Flags -/

theorem Keeps.ftrapZero : Keeps ftrapZero := .bind .getT fun _ => .pure
theorem Keeps.finishV : Keeps (finishV ll dst m d fl lanes) :=
  .bind .checkFp fun _ => .bind .ftrapZero fun _ => .ite (.bind .dstRef fun _ => .bind .getT fun _ => .bind .sendResult fun _ =>
    .pure) (.bind (.modT fun _ => rfl) fun _ => .bind .writeV fun _ => .pure)
theorem Keeps.finishG : Keeps (finishG ll dst d fl) :=
  .bind .checkFp fun _ => .bind .ftrapZero fun _ => .ite (.bind .dstRef fun _ => .bind .sendResult fun _ => .pure)
    (.bind (.modT fun _ => rfl) fun _ => .bind .writeG fun _ => .pure)

/-! ## Operands -/

theorem Keeps.readScalar : Keeps (readScalar a) := by
  unfold Machine.readScalar
  split
  · exact .readG
  · exact .readC
  · exact .pure
  · exact .bind .readV fun _ => .pure
theorem Keeps.readElem : Keeps (readElem ty a) := by
  unfold Machine.readElem
  split
  · exact .pure
  · exact .bind .readScalar fun _ => .pure
theorem Keeps.readElems : Keeps (readElems ty n a) := by
  unfold Machine.readElems
  split
  · exact .bind .readV fun _ => .pure
  · exact .bind .readElem fun _ => .pure
theorem Keeps.alu (hx : ∀ a0 a1 a2, Keeps (chk a0 a1 a2)) : Keeps (alu f n rounds ll late chk op) := by
  unfold Machine.alu
  split
  · exact .whenBit0 (.bind .dstReady fun _ => .bind .readElem fun _ => .iteBind .readElem .pure fun _ => .iteBind .readElem
      .pure fun _ => .ifBind .needMode fun _ => .bind (hx _ _ _) fun _ => .bind .getT fun _ => .ite
      (.bind .checkFp fun _ => .bind (.modT fun _ => rfl) fun _ => .bind .dstRef fun _ => .bind .sendResult fun _ => .pure)
      .finishG)
  · exact .whenLanes fun _ => .bind .dstReady fun _ => .bind .readElems fun _ => .iteBind .readElems .pure fun _ => .iteBind
      .readElems .pure fun _ => .ifBind .needMode fun _ => .bind (hx _ _ _) fun _ => .bind .getT fun _ => .ite
      (.bind .checkFp fun _ => .bind (.modT fun _ => rfl) fun _ => .bind .dstRef fun _ => .bind .sendResult fun _ => .pure)
      .finishV

/-! ## IntOps -/

theorem Keeps.intAlu : Keeps (intAlu f n g) := .alu fun _ _ _ => .noCheck
theorem Keeps.bitAlu : Keeps (bitAlu f n g) := .alu fun _ _ _ => .noCheck
theorem Keeps.divAlu : Keeps (divAlu f g) := .alu fun _ _ _ => .ite .pure .trap
theorem Keeps.condAlu : Keeps (condAlu f op) := by
  unfold Machine.condAlu
  split
  · exact .whenBit0 (.bind .dstReady fun _ => .bind .readElem fun _ => .bind .readElem fun _ => .bind .getT fun _ => .finishG)
  · exact .alu fun _ _ _ => .noCheck
theorem Keeps.moviM : Keeps (moviM f) := by
  unfold Machine.moviM
  split
  · exact .whenBit0 (.bind .dstReady fun _ => .bind .writeG fun _ => .pure)
  · exact .whenLanes fun _ => .bind .dstReady fun _ => .bind .writeV fun _ => .pure
theorem Keeps.movhiM : Keeps (movhiM f) :=
  .whenBit0 (.bind .dstReady fun _ => .bind .readScalar fun _ => .bind .writeG fun _ => .pure)
theorem Keeps.addiM : Keeps (addiM f) := by
  unfold Machine.addiM
  split
  · exact .whenBit0 (.bind .dstReady fun _ => .bind .readScalar fun _ => .bind .writeG fun _ => .pure)
  · exact .whenLanes fun _ => .bind .dstReady fun _ => .bind .readElems fun _ => .bind .writeV fun _ => .pure
theorem Keeps.leaM : Keeps (leaM f) := .whenBit0 (.bind .dstReady fun _ => .bind .readG fun _ => .bind .writeG fun _ => .pure)
theorem NextCanonical.execNop (w : StoresCanonical s) : NextCanonical (execNop f s) := .issue .pure w
theorem NextCanonical.execAdd (w : StoresCanonical s) : NextCanonical (execAdd f s) := .issue .intAlu w
theorem NextCanonical.execSub (w : StoresCanonical s) : NextCanonical (execSub f s) := .issue .intAlu w
theorem NextCanonical.execMul (w : StoresCanonical s) : NextCanonical (execMul f s) := .issue .intAlu w
theorem NextCanonical.execMulh (w : StoresCanonical s) : NextCanonical (execMulh f s) := .issue .intAlu w
theorem NextCanonical.execMulhn (w : StoresCanonical s) : NextCanonical (execMulhn f s) := .issue .intAlu w
theorem NextCanonical.execDiv (w : StoresCanonical s) : NextCanonical (execDiv f s) := .issue .divAlu w
theorem NextCanonical.execDivn (w : StoresCanonical s) : NextCanonical (execDivn f s) := .issue .divAlu w
theorem NextCanonical.execRem (w : StoresCanonical s) : NextCanonical (execRem f s) := .issue .divAlu w
theorem NextCanonical.execRemn (w : StoresCanonical s) : NextCanonical (execRemn f s) := .issue .divAlu w
theorem NextCanonical.execNeg (w : StoresCanonical s) : NextCanonical (execNeg f s) := .issue .intAlu w
theorem NextCanonical.execAbs (w : StoresCanonical s) : NextCanonical (execAbs f s) := .issue .intAlu w
theorem NextCanonical.execMin (w : StoresCanonical s) : NextCanonical (execMin f s) := .issue .intAlu w
theorem NextCanonical.execMax (w : StoresCanonical s) : NextCanonical (execMax f s) := .issue .intAlu w
theorem NextCanonical.execMinn (w : StoresCanonical s) : NextCanonical (execMinn f s) := .issue .intAlu w
theorem NextCanonical.execMaxn (w : StoresCanonical s) : NextCanonical (execMaxn f s) := .issue .intAlu w
theorem NextCanonical.execAnd (w : StoresCanonical s) : NextCanonical (execAnd f s) := .issue .bitAlu w
theorem NextCanonical.execOr (w : StoresCanonical s) : NextCanonical (execOr f s) := .issue .bitAlu w
theorem NextCanonical.execXor (w : StoresCanonical s) : NextCanonical (execXor f s) := .issue .bitAlu w
theorem NextCanonical.execAndn (w : StoresCanonical s) : NextCanonical (execAndn f s) := .issue .bitAlu w
theorem NextCanonical.execOrn (w : StoresCanonical s) : NextCanonical (execOrn f s) := .issue .bitAlu w
theorem NextCanonical.execNot (w : StoresCanonical s) : NextCanonical (execNot f s) := .issue .bitAlu w
theorem NextCanonical.execShl (w : StoresCanonical s) : NextCanonical (execShl f s) := .issue (.alu fun _ _ _ => .noCheck) w
theorem NextCanonical.execShr (w : StoresCanonical s) : NextCanonical (execShr f s) := .issue .bitAlu w
theorem NextCanonical.execSra (w : StoresCanonical s) : NextCanonical (execSra f s) := .issue .bitAlu w
theorem NextCanonical.execRol (w : StoresCanonical s) : NextCanonical (execRol f s) := .issue .bitAlu w
theorem NextCanonical.execClz (w : StoresCanonical s) : NextCanonical (execClz f s) := .issue .bitAlu w
theorem NextCanonical.execCtz (w : StoresCanonical s) : NextCanonical (execCtz f s) := .issue .bitAlu w
theorem NextCanonical.execPopc (w : StoresCanonical s) : NextCanonical (execPopc f s) := .issue .bitAlu w
theorem NextCanonical.execBrev (w : StoresCanonical s) : NextCanonical (execBrev f s) := .issue .bitAlu w
theorem NextCanonical.execBext (w : StoresCanonical s) : NextCanonical (execBext f s) := .issue .bitAlu w
theorem NextCanonical.execBins (w : StoresCanonical s) : NextCanonical (execBins f s) := .issue (.alu fun _ _ _ => .noCheck) w
theorem NextCanonical.execSext (w : StoresCanonical s) : NextCanonical (execSext f s) := .issue .bitAlu w
theorem NextCanonical.execZext (w : StoresCanonical s) : NextCanonical (execZext f s) := .issue .bitAlu w
theorem NextCanonical.execCmp (w : StoresCanonical s) : NextCanonical (execCmp f s) := .issue .condAlu w
theorem NextCanonical.execSel (w : StoresCanonical s) : NextCanonical (execSel f s) := .issue (.alu fun _ _ _ => .noCheck) w
theorem NextCanonical.execMov (w : StoresCanonical s) : NextCanonical (execMov f s) := .issue .bitAlu w
theorem NextCanonical.execMovi (w : StoresCanonical s) : NextCanonical (execMovi f s) := .issue .moviM w
theorem NextCanonical.execMovhi (w : StoresCanonical s) : NextCanonical (execMovhi f s) := .issue .movhiM w
theorem NextCanonical.execAddi (w : StoresCanonical s) : NextCanonical (execAddi f s) := .issue .addiM w
theorem NextCanonical.execLea (w : StoresCanonical s) : NextCanonical (execLea f s) := .issue .leaM w
theorem NextCanonical.execSadd (w : StoresCanonical s) : NextCanonical (execSadd f s) := .issue (.alu fun _ _ _ => .noCheck) w
theorem NextCanonical.execSsub (w : StoresCanonical s) : NextCanonical (execSsub f s) := .issue (.alu fun _ _ _ => .noCheck) w

/-! ## FloatOps -/

theorem Keeps.floatAlu : Keeps (floatAlu f n rounds ll g) := .alu fun _ _ _ => .noCheck
theorem Keeps.realAlu : Keeps (realAlu f fn) := .floatAlu
theorem Keeps.signAlu : Keeps (signAlu f n g) := .bitAlu
theorem Keeps.minmaxAlu : Keeps (minmaxAlu f lo num) := .alu fun _ _ _ => .noCheck
theorem Keeps.frndM : Keeps (frndM f) := .alu fun _ _ _ => .noCheck
theorem Keeps.fgetexpM : Keeps (fgetexpM f) := .alu fun _ _ _ => .noCheck
theorem Keeps.fscaleM : Keeps (fscaleM f) := by
  unfold Machine.fscaleM
  dsimp only
  split
  · exact .whenBit0 (.bind .dstReady fun _ => .bind .readElem fun _ => .bind .readElem fun _ => .bind .needMode fun _ => .bind
      .getT fun _ => .finishG)
  · exact .whenLanes fun _ => .bind .dstReady fun _ => .bind .readElems fun _ => .bind .readElems fun _ => .bind .needMode fun _
      => .bind .getT fun _ => .finishV
theorem Keeps.readCvtElems : Keeps (readCvtElems s f) := .readElems
theorem Keeps.cvtM : Keeps (cvtM f) := by
  unfold Machine.cvtM
  dsimp only
  split
  · exact .whenBit0 (.bind .dstReady fun _ => .bind .readElem fun _ => .ifBind .needMode fun _ => .bind .getT fun _ => .finishG)
  · exact .whenLanes fun _ => .bind .dstReady fun _ => .bind .readCvtElems fun _ => .ifBind .needMode fun _ => .bind .getT fun _
      => .finishV
theorem NextCanonical.execFadd (w : StoresCanonical s) : NextCanonical (execFadd f s) := .issue .floatAlu w
theorem NextCanonical.execFsub (w : StoresCanonical s) : NextCanonical (execFsub f s) := .issue .floatAlu w
theorem NextCanonical.execFmul (w : StoresCanonical s) : NextCanonical (execFmul f s) := .issue .floatAlu w
theorem NextCanonical.execFma (w : StoresCanonical s) : NextCanonical (execFma f s) := .issue .floatAlu w
theorem NextCanonical.execFms (w : StoresCanonical s) : NextCanonical (execFms f s) := .issue .floatAlu w
theorem NextCanonical.execFnma (w : StoresCanonical s) : NextCanonical (execFnma f s) := .issue .floatAlu w
theorem NextCanonical.execFmin (w : StoresCanonical s) : NextCanonical (execFmin f s) := .issue .minmaxAlu w
theorem NextCanonical.execFmax (w : StoresCanonical s) : NextCanonical (execFmax f s) := .issue .minmaxAlu w
theorem NextCanonical.execFminp (w : StoresCanonical s) : NextCanonical (execFminp f s) := .issue .minmaxAlu w
theorem NextCanonical.execFmaxp (w : StoresCanonical s) : NextCanonical (execFmaxp f s) := .issue .minmaxAlu w
theorem NextCanonical.execFabs (w : StoresCanonical s) : NextCanonical (execFabs f s) := .issue .signAlu w
theorem NextCanonical.execFneg (w : StoresCanonical s) : NextCanonical (execFneg f s) := .issue .signAlu w
theorem NextCanonical.execFsgn (w : StoresCanonical s) : NextCanonical (execFsgn f s) := .issue .signAlu w
theorem NextCanonical.execFcmp (w : StoresCanonical s) : NextCanonical (execFcmp f s) := .issue .condAlu w
theorem NextCanonical.execFclass (w : StoresCanonical s) : NextCanonical (execFclass f s) := .issue .bitAlu w
theorem NextCanonical.execFrcp (w : StoresCanonical s) : NextCanonical (execFrcp f s) := .issue .floatAlu w
theorem NextCanonical.execFrsq (w : StoresCanonical s) : NextCanonical (execFrsq f s) := .issue .floatAlu w
theorem NextCanonical.execFsqrt (w : StoresCanonical s) : NextCanonical (execFsqrt f s) := .issue .floatAlu w
theorem NextCanonical.execFdiv (w : StoresCanonical s) : NextCanonical (execFdiv f s) := .issue .floatAlu w
theorem NextCanonical.execFexp2 (w : StoresCanonical s) : NextCanonical (execFexp2 f s) := .issue .realAlu w
theorem NextCanonical.execFlog2 (w : StoresCanonical s) : NextCanonical (execFlog2 f s) := .issue .realAlu w
theorem NextCanonical.execFsin (w : StoresCanonical s) : NextCanonical (execFsin f s) := .issue .realAlu w
theorem NextCanonical.execFcos (w : StoresCanonical s) : NextCanonical (execFcos f s) := .issue .realAlu w
theorem NextCanonical.execFsinpi (w : StoresCanonical s) : NextCanonical (execFsinpi f s) := .issue .realAlu w
theorem NextCanonical.execFcospi (w : StoresCanonical s) : NextCanonical (execFcospi f s) := .issue .realAlu w
theorem NextCanonical.execFtanh (w : StoresCanonical s) : NextCanonical (execFtanh f s) := .issue .realAlu w
theorem NextCanonical.execFsigm (w : StoresCanonical s) : NextCanonical (execFsigm f s) := .issue .realAlu w
theorem NextCanonical.execFrnd (w : StoresCanonical s) : NextCanonical (execFrnd f s) := .issue .frndM w
theorem NextCanonical.execCvt (w : StoresCanonical s) : NextCanonical (execCvt f s) := .issue .cvtM w
theorem NextCanonical.execFscale (w : StoresCanonical s) : NextCanonical (execFscale f s) := .issue .fscaleM w
theorem NextCanonical.execFgetexp (w : StoresCanonical s) : NextCanonical (execFgetexp f s) := .issue .fgetexpM w

/-! ## Engine -/

theorem IfOk.engReach (w : StoresCanonical s) : IfOk SndCanonical (engReach s t c stk pg a n store hostOk) := by
  unfold Machine.engReach
  split
  · exact .error
  · split
    · exact .error
    · split
      · exact .error
      · exact .error
      · exact .ok w
  · split
    · exact .error
    · split
      · exact .error
      · exact .error
      · split
        · exact .error
        · exact .ok (IfOk.snd ‹_› (.translate w))
theorem IfOk.engRead (w : StoresCanonical s) : IfOk SndCanonical (engRead s t c stk pg sb n a n') := by
  induction n generalizing s t c stk pg sb a n' with
  | zero => exact .ok w
  | succ m ih =>
    unfold Machine.engRead
    split
    · exact .ok w
    · dsimp only
      split
      · exact .error
      · split
        · exact .error
        · split
          · exact .error
          · exact .ok (IfOk.snd ‹_› (ih (IfOk.snd ‹_› (.homeRead (IfOk.snd ‹_› (.engReach w))))))
theorem IfOk.engOpen (w : StoresCanonical s) : IfOk SndCanonical (engOpen s t c stk pg a bs) := by
  unfold Machine.engOpen
  split
  · exact .error
  · exact .ite .error (.ok (IfOk.snd ‹_› (.engReach w)))
theorem IfOk.engUnit (w : StoresCanonical s) : IfOk SndCanonical (engUnit s t g p) := by
  unfold Machine.engUnit
  split
  · exact .ok (UnitCanonical.get ‹_› (.writeUnit w))
  · exact .error
  · exact .error
theorem IfOk.engUnits (w : StoresCanonical s) : IfOk SndCanonical (engUnits t l g s) := by
  induction l generalizing t g s with
  | nil => exact .ok w
  | cons p r ih =>
    unfold Machine.engUnits
    split
    · exact .error
    · exact ih (IfOk.snd ‹_› (.engUnit w))
theorem IfOk.engBegun (w : StoresCanonical s) : IfOk SndCanonical (engBegun s t acc c stk pg a bs) := by
  unfold Machine.engBegun
  split
  · exact .ok w
  · exact .engOpen w
theorem IfOk.engWrite (w : StoresCanonical s) : IfOk StoresCanonical (engWrite s t acc c stk pg a bs) := by
  unfold Machine.engWrite
  split
  · exact .error
  · split
    · exact .error
    · exact .ok (.setFulls (IfOk.snd ‹_› (.engUnits (IfOk.snd ‹_› (.engBegun w)))))
theorem IfSome.engAhead (w : StoresCanonical s) : IfSome SndCanonical (engAhead s t acc c stk pg a bs j) := by
  unfold Machine.engAhead
  split
  · exact .none
  · exact .bind .any fun _ _ => .toOption (.engUnit (IfOk.snd ‹_› (.engBegun w)))
theorem IfOk.readUnit (w : StoresCanonical s) : IfOk SndCanonical (readUnit s t g p) := by
  unfold Machine.readUnit
  split
  · exact .error
  · exact .ok (IfOk.snd ‹_› (.homeRead w))
theorem IfOk.readUnits (w : StoresCanonical s) : IfOk SndCanonical (readUnits t l g s) := by
  induction l generalizing t g s with
  | nil => exact .ok w
  | cons p r ih =>
    unfold Machine.readUnits
    split
    · exact .error
    · exact ih (IfOk.snd ‹_› (.readUnit w))
theorem StoresCanonical.recordFault (w : StoresCanonical s) : StoresCanonical (recordFault s t feng cause pos) := .modTile w rfl
theorem StoresCanonical.engFlags (w : StoresCanonical s) : StoresCanonical (engFlags s t fl) := .ite w (.modTile w rfl)
theorem StoresCanonical.arrive (w : StoresCanonical s) : StoresCanonical (arrive s t hm n granule b) := by
  unfold Machine.arrive
  refine .unless ?_ fun k => .modTile k rfl
  split
  · exact .failStopTile w
  · exact .rawWrite w
  · exact .modTile w rfl
theorem StoresCanonical.pendBy (w : StoresCanonical s) : StoresCanonical (pendBy s t hm up b) :=
  .modTile w (by cases b <;> rfl)
theorem StoresCanonical.endRun (w : StoresCanonical s) : StoresCanonical (endRun s t p) := by
  unfold Machine.endRun
  refine .modTile ?_ rfl
  split
  · exact .pendBy w
  · exact w
theorem StoresCanonical.settlePort (w : StoresCanonical s) : StoresCanonical (settlePort s t p) :=
  .ite (.ite (.modTile w rfl) (.ite (.endRun w) w)) w
theorem StoresCanonical.portPush (w : StoresCanonical s) : StoresCanonical (portPush s t p tok) := by
  refine .modTile w ?_
  dsimp only
  split
  · rfl
  · rfl
theorem IfOk.openElement (w : StoresCanonical s) : IfOk SndCanonical (openElement s t y) := by
  unfold Machine.openElement
  split
  · exact .ok w
  · split
    · exact .error
    · dsimp only
      split
      · exact .error
      · exact .ite .error (.ok (IfOk.snd ‹_› (.engReach w)))
theorem IfOk.readElement (w : StoresCanonical s) : IfOk StoresCanonical (readElement s t p) := by
  unfold Machine.readElement
  dsimp only
  split
  · exact .error
  · split
    · exact .ok (.settlePort (.modTile (.portPush w) rfl))
    · split
      · exact .error
      · split
        · exact .error
        · exact .ok (.settlePort (.when (.modTile (.engFlags (IfOk.snd ‹_› (.readUnits (IfOk.snd ‹_› (.openElement w))))) rfl)
            fun k => .portPush k))
theorem IfOk.writeElement (w : StoresCanonical s) : IfOk StoresCanonical (writeElement s t p) := by
  unfold Machine.writeElement
  dsimp only
  split
  · exact .error
  · split
    · exact .error
    · split
      · split
        · exact .error
        · exact .ok (.settlePort (.modTile (.when (.modTile (IfOk.state ‹_› (.engWrite w)) rfl) fun k => .arrive k) rfl))
      · split
        · exact .error
        · exact .ok (.settlePort (.modTile (.when (.modTile (IfOk.state ‹_› (.engWrite w)) rfl) fun k => .arrive k) rfl))
      · exact .ite (.ok (.modTile w rfl)) .error
      · exact .error
      · exact .ok (.endRun (.modTile w rfl))
theorem IfOk.portTry (w : StoresCanonical s) : IfOk StoresCanonical (portTry s t p) :=
  .ite .error (.ite (.writeElement w) (.readElement w))
theorem IfSome.portAhead (w : StoresCanonical s) : IfSome StoresCanonical (portAhead s t p j) := by
  unfold Machine.portAhead
  dsimp only
  split
  · exact .none
  · split
    · split
      · exact .none
      · exact .ite .none (.bind .any fun _ _ => .map (.engAhead w) fun _ k1 => .modTile k1 rfl)
    · split
      · exact .none
      · split
        · exact .none
        · exact .bind .any fun _ _ => .map (.toOption (.readUnit (IfOk.snd ‹_› (.openElement w)))) fun _ k1 => .modTile k1 rfl
theorem StoresCanonical.emptyPiece (w : StoresCanonical s) : StoresCanonical (emptyPiece s t c stk pg a n) := by
  unfold Machine.emptyPiece
  split
  · exact w
  · exact .ite w (.setFull w)
  · dsimp only
    split
    · exact .frame w
    · split
      · exact w
      · split
        · exact .frame w
        · exact .ite (IfOk.snd ‹_› (.shadowPage w)) (.setFull (IfOk.snd ‹_› (.shadowPage w)))
theorem StoresCanonical.emptyRange (w : StoresCanonical s) : StoresCanonical (emptyRange s t c stk pg n a n') := by
  induction n generalizing s t c stk pg a n' with
  | zero => exact w
  | succ m ih => exact .ite w (ih (.emptyPiece w))
theorem StoresCanonical.startPort (w : StoresCanonical s) : StoresCanonical (startPort s t p c res car counts) :=
  .settlePort (.when (.when (.modTile (.endRun w) rfl) fun k => .modTile (.pendBy k) rfl) fun k => .foldl k fun _ _ =>
    .emptyPiece)
theorem IfOk.copyUnits (w : StoresCanonical s) : IfOk SndCanonical (copyUnits s t o sb l a) := by
  induction l generalizing s t o sb a with
  | nil => exact .ok w
  | cons p r ih =>
    unfold Machine.copyUnits
    split
    · exact ih w
    · split
      · exact .error
      · exact ih (IfOk.snd ‹_› (.engRead w))
theorem IfOk.copyData (w : StoresCanonical s) : IfOk FthCanonical (copyData s t o) := by
  unfold Machine.copyData
  dsimp only
  split
  · exact .error
  · exact .ok (IfOk.snd ‹_› (.copyUnits w))
theorem IfOk.copyTry (w : StoresCanonical s) : IfOk StoresCanonical (copyTry s t) := by
  unfold Machine.copyTry
  dsimp only
  split
  · exact .error
  · split
    · exact .error
    · split
      · exact .error
      · split
        · exact .error
        · rename_i s' written
          have k {fl : Flags} : StoresCanonical (engFlags s' t fl) := .engFlags
            (IfOk.state written (.engWrite (IfOk.fth ‹_› (.copyData w))))
          refine .ok ?_
          split
          · refine .pendBy (.modTile ?_ rfl)
            split
            · exact .arrive k
            · exact k
          · refine .modTile ?_ rfl
            split
            · exact .arrive k
            · exact k
theorem IfSome.copyAhead (w : StoresCanonical s) : IfSome StoresCanonical (copyAhead s t j) := by
  unfold Machine.copyAhead
  refine .bind .any fun _ _ => ?_
  split
  · exact .none
  · exact .map (.engAhead (IfOk.fth ‹_› (.copyData w))) fun _ k1 => .modTile k1 rfl
theorem IfSome.copyReads (w : StoresCanonical s) : IfSome StoresCanonical (copyReads s t u) := by
  unfold Machine.copyReads
  refine .bind .any fun _ _ => .ite .none ?_
  split
  · exact .none
  · exact .some (.modTile (IfOk.snd ‹_› (.copyUnits w)) rfl)
theorem IfOk.dreqUnits (w : StoresCanonical s) : IfOk SndCanonical (dreqUnits d l a s) := by
  induction l generalizing d a s with
  | nil => exact .ok w
  | cons p r ih =>
    unfold Machine.dreqUnits
    split
    · exact ih w
    · split
      · exact .error
      · exact ih (IfOk.snd ‹_› (.homeRead w))
theorem IfOk.dreqTry (w : StoresCanonical s) : IfOk StoresCanonical (dreqTry s t n) := by
  unfold Machine.dreqTry
  dsimp only
  split
  · exact .error
  · split
    · exact .error
    · split
      · exact .error
      · split
        · exact .error
        · split
          · split
            · exact .error
            · exact .ok (.when (.modTile (.arrive (IfOk.state ‹_› (.engWrite (IfOk.snd ‹_› (.dreqUnits w))))) rfl) fun k =>
                .pendBy k)
          · exact .ok (.modTile (.modTile (IfOk.snd ‹_› (.dreqUnits w)) rfl) rfl)
theorem IfSome.dreqReads (w : StoresCanonical s) : IfSome StoresCanonical (dreqReads s t n u) := by
  unfold Machine.dreqReads
  refine .bind .any fun _ _ => .ite .none ?_
  split
  · exact .none
  · exact .some (.modTile (IfOk.snd ‹_› (.dreqUnits w)) rfl)
theorem IfSome.dreqAhead (w : StoresCanonical s) : IfSome StoresCanonical (dreqAhead s t n j) :=
  .bind .any fun _ _ => .ite .none (.map (.engAhead w) fun _ k1 => .modTile k1 rfl)
theorem IfSome.engGo (w : StoresCanonical s) (hx : IfOk StoresCanonical r) : IfSome StoresCanonical (engGo s t r) := by
  unfold Machine.engGo
  split
  · exact .some (IfOk.state rfl hx)
  · exact .some (.failStopTile w)
  · exact .none
theorem IfSome.evEngineGranuleWrite (w : StoresCanonical s) : IfSome StoresCanonical (evEngineGranuleWrite t s) :=
  .engGo w (.copyTry w)
theorem IfSome.evStreamElement (w : StoresCanonical s) : IfSome StoresCanonical (evStreamElement t p s) := .engGo w (.portTry w)
theorem IfSome.evDreqReply (w : StoresCanonical s) : IfSome StoresCanonical (evDreqReply t n s) := .engGo w (.dreqTry w)
theorem IfSome.evEngineFault (w : StoresCanonical s) : IfSome StoresCanonical (evEngineFault t e s) := by
  unfold Machine.evEngineFault
  split
  · exact .none
  · split
    · exact .some (.recordFault w)
    · exact .some (.recordFault (.recordReject w))
    · exact .none
theorem IfSome.evEngstFaultClear (w : StoresCanonical s) : IfSome StoresCanonical (evEngstFaultClear t s) :=
  .ite (.some (.modTile w rfl)) .none

/-! ## Actor -/

theorem StoresCanonical.takeLate (w : StoresCanonical s) : StoresCanonical (State.takeLate s t cause taddr) := .modTile w rfl
theorem StoresCanonical.refuseAcc (w : StoresCanonical s) : StoresCanonical (refuseAcc s t a cause taddr addr) := by
  unfold Machine.refuseAcc
  split
  · exact .ite (.takeTrap w) (.when (.modTile w rfl) fun k => .takeLate k)
  · exact .ite (.takeLate w) (.ite (.tileEvent w) w)
theorem StoresCanonical.makeReady (w : StoresCanonical s) : StoresCanonical (makeReady s t r pri) := .modTile w rfl
theorem StoresCanonical.arriveRecord (w : StoresCanonical s) : StoresCanonical (arriveRecord s u r) := by
  unfold Machine.arriveRecord
  split
  · exact .failStopTile w
  · split
    · exact .makeReady (IfOk.snd ‹_› (.ite (.homeRead w) (.ok w)))
    · exact .modTile (IfOk.snd ‹_› (.ite (.homeRead w) (.ok w))) rfl
theorem StoresCanonical.arriveTdec (w : StoresCanonical s) : StoresCanonical (arriveTdec s t u off amt stamp) := by
  unfold Machine.arriveTdec
  split
  · exact .tileEvent w
  · exact .ite (.failStopTile w) (.ite (.takeLate w) (.tileEvent w))
  · exact .when (.when (.rawWrite w) fun k => .foldl (.modTile k rfl) fun _ _ => .makeReady) fun k => .tileEvent k
theorem StoresCanonical.startTask (w : StoresCanonical s) : StoresCanonical (startTask s t e d a hm) := by
  unfold Machine.startTask
  dsimp only
  exact .modTile (.foldl w fun _ _ k => .modTile k rfl) rfl
theorem StoresCanonical.endTask (w : StoresCanonical s) : StoresCanonical (endTask s t) :=
  .when (.when (.disband (.foldl w fun _ _ k => .modTile k (by simp))) fun k => .foldl k fun _ _ k1 => .modTile k1 (by simp))
    fun k => .modTile k rfl
theorem StoresCanonical.sendBuffered (w : StoresCanonical s) : StoresCanonical (sendBuffered t l s).1 := by
  induction l generalizing s with
  | nil => exact w
  | cons p r ih =>
    cases p with
    | hdarr h n k =>
      unfold Machine.sendBuffered
      split
      · exact ih (.arrive w)
      · exact .modTile w rfl
    | acc a =>
      unfold Machine.sendBuffered
      dsimp only
      split
      · exact ih (IfOk.state ‹_› (.sendFrom (.modTile w rfl)))
      · exact .modTile w rfl
theorem StoresCanonical.sendTeam (w : StoresCanonical s) : StoresCanonical (sendTeam p l s).1 := by
  induction l generalizing p s with
  | nil => exact w
  | cons p r ih =>
    simp only [Machine.sendTeam]
    split
    · exact ih (StoresCanonical.pfst ‹_› (.sendBuffered (.modTile w rfl)))
    · exact StoresCanonical.pfst ‹_› (.sendBuffered (.modTile w rfl))
theorem StoresCanonical.setPhases (w : StoresCanonical s) : StoresCanonical (setPhases s ts n) :=
  .foldl w fun _ _ k => .modTile k rfl
theorem StoresCanonical.commitStf (w : StoresCanonical s) : StoresCanonical (commitStf s ts).1 := by
  unfold Machine.commitStf
  split
  · exact StoresCanonical.pfst ‹_› (.sendTeam (.setPhases w))
  · exact StoresCanonical.pfst ‹_› (.sendTeam (.setPhases w))
theorem StoresCanonical.commitStores (w : StoresCanonical s) : StoresCanonical (commitStores s ts).1 := by
  unfold Machine.commitStores
  split
  · exact StoresCanonical.pfst ‹_› (.sendTeam (.setPhases w))
  · split
    · exact .commitStf (StoresCanonical.pfst ‹_› (.sendTeam (.setPhases w)))
    · exact StoresCanonical.pfst ‹_› (.sendTeam (.setPhases w))
theorem StoresCanonical.commitStep (w : StoresCanonical s) : StoresCanonical (commitStep s ts).1 := by
  unfold Machine.commitStep
  split
  · split
    · exact w
    · split
      · exact .commitStores w
      · exact .foldl w fun _ _ k => .modTile k (by simp)
  · exact .ite w (.foldl w fun _ _ k => .modTile k (by simp))
  · exact w
  · exact .commitStores w
  · exact .commitStf w

/-! ## EngineOps -/

theorem Keeps.needOwn : Keeps (needOwn a n align) := by
  unfold Machine.needOwn
  refine .look fun _ _ => ?_
  split
  · exact .ite .trap (.ite .trap .pure)
  · exact .trap
theorem Keeps.readOwn : Keeps (readOwn a n align) := by
  unfold Machine.readOwn
  refine .bind .needOwn fun _ => .bind .me fun _ => .bind .portTurn fun _ => .bind .getT fun _ => ?_
  split
  · exact .trap
  · exact .bind (.modT fun _ => by simp) fun _ => .pure
theorem Keeps.readHurdle : Keeps (readHurdle hm) := by
  unfold Machine.readHurdle
  refine .bind .getT fun _ => ?_
  split
  · exact .trap
  · exact .bind (.modT fun _ => by split <;> simp) fun _ => .pure
theorem Keeps.turnHurdle : Keeps (turnHurdle hm) := by
  unfold Machine.turnHurdle
  refine .bind .getT fun _ => ?_
  split
  · exact .bind .me fun _ => .bind .portTurn fun _ => .readHurdle
  · exact .pure
theorem Keeps.carryNow : Keeps carryNow := .look fun _ _ => .pure
theorem Keeps.portFree : Keeps (portFree p) := .bind .getT fun _ => .await
theorem Keeps.spbindM : Keeps (spbindM f) :=
  .whenBit0 (.bind .needM fun _ => .bind .readG fun _ => .bind .portFree fun _ => .bind .readOwn fun _ => .bind .getT fun _ =>
    .bind .need fun _ => .bind .me fun _ => .bind (.modS fun _ => .endRun) fun _ => .bind (.modT fun _ => rfl) fun _ => .pure)
theorem Keeps.spgoM : Keeps (spgoM f) :=
  .whenBit0 (.bind .needM fun _ => .bind .portFree fun _ => .bind .getT fun _ => .ifBind .needMode fun _ => .ite
    (.bind .readHurdle fun _ => .bind .need fun _ => .bind .carryNow fun _ => .bind .me fun _ => .bind
    (.modS fun _ => .startPort) fun _ => .pure) (.bind .carryNow fun _ => .bind .me fun _ => .bind (.modS fun _ => .startPort)
    fun _ => .pure))
theorem Keeps.sphaltM : Keeps (sphaltM f) :=
  .whenBit0 (.bind .needM fun _ => .bind .me fun _ => .bind (.modS fun _ k => .ite (.settlePort (.modTile k rfl)) k) fun _ =>
    .pure)
theorem Keeps.spposM : Keeps (spposM f) :=
  .whenBit0 (.bind .dstReady fun _ => .bind .getT fun _ => .bind .sendResult fun _ => .pure)
theorem Keeps.armedOr : Keeps (armedOr hd) := by
  unfold Machine.armedOr
  split
  · exact .pure
  · exact .bind .readHurdle fun _ => .need
theorem Keeps.checkRow : Keeps (checkRow a n dst) := by
  unfold Machine.checkRow
  refine .look fun _ _ => ?_
  split
  · exact .trap
  · refine .ifBind .trap fun _ => ?_
    dsimp only
    split
    · exact .ite .trap .pure
    · exact .ite .trap .pure
theorem Keeps.startCopy : Keeps (startCopy o) := by
  unfold Machine.startCopy
  refine .bind .getT fun _ => .bind .me fun _ => .bind .need fun _ => .bind .need fun _ => .bind .armedOr fun _ => .bind .need
    fun _ => .ifBind .needMode fun _ => .bind (.forIn fun _ _ => .bind .checkRow fun _ => .bind .checkRow fun _ => .pure) fun _
    => .bind .await fun _ => .bind (.modS fun _ k => .modTile (.foldl ?_ fun _ _ => .emptyRange) rfl) fun _ => .pure
  split
  · exact .pendBy k
  · exact k
theorem Keeps.cpaM : Keeps (cpaM f) :=
  .whenBit0 (.bind .readG fun _ => .bind .readG fun _ => .bind .readG fun _ => .bind .carryNow fun _ => .bind .getT fun _ =>
    .startCopy)
theorem Keeps.cp2dM : Keeps (cp2dM f) :=
  .whenBit0 (.bind .readG fun _ => .bind .readOwn fun _ => .bind .carryNow fun _ => .bind .getT fun _ => .startCopy)
theorem Keeps.hdinitM : Keeps (hdinitM f) :=
  .whenBit0 (.bind .dstReady fun _ => .bind .readG fun _ => .bind .readG fun _ => .bind .needOwn fun _ => .bind .need fun _ =>
    .bind .me fun _ => .bind .portTurn fun _ => .bind .getT fun _ => .ite (.bind .writeG fun _ => .pure)
    (.ite (.bind .writeG fun _ => .pure) (.bind (.modT fun _ => rfl) fun _ => .bind (.modS fun _ => .rawWrite) fun _ => .bind
    (.modT fun _ => rfl) fun _ => .bind .writeG fun _ => .pure)))
theorem Keeps.hdarrM : Keeps (hdarrM f) := by
  unfold Machine.hdarrM
  refine .whenBit0 (.bind .readG fun _ => .bind .need fun _ => .bind .getT fun _ => .iteBind .turnHurdle .readHurdle fun _ =>
    ?_)
  dsimp only
  split
  · exact .illop
  · exact .bind .need fun _ => .bind .me fun _ => .iteBind (.modS fun _ => .arrive) .buffer fun _ => .pure
theorem Keeps.phaseDone : Keeps (phaseDone f) := by
  unfold Machine.phaseDone
  refine .bind .readG fun _ => .bind .turnHurdle fun _ => ?_
  split
  · exact .illop
  · exact .pure
theorem Keeps.hdwaitM : Keeps (hdwaitM f) := .whenBit0 (.bind .phaseDone fun _ => .bind .await fun _ => .pure)
theorem Keeps.hdtestM : Keeps (hdtestM f) := .whenBit0 (.bind .phaseDone fun _ => .bind .sendResult fun _ => .pure)
theorem Keeps.hdkillM : Keeps (hdkillM f) := by
  unfold Machine.hdkillM
  refine .whenBit0 (.bind .me fun _ => .bind .turnHurdle fun _ => ?_)
  split
  · exact .pure
  · exact .bind (.modT fun _ => rfl) fun _ => .bind (.modS fun _ => .rawWrite) fun _ => .pure
theorem Keeps.dreqM : Keeps (dreqM f) := by
  unfold Machine.dreqM
  refine .whenBit0 (.bind .readG fun _ => .bind .readG fun _ => .iteBind .readG .pure fun _ => .bind .getT fun _ => .bind .me
    fun _ => .bind .need fun _ => ?_)
  extract_lets -underBinder +onlyGivenNames -merge rest
  have keeps a : Keeps (rest a) := by
    dsimp -zeta only [rest]
    extract_lets -underBinder +onlyGivenNames -merge rest
    have keeps a : Keeps (rest a) := by
      refine .bind .carryNow fun _ => .ifBind .trap fun _ => .bind .resolve fun _ => ?_
      extract_lets -underBinder +onlyGivenNames -merge rest
      have keeps a : Keeps (rest a) := .bind .await fun _ => .bind (.modS fun _ k => .modTile (.ite (.emptyRange (.pendBy k)) k)
        (by split <;> rfl)) fun _ => .pure
      exact .ite (.bind .needOwn fun _ => keeps ()) (keeps ())
    split
    · exact keeps ()
    · exact .bind .trap fun _ => keeps ()
  exact .ite (.bind .need fun _ => .bind .armedOr fun _ => keeps ()) (.bind .need fun _ => keeps ())
theorem NextCanonical.execSpbind (w : StoresCanonical s) : NextCanonical (execSpbind f s) := .issue .spbindM w
theorem NextCanonical.execSpgo (w : StoresCanonical s) : NextCanonical (execSpgo f s) := .issue .spgoM w
theorem NextCanonical.execSphalt (w : StoresCanonical s) : NextCanonical (execSphalt f s) := .issue .sphaltM w
theorem NextCanonical.execSppos (w : StoresCanonical s) : NextCanonical (execSppos f s) := .issue .spposM w
theorem NextCanonical.execCpa (w : StoresCanonical s) : NextCanonical (execCpa f s) := .issue .cpaM w
theorem NextCanonical.execCp2d (w : StoresCanonical s) : NextCanonical (execCp2d f s) := .issue .cp2dM w
theorem NextCanonical.execHdinit (w : StoresCanonical s) : NextCanonical (execHdinit f s) := .issue .hdinitM w
theorem NextCanonical.execHdarr (w : StoresCanonical s) : NextCanonical (execHdarr f s) := .issue .hdarrM w
theorem NextCanonical.execHdwait (w : StoresCanonical s) : NextCanonical (execHdwait f s) := .issue .hdwaitM w
theorem NextCanonical.execHdtest (w : StoresCanonical s) : NextCanonical (execHdtest f s) := .issue .hdtestM w
theorem NextCanonical.execHdkill (w : StoresCanonical s) : NextCanonical (execHdkill f s) := .issue .hdkillM w
theorem NextCanonical.execDreq (w : StoresCanonical s) : NextCanonical (execDreq f s) := .issue .dreqM w
theorem NextCanonical.execEngineGranuleWrite (w : StoresCanonical s) : NextCanonical (execEngineGranuleWrite t s) :=
  .occur (fun _ => .evEngineGranuleWrite) w
theorem NextCanonical.execStreamElement (w : StoresCanonical s) : NextCanonical (execStreamElement t p s) :=
  .occur (fun _ => .evStreamElement) w
theorem NextCanonical.execDreqReply (w : StoresCanonical s) : NextCanonical (execDreqReply t n s) :=
  .occur (fun _ => .evDreqReply) w
theorem NextCanonical.execEngineFault (w : StoresCanonical s) : NextCanonical (execEngineFault t e s) :=
  .occur (fun _ => .evEngineFault) w
theorem NextCanonical.execEngstFaultClear (w : StoresCanonical s) : NextCanonical (execEngstFaultClear t s) :=
  .occur (fun _ => .evEngstFaultClear) w

/-! ## ControlOps -/

theorem Keeps.isFollower : Keeps isFollower := by
  unfold Machine.isFollower
  refine .bind .me fun _ => .bind .getT fun _ => ?_
  split
  · exact .pure
  · exact .pure
theorem Keeps.anchorOnly (hx : Keeps m) : Keeps (anchorOnly m) := .bind .isFollower fun _ => .ite .pure hx
theorem Keeps.brM : Keeps (brM f) := .anchorOnly (.whenBit0 (.bind .getT fun _ => .jumpTo))
theorem Keeps.bcM : Keeps (bcM f) := .anchorOnly (.whenBit0 (.bind .readG fun _ => .ite (.bind .getT fun _ => .jumpTo) .pure))
theorem Keeps.jalM : Keeps (jalM f) :=
  .whenBit0 (.bind .dstReady fun _ => .bind .getT fun _ => .bind .jumpTo fun _ => .bind .writeG fun _ => .pure)
theorem Keeps.jrM : Keeps (jrM f) := .anchorOnly (.whenBit0 (.bind .readG fun _ => .jumpTo))
theorem Keeps.loopM : Keeps (loopM f) :=
  .anchorOnly (.whenBit0 (.bind .readG fun _ => .bind .getT fun _ => .ite (.bind .jumpTo fun _ => .bind .modR fun _ => .pure)
    (.ite .trap (.bind .modR fun _ => .pure))))
theorem Keeps.lbrkM : Keeps (lbrkM f) :=
  .anchorOnly (.whenBit0 (.bind .getT fun _ => .ite .illop (.bind .parityGood fun _ => .bind .jumpTo fun _ => .bind .modR fun _
    => .pure)))
theorem Keeps.needIn : Keeps (needIn q) := .bind .getT fun _ => .need
theorem Keeps.needOut : Keeps (needOut q) := .bind .getT fun _ => .need
theorem Keeps.sndM : Keeps (sndM f) := by
  unfold Machine.sndM
  split
  · exact .whenBit0 (.bind .needOut fun _ => .bind .getT fun _ => .bind .getT fun _ => .bind .await fun _ => .bind .readScalar
      fun _ => .bind .pushTok fun _ => .pure)
  · refine .whenLanes fun _ => .bind .needOut fun _ => .bind .getT fun _ => .bind .getT fun _ => .bind .await fun _ => ?_
    extract_lets rest
    have keeps a : Keeps (rest a) := .bind .pushTok fun _ => .pure
    split
    · exact .bind .readV keeps
    · exact .bind .illop keeps
theorem Keeps.rcvM : Keeps (rcvM f) := by
  unfold Machine.rcvM
  extract_lets -underBinder +onlyGivenNames -merge rest
  have keeps a : Keeps (rest a) := .bind .dstReady fun _ => .bind .needIn fun _ => .bind .dstRef fun _ => .bind .sendResult fun
    _ => .pure
  exact .ite (.whenBit0 (keeps _)) (.whenLanes keeps)
theorem Keeps.qpkM : Keeps (qpkM f) := by
  unfold Machine.qpkM
  refine .whenBit0 (.bind .dstReady fun _ => .bind .needIn fun _ => .bind .getT fun _ => ?_)
  split
  · exact .ite (.bind .writeG fun _ => .pure) .hold
  · exact .bind .writeG fun _ => .pure
theorem Keeps.qcntM : Keeps (qcntM f) :=
  .whenBit0 (.bind .dstReady fun _ => .ite (.bind .needOut fun _ => .bind .getT fun _ => .bind .writeG fun _ => .pure)
    (.bind .needIn fun _ => .bind .getT fun _ => .bind .writeG fun _ => .pure))
theorem Keeps.eodM : Keeps (eodM f) := .whenBit0 (.bind .needOut fun _ => .bind .pushTok fun _ => .pure)
theorem Keeps.qpsnM : Keeps (qpsnM f) :=
  .whenBit0 (.ifBind .needOut fun _ => .bind .getT fun _ => .bind .await fun _ => .bind .readScalar fun _ => .bind .need fun _
    => .bind (.forIn fun _ _ => .bind .pushTok fun _ => .pure) fun _ => .pure)
theorem Keeps.retRoom : Keeps retRoom := .bind .getT fun _ => .await
theorem Keeps.sendMsg : Keeps (sendMsg mk) := .modT fun _ => by split <;> simp
theorem Keeps.spawnM : Keeps (spawnM f) := by
  unfold Machine.spawnM
  refine .whenBit0 (.bind .readG fun _ => .bind .readG fun _ => .look fun _ _ => ?_)
  split
  · exact .illop
  · refine .ifBind .trap fun _ => .bind .readOwn fun _ => ?_
    split
    · exact .illop
    · exact .bind .await fun _ => .bind .retRoom fun _ => .bind .sendMsg fun _ => .pure
theorem Keeps.tdecM : Keeps (tdecM f) :=
  .whenBit0 (.bind .readG fun _ => .bind .readG fun _ => .bind .readG fun _ => .look fun _ _ => .bind .need fun _ => .bind
    .retRoom fun _ => .bind .sendMsg fun _ => .pure)
theorem Keeps.commitM : Keeps (commitM ts) := by
  unfold Machine.commitM
  refine .look fun _ k => .bind .await fun _ => ?_
  split
  · exact .bind (.modS fun _ _ => .endTask (StoresCanonical.pfst ‹_› (.commitStep k))) fun _ => .pure
  · exact .bind (.modS fun _ _ => StoresCanonical.pfst ‹_› (.commitStep k)) fun _ => .sentHold
  · exact .bind (.modS fun _ _ => .takeForced (StoresCanonical.pfst ‹_› (.commitStep k))) fun _ => .sentHold
theorem Keeps.tendM : Keeps (tendM f) :=
  .anchorOnly (.whenBit0 (.look fun _ _ => .ite .pure (.bind .getT fun _ => .ite
    (.bind .await fun _ => .bind (.modS fun _ => .endTask) fun _ => .pure) .commitM)))
theorem Keeps.gformM : Keeps (gformM f) :=
  .whenBit0 (.look fun _ _ => .bind .getT fun _ => .bind .need fun _ => .bind .need fun _ => .bind .await fun _ => .bind .getT
    fun _ => .bind (.modS fun _ k1 => .foldl k1 fun _ _ k2 => .modTile k2 (by simp)) fun _ => .pure)
theorem Keeps.gendM : Keeps (gendM f) := by
  unfold Machine.gendM
  refine .bind .getT fun _ => ?_
  split
  · exact .whenBit0 .illop
  · exact .look fun _ _ => .ifBind (.modS fun _ => .disband) fun _ => .pure
theorem Keeps.gsyncM : Keeps (gsyncM f) :=
  .whenBit0 (.bind .getT fun _ => .bind .need fun _ => .bind .needM fun _ => .look fun _ _ => .bind .await fun _ => .pure)
theorem Keeps.collRoom : Keeps (collRoom g) := .look fun _ _ => .await
theorem StoresCanonical.emptyParts (w : StoresCanonical s) : StoresCanonical (emptyParts s t ps) :=
  .foldl w fun _ _ k => .ite (.setFull k) k
theorem Keeps.bufferParts : Keeps (bufferParts a n store size n') := by
  induction n' generalizing a n store size with
  | zero => exact .pure
  | succ m ih => exact .bind ih fun _ => .ite (.bind .resolve fun _ => .pure) .pure
theorem Keeps.collM : Keeps (collM kind f) := by
  unfold Machine.collM
  refine .whenBit0 (.bind .needM fun _ => .bind .notReplay fun _ => .bind .notRedundant fun _ => .bind .readG fun _ => .bind
    .readG fun _ => .iteBind .pure (.bind .readG fun _ => .pure) fun _ => .look fun _ _ => .bind .me fun _ => .bind .need fun _
    => .bind .need fun _ => ?_)
  extract_lets -underBinder +onlyGivenNames -merge rest
  have keeps a : Keeps (rest a) := by
    refine .bind .need fun _ => ?_
    extract_lets -underBinder +onlyGivenNames -merge bytes rest
    have keeps a : Keeps (rest a) := by
      refine .ifBind .trap fun _ => .ifBind .needMode fun _ => .bind .carryNow fun _ => .bind .bufferParts fun _ => ?_
      extract_lets -underBinder +onlyGivenNames -merge writes rest
      have keeps a : Keeps (rest a) := by
        refine .bind .collRoom fun _ => .bind (.modS fun _ k1 => .when (.when ?_ fun k2 => .emptyParts k2) fun k2 => .modCfg k2)
          fun _ => .pure
        split
        · exact .pendBy (.frame k1)
        · exact .frame k1
      exact .ite (.bind .bufferParts fun _ => keeps ()) (keeps ())
    split
    · exact keeps ()
    · exact .bind .trap fun _ => keeps ()
  split
  · exact keeps ()
  · refine .bind .readHurdle fun _ => ?_
    split
    · exact .bind .need fun _ => keeps ()
    · exact .bind .illop fun _ => keeps ()
theorem Keeps.carM : Keeps (carM f) := .collM
theorem Keeps.cbcM : Keeps (cbcM f) := .collM
theorem Keeps.crdM : Keeps (crdM f) := .collM
theorem Keeps.cbarM : Keeps (cbarM f) := by
  unfold Machine.cbarM
  refine .whenBit0 (.bind .needM fun _ => .bind .notReplay fun _ => .bind .notRedundant fun _ => .look fun _ _ => .bind .getT
    fun _ => ?_)
  split
  · exact .bind .await fun _ => .bind (.modT fun _ => rfl) fun _ => .pure
  · exact .bind .need fun _ => .bind .await fun _ => .bind .collRoom fun _ => .bind (.modS fun _ => .frame) fun _ => .bind
      (.modT fun _ => rfl) fun _ => .sentHold
theorem NextCanonical.execBr (w : StoresCanonical s) : NextCanonical (execBr f s) := .issue .brM w
theorem NextCanonical.execBc (w : StoresCanonical s) : NextCanonical (execBc f s) := .issue .bcM w
theorem NextCanonical.execJal (w : StoresCanonical s) : NextCanonical (execJal f s) := .issue .jalM w
theorem NextCanonical.execJr (w : StoresCanonical s) : NextCanonical (execJr f s) := .issue .jrM w
theorem NextCanonical.execLoop (w : StoresCanonical s) : NextCanonical (execLoop f s) := .issue .loopM w
theorem NextCanonical.execLbrk (w : StoresCanonical s) : NextCanonical (execLbrk f s) := .issue .lbrkM w
theorem NextCanonical.execSnd (w : StoresCanonical s) : NextCanonical (execSnd f s) := .issue .sndM w
theorem NextCanonical.execRcv (w : StoresCanonical s) : NextCanonical (execRcv f s) := .issue .rcvM w
theorem NextCanonical.execQpk (w : StoresCanonical s) : NextCanonical (execQpk f s) := .issue .qpkM w
theorem NextCanonical.execQcnt (w : StoresCanonical s) : NextCanonical (execQcnt f s) := .issue .qcntM w
theorem NextCanonical.execEod (w : StoresCanonical s) : NextCanonical (execEod f s) := .issue .eodM w
theorem NextCanonical.execQpsn (w : StoresCanonical s) : NextCanonical (execQpsn f s) := .issue .qpsnM w
theorem NextCanonical.execSpawn (w : StoresCanonical s) : NextCanonical (execSpawn f s) := .issue .spawnM w
theorem NextCanonical.execTdec (w : StoresCanonical s) : NextCanonical (execTdec f s) := .issue .tdecM w
theorem NextCanonical.execTend (w : StoresCanonical s) : NextCanonical (execTend f s) := .issue .tendM w
theorem NextCanonical.execGform (w : StoresCanonical s) : NextCanonical (execGform f s) := .issue .gformM w
theorem NextCanonical.execGend (w : StoresCanonical s) : NextCanonical (execGend f s) := .issue .gendM w
theorem NextCanonical.execGsync (w : StoresCanonical s) : NextCanonical (execGsync f s) := .issue .gsyncM w
theorem NextCanonical.execCar (w : StoresCanonical s) : NextCanonical (execCar f s) := .issue .carM w
theorem NextCanonical.execCbc (w : StoresCanonical s) : NextCanonical (execCbc f s) := .issue .cbcM w
theorem NextCanonical.execCrd (w : StoresCanonical s) : NextCanonical (execCrd f s) := .issue .crdM w
theorem NextCanonical.execCbar (w : StoresCanonical s) : NextCanonical (execCbar f s) := .issue .cbarM w

/-! ## Csr -/

theorem StoresCanonical.pinArea (w : StoresCanonical s) : StoresCanonical (pinArea s c v) := by
  unfold Machine.pinArea
  exact .modCtx (.foldl w fun _ _ k => .ite k (.modField k)) (by simp)
theorem StoresCanonical.writeSavebase (w : StoresCanonical s) : StoresCanonical (writeSavebase s c v) := .frame (.pinArea w)
theorem StoresCanonical.repin (w : StoresCanonical s) : StoresCanonical (repin s c) := .ite (.pinArea w) w
theorem StoresCanonical.writeRedctl (w : StoresCanonical s) : StoresCanonical (writeRedctl s c v) := .modCtx w rfl
theorem StoresCanonical.refWrite (w : StoresCanonical s) : StoresCanonical (refWrite s owner n o a) := by
  unfold Machine.refWrite
  split
  · exact w
  · dsimp only
    split
    · split
      · exact .writeSavebase w
      · exact w
    · exact .modPart w
    · exact .modPart w
    · exact .modPart w
    · split
      · exact .writeRedctl w
      · exact w
    · exact .modPart w
    · exact .modPart w
    · exact .modPart w
    · exact .modPart w
    · exact .modPart w
    · exact .modPart w
    · exact .ite (.frame w) w
theorem StoresCanonical.fieldWrite (w : StoresCanonical s) : StoresCanonical (fieldWrite s f n v) := by
  unfold Machine.fieldWrite
  split
  · exact .ite w (.frame w)
  · exact .modField w
  · exact .modField w
  · exact .modField w
  · exact .modField w
  · exact .modField w
  · exact .modField w
  · exact w
theorem StoresCanonical.railWrite (w : StoresCanonical s) : StoresCanonical (railWrite s n mv) :=
  .ite (.modField w) (.ite (.frame w) (.ite (.frame w) w))
theorem StoresCanonical.csrStore (w : StoresCanonical s) : StoresCanonical (csrStore s t n o a) :=
  .ite (.modTile w (by simp)) (.refWrite w)

/-! ## Turn -/

theorem StoresCanonical.passTime (w : StoresCanonical s) : StoresCanonical (passTime s) := w
theorem StoresCanonical.passCycles (w : StoresCanonical s) : StoresCanonical (passCycles s t) := by
  refine .modTile w ?_
  split
  · split
    · rfl
    · rfl
  · rfl
theorem DeedCanonical.fetch (w : StoresCanonical s) : DeedCanonical (fetch s t x) := by
  unfold Machine.fetch
  split
  · exact .done (.stepDone (.takeTrap w))
  · split
    · exact .done (.stepDone (.takeTrap w))
    · split
      · exact .run w
      · exact .run w
theorem IfSome.lateOf (w : StoresCanonical s) : IfSome FthCanonical (lateOf s t) := by
  unfold Machine.lateOf
  refine .findSome fun _ _ => ?_
  split
  · exact .some (.modTile w rfl)
  · exact .none
theorem DeedCanonical.boundary (w : StoresCanonical s) : DeedCanonical (boundary s t x) := by
  unfold Machine.boundary
  split
  · exact .fetch w
  · split
    · exact .done (.takeTrap (IfSome.fth ‹_› (.lateOf w)))
    · split
      · exact .ite (.fetch w) (.run w)
      · exact .fetch w
theorem DeedCanonical.tileTurn (w : StoresCanonical s) : DeedCanonical (tileTurn s t) := by
  unfold Machine.tileTurn
  dsimp only
  split
  · exact .done (.passCycles (.frame w))
  · split
    · exact .ite (.run (.passCycles (.frame w))) (.done (.passCycles (.frame w)))
    · exact .boundary (.passCycles (.frame w))

/-! ## Save -/

theorem SaveCanonical.saveStore (w : StoresCanonical s) : SaveCanonical (saveStore s t c va m from_ n) := by
  simp only [Machine.saveStore]
  split
  · exact .fault
  · refine .ite .wait (.ite .fault (.ok (.digestWrite (.setDram ?_ (wf_copyCells _ _ _ _ _ (StoresCanonical.dram ?_))))))
    · exact .setDirty (.setPteBit (.touchWindows w))
    · exact .setDirty (.setPteBit (.touchWindows w))
theorem StoresCanonical.writePieces (w : StoresCanonical s) : StoresCanonical (writePieces s t c base m off n).1 := by
  induction n generalizing s t c base m off with
  | zero => exact w
  | succ m ih =>
    unfold Machine.writePieces
    split
    · exact ih (SaveCanonical.get ‹_› (.saveStore w))
    · exact w
    · exact w

/-! ## Starter -/

theorem StoresCanonical.cqWrite (w : StoresCanonical s) : StoresCanonical (cqWrite s c r) := .modCtx (.rawWrite w) rfl
theorem StoresCanonical.cqFlush (w : StoresCanonical s) : StoresCanonical (cqFlush c l s) := by
  induction l generalizing c s with
  | nil => exact .modCtx w rfl
  | cons p r ih => exact .ite (ih (.cqWrite w)) (.modCtx w rfl)
theorem StoresCanonical.postRecord (w : StoresCanonical s) : StoresCanonical (postRecord s c r) := .cqFlush w
theorem StoresCanonical.unloadTile (w : StoresCanonical s) : StoresCanonical (unloadTile s t) :=
  .modField (.when (.modTile w (by split <;> rfl)) fun k => .modTile k rfl)
theorem StoresCanonical.digestStore (w : StoresCanonical s) : StoresCanonical (digestStore s t old new) :=
  .ite w (.foldl w fun _ _ => .digestWrite)
theorem StoresCanonical.replaceStore (w : StoresCanonical s) (h : st.bytes.wf = true) : StoresCanonical (replaceStore s t st) :=
  .digestStore (.writeTile w h)
theorem StoresCanonical.resetTile (w : StoresCanonical s) : StoresCanonical (resetTile s t) :=
  .modTile (.replaceStore (.unloadTile w) rfl) rfl
theorem StoresCanonical.cutOutside (w : StoresCanonical s) : StoresCanonical (cutOutside s n) :=
  .frame (.frame (.closeWindows w))
theorem StoresCanonical.starterReply (w : StoresCanonical s) : StoresCanonical (starterReply s u v) := .modTile w rfl
theorem StoresCanonical.finishCfg (w : StoresCanonical s) : StoresCanonical (finishCfg s n status) := by
  unfold Machine.finishCfg
  dsimp only
  split
  · exact w
  · refine .frame (.postRecord (.modSaved (.modPart (.modCfg ?_)) (.filter (StoresCanonical.saved (.modPart (.modCfg ?_))))))
    all_goals
      split
      · exact .starterReply w
      · exact w
theorem StoresCanonical.killCfg (w : StoresCanonical s) : StoresCanonical (killCfg s n status) := by
  unfold Machine.killCfg
  split
  · exact w
  · exact .ite w (.finishCfg (.cutOutside (.foldl w fun _ _ => .unloadTile)))
theorem IfSome.readVa (w : StoresCanonical s) : IfSome ThdCanonical (readVa s c va n) := by
  unfold Machine.readVa
  dsimp only
  split
  · exact .none
  · split
    · exact .none
    · split
      · exact .none
      · refine .some (IfOk.snd ‹_› (.homeRead (IfSome.thd ‹_› (.findSome fun _ _ => ?_))))
        split
        · exact .some (IfOk.thd ‹_› (.walkCtx w))
        · exact .none
theorem StoresCanonical.seedTile (w : StoresCanonical s) : StoresCanonical (seedTile s t off ws) := by
  unfold Machine.seedTile
  dsimp only
  split
  · exact .failStopTile w
  · exact .rawWrite w
theorem StoresCanonical.loadActor (w : StoresCanonical s) : StoresCanonical (loadActor s n slot d place t) :=
  .modTile (.foldl (.unloadTile w) fun _ _ => .seedTile) rfl
theorem StoresCanonical.loadAll (w : StoresCanonical s) : StoresCanonical (loadAll s n img place) := by
  unfold Machine.loadAll
  refine .foldl w fun _ _ k => ?_
  split
  · exact .loadActor k
  · exact k
theorem StoresCanonical.startPorts (w : StoresCanonical s) : StoresCanonical (startPorts s ctx img place) := by
  unfold Machine.startPorts
  refine .foldl w fun _ _ k => ?_
  split
  · exact k
  · exact .foldl k fun _ _ k1 => .ite (.startPort k1) k1
theorem StoresCanonical.resumePorts (w : StoresCanonical s) : StoresCanonical (resumePorts s t) := .modTile w rfl
theorem StoresCanonical.moveRegions (w : StoresCanonical s) : StoresCanonical (moveRegions s c moves) := .modCtx w rfl
theorem StoresCanonical.relink (w : StoresCanonical s) : StoresCanonical (relink s img place) :=
  .foldl w fun _ _ k => .modTile k rfl
theorem StoresCanonical.writeSave (w : StoresCanonical s) : StoresCanonical (writeSave s c blk j t).1 := by
  unfold Machine.writeSave
  extract_lets write
  have writes {s b n m} (k : StoresCanonical s) : StoresCanonical (write b n m s).1 := .writePieces k
  have start : StoresCanonical (if blk = 0 then write (saveBase s c.ctx) 1 (headerCells s c) s else (s, none)).1 := by
    split
    · exact writes w
    · exact w
  split
  · exact w
  · split
    · rename_i e
      rw [e] at start
      exact writes start
    · exact start
theorem IfOk.readTile (w : StoresCanonical s) : IfOk StoresCanonical (readTile s t p) := by
  unfold Machine.readTile
  split
  · exact .error
  · exact .ok (IfOk.snd ‹_› (.homeRead w))
  · exact .error
theorem StoresCanonical.haltPorts (w : StoresCanonical s) : StoresCanonical (haltPorts s t) := .ite (.modTile w rfl) w
theorem StoresCanonical.saveMember (w : StoresCanonical s) : StoresCanonical (saveMember s n e) := by
  unfold Machine.saveMember
  dsimp only
  split
  · exact w
  · split
    · exact w
    · split
      · exact .failStopTile w
      · split
        · exact .modCfg (StoresCanonical.pfst ‹_› (.writeSave (IfOk.state ‹_› (.readTile w))))
        · exact StoresCanonical.pfst ‹_› (.writeSave (IfOk.state ‹_› (.readTile w)))
        · exact .modCfg (.tileEvent (StoresCanonical.pfst ‹_› (.writeSave (IfOk.state ‹_› (.readTile w)))))
/-- What is saved of a configuration is canonical, as the tiles it is taken from are. -/
theorem SavedCanonical.savedTiles {k : Cfg} (w : StoresCanonical s) : SavedCanonical [⟨k, savedTiles s c⟩] := by
  intro v hv e he
  obtain rfl := List.mem_singleton.1 hv
  obtain ⟨m, -, rfl⟩ := List.mem_map.1 he
  exact w.tile
theorem StoresCanonical.settleSave (w : StoresCanonical s) : StoresCanonical (settleSave s n) := by
  unfold Machine.settleSave
  split
  · exact w
  · refine .ite w ?_
    extract_lets ms s1 s2 c' back saver k sv s3 s4 s5 s6 s7 s8
    clear_value saver
    have h1 : StoresCanonical s1 := .foldl w fun _ _ k => .haltPorts k
    have h2 : StoresCanonical s2 := .ite (.foldl h1 fun _ _ k => .saveMember k) h1
    have h5 : StoresCanonical s5 := .frame (.foldl (.moveRegions h2) fun _ _ k => .unloadTile k)
    have h6 : StoresCanonical s6 := .modSaved h5 (.append h5.saved (.savedTiles h2))
    have h7 : StoresCanonical s7 := by
      dsimp only [s7]
      split
      · exact .starterReply h6
      · exact h6
    exact .ite (.ite (.modPart (.modCfg h7)) (.frame h7)) h2
theorem StoresCanonical.treatVictim (w : StoresCanonical s) : StoresCanonical (treatVictim s t) := by
  unfold Machine.treatVictim
  dsimp only
  split
  · exact w
  · exact .ite (.modTile w rfl) (.ite (.requeue w) w)
theorem StoresCanonical.preempt (w : StoresCanonical s) : StoresCanonical (preempt s n) := by
  unfold Machine.preempt
  split
  · exact w
  · exact .ite (.ite w (.killCfg w)) (.foldl (.modCfg w) fun _ _ => .treatVictim)
theorem StoresCanonical.readBlock (w : StoresCanonical s) : StoresCanonical (readBlock c base n n' a s).2 := by
  induction n' generalizing c base n a s with
  | zero => exact w
  | succ m ih =>
    unfold Machine.readBlock
    split
    · exact ih (IfSome.thd ‹_› (.readVa w))
    · exact ih w
theorem StoresCanonical.restoredTile (w : StoresCanonical s) : StoresCanonical (restoredTile s sv blk j x).2.2 := by
  unfold Machine.restoredTile
  split
  · exact w
  · exact .readBlock w
/-- A tile as its block gives it has a canonical store. -/
theorem wf_restoredTile {x y : Tile} {l : List Beside} {s' : State} (e : restoredTile s sv blk j x = (y, l, s'))
    (h : x.store.bytes.wf = true) : y.store.bytes.wf = true := by
  have hy : (restoredTile s sv blk j x).1.store.bytes.wf = true := by
    unfold Machine.restoredTile
    split
    · exact h
    · exact wf_copyCells _ _ _ _ _ rfl
  rwa [e] at hy
/-- The tiles read so far, to be loaded, have canonical stores, and so has the state. -/
def LoadCanonical (p : List (Nat × Nat × Nat × Tile × Tile) × List Beside × State) : Prop :=
  (∀ e ∈ p.1, e.2.2.2.2.store.bytes.wf = true) ∧ StoresCanonical p.2.2
theorem LoadCanonical.add {p : List (Nat × Nat × Nat × Tile × Tile) × List Beside × State} {e : Nat × Nat × Nat × Tile × Tile}
    {l : List Beside} (h : LoadCanonical p) (he : e.2.2.2.2.store.bytes.wf = true) (w : StoresCanonical s) :
    LoadCanonical (p.1 ++ [e], l, s) := by
  refine ⟨fun d hd => ?_, w⟩
  rcases List.mem_append.1 hd with hd | hd
  · exact h.1 d hd
  · exact List.mem_singleton.1 hd ▸ he
theorem StoresCanonical.loadSaved (w : StoresCanonical s) (hx : ∀ e ∈ sv.tiles, e.2.store.bytes.wf = true) :
    StoresCanonical (loadSaved s sv run' place) := by
  unfold Machine.loadSaved
  extract_lets c ms was
  split
  rename_i tiles latched s' e
  have start : LoadCanonical ([], [], s) := ⟨fun _ he => (nomatch he), w⟩
  have h : LoadCanonical (tiles, latched, s') := by
    rw [← e]
    refine List.foldlRecOn (motive := LoadCanonical) _ _ start fun p hp _ _ => ?_
    split
    · exact hp
    · split
      rename_i e
      exact hp.add (wf_restoredTile e (hx _ (List.mem_of_find?_eq_some ‹_›))) (.pthd e (.restoredTile hp.2))
  obtain ⟨ht, w'⟩ := h
  refine .relink (.moveRegions (List.foldlRecOn (motive := StoresCanonical) _ _ w' fun s k e he => ?_))
  exact .writeTile (.digestStore (.digestStore k)) (ht e he)
theorem StoresCanonical.takePlace (w : StoresCanonical s) : StoresCanonical (takePlace s c place res) := by
  simp only [Machine.takePlace]
  have k {s' : State} (w' : StoresCanonical s') {p : Prop} [Decidable p] {q : Saved → Bool} {sv n}
    (e : (if p then (s'.ctx n).saved.find? q else none) = some sv) :
      ∀ e ∈ sv.tiles, e.2.store.bytes.wf = true := by
    split at e
    · exact w'.saved sv (List.mem_of_find?_eq_some e)
    · cases e
  split
  · refine .loadSaved ?_ (k ?_ ‹_›)
    all_goals exact .repin (.frame (.modCfg (.frame w)))
  · exact .loadAll (.repin (.frame (.modCfg (.frame w))))
theorem StoresCanonical.donePlacing (w : StoresCanonical s) : StoresCanonical (donePlacing s c) := by
  have k {f g} : StoresCanonical ((s.modCfg c.sq f).modPart c.owner g) := .modPart (.modCfg w)
  exact .ite (.modSaved k k.saved.filter) k
theorem StoresCanonical.preemptFor (w : StoresCanonical s) : StoresCanonical (preemptFor s p c fitsIn) := by
  unfold Machine.preemptFor
  split
  · exact w
  · split
    · exact .foldl w fun _ _ => .preempt
    · exact w
theorem IfSome.readArgs (w : StoresCanonical s) : IfSome SndCanonical (readArgs c n n' s) := by
  induction n' generalizing c n s with
  | zero => exact .some w
  | succ m ih =>
    unfold Machine.readArgs
    split
    · exact .none
    · exact .map (ih (IfSome.thd ‹_› (.readVa w))) fun _ k => k
theorem IfSome.loadArgs (w : StoresCanonical s) : IfSome SndCanonical (loadArgs s c) :=
  .ite (.some w) (.map (.readArgs w) fun _ k => k)
theorem StoresCanonical.rejectPlaced (w : StoresCanonical s) : StoresCanonical (rejectPlaced s c place res) :=
  .finishCfg (.modCfg (.frame w))
theorem StoresCanonical.loadPlaced (w : StoresCanonical s) : StoresCanonical (loadPlaced s p c place res) := by
  unfold Machine.loadPlaced
  split
  · exact .rejectPlaced w
  · split
    · exact .rejectPlaced (IfSome.snd ‹_› (.loadArgs w))
    · exact .unless (.takePlace (.modCfg (IfSome.snd ‹_› (.loadArgs w)))) fun k => .donePlacing k
theorem HeadCanonical.placeCfg (w : StoresCanonical s) : HeadCanonical (placeCfg s p c) := by
  unfold Machine.placeCfg
  split
  · exact .moved (.finishCfg w)
  · split
    · exact .moved (.loadPlaced w)
    · dsimp only
      split
      · exact .moved (.finishCfg (.foldl w fun _ _ => .unloadTile))
      · exact .stuck (.preemptFor (.modCfg w))
theorem HeadCanonical.placeHead (w : StoresCanonical s) : HeadCanonical (placeHead s p) := by
  unfold Machine.placeHead
  split
  · exact .stuck w
  · split
    · exact .moved (.modPart w)
    · exact .placeCfg w
theorem StoresCanonical.placePart (w : StoresCanonical s) : StoresCanonical (placePart s owner n) := by
  induction n generalizing s owner with
  | zero => exact w
  | succ m ih =>
    unfold Machine.placePart
    split
    · exact w
    · split
      · exact w
      · split
        · exact ih (HeadCanonical.get ‹_› (.placeHead w))
        · exact HeadCanonical.rest ‹_› (.placeHead w)
theorem StoresCanonical.placeAll (w : StoresCanonical s) : StoresCanonical (placeAll s) := .foldl w fun _ _ => .placePart
theorem StoresCanonical.applyTileReq (w : StoresCanonical s) : StoresCanonical (applyTileReq s t spare) :=
  .ite (.setTileState w) w
theorem StoresCanonical.cfgBoundary (w : StoresCanonical s) : StoresCanonical (cfgBoundary s owner) :=
  .frame (.foldl (.frame (.modPart w)) fun _ _ => .applyTileReq)
theorem StoresCanonical.handleEnd (w : StoresCanonical s) : StoresCanonical (handleEnd s n) := by
  unfold Machine.handleEnd
  split
  · exact w
  · dsimp only
    split
    · exact .modCfg (.cfgBoundary (.cutOutside (.frame (.foldl w fun _ _ k => .ite (.unloadTile k) k))))
    · exact .frame (.cfgBoundary (.cutOutside (.frame (.foldl w fun _ _ k => .ite (.unloadTile k) k))))
theorem StoresCanonical.dropTlb (w : StoresCanonical s) : StoresCanonical (dropTlb s c va size) := w
theorem StoresCanonical.relocate (w : StoresCanonical s) : StoresCanonical (relocate s old n new sl) :=
  .mapTiles (s := { s with ctxs := _ }) (.mapCtxs w fun _ h k hk => by
    obtain ⟨v, hv, rfl⟩ := List.mem_map.1 hk
    intro e he
    obtain ⟨x, hx, rfl⟩ := List.mem_map.1 he
    exact h v hv x hx) fun _ => rfl
theorem StoresCanonical.switchPage (w : StoresCanonical s) : StoresCanonical (switchPage s c va newPa slice e) :=
  .dropTlb (.rawWrite (.touchWindows w))
/-- The state after a switch that cannot be made. -/
theorem StoresCanonical.leafToSwitch {s' : State} (w : StoresCanonical s) (e : leafToSwitch s c va = .error s') :
  StoresCanonical s' := by
  unfold Machine.leafToSwitch at e
  split at e
  · cases e
    exact w
  · split at e
    · cases e
      exact .pteDue w
    · cases e
theorem StoresCanonical.commitPage (w : StoresCanonical s) : StoresCanonical (commitPage s ctx va copy) := by
  unfold Machine.commitPage
  split
  · exact .leafToSwitch w ‹_›
  · exact .switchPage (.relocate (.digestWrite w))
theorem StoresCanonical.commitRun (w : StoresCanonical s) : StoresCanonical (commitRun s c j) := by
  unfold Machine.commitRun
  split
  · exact w
  · exact .foldl w fun _ _ => .commitPage

/-! ## SystemOps -/

theorem Keeps.csrCheck : Keeps (csrCheck n) := by
  unfold Machine.csrCheck
  refine .look fun _ _ => ?_
  split
  · exact .illop
  · exact .pure
  · exact .pure
  · exact .ite .pure (.stop .priv)
theorem Keeps.flagsReady : Keeps (flagsReady n) := .bind .getT fun _ => .await
theorem Keeps.counterGood : Keeps (counterGood n) := .ite .parityGood .pure
theorem Keeps.csrrM : Keeps (csrrM f) :=
  .bind .csrCheck fun _ => .whenBit0 (.bind .dstReady fun _ => .bind .flagsReady fun _ => .bind .counterGood fun _ => .look fun
    _ _ => .bind .writeG fun _ => .pure)
theorem Keeps.csrModM : Keeps (csrModM o f) :=
  .bind .csrCheck fun _ => .whenBit0 (.ifBind .dstReady fun _ => .bind .flagsReady fun _ => .bind .readScalar fun _ => .ifBind
    .counterGood fun _ => .look fun _ _ => .ifBind .writeG fun _ => .bind (.modS fun _ => .csrStore) fun _ => .pure)
theorem Keeps.csrwM : Keeps (csrwM f) := .csrModM
theorem Keeps.csrsM : Keeps (csrsM f) := .csrModM
theorem Keeps.csrcM : Keeps (csrcM f) := .csrModM
theorem Keeps.trapM : Keeps (trapM f) := .whenBit0 .trap
theorem Keeps.eretM : Keeps (eretM f) := .whenBit0 (.bind .returnFromTrap fun _ => .jumpTo)
theorem Keeps.brkM : Keeps (brkM f) := .whenBit0 .trap
theorem Keeps.rdtimeM : Keeps (rdtimeM f) := .whenBit0 (.bind .dstReady fun _ => .look fun _ _ => .bind .writeG fun _ => .pure)
theorem Keeps.rdperfM : Keeps (rdperfM f) :=
  .whenBit0 (.bind .dstReady fun _ => .bind .getT fun _ => .bind .writeG fun _ => .pure)
theorem Keeps.needTile : Keeps (needTile a) := .look fun _ _ => .ite .pure .trap
theorem Keeps.needLive : Keeps (needLive a) := .bind .needTile fun _ => .look fun _ _ => .ite .trap
  (.bind .await fun _ => .pure)
theorem StoresCanonical.resumeTile (w : StoresCanonical s) : StoresCanonical (resumeTile s t) := .modTile w (by split <;> rfl)
theorem Keeps.hgrpSetM : Keeps (hgrpSetM f) :=
  .bind .needReferee fun _ => .whenBit0 (.bind .readG fun _ => .bind .readG fun _ => .bind .needLive fun _ => .bind .need fun _
    => .look fun _ _ => .ifBind .trap fun _ => .bind (.modS fun _ k1 => .modTile k1 rfl) fun _ => .pure)
theorem StoresCanonical.haltMember (w : StoresCanonical s) : StoresCanonical (haltMember issuers s t) :=
  .when (.haltTile w) fun k => .modTile k rfl
theorem Keeps.hgrpHaltM : Keeps (hgrpHaltM f) := by
  unfold Machine.hgrpHaltM
  refine .bind .needReferee fun _ => .whenBit0 (.bind .readG fun _ => .bind .need fun _ => .bind (.modS fun _ k => ?_) fun _ =>
    .pure)
  split
  · exact k
  · exact .tileEvent (.foldl k fun _ _ => .haltMember)
theorem Keeps.hgrpResM : Keeps (hgrpResM f) :=
  .bind .needReferee fun _ => .whenBit0 (.bind .readG fun _ => .bind .need fun _ => .bind
    (.modS fun _ k => .foldl k fun _ _ => .resumeTile) fun _ => .pure)
theorem Keeps.hgrpStepM : Keeps (hgrpStepM f) :=
  .bind .needReferee fun _ => .whenBit0 (.bind .readG fun _ => .bind .needLive fun _ => .bind
    (.modS fun _ k => .modTile k (by
      dsimp only
      split
      · split <;> rfl
      · split <;> rfl)) fun _ => .pure)
theorem Keeps.hgrpRestileM : Keeps (hgrpRestileM f) :=
  .bind .needReferee fun _ => .whenBit0 (.bind .readG fun _ => .bind .needLive fun _ => .bind
    (.modS fun _ k => .resumeTile (.ite (.modTile k rfl) k)) fun _ => .pure)
theorem Keeps.hgrpStatM : Keeps (hgrpStatM f) :=
  .bind .needReferee fun _ => .whenBit0 (.bind .dstReady fun _ => .bind .readG fun _ => .bind .needLive fun _ => .look fun _ _
    => .bind .writeG fun _ => .pure)
theorem Keeps.hgrpReadM : Keeps (hgrpReadM f) :=
  .bind .needReferee fun _ => .whenBit0 (.bind .dstReady fun _ => .bind .readG fun _ => .bind .needLive fun _ => .bind .readG
    fun _ => .bind .need fun _ => .look fun _ _ => .bind .writeG fun _ => .pure)
theorem Keeps.wfeM : Keeps (wfeM f) := by
  unfold Machine.wfeM
  refine .bind .needReferee fun _ => .whenBit0 (.look fun _ _ => .bind .getT fun _ => .ite
    (.bind (.modT fun _ => rfl) fun _ => .pure) ?_)
  split
  · exact .hold
  · exact .bind .readG fun _ => .ite .hold (.bind (.modT fun _ => rfl) fun _ => .sentHold)
theorem Keeps.needSeal : Keeps (needSeal a n) := by
  unfold Machine.needSeal
  refine .look fun _ _ => ?_
  dsimp only
  split
  · exact .ite .trap .needOwn
  · exact .trap
theorem Keeps.attqM : Keeps (attqM f) := by
  unfold Machine.attqM
  refine .whenBit0 (.bind .needM fun _ => .bind .dstReady fun _ => .bind .readG fun _ => .bind .readG fun _ => .bind .needSeal
    fun _ => .bind .needSeal fun _ => .bind .need fun _ => .bind .readHurdle fun _ => ?_)
  extract_lets rest
  have keeps a : Keeps (rest a) := .bind .readOwn fun _ => .look fun _ _ => .ite (.bind .writeG fun _ => .pure)
    (.bind (.modS fun _ k1 => .frame (.modTile (.pendBy k1) (by simp))) fun _ => .bind .writeG fun _ => .pure)
  split
  · exact .bind .need fun _ => keeps ()
  · exact .bind .illop fun _ => keeps ()
theorem Keeps.writeOwn : Keeps (writeOwn off bs) := by
  unfold Machine.writeOwn
  refine .bind .me fun _ => .bind .notArmed fun _ => .bind .portTurn fun _ => .look fun _ k => ?_
  split
  · exact .trap
  · exact .modS fun _ _ => IfOk.state ‹_› (.homeWrite k)
theorem Keeps.sealM : Keeps (sealM f) :=
  .whenBit0 (.bind .needM fun _ => .bind .dstReady fun _ => .bind .readG fun _ => .bind .readG fun _ => .bind .needSeal fun _ =>
    .bind .needSeal fun _ => .bind .need fun _ => .bind .readOwn fun _ => .look fun _ _ => .bind .writeOwn fun _ => .bind
    (.modS fun _ => .frame) fun _ => .bind .writeG fun _ => .pure)
theorem Keeps.unsealM : Keeps (unsealM f) := by
  unfold Machine.unsealM
  refine .whenBit0 (.bind .needM fun _ => .bind .dstReady fun _ => .bind .readG fun _ => .bind .readG fun _ => .bind .needSeal
    fun _ => .bind .needSeal fun _ => .bind .need fun _ => .bind .readOwn fun _ => .look fun _ _ => ?_)
  dsimp only
  split
  · exact .bind .writeG fun _ => .pure
  · exact .bind .writeOwn fun _ => .bind .writeG fun _ => .pure
theorem Keeps.capTarget : Keeps (capTarget f) :=
  .bind .readG fun _ => .bind .need fun _ => .bind .needTile fun _ => .look fun _ _ => .ite .pure (.bind .await fun _ => .pure)
theorem Keeps.capsetM : Keeps (capsetM f) := by
  unfold Machine.capsetM
  refine .bind .needReferee fun _ => .whenBit0 (.bind .readG fun _ => .bind .readG fun _ => .bind .need fun _ => .bind
    .capTarget fun _ => ?_)
  split
  · exact .pure
  · exact .bind (.modS fun _ k => .modTile k rfl) fun _ => .pure
theorem Keeps.capclrM : Keeps (capclrM f) := by
  unfold Machine.capclrM
  refine .bind .needReferee fun _ => .whenBit0 (.bind .capTarget fun _ => ?_)
  split
  · exact .pure
  · exact .bind (.modS fun _ k => .modTile k rfl) fun _ => .pure
theorem Keeps.regionHomes : Keeps (regionHomes a n size n') := by
  induction n' generalizing a n size with
  | zero => exact .pure
  | succ m ih =>
    unfold Machine.regionHomes
    refine .bind ih fun _ => .ite .pure (.bind .resolve fun _ => .look fun _ _ => ?_)
    dsimp only
    split
    · exact .ifBind .trap fun _ => .pure
    · exact .pure
theorem Keeps.dgopenM : Keeps (dgopenM f) := by
  unfold Machine.dgopenM
  refine .whenBit0 (.bind .needM fun _ => .bind .notReplay fun _ => .bind .notRedundant fun _ => .bind .readG fun _ => .bind
    .readG fun _ => .bind .readG fun _ => .look fun _ _ => .bind .need fun _ => .bind .need fun _ => ?_)
  extract_lets n rest
  have keeps a : Keeps (rest a) := .bind .readOwn fun _ => .bind .await fun _ => .bind (.modS fun _ k1 => .modCtx k1 rfl) fun _
    => .pure
  split
  · exact .ifBind .trap fun _ => .ifBind .trap fun _ => .bind .need fun _ => .bind .pure keeps
  · exact .ifBind .trap fun _ => .bind .regionHomes keeps
  · exact .bind .trap keeps
theorem Keeps.dgcloseM : Keeps (dgcloseM f) :=
  .whenBit0 (.bind .needM fun _ => .bind .notReplay fun _ => .bind .notRedundant fun _ => .look fun _ _ => .bind .need fun _ =>
    .bind (.modS fun _ k1 => .modCtx k1 rfl) fun _ => .pure)
theorem Keeps.dgsnapM : Keeps (dgsnapM f) := by
  unfold Machine.dgsnapM
  refine .whenBit0 (.bind .dstReady fun _ => .bind .dstReady fun _ => .look fun _ _ => ?_)
  split
  · exact .illop
  · exact .bind .await fun _ => .bind .writeG fun _ => .bind .writeG fun _ => .pure
theorem Keeps.dgverM : Keeps (dgverM f) := .whenBit0 (.bind .dstReady fun _ => .look fun _ _ => .bind .writeG fun _ => .pure)
theorem StoresCanonical.contain (w : StoresCanonical s) : StoresCanonical (contain s ts status) :=
  .foldl (.foldl w fun _ _ => .killCfg) fun _ _ => .resetTile
theorem Keeps.myPart : Keeps myPart := by
  unfold Machine.myPart
  refine .look fun _ _ => ?_
  split
  · exact .pure
  · exact .stop .priv
theorem Keeps.fnrectM : Keeps (fnrectM f) :=
  .bind .needReferee fun _ => .whenBit0 (.bind .readG fun _ => .bind .myPart fun _ => .ifBind .trap fun _ => .bind .need fun _
    => .look fun _ _ => .bind .await fun _ => .bind (.modS fun _ k1 => .modPart
    (.foldl (.contain k1) fun _ _ k2 => .modTile k2 rfl)) fun _ => .pure)
theorem Keeps.fnrectRelM : Keeps (fnrectRelM f) :=
  .bind .needReferee fun _ => .whenBit0 (.bind .readG fun _ => .bind .myPart fun _ => .bind .need fun _ => .bind
    (.modS fun _ k => .modPart (.foldl k fun _ _ k1 => .modTile k1 rfl)) fun _ => .pure)
theorem Keeps.tkillTaskM : Keeps (tkillTaskM f) := by
  unfold Machine.tkillTaskM
  refine .bind .needReferee fun _ => .whenBit0 (.bind .readG fun _ => .bind .needLive fun _ => .look fun _ _ => .bind .await fun
    _ => .bind (.modS fun _ k1 => ?_) fun _ => .pure)
  split
  · exact k1
  · exact .ite (.killCfg k1) (.foldl (.requeue k1) fun _ _ k2 => .modTile k2 (by split <;> rfl))
theorem Keeps.tkillConfigM : Keeps (tkillConfigM f) := by
  unfold Machine.tkillConfigM
  refine .bind .needReferee fun _ => .whenBit0 (.bind .readG fun _ => .bind .needTile fun _ => .look fun _ _ => .bind .await fun
    _ => .bind (.modS fun _ k1 => ?_) fun _ => .pure)
  split
  · exact k1
  · exact .ite (.killCfg k1) k1
theorem StoresCanonical.killCtx (w : StoresCanonical s) : StoresCanonical (killCtx s c status) :=
  .modSaved (.foldl (.foldl w fun _ _ k => .killCfg k) fun _ _ k => .killCfg (.frame k)) fun _ h => nomatch h
theorem Keeps.tkillContextM : Keeps (tkillContextM f) :=
  .bind .needReferee fun _ => .whenBit0 (.bind .readG fun _ => .look fun _ _ => .bind .await fun _ => .bind
    (.modS fun _ k1 => .ite (.killCtx k1) k1) fun _ => .pure)
theorem Keeps.askStarters (hx : Keeps req) : Keeps (askStarters f req) := by
  unfold Machine.askStarters
  extract_lets rest
  have keeps a : Keeps (rest a) := .bind (.modT fun _ => rfl) fun _ => .bind .writeG fun _ => .pure
  refine .bind .getT fun _ => ?_
  split
  · exact .hold
  · exact keeps _
  · refine .bind .dstReady fun _ => .bind hx fun _ => ?_
    split
    · exact keeps _
    · exact .bind (.modT fun _ => rfl) fun _ => .sentHold
theorem Keeps.prempSaveM : Keeps (prempSaveM f) := by
  unfold Machine.prempSaveM
  refine .bind .needReferee fun _ => .whenBit0 (.askStarters (.bind .readG fun _ => .bind .needTile fun _ => .look fun _ _ =>
    ?_))
  split
  · exact .pure
  · exact .ite .pure (.ite .pure (.bind (.modS fun _ => .modCfg) fun _ => .pure))
theorem IfSome.placeSaved (w : StoresCanonical s) : IfSome StoresCanonical (placeSaved p n n' s) := by
  induction n' generalizing p n s with
  | zero => exact .some w
  | succ m ih =>
    unfold Machine.placeSaved
    split
    · exact .none
    · split
      · exact .none
      · exact ih (.takePlace w)
theorem StoresCanonical.restoreCtx (w : StoresCanonical s) : StoresCanonical (restoreCtx s c).2 := by
  unfold Machine.restoreCtx
  dsimp only
  split
  · exact w
  · split
    · exact w
    · split
      · exact w
      · split
        · exact w
        · exact .donePlacing (IfSome.state ‹_› (.placeSaved (.frame w)))
theorem Keeps.prempRestoreM : Keeps (prempRestoreM f) := by
  unfold Machine.prempRestoreM
  exact .bind .needReferee fun _ => .whenBit0 (.askStarters (.bind .readG fun _ => .look fun _ k =>
    .ite .pure (.bind (.modS fun _ _ => .restoreCtx k) fun _ => .pure)))
theorem Keeps.prempRemapM : Keeps (prempRemapM f) := by
  unfold Machine.prempRemapM
  refine .bind .needReferee fun _ => .whenBit0 (.askStarters (.bind .readG fun _ => .bind .needTile fun _ => .bind .readG fun _
    => .look fun _ _ => ?_))
  split
  · exact .pure
  · exact .bind (.modS fun _ => .frame) fun _ => .pure
theorem NextCanonical.execCsrr (w : StoresCanonical s) : NextCanonical (execCsrr f s) := .issue .csrrM w
theorem NextCanonical.execCsrw (w : StoresCanonical s) : NextCanonical (execCsrw f s) := .issue .csrwM w
theorem NextCanonical.execCsrs (w : StoresCanonical s) : NextCanonical (execCsrs f s) := .issue .csrsM w
theorem NextCanonical.execCsrc (w : StoresCanonical s) : NextCanonical (execCsrc f s) := .issue .csrcM w
theorem NextCanonical.execTrap (w : StoresCanonical s) : NextCanonical (execTrap f s) := .issue .trapM w
theorem NextCanonical.execEret (w : StoresCanonical s) : NextCanonical (execEret f s) := .issue .eretM w
theorem NextCanonical.execBrk (w : StoresCanonical s) : NextCanonical (execBrk f s) := .issue .brkM w
theorem NextCanonical.execHgrpSet (w : StoresCanonical s) : NextCanonical (execHgrpSet f s) := .issue .hgrpSetM w
theorem NextCanonical.execHgrpHalt (w : StoresCanonical s) : NextCanonical (execHgrpHalt f s) := .issue .hgrpHaltM w
theorem NextCanonical.execHgrpRes (w : StoresCanonical s) : NextCanonical (execHgrpRes f s) := .issue .hgrpResM w
theorem NextCanonical.execHgrpStep (w : StoresCanonical s) : NextCanonical (execHgrpStep f s) := .issue .hgrpStepM w
theorem NextCanonical.execHgrpRestile (w : StoresCanonical s) : NextCanonical (execHgrpRestile f s) := .issue .hgrpRestileM w
theorem NextCanonical.execHgrpStat (w : StoresCanonical s) : NextCanonical (execHgrpStat f s) := .issue .hgrpStatM w
theorem NextCanonical.execHgrpRead (w : StoresCanonical s) : NextCanonical (execHgrpRead f s) := .issue .hgrpReadM w
theorem NextCanonical.execWfe (w : StoresCanonical s) : NextCanonical (execWfe f s) := .issue .wfeM w
theorem NextCanonical.execRdtime (w : StoresCanonical s) : NextCanonical (execRdtime f s) := .issue .rdtimeM w
theorem NextCanonical.execRdperf (w : StoresCanonical s) : NextCanonical (execRdperf f s) := .issue .rdperfM w
theorem NextCanonical.execAttq (w : StoresCanonical s) : NextCanonical (execAttq f s) := .issue .attqM w
theorem NextCanonical.execSeal (w : StoresCanonical s) : NextCanonical (execSeal f s) := .issue .sealM w
theorem NextCanonical.execUnseal (w : StoresCanonical s) : NextCanonical (execUnseal f s) := .issue .unsealM w
theorem NextCanonical.execCapset (w : StoresCanonical s) : NextCanonical (execCapset f s) := .issue .capsetM w
theorem NextCanonical.execCapclr (w : StoresCanonical s) : NextCanonical (execCapclr f s) := .issue .capclrM w
theorem NextCanonical.execDgopen (w : StoresCanonical s) : NextCanonical (execDgopen f s) := .issue .dgopenM w
theorem NextCanonical.execDgclose (w : StoresCanonical s) : NextCanonical (execDgclose f s) := .issue .dgcloseM w
theorem NextCanonical.execDgsnap (w : StoresCanonical s) : NextCanonical (execDgsnap f s) := .issue .dgsnapM w
theorem NextCanonical.execDgver (w : StoresCanonical s) : NextCanonical (execDgver f s) := .issue .dgverM w
theorem NextCanonical.execFnrect (w : StoresCanonical s) : NextCanonical (execFnrect f s) := .issue .fnrectM w
theorem NextCanonical.execFnrectRel (w : StoresCanonical s) : NextCanonical (execFnrectRel f s) := .issue .fnrectRelM w
theorem NextCanonical.execTkillTask (w : StoresCanonical s) : NextCanonical (execTkillTask f s) := .issue .tkillTaskM w
theorem NextCanonical.execTkillConfig (w : StoresCanonical s) : NextCanonical (execTkillConfig f s) := .issue .tkillConfigM w
theorem NextCanonical.execTkillContext (w : StoresCanonical s) : NextCanonical (execTkillContext f s) := .issue .tkillContextM w
theorem NextCanonical.execPrempSave (w : StoresCanonical s) : NextCanonical (execPrempSave f s) := .issue .prempSaveM w
theorem NextCanonical.execPrempRestore (w : StoresCanonical s) : NextCanonical (execPrempRestore f s) := .issue .prempRestoreM w
theorem NextCanonical.execPrempRemap (w : StoresCanonical s) : NextCanonical (execPrempRemap f s) := .issue .prempRemapM w
theorem NextCanonical.execUnassignedOpcode (w : StoresCanonical s) : NextCanonical (execUnassignedOpcode x s) :=
  .next (.stepDone (.takeTrap w))

/-! ## EvTile -/

theorem StoresCanonical.passLate (w : StoresCanonical s) : StoresCanonical (passLate s t) :=
  .ite w (.foldl (.modTile w rfl) fun _ _ => .takeLate)
theorem IfSome.evLongLatencyFill (w : StoresCanonical s) : IfSome StoresCanonical (evLongLatencyFill t n s) := by
  unfold Machine.evLongLatencyFill
  dsimp only
  split
  · exact .none
  · split
    · exact .none
    · split
      · exact .some (.modTile w (by simp))
      · exact .some (.passLate (.modTile w (by simp)))
      · split
        · exact .none
        · split
          · exact .none
          · exact .some (.passLate (.modTile w (by simp)))
      · exact .none
      · exact .none
      · exact .none
theorem IfOk.walkParts (w : StoresCanonical s) : IfOk SndCanonical (walkParts s t l) := by
  induction l generalizing s t with
  | nil => exact .ok w
  | cons p r ih =>
    unfold Machine.walkParts
    dsimp only
    split
    · exact .error
    · refine .map (ih (IfOk.snd ‹_› ?_)) fun _ k => k
      split
      · exact .ok w
      · refine .ite .error ?_
        split
        · exact .error
        · exact .ok (IfOk.snd ‹_› (.translate w))
theorem IfSome.issueAgain (w : StoresCanonical s) : IfSome StoresCanonical (issueAgain s t n a take) := by
  unfold Machine.issueAgain
  dsimp only
  split
  · exact .none
  · split
    · exact .some (.modTile (IfOk.snd ‹_› (.walkParts w)) rfl)
    · exact .none
    · exact .ite (.some (.takeTrap w)) (.some (.modTile w rfl))
theorem IfSome.evLdsWake (w : StoresCanonical s) : IfSome StoresCanonical (evLdsWake t n s) := by
  unfold Machine.evLdsWake
  dsimp only
  split
  · exact .none
  · split
    · split
      · exact .none
      · split
        · exact .some (.modTile (PerfCanonical.get ‹_› (.performAcc w)) rfl)
        · exact .none
    · exact .issueAgain w
    · exact .none
theorem IfSome.evFiring (w : StoresCanonical s) : IfSome StoresCanonical (evFiring t s) := by
  unfold Machine.evFiring
  dsimp only
  split
  · exact .ite (.some (.makeReady w)) .none
  · exact .none
theorem IfSome.evActorClose (w : StoresCanonical s) : IfSome StoresCanonical (evActorClose t s) := by
  have closes {x : Tile} {l : List Nat} : (l.foldl Tile.dropHead x).closeOut.store = x.store :=
    store_closeOut.trans (store_foldl fun _ _ => store_dropHead)
  unfold Machine.evActorClose
  dsimp only
  split
  · exact .ite (.some (.modTile (.foldl w fun _ _ k => .modTile k (congrArg Store.bytes closes)) rfl)) .none
  · exact .none
theorem IfSome.evTaskStart (w : StoresCanonical s) : IfSome StoresCanonical (evTaskStart t s) := by
  unfold Machine.evTaskStart
  dsimp only
  split
  · split
    · exact .none
    · split
      · exact .none
      · exact .map .any fun _ _ => .startTask w
  · exact .none
theorem IfSome.evEngfault (w : StoresCanonical s) : IfSome StoresCanonical (evEngfault t s) :=
  .ite .none (.some (.when (.takeTrap (.modTile w rfl)) fun k => .modTile k rfl))
theorem StoresCanonical.rejectSent (w : StoresCanonical s) : StoresCanonical (rejectSent s t u kind cls stamp addr) :=
  .when (.recordReject w) fun k => .takeLate k
theorem IfSome.enterQueue (w : StoresCanonical s) : IfSome StoresCanonical (enterQueue s u j tok) :=
  .ite (.some (.modTile w rfl)) .none
theorem IfSome.evTokenArrival (w : StoresCanonical s) : IfSome StoresCanonical (evTokenArrival t q s) := by
  unfold Machine.evTokenArrival
  dsimp only
  split
  · exact .none
  · split
    · refine .some (IfSome.state ‹_› ?_)
      split
      · exact .none
      · exact .map (.enterQueue w) fun _ k => .modTile k rfl
    · split
      · exact .none
      · split
        · exact .some (.rejectSent (.modTile w rfl))
        · split
          · exact .some (.modTile w rfl)
          · exact .ite (.map (.enterQueue w) fun _ k => .modTile k rfl) .none
    · exact .none
theorem IfSome.evReservedTag (w : StoresCanonical s) : IfSome StoresCanonical (evReservedTag t q s) := by
  unfold Machine.evReservedTag
  dsimp only
  split
  · exact .none
  · exact .ite .none (.some (.tileEvent (.modTile w rfl)))
theorem IfSome.takeMsg (w : StoresCanonical s) (hx : ∀ s a1, StoresCanonical s → StoresCanonical (f s a1)) : IfSome
  StoresCanonical (takeMsg s t m f) := by
  unfold Machine.takeMsg
  split
  · exact .none
  · split
    · exact .none
    · dsimp only
      split
      · exact .some (.rejectSent (.modTile w rfl))
      · exact .some (hx _ _ (.modTile (.modTile w rfl) rfl))
theorem IfSome.evRecordArrival (w : StoresCanonical s) : IfSome StoresCanonical (evRecordArrival t s) := by
  unfold Machine.evRecordArrival
  split
  · exact .takeMsg w fun _ _ => .arriveRecord
  · exact .none
theorem IfSome.evTdecArrival (w : StoresCanonical s) : IfSome StoresCanonical (evTdecArrival t s) := by
  unfold Machine.evTdecArrival
  split
  · exact .takeMsg w fun _ _ => .arriveTdec
  · exact .none
theorem IfSome.evLaunchRecord (w : StoresCanonical s) : IfSome StoresCanonical (evLaunchRecord t s) := by
  unfold Machine.evLaunchRecord
  dsimp only
  split
  · exact .none
  · split
    · exact .none
    · split
      · exact .some (.failStopTile w)
      · exact .some (.frame (.modTile (IfOk.snd ‹_› (.ite (.homeRead w) (.ok w))) rfl))
theorem IfSome.evWfeTimeout (w : StoresCanonical s) : IfSome StoresCanonical (evWfeTimeout t s) := by
  unfold Machine.evWfeTimeout
  split
  · exact .ite (.some (.modTile w rfl)) .none
  · exact .none
theorem IfSome.evDrainTimeout (w : StoresCanonical s) : IfSome StoresCanonical (evDrainTimeout t s) := by
  unfold Machine.evDrainTimeout
  dsimp only
  split
  · exact .none
  · split
    · exact .none
    · exact .ite .none (.ite (.some (.requeue w)) (.some (.modTile w rfl)))
theorem NextCanonical.execLongLatencyFill (w : StoresCanonical s) : NextCanonical (execLongLatencyFill t n s) :=
  .occur (fun _ => .evLongLatencyFill) w
theorem NextCanonical.execLdsWake (w : StoresCanonical s) : NextCanonical (execLdsWake t n s) :=
  .occur (fun _ => .evLdsWake) w
theorem NextCanonical.execFiring (w : StoresCanonical s) : NextCanonical (execFiring t s) := .occur (fun _ => .evFiring) w
theorem NextCanonical.execTaskStart (w : StoresCanonical s) : NextCanonical (execTaskStart t s) :=
  .occur (fun _ => .evTaskStart) w
theorem NextCanonical.execActorClose (w : StoresCanonical s) : NextCanonical (execActorClose t s) :=
  .occur (fun _ => .evActorClose) w
theorem NextCanonical.execTokenArrival (w : StoresCanonical s) : NextCanonical (execTokenArrival t q s) :=
  .occur (fun _ => .evTokenArrival) w
theorem NextCanonical.execReservedTag (w : StoresCanonical s) : NextCanonical (execReservedTag t q s) :=
  .occur (fun _ => .evReservedTag) w
theorem NextCanonical.execRecordArrival (w : StoresCanonical s) : NextCanonical (execRecordArrival t s) :=
  .occur (fun _ => .evRecordArrival) w
theorem NextCanonical.execTdecArrival (w : StoresCanonical s) : NextCanonical (execTdecArrival t s) :=
  .occur (fun _ => .evTdecArrival) w
theorem NextCanonical.execLaunchRecord (w : StoresCanonical s) : NextCanonical (execLaunchRecord t s) :=
  .occur (fun _ => .evLaunchRecord) w
theorem NextCanonical.execEngfault (w : StoresCanonical s) : NextCanonical (execEngfault t s) :=
  .occur (fun _ => .evEngfault) w
theorem NextCanonical.execWfeTimeout (w : StoresCanonical s) : NextCanonical (execWfeTimeout t s) :=
  .occur (fun _ => .evWfeTimeout) w
theorem NextCanonical.execDrainTimeout (w : StoresCanonical s) : NextCanonical (execDrainTimeout t s) :=
  .occur (fun _ => .evDrainTimeout) w

/-! ## Patch -/

theorem StoresCanonical.modPatch (w : StoresCanonical s) : StoresCanonical (modPatch s t f) := .modTile w rfl
theorem StoresCanonical.patchFlags (w : StoresCanonical s) : StoresCanonical (patchFlags s t fl) := .ite w (.modPatch w)
theorem StoresCanonical.finishCmd (w : StoresCanonical s) : StoresCanonical (finishCmd s t) := .askStart (.modTile w rfl)
theorem StoresCanonical.advanceCmd (w : StoresCanonical s) : StoresCanonical (advanceCmd s t total) := by
  unfold Machine.advanceCmd
  split
  · exact w
  · exact .ite (.finishCmd w) (.modTile w rfl)
theorem IfOk.sourceUnits (w' : StoresCanonical s') : IfOk SndCanonical (sourceUnits s t e addr l s') := by
  induction l generalizing s s' with
  | nil => exact .ok w'
  | cons p r ih =>
    unfold Machine.sourceUnits
    dsimp only
    split
    · exact .error
    · refine .map (P := SndCanonical) (ih (IfOk.snd ‹_› ?_)) fun _ k => k
      split
      · exact .ok w'
      · exact .engRead w'
theorem IfOk.takeSource (w : StoresCanonical s) : IfOk SndCanonical (takeSource s t e src addr j n) :=
  .ite (.ite .error (.ok (.modTile w rfl))) (.sourceUnits w)
theorem StoresCanonical.spareCheck (w : StoresCanonical s) : StoresCanonical (spareCheck s t) :=
  .unless (.modTile w rfl) fun k => .modCfg (.foldl k fun _ _ => .tileEvent)
theorem StoresCanonical.feedBack (w : StoresCanonical s) : StoresCanonical (feedBack s t e a r0 set' row).2 := by
  unfold Machine.feedBack
  dsimp only
  split
  · exact w
  · split
    · exact w
    · exact .patchFlags w
theorem IfOk.runRow (w : StoresCanonical s) : IfOk ThdCanonical (runRow s t e src addr r0 set') := by
  unfold Machine.runRow
  dsimp only
  split
  · exact .error
  · exact .ok (.feedBack (IfOk.snd ‹_› (.takeSource w)))
theorem StoresCanonical.putRow (w : StoresCanonical s) : StoresCanonical (putRow s t set' r rs) := .patchFlags (.modPatch w)
theorem IfOk.runTry (w : StoresCanonical s) : IfOk StoresCanonical (runTry s t e src addr rows r0 set' zero sat) := by
  unfold Machine.runTry
  split
  · exact .error
  · exact .ok (.advanceCmd (.spareCheck (.putRow (IfOk.thd ‹_› (.runRow w)))))
theorem StoresCanonical.memberRow (w : StoresCanonical s) : StoresCanonical (memberRow s t e south ty row ps).2 := by
  unfold Machine.memberRow
  split
  · exact .advanceCmd (.spareCheck (.ite (.ite (.putRow (.patchFlags w)) (.putRow (.patchFlags w)))
      (.modPatch (.patchFlags w))))
  · exact w
theorem IfOk.westRows (w : StoresCanonical s) : IfOk SndCanonical (westRows s j l) := by
  induction l generalizing s j with
  | nil => exact .ok w
  | cons p r ih =>
    unfold Machine.westRows
    split
    · exact .error
    · split
      · split
        · exact .error
        · split
          · exact .error
          · exact .ok (IfOk.snd ‹_› (ih (IfOk.thd ‹_› (.runRow w))))
      · exact .error
theorem StoresCanonical.eastRows (w : StoresCanonical s) : StoresCanonical (eastRows s j l).2 := by
  induction l generalizing s j with
  | nil => exact w
  | cons p r ih =>
    unfold Machine.eastRows
    refine ih ?_
    split
    · split
      · exact .feedBack w
      · exact w
    · exact w
theorem StoresCanonical.columnRows (w : StoresCanonical s) : StoresCanonical (columnRows s j hm ts rows) := by
  unfold Machine.columnRows
  refine .foldl_snd w fun _ _ k1 => ?_
  split
  · exact .memberRow k1
  · exact k1
theorem StoresCanonical.regionRows (w : StoresCanonical s) : StoresCanonical (regionRows s j hm rows l) := by
  induction l generalizing s j hm rows with
  | nil => exact w
  | cons p r ih =>
    unfold Machine.regionRows
    dsimp only
    split
    · exact .columnRows w
    · exact ih (.eastRows (.columnRows w))
theorem IfOk.regionTry (w : StoresCanonical s) : IfOk StoresCanonical (regionTry s t j) := by
  unfold Machine.regionTry
  split
  · dsimp only
    split
    · exact .error
    · split
      · exact .error
      · exact .ok (.regionRows (IfOk.snd ‹_› (.westRows w)))
  · exact .error
theorem IfOk.wldTry (w : StoresCanonical s) : IfOk StoresCanonical (wldTry s t e src addr ty i4 sc) := by
  unfold Machine.wldTry
  dsimp only
  split
  · exact .error
  · exact .ite .error (.ok (.advanceCmd (.modPatch (IfOk.snd ‹_› (.takeSource w)))))
theorem IfOk.drnTry (w : StoresCanonical s) : IfOk StoresCanonical (drnTry s t e toQueue q addr ty set' sat clr first rows) :=
  by
  unfold Machine.drnTry
  dsimp only
  split
  · exact .ok (.finishCmd w)
  · split
    · exact .error
    · split
      · exact .ok (.advanceCmd (.when (.patchFlags (.modTile w (by split <;> simp))) fun k => .modPatch k))
      · split
        · exact .ok (.advanceCmd (.when (.patchFlags (IfOk.state ‹_› (.engWrite w))) fun k => .modPatch k))
        · exact .ite (.ok (.advanceCmd (.when (.patchFlags (.tileEvent w)) fun k => .modPatch k))) .error
        · exact .error
theorem StoresCanonical.stTry (w : StoresCanonical s) : StoresCanonical (stTry s t e clr) :=
  .finishCmd (.when (.modTile w (by simp)) fun k => .modPatch k)
theorem IfOk.patchTry (w : StoresCanonical s0) : IfOk StoresCanonical (patchTry s0 t) := by
  have k {e : PEntry} : StoresCanonical (if e.byTask then s0.modTile t Tile.keepPatch else s0) := .ite (.modTile w (by simp)) w
  unfold Machine.patchTry
  dsimp only
  split
  · exact .error
  · split
    · exact .error
    · split
      · exact .error
      · split
        · exact .ok (.finishCmd (.modPatch k))
        · exact .wldTry k
        · split
          · exact .ite .error (.ok (.finishCmd (.modPatch k)))
          · split
            · exact .ok (.finishCmd (.modPatch k))
            · exact .ite (.ok (.finishCmd (.modPatch k))) .error
        · split
          · exact .error
          · exact .ok (.advanceCmd (.modPatch (IfOk.snd ‹_› (.takeSource k))))
        · split
          · exact .regionTry k
          · exact .runTry k
        · exact .drnTry k
        · exact .ok (.finishCmd (.modPatch k))
        · exact .ok (.finishCmd (.modPatch k))
        · exact .ok (.finishCmd (.modPatch k))
        · split
          · exact .error
          · exact .ite .error (.ok (.finishCmd (.modPatch k)))
        · exact .ok (.stTry k)
        · exact .ok (.finishCmd (.modPatch k))
theorem IfSome.patchReads (w : StoresCanonical s) : IfSome StoresCanonical (patchReads s t n u) := by
  unfold Machine.patchReads
  refine .bind .any fun _ _ => .bind .any fun _ _ => .ite .none ?_
  split
  · exact .none
  · exact .some (.modTile (IfOk.snd ‹_› (.sourceUnits w)) rfl)
theorem IfSome.drainAhead (w : StoresCanonical s) : IfSome StoresCanonical (drainAhead s t j) := by
  unfold Machine.drainAhead
  refine .bind .any fun _ _ => ?_
  split
  · exact .ite .none (.map (.engAhead (.ite (.modTile w (by simp)) w)) fun _ k1 => .modTile k1 rfl)
  · exact .none
theorem IfSome.evPatchCommand (w : StoresCanonical s) : IfSome StoresCanonical (evPatchCommand t s) := .engGo w (.patchTry w)
theorem StoresCanonical.enqueueCmd (w : StoresCanonical s) : StoresCanonical (enqueueCmd s t e) :=
  .askStart (.when (.modTile w rfl) fun k => .askWake k)

/-! ## PatchOps -/

theorem Keeps.needPlainPatch : Keeps needPlainPatch := .bind .getT fun _ => .need
theorem Keeps.issueCmd : Keeps (issueCmd c) :=
  .bind .getT fun _ => .bind .await fun _ => .bind .me fun _ => .bind (.modS fun _ => .enqueueCmd) fun _ => .pure
theorem Keeps.cmdAddr : Keeps (cmdAddr named g n) := .ite (.bind .readG fun _ => .bind .needOwn fun _ => .pure) .pure
theorem Keeps.mxcfgM : Keeps (mxcfgM f) := .whenBit0 (.bind .needPlainPatch fun _ => .issueCmd)
theorem Keeps.mxwldM : Keeps (mxwldM f) :=
  .whenBit0 (.bind .needPlainPatch fun _ => .bind .getT fun _ => .bind .need fun _ => .bind .cmdAddr fun _ => .issueCmd)
theorem Keeps.mxwswM : Keeps (mxwswM f) := .whenBit0 (.bind .needPlainPatch fun _ => .issueCmd)
theorem Keeps.mxscM : Keeps (mxscM f) :=
  .whenBit0 (.bind .needPlainPatch fun _ => .bind .readG fun _ => .bind .getT fun _ => .bind .need fun _ => .bind .cmdAddr fun _
    => .issueCmd)
theorem Keeps.mxrunM : Keeps (mxrunM f) :=
  .whenBit0 (.bind .needPlainPatch fun _ => .bind .readG fun _ => .bind .readG fun _ => .look fun _ _ => .bind .need fun _ =>
    .bind .cmdAddr fun _ => .issueCmd)
theorem Keeps.mxdrnM : Keeps (mxdrnM f) :=
  .whenBit0 (.bind .needPlainPatch fun _ => .bind .readG fun _ => .bind .readG fun _ => .bind .getT fun _ => .bind .need fun _
    => .bind .need fun _ => .ifBind .needMode fun _ => .bind .cmdAddr fun _ => .bind .await fun _ => .bind .me fun _ => .ifBind
    (.modS fun _ => .emptyRange) fun _ => .issueCmd)
theorem Keeps.mxclrM : Keeps (mxclrM f) := .whenBit0 (.bind .needPlainPatch fun _ => .issueCmd)
theorem Keeps.mxrgnM : Keeps (mxrgnM f) :=
  .whenBit0 (.bind .needM fun _ => .bind .readG fun _ => .look fun _ _ => .bind .need fun _ => .issueCmd)
theorem Keeps.mxringM : Keeps (mxringM f) :=
  .whenBit0 (.bind .needM fun _ => .bind .readG fun _ => .look fun _ _ => .bind .need fun _ => .issueCmd)
theorem Keeps.mxlapM : Keeps (mxlapM f) := .whenBit0 (.bind .needM fun _ => .bind .getT fun _ => .bind .need fun _ => .issueCmd)
theorem Keeps.mxrecM : Keeps (mxrecM f) :=
  .whenBit0 (.bind .needPlainPatch fun _ => .ite (.bind .readG fun _ => .bind .needMode fun _ => .bind .need fun _ => .issueCmd)
    .issueCmd)
theorem Keeps.mxstM : Keeps (mxstM f) :=
  .whenBit0 (.bind .needPlainPatch fun _ => .bind .dstReady fun _ => .bind .issueCmd fun _ => .bind .sendResult fun _ => .pure)
theorem Keeps.mxcmdM : Keeps (mxcmdM f) := by
  unfold Machine.mxcmdM
  refine .whenBit0 (.bind .needM fun _ => .bind .getT fun _ => ?_)
  split
  · split
    · exact .hold
    · exact .bind (.modT fun _ => rfl) fun _ => .ite .pure .trap
  · exact .bind .readG fun _ => .bind .readG fun _ => .bind .readG fun _ => .look fun _ _ => .ifBind .trap fun _ => .ifBind
      .needMode fun _ => .bind (.modT fun _ => rfl) fun _ => .sentHold
theorem IfSome.evRemoteCommandArrival (w : StoresCanonical s) : IfSome StoresCanonical (evRemoteCommandArrival t s) := by
  unfold Machine.evRemoteCommandArrival
  split
  · exact .none
  · dsimp only
    split
    · exact .none
    · split
      · exact .some (.takeTrap (.recordReject w))
      · split
        · exact .some (.modTile w rfl)
        · split
          · exact .none
          · split
            · exact .some (.modTile w rfl)
            · exact .ite (.some (.modTile w rfl)) (.ite .none (.some (.modTile (.enqueueCmd w) rfl)))
theorem NextCanonical.execMxcfg (w : StoresCanonical s) : NextCanonical (execMxcfg f s) := .issue .mxcfgM w
theorem NextCanonical.execMxwld (w : StoresCanonical s) : NextCanonical (execMxwld f s) := .issue .mxwldM w
theorem NextCanonical.execMxwsw (w : StoresCanonical s) : NextCanonical (execMxwsw f s) := .issue .mxwswM w
theorem NextCanonical.execMxsc (w : StoresCanonical s) : NextCanonical (execMxsc f s) := .issue .mxscM w
theorem NextCanonical.execMxrun (w : StoresCanonical s) : NextCanonical (execMxrun f s) := .issue .mxrunM w
theorem NextCanonical.execMxdrn (w : StoresCanonical s) : NextCanonical (execMxdrn f s) := .issue .mxdrnM w
theorem NextCanonical.execMxclr (w : StoresCanonical s) : NextCanonical (execMxclr f s) := .issue .mxclrM w
theorem NextCanonical.execMxrgn (w : StoresCanonical s) : NextCanonical (execMxrgn f s) := .issue .mxrgnM w
theorem NextCanonical.execMxring (w : StoresCanonical s) : NextCanonical (execMxring f s) := .issue .mxringM w
theorem NextCanonical.execMxlap (w : StoresCanonical s) : NextCanonical (execMxlap f s) := .issue .mxlapM w
theorem NextCanonical.execMxrec (w : StoresCanonical s) : NextCanonical (execMxrec f s) := .issue .mxrecM w
theorem NextCanonical.execMxcmd (w : StoresCanonical s) : NextCanonical (execMxcmd f s) := .issue .mxcmdM w
theorem NextCanonical.execMxst (w : StoresCanonical s) : NextCanonical (execMxst f s) := .issue .mxstM w
theorem NextCanonical.execPatchCommand (w : StoresCanonical s) : NextCanonical (execPatchCommand t s) :=
  .occur (fun _ => .evPatchCommand) w
theorem NextCanonical.execRemoteCommandArrival (w : StoresCanonical s) : NextCanonical (execRemoteCommandArrival t s) :=
  .occur (fun _ => .evRemoteCommandArrival) w

/-! ## EvNet -/

theorem StoresCanonical.leaveMesh (w : StoresCanonical s) : StoresCanonical (leaveMesh s t id') := .ite (.modField w) w
theorem StoresCanonical.netDone (w : StoresCanonical s) : StoresCanonical (netDone s t n) := by
  unfold Machine.netDone
  refine .modTile ?_ rfl
  split
  · exact .leaveMesh w
  · exact w
theorem IfSome.netPerform (w : StoresCanonical s) : IfSome StoresCanonical (netPerform s t n a) := by
  unfold Machine.netPerform
  split
  · exact .some (.netDone (PerfCanonical.get ‹_› (.performAcc w)))
  · exact .none
theorem IfSome.netPart (w : StoresCanonical s) : IfSome StoresCanonical (netPart s t n j a) := by
  unfold Machine.netPart
  split
  · exact .none
  · split
    · exact .none
    · split
      · exact .none
      · exact .some (.ite (.unless (.modTile (.finishAcc (.leaveMesh (IfOk.snd ‹_› (.performPart w)))) rfl) fun k1 => .modTile
          k1 rfl) (.unless (.modTile (IfOk.snd ‹_› (.performPart w)) rfl) fun k1 => .modTile k1 rfl))
theorem IfSome.performUnit (w : StoresCanonical s) : IfSome StoresCanonical (performUnit s t i j) := by
  unfold Machine.performUnit
  split
  · exact .none
  · split
    · exact .netPart w
    · split
      · exact .netPerform w
      · exact .netPerform w
      · exact .none
theorem IfSome.engineUnit (w : StoresCanonical s) : IfSome StoresCanonical (engineUnit s t n) := by
  unfold Machine.engineUnit
  dsimp only
  split
  · exact .copyAhead w
  · exact .copyReads w
  · exact .drainAhead w
  · exact .patchReads w
  · exact .dreqReads w
  · exact .dreqAhead w
  · exact .ite (.portAhead w) .none
theorem IfSome.evAtomicAtHome (w : StoresCanonical s) : IfSome StoresCanonical (evAtomicAtHome t n s) := by
  unfold Machine.evAtomicAtHome
  split
  · exact .none
  · split
    · exact .netPerform w
    · exact .none
theorem StoresCanonical.netAck (w : StoresCanonical s) : StoresCanonical (netAck s t id') := by
  unfold Machine.netAck
  split
  · exact .netDone w
  · exact w
theorem StoresCanonical.dirtyMet (w : StoresCanonical s) : StoresCanonical (dirtyMet s met) :=
  .foldl w fun _ _ k => .foldl k fun _ _ => .setDirty
theorem PerfCanonical.performMet (w : StoresCanonical s) : PerfCanonical (performMet s t a met) := by
  unfold Machine.performMet
  split
  · dsimp only
    split
    · exact .ok (.dirtyMet (PerfCanonical.get ‹_› (.performRed w)))
    · exact .performRed w
  · exact .ok w
theorem IfSome.evRedArrival (w : StoresCanonical s) : IfSome StoresCanonical (evRedArrival t n s) := by
  unfold Machine.evRedArrival
  split
  · exact .none
  · split
    · dsimp only
      split
      · exact .some (.foldl (.netAck (PerfCanonical.get ‹_› (.ite (.performAcc w) (.performMet w)))) fun _ _ => .netAck)
      · split
        · exact .some (.modTile (PerfCanonical.waits ‹_› (.ite (.performAcc w) (.performMet w))) rfl)
        · exact .none
      · exact .none
    · exact .none
theorem StoresCanonical.chainDue (w : StoresCanonical s) : StoresCanonical (chainDue s t a acked hm) :=
  .ite (.takeForced w) (.refuseAcc w)
theorem StoresCanonical.chainStep (w : StoresCanonical s) : StoresCanonical (chainStep s t a g acked) := by
  unfold Machine.chainStep
  split
  · exact .modSlice (PerfCanonical.get ‹_› (.performAcc w))
  · exact .chainDue w
  · exact PerfCanonical.waits ‹_› (.performAcc w)
theorem StoresCanonical.setCur (w : StoresCanonical s) : StoresCanonical (setCur s sl ch n) := w
theorem StoresCanonical.freeEnt (w : StoresCanonical s) : StoresCanonical (freeEnt s sl e) := w
theorem StoresCanonical.chainLoop (w : StoresCanonical s) : StoresCanonical (chainLoop sl ch n s) := by
  induction n generalizing sl ch s with
  | zero => exact w
  | succ m ih =>
    unfold Machine.chainLoop
    dsimp only
    split
    · exact w
    · exact .ite (ih (.chainStep (.freeEnt w))) (.setCur w)
theorem StoresCanonical.rescan (w : StoresCanonical s) : StoresCanonical (rescan s sl ch) := .chainLoop w
theorem StoresCanonical.takeEnt (w : StoresCanonical s) : StoresCanonical (takeEnt s t a g tentative bypass) := w
theorem IfSome.chainArrive (w : StoresCanonical s) : IfSome StoresCanonical (chainArrive s t a g tentative) := by
  unfold Machine.chainArrive
  dsimp only
  split
  · exact .none
  · split
    · exact .some (.ite (.settleGap (.takeEnt w)) (.ite (.settleGap (.rescan (.chainStep w)))
        (.settleGap (.setCur (.takeEnt w)))))
    · exact .ite (.some (.settleGap (.takeEnt w))) .none
theorem StoresCanonical.chainOn (w : StoresCanonical s) : StoresCanonical (chainOn s sl e) :=
  .settleGap (.rescan (.setCur (.freeEnt w)))
theorem IfSome.chainUnit (w : StoresCanonical s) : IfSome StoresCanonical (chainUnit s sl e j) := by
  unfold Machine.chainUnit
  refine .map .any fun _ _ => ?_
  dsimp only
  split
  · exact .chainOn (.chainDue w)
  · rename_i s' performed
    have k : StoresCanonical s' := by
      refine IfOk.snd performed ?_
      split
      · exact .map (.performWrite w) fun _ k => k
      · split
        · exact .error
        · exact .ok (IfOk.snd ‹_› (.homeRead w))
    refine .ite (.chainOn (.modSlice ?_)) (.modSlice k)
    split
    · exact .arriveResult k
    · exact k
theorem IfSome.evPerformAtHome (w : StoresCanonical s) : IfSome StoresCanonical (evPerformAtHome t n s) := by
  unfold Machine.evPerformAtHome
  dsimp only
  split
  · exact .performUnit w
  · exact .chainUnit w
  · exact .engineUnit w
theorem StoresCanonical.chainTry (w : StoresCanonical s) : StoresCanonical (chainTry s t n a g) := by
  unfold Machine.chainTry
  split
  · exact .netDone (IfSome.state ‹_› (.chainArrive w))
  · exact .ite (.takeTrap (.modTile w rfl)) (.modTile w rfl)
theorem IfSome.evChainArrival (w : StoresCanonical s) : IfSome StoresCanonical (evChainArrival t n s) := by
  unfold Machine.evChainArrival
  split
  · exact .none
  · exact .bind .any fun _ _ => .ite (.some (.chainTry w)) .none
theorem IfSome.evChainRetry (w : StoresCanonical s) : IfSome StoresCanonical (evChainRetry t n s) := by
  unfold Machine.evChainRetry
  split
  · exact .none
  · exact .bind .any fun _ _ => .ite (.some (.chainTry w)) .none
theorem StoresCanonical.rescanAll (w : StoresCanonical s) : StoresCanonical (rescanAll s hit) :=
  .foldl w fun _ _ k => .settleGap (.rescan k)
theorem IfSome.evChainConfirmation (w : StoresCanonical s) : IfSome StoresCanonical (evChainConfirmation t s) := by
  unfold Machine.evChainConfirmation
  dsimp only
  split
  · exact .none
  · split
    · exact .none
    · exact .some (.rescanAll (.setPhases (.modSlice w)))
theorem IfSome.evChainCancellation (w : StoresCanonical s) : IfSome StoresCanonical (evChainCancellation t s) := by
  unfold Machine.evChainCancellation
  dsimp only
  split
  · exact .some (.rescanAll (.mapEnts w))
  · split
    · exact .none
    · exact .ite .none (.some (.abortTask (.recordTrap (.foldl w fun _ _ => .recordTrap))))
theorem IfSome.evChgap (w : StoresCanonical s) : IfSome StoresCanonical (evChgap sl ch s) := by
  unfold Machine.evChgap
  dsimp only
  split
  · exact .none
  · split
    · exact .ite .none (.some (.modSlice (.event w)))
    · exact .none
theorem StoresCanonical.refuseNow (w : StoresCanonical s) : StoresCanonical (refuseNow s t a p cause taddr) := by
  unfold Machine.refuseNow
  split
  · exact .ite (.takeForced (.modTile w rfl)) (.takeTrap (.modTile w rfl))
  · exact .ite (.takeForced (.modTile w rfl)) (.refuseAcc (.modTile w (by simp)))
theorem IfSome.evRejectReply (w : StoresCanonical s) : IfSome StoresCanonical (evRejectReply t n s) := by
  unfold Machine.evRejectReply
  split
  · exact .none
  · split
    · exact .some (.refuseNow (.recordReject w))
    · exact .none
theorem IfSome.evDueErrorReply (w : StoresCanonical s) : IfSome StoresCanonical (evDueErrorReply t n s) := by
  unfold Machine.evDueErrorReply
  split
  · exact .none
  · exact .map .any fun _ _ => .ite (.failStopTile (.modTile w rfl)) (.refuseNow w)
theorem IfSome.evDeadReturn (w : StoresCanonical s) : IfSome StoresCanonical (evDeadReturn t n s) := by
  unfold Machine.evDeadReturn
  dsimp only
  split
  · split
    · exact .none
    · split
      · exact .none
      · exact .ite (.some (.modTile w rfl)) .none
  · split
    · split
      · exact .none
      · exact .ite (.some (.modTile w rfl)) .none
    · split
      · exact .none
      · split
        · exact .some (.refuseNow w)
        · exact .none
theorem IfSome.evShootDown (w : StoresCanonical s) : IfSome StoresCanonical (evShootDown ctx va s) := .some (.frame w)
theorem StoresCanonical.movePage (w : StoresCanonical s) : StoresCanonical (movePage s m) := by
  unfold Machine.movePage
  split
  · exact .frame (.leafToSwitch w ‹_›)
  · exact .frame (.switchPage (.relocate (.copyDram w)))
theorem IfSome.evPageMigration (w : StoresCanonical s) : IfSome StoresCanonical (evPageMigration m s) := by
  unfold Machine.evPageMigration
  split
  · split
    · exact .none
    · exact .ite .none (.some (.frame (.dropTlb (IfOk.thd ‹_› (.walkCtx w)))))
  · split
    · exact .none
    · exact .ite (.ite .none (.some (.frame w))) (.ite (.some (.frame w)) (.some (.movePage w)))
theorem IfSome.evMigrationCancel (w : StoresCanonical s) : IfSome StoresCanonical (evMigrationCancel s) := by
  unfold Machine.evMigrationCancel
  split
  · exact .ite (.some (.frame w)) .none
  · exact .none
theorem strike_bytes {st : Store} {u : Nat} {d : Bool} : (st.strike u d).bytes = st.bytes := by
  unfold Store.strike
  split
  · rfl
  · split <;> rfl
theorem IfSome.evSoftError (w : StoresCanonical s) : IfSome StoresCanonical (evSoftError e s) := by
  cases e with
  | tileUnit t off double => exact .ite (.some (.modTile w strike_bytes)) .none
  | dramUnit pa double => exact .ite (.some (.setDram w (strike_bytes.symm ▸ w.dram))) .none
  | codeWord t i => exact .ite (.some (.modTile w rfl)) .none
  | reg t f i => exact .ite (.some (.modTile w (congrArg Store.bytes store_spoil))) .none
theorem StoresCanonical.scanFails (w : StoresCanonical s) : StoresCanonical (scanFails s ctx hm) := by
  unfold Machine.scanFails
  split
  · exact .failStopTile w
  · exact .event w
  · exact w
theorem IfSome.evDigestScan (w : StoresCanonical s) : IfSome StoresCanonical (evDigestScan ctx rg s) := by
  unfold Machine.evDigestScan
  split
  · exact .none
  · split
    · exact .none
    · split
      · exact .none
      · split
        · exact .some (.scanFails w)
        · exact .some (.modCtx (IfOk.snd ‹_› (.homeRead w)) rfl)
theorem NextCanonical.execPerformAtHome (w : StoresCanonical s) : NextCanonical (execPerformAtHome t n s) :=
  .occur (fun _ => .evPerformAtHome) w
theorem NextCanonical.execAtomicAtHome (w : StoresCanonical s) : NextCanonical (execAtomicAtHome t n s) :=
  .occur (fun _ => .evAtomicAtHome) w
theorem NextCanonical.execRedArrival (w : StoresCanonical s) : NextCanonical (execRedArrival t n s) :=
  .occur (fun _ => .evRedArrival) w
theorem NextCanonical.execChainArrival (w : StoresCanonical s) : NextCanonical (execChainArrival t n s) :=
  .occur (fun _ => .evChainArrival) w
theorem NextCanonical.execChainRetry (w : StoresCanonical s) : NextCanonical (execChainRetry t n s) :=
  .occur (fun _ => .evChainRetry) w
theorem NextCanonical.execChainConfirmation (w : StoresCanonical s) : NextCanonical (execChainConfirmation t s) :=
  .occur (fun _ => .evChainConfirmation) w
theorem NextCanonical.execChainCancellation (w : StoresCanonical s) : NextCanonical (execChainCancellation t s) :=
  .occur (fun _ => .evChainCancellation) w
theorem NextCanonical.execChgap (w : StoresCanonical s) : NextCanonical (execChgap slice ch s) :=
  .occur (fun _ => .evChgap) w
theorem NextCanonical.execRejectReply (w : StoresCanonical s) : NextCanonical (execRejectReply t n s) :=
  .occur (fun _ => .evRejectReply) w
theorem NextCanonical.execDueErrorReply (w : StoresCanonical s) : NextCanonical (execDueErrorReply t n s) :=
  .occur (fun _ => .evDueErrorReply) w
theorem NextCanonical.execDeadReturn (w : StoresCanonical s) : NextCanonical (execDeadReturn t n s) :=
  .occur (fun _ => .evDeadReturn) w
theorem NextCanonical.execShootDown (w : StoresCanonical s) : NextCanonical (execShootDown ctx va s) :=
  .occur (fun _ => .evShootDown) w
theorem NextCanonical.execPageMigration (w : StoresCanonical s) : NextCanonical (execPageMigration m s) :=
  .occur (fun _ => .evPageMigration) w
theorem NextCanonical.execMigrationCancel (w : StoresCanonical s) : NextCanonical (execMigrationCancel s) :=
  .occur (fun _ => .evMigrationCancel) w
theorem NextCanonical.execSoftError (w : StoresCanonical s) : NextCanonical (execSoftError e s) :=
  .occur (fun _ => .evSoftError) w
theorem NextCanonical.execDigestScan (w : StoresCanonical s) : NextCanonical (execDigestScan ctx rg s) :=
  .occur (fun _ => .evDigestScan) w

/-! ## EvSched -/

theorem StoresCanonical.handleLaunch (w : StoresCanonical s) : StoresCanonical (handleLaunch s n c start) := by
  unfold Machine.handleLaunch
  dsimp only
  split
  · exact w
  · split
    · exact .finishCfg (.frame w)
    · refine .unless (.finishCfg (.frame w)) fun k => .ite ?_ (.modPart (.frame w))
      split
      · exact .modCfg w
      · exact k
theorem StoresCanonical.handleRemap (w : StoresCanonical s) : StoresCanonical (handleRemap s n slot u) := by
  unfold Machine.handleRemap
  split
  · exact .starterReply w
  · split
    · split
      · exact .starterReply w
      · split
        · exact .starterReply w
        · split
          · exact .starterReply w
          · split
            · exact .starterReply w
            · exact .starterReply (.foldl (.relink (.foldl (.startPorts
                (.foldl (.foldl (.modCfg (.frame (.foldl w fun _ _ => .setTileState))) fun _ _ => .loadActor) fun _ _ k =>
                .modTile k rfl)) fun _ _ => .unloadTile)) fun _ _ k => .modTile k rfl)
    · exact .starterReply w
theorem StoresCanonical.handleMsg (w : StoresCanonical s) : StoresCanonical (handleMsg s m) := by
  unfold Machine.handleMsg
  dsimp only
  split
  · exact .handleLaunch (.frame w)
  · exact .handleEnd (.frame w)
  · exact .setTileState (.frame w)
  · exact .handleRemap (.frame w)
  · exact .ite (.frame w) (.applyTileReq (.frame w))
theorem IfSome.evSequencedMessage (w : StoresCanonical s) : IfSome StoresCanonical (evSequencedMessage s) := by
  unfold Machine.evSequencedMessage
  dsimp only
  split
  · exact .none
  · refine .some (.placeAll (.foldl ?_ fun _ _ => .settleSave))
    split
    · exact w
    · exact .handleMsg (.frame w)
theorem IfSome.evTileStateRequest (w : StoresCanonical s) : IfSome StoresCanonical (evTileStateRequest t spare s) :=
  .ite (.some (.frame w)) .none
theorem StoresCanonical.authFail (w : StoresCanonical s) : StoresCanonical (authFail s c owner j) :=
  .event (.logViolation (.frame (.frame (.postRecord w))))
theorem IfSome.evLaunchPacket (w : StoresCanonical s) : IfSome StoresCanonical (evLaunchPacket c s) := by
  unfold Machine.evLaunchPacket
  dsimp only
  split
  · exact .none
  · split
    · exact .none
    · refine .some (.ite (.frame (.modCtx (.modCtx ?_ rfl) rfl)) (.authFail (.modCtx ?_ rfl)))
      · split
        · exact IfOk.snd ‹_› (.ite (.homeRead w) .error)
        · exact w
      · split
        · exact IfOk.snd ‹_› (.ite (.homeRead w) .error)
        · exact w
theorem IfSome.evSqtailDoorbell (w : StoresCanonical s) : IfSome StoresCanonical (evSqtailDoorbell c v s) := by
  unfold Machine.evSqtailDoorbell
  split
  · exact .none
  · exact .ite (.some (.modCtx w rfl)) .none
theorem IfSome.evConfigStart (w : StoresCanonical s) : IfSome StoresCanonical (evConfigStart n s) := by
  unfold Machine.evConfigStart
  split
  · exact .none
  · dsimp only
    split
    · exact .none
    · exact .some (.ite (.foldl (.modCfg (.cfgBoundary w)) fun _ _ => .resumePorts)
        (.ite (.foldl (.modCfg (.cfgBoundary w)) fun _ _ => .startPorts) (.startPorts (.modCfg (.cfgBoundary w)))))
theorem StoresCanonical.takeSnapshot (w : StoresCanonical s) : StoresCanonical (takeSnapshot s c).1 := .closeWindows w
theorem IfSome.evEndNotice (w : StoresCanonical s) : IfSome StoresCanonical (evEndNotice n s) := by
  unfold Machine.evEndNotice
  split
  · exact .none
  · split
    · exact .none
    · split
      · split
        · exact .none
        · exact .some (.modCfg (.closeWindows w))
      · split
        · exact .none
        · dsimp only
          split
          · exact .some (.finishCfg (.closeWindows w))
          · exact .ite .none (.some (.frame (.modCfg (.takeSnapshot (.closeWindows w)))))
theorem IfSome.evStageTimeout (w : StoresCanonical s) : IfSome StoresCanonical (evStageTimeout n s) := by
  unfold Machine.evStageTimeout
  split
  · exact .none
  · split
    · exact .ite (.some (.killCfg w)) .none
    · exact .none
theorem IfSome.evStagedReleaseOrCancel (w : StoresCanonical s) : IfSome StoresCanonical (evStagedReleaseOrCancel n release s) :=
  by
  unfold Machine.evStagedReleaseOrCancel
  split
  · exact .none
  · dsimp only
    split
    · exact .ite (.some (.modCtx w rfl)) .none
    · exact .ite (.some (.modCtx (.killCfg w) rfl)) (.ite (.some (.killCfg w)) .none)
theorem StoresCanonical.settleVerdict (w : StoresCanonical s) : StoresCanonical (settleVerdict s c v) := by
  unfold Machine.settleVerdict
  dsimp only
  split
  · exact .frame (.modCtx (.when (.event (.postRecord w)) fun k => .event k) rfl)
  · exact .modCfg (.modCtx (.when (.event (.postRecord w)) fun k => .event k) rfl)
theorem IfSome.evDigestVerdict (w : StoresCanonical s) : IfSome StoresCanonical (evDigestVerdict n others s) := by
  unfold Machine.evDigestVerdict
  split
  · exact .none
  · split
    · exact .ite .none (.some (.settleVerdict w))
    · exact .none
theorem IfSome.evVerdictTimeout (w : StoresCanonical s) : IfSome StoresCanonical (evVerdictTimeout n s) := by
  unfold Machine.evVerdictTimeout
  split
  · exact .none
  · split
    · exact .ite (.some (.settleVerdict w)) .none
    · exact .none
theorem StoresCanonical.redundEvent (w : StoresCanonical s) : StoresCanonical (redundEvent s c bad) :=
  .event (.foldl (.modCfg w) fun _ _ => .modField)
theorem IfSome.evRedundantCompare (w : StoresCanonical s) : IfSome StoresCanonical (evRedundantCompare n s) := by
  unfold Machine.evRedundantCompare
  split
  · exact .none
  · split
    · exact .none
    · split
      · exact .ite (.some (.finishCfg (.commitRun w))) (.some (.modPart (.modCfg w)))
      · split
        · exact .some (.finishCfg (.redundEvent (.commitRun w)))
        · exact .some (.finishCfg (.redundEvent w))
      · exact .none
theorem IfSome.evHeartbeat (w : StoresCanonical s) : IfSome StoresCanonical (evHeartbeat t s) :=
  .ite .none (.some (.modTile w (by split <;> rfl)))
theorem IfSome.evDeadDeclaration (w : StoresCanonical s) : IfSome StoresCanonical (evDeadDeclaration t s) :=
  .ite .none (.some (.frame (.modField (.modTile (.tileEvent w) rfl))))
theorem IfSome.evLostClockOrSupply (w : StoresCanonical s) : IfSome StoresCanonical (evLostClockOrSupply t s) :=
  .ite (.some (.modTile w rfl)) .none
theorem StoresCanonical.mapQueues (w : StoresCanonical s) : StoresCanonical (mapQueues s p f) :=
  .mapTiles w fun _ => by split <;> rfl
theorem IfSome.evRebalanceSample (w : StoresCanonical s) : IfSome StoresCanonical (evRebalanceSample f s) :=
  .ite .none (.some (.modField (.mapQueues w)))
theorem IfSome.evRebalanceWindow (w : StoresCanonical s) : IfSome StoresCanonical (evRebalanceWindow o s) := by
  unfold Machine.evRebalanceWindow
  split
  · exact .none
  · exact .ite .none (.some (.mapTiles (.modPart w) fun _ => by split <;> simp))
theorem StoresCanonical.moveActor (w : StoresCanonical s) : StoresCanonical (moveActor s c blk old new) := by
  unfold Machine.moveActor
  refine .relink (.modCfg (.frame (.ite ?_ (.askStart (.askWake ?_)))))
  all_goals exact .moveRegions (.setTile (.digestStore (.unloadTile w)) (StoresCanonical.tile w (t := old)))
theorem IfSome.evRebalanceMove (w : StoresCanonical s) : IfSome StoresCanonical (evRebalanceMove o s) := by
  unfold Machine.evRebalanceMove
  split
  · exact .none
  · dsimp only
    split
    · split
      · exact .some (.modTile w rfl)
      · split
        · refine .some ?_
          split
          · exact .moveActor (IfOk.state ‹_› (.readTile w))
          · exact .failStopTile w
        · exact .none
    · split
      · exact .none
      · split
        · exact .none
        · exact .some (.modTile w rfl)
theorem IfSome.collRead (w : StoresCanonical s) : IfSome SndCanonical (collRead l s) := by
  induction l generalizing s with
  | nil => exact .some w
  | cons p r ih =>
    unfold Machine.collRead
    split
    · exact .none
    · exact .map (ih (IfOk.snd ‹_› (.homeRead w))) fun _ k => k
theorem StoresCanonical.collWrite (w : StoresCanonical s) : StoresCanonical (collWrite c l n s) := by
  induction l generalizing c n s with
  | nil => exact w
  | cons p r ih =>
    unfold Machine.collWrite
    refine ih ?_
    split
    · refine .arrive ?_
      split
      · exact w
      · split
        · exact w
        · exact .setDirty (.setFull (IfOk.state ‹_› (.homeWrite w)))
    · split
      · exact w
      · split
        · exact w
        · exact .setDirty (.setFull (IfOk.state ‹_› (.homeWrite w)))
theorem StoresCanonical.linkRoom (w : StoresCanonical s) : StoresCanonical (linkRoom n s p).2 := by
  unfold Machine.linkRoom
  dsimp only
  split
  · exact w
  · exact .frame w
theorem StoresCanonical.portFrames (w : StoresCanonical s) : StoresCanonical (portFrames n s p) :=
  .ite w (.frame (.linkRoom w))
theorem StoresCanonical.linkFrames (w : StoresCanonical s) : StoresCanonical (linkFrames s n) :=
  .foldl w fun _ _ => .portFrames
theorem IfSome.evCollectiveComplete (w : StoresCanonical s) : IfSome StoresCanonical (evCollectiveComplete g others s) := by
  unfold Machine.evCollectiveComplete
  split
  · exact .none
  · dsimp only
    split
    · exact .none
    · split
      · exact .some (.frame (.event w))
      · split
        · exact .none
        · split
          · exact .some (.frame (IfSome.snd ‹_› (.ite (.collRead w) (.some w))))
          · split
            · exact .none
            · refine .some (.frame ?_)
              split
              · exact .pendBy (.when (.unless (.modCfg (IfSome.snd ‹_› (.ite (.collRead w) (.some w)))) fun k => .linkFrames k)
                  fun k => .collWrite k)
              · exact .when (.unless (.modCfg (IfSome.snd ‹_› (.ite (.collRead w) (.some w)))) fun k => .linkFrames k) fun k =>
                  .collWrite k
theorem NextCanonical.execSequencedMessage (w : StoresCanonical s) : NextCanonical (execSequencedMessage s) :=
  .occur (fun _ => .evSequencedMessage) w
theorem NextCanonical.execTileStateRequest (w : StoresCanonical s) : NextCanonical (execTileStateRequest t spare s) :=
  .occur (fun _ => .evTileStateRequest) w
theorem NextCanonical.execLaunchPacket (w : StoresCanonical s) : NextCanonical (execLaunchPacket ctx s) :=
  .occur (fun _ => .evLaunchPacket) w
theorem NextCanonical.execSqtailDoorbell (w : StoresCanonical s) : NextCanonical (execSqtailDoorbell ctx v s) :=
  .occur (fun _ => .evSqtailDoorbell) w
theorem NextCanonical.execConfigStart (w : StoresCanonical s) : NextCanonical (execConfigStart n s) :=
  .occur (fun _ => .evConfigStart) w
theorem NextCanonical.execEndNotice (w : StoresCanonical s) : NextCanonical (execEndNotice n s) :=
  .occur (fun _ => .evEndNotice) w
theorem NextCanonical.execStageTimeout (w : StoresCanonical s) : NextCanonical (execStageTimeout n s) :=
  .occur (fun _ => .evStageTimeout) w
theorem NextCanonical.execStagedReleaseOrCancel (w : StoresCanonical s) : NextCanonical (execStagedReleaseOrCancel n release s)
  :=
  .occur (fun _ => .evStagedReleaseOrCancel) w
theorem NextCanonical.execDigestVerdict (w : StoresCanonical s) : NextCanonical (execDigestVerdict n others s) :=
  .occur (fun _ => .evDigestVerdict) w
theorem NextCanonical.execVerdictTimeout (w : StoresCanonical s) : NextCanonical (execVerdictTimeout n s) :=
  .occur (fun _ => .evVerdictTimeout) w
theorem NextCanonical.execRedundantCompare (w : StoresCanonical s) : NextCanonical (execRedundantCompare n s) :=
  .occur (fun _ => .evRedundantCompare) w
theorem NextCanonical.execHeartbeat (w : StoresCanonical s) : NextCanonical (execHeartbeat t s) :=
  .occur (fun _ => .evHeartbeat) w
theorem NextCanonical.execDeadDeclaration (w : StoresCanonical s) : NextCanonical (execDeadDeclaration t s) :=
  .occur (fun _ => .evDeadDeclaration) w
theorem NextCanonical.execLostClockOrSupply (w : StoresCanonical s) : NextCanonical (execLostClockOrSupply t s) :=
  .occur (fun _ => .evLostClockOrSupply) w
theorem NextCanonical.execRebalanceSample (w : StoresCanonical s) : NextCanonical (execRebalanceSample f s) :=
  .occur (fun _ => .evRebalanceSample) w
theorem NextCanonical.execRebalanceWindow (w : StoresCanonical s) : NextCanonical (execRebalanceWindow o s) :=
  .occur (fun _ => .evRebalanceWindow) w
theorem NextCanonical.execRebalanceMove (w : StoresCanonical s) : NextCanonical (execRebalanceMove o s) :=
  .occur (fun _ => .evRebalanceMove) w
theorem NextCanonical.execCollectiveComplete (w : StoresCanonical s) : NextCanonical (execCollectiveComplete g others s) :=
  .occur (fun _ => .evCollectiveComplete) w

/-! ## EvPower -/

theorem StoresCanonical.watchLimit (w : StoresCanonical s) : StoresCanonical (watchLimit s f) := w
theorem StoresCanonical.heat (w : StoresCanonical s) : StoresCanonical (heat s f) := by
  unfold Machine.heat
  dsimp only
  split
  · exact .when (.modField w) fun k => .alarmNext k
  · exact .modField w
theorem IfSome.evSensorSample (w : StoresCanonical s) : IfSome StoresCanonical (evSensorSample t sm s) := by
  unfold Machine.evSensorSample
  split
  · exact .none
  · exact .some (.heat (.when (.watchLimit (.count (.modTile (.modTile w rfl) rfl))) fun k => .alarmNext k))
theorem IfSome.evThrottleStep (w : StoresCanonical s) : IfSome StoresCanonical (evThrottleStep f s) := by
  unfold Machine.evThrottleStep
  dsimp only
  split
  · exact .none
  · exact .some (.ite (.modField (.modField w)) (.ite (.count (.modField (.modField w))) (.heat (.modField w))))
theorem IfSome.evNetworkGovernor (w : StoresCanonical s) : IfSome StoresCanonical (evNetworkGovernor f occ s) :=
  .ite .none (.some (.modField w))
theorem IfSome.evPacerStop (w : StoresCanonical s) : IfSome StoresCanonical (evPacerStop f s) := by
  unfold Machine.evPacerStop
  dsimp only
  split
  · exact .none
  · exact .ite .none (.some (.modTile (.modField w) rfl))
theorem IfSome.evPacerGrant (w : StoresCanonical s) : IfSome StoresCanonical (evPacerGrant f s) := by
  unfold Machine.evPacerGrant
  dsimp only
  split
  · exact .none
  · split
    · exact .none
    · exact .some (.modTile (.count (.modField w)) rfl)
theorem IfSome.evRunComplete (w : StoresCanonical s) : IfSome StoresCanonical (evRunComplete t s) :=
  .ite .none (.some (.modField w))
theorem IfSome.evPowerGate (w : StoresCanonical s) : IfSome StoresCanonical (evPowerGate t s) := by
  unfold Machine.evPowerGate
  dsimp only
  split
  · exact .ite (.some (.modTile w rfl)) .none
  · exact .ite .none (.some (.when (.modTile w rfl) fun k => .modField k))
  · exact .none
theorem IfSome.evWakeAdmit (w : StoresCanonical s) : IfSome StoresCanonical (evWakeAdmit f s) := by
  unfold Machine.evWakeAdmit
  dsimp only
  split
  · exact .none
  · exact .ite .none (.some (.modField (.foldl w fun _ _ k => .modTile k rfl)))
theorem IfSome.evStopwatchRecord (w : StoresCanonical s) : IfSome StoresCanonical (evStopwatchRecord f s) := by
  have k : StoresCanonical s.takeFree.2 := .takeFree w
  unfold Machine.evStopwatchRecord
  dsimp only
  split
  · exact .none
  · refine .some (.modField ?_)
    split
    · exact k
    · exact .frame (.rawWrite k)
theorem IfSome.evPowerKill (w : StoresCanonical s) : IfSome StoresCanonical (evPowerKill f s) := by
  unfold Machine.evPowerKill
  dsimp only
  split
  · exact .none
  · split
    · exact .none
    · split
      · exact .none
      · split
        · exact .none
        · exact .some (.count (.modField (.foldl (.killCtx (.foldl w fun _ _ k => .trapEvent (.recordTrap k))) fun _ _ =>
            .resetTile)))
theorem IfSome.evEscapeEntry (w : StoresCanonical s) : IfSome StoresCanonical (evEscapeEntry f n s) := by
  unfold Machine.evEscapeEntry
  dsimp only
  split
  · exact .none
  · exact .ite .none (.some (.modField w))
theorem NextCanonical.execPacerGrant (w : StoresCanonical s) : NextCanonical (execPacerGrant f s) :=
  .occur (fun _ => .evPacerGrant) w
theorem NextCanonical.execPacerStop (w : StoresCanonical s) : NextCanonical (execPacerStop f s) :=
  .occur (fun _ => .evPacerStop) w
theorem NextCanonical.execRunComplete (w : StoresCanonical s) : NextCanonical (execRunComplete t s) :=
  .occur (fun _ => .evRunComplete) w
theorem NextCanonical.execWakeAdmit (w : StoresCanonical s) : NextCanonical (execWakeAdmit f s) :=
  .occur (fun _ => .evWakeAdmit) w
theorem NextCanonical.execPowerGate (w : StoresCanonical s) : NextCanonical (execPowerGate t s) :=
  .occur (fun _ => .evPowerGate) w
theorem NextCanonical.execSensorSample (w : StoresCanonical s) : NextCanonical (execSensorSample t sm s) :=
  .occur (fun _ => .evSensorSample) w
theorem NextCanonical.execThrottleStep (w : StoresCanonical s) : NextCanonical (execThrottleStep f s) :=
  .occur (fun _ => .evThrottleStep) w
theorem NextCanonical.execNetworkGovernor (w : StoresCanonical s) : NextCanonical (execNetworkGovernor f occ s) :=
  .occur (fun _ => .evNetworkGovernor) w
theorem NextCanonical.execStopwatchRecord (w : StoresCanonical s) : NextCanonical (execStopwatchRecord f s) :=
  .occur (fun _ => .evStopwatchRecord) w
theorem NextCanonical.execPowerKill (w : StoresCanonical s) : NextCanonical (execPowerKill f s) :=
  .occur (fun _ => .evPowerKill) w
theorem NextCanonical.execEscapeEntry (w : StoresCanonical s) : NextCanonical (execEscapeEntry f n s) :=
  .occur (fun _ => .evEscapeEntry) w

/-! ## EvSecurity -/

theorem StoresCanonical.coldState (w : StoresCanonical s) : StoresCanonical (coldState s) := by
  obtain ⟨hr, -, hh, -, -⟩ := w
  refine ⟨trises_mapTiles.trans hr, rfl, hh, fun e he => ?_, fun c hc => nomatch hc⟩
  obtain ⟨x, -, rfl⟩ := List.mem_map.1 he
  rfl
theorem IfSome.evPowerLoss (w : StoresCanonical s) : IfSome StoresCanonical (evPowerLoss retention s) :=
  .some (.frame (.coldState w))
theorem StoresCanonical.bootMap (w : StoresCanonical s) : StoresCanonical (bootMap b s) :=
  .foldl (.foldl (.frame w) fun _ _ k => .ite (.frame k) k) fun _ _ k => .ite (.setTileState k) k
theorem StoresCanonical.bootFail (w : StoresCanonical s) : StoresCanonical (bootFail s c step') := w
theorem IfSome.evPowerOn (w : StoresCanonical s0) : IfSome StoresCanonical (evPowerOn b s0) := by
  unfold Machine.evPowerOn
  dsimp only
  split
  · exact .some (.bootFail (.coldState w))
  · exact .some (.ite (.bootFail (.coldState w)) (.ite (.bootFail (.coldState w))
      (.frame (.takeFree (.bootMap (.coldState w))))))
theorem StoresCanonical.zeroGranule (w : StoresCanonical s) : StoresCanonical (zeroGranule s g) :=
  .setDram w (wf_filter _ _ w.dram)
theorem StoresCanonical.giveGranule (w : StoresCanonical s) : StoresCanonical (giveGranule o s g) := .frame (.zeroGranule w)
theorem StoresCanonical.giveTile (w : StoresCanonical s) : StoresCanonical (giveTile s t) := .writeTile (.unloadTile w) rfl
theorem StoresCanonical.giveCtx (w : StoresCanonical s) : StoresCanonical (giveCtx s c owner root prio) :=
  .modSaved w fun _ h => nomatch h
theorem StoresCanonical.startReferee (w : StoresCanonical s) : StoresCanonical (startReferee q s t) := .modTile w rfl
theorem IfSome.evPartitionCreate (w : StoresCanonical s) : IfSome StoresCanonical (evPartitionCreate q s) := by
  unfold Machine.evPartitionCreate
  split
  · exact .none
  · exact .some (.foldl (.frame (.foldl (.foldl (.foldl (.frame w) fun _ _ => .giveTile) fun _ _ => .giveGranule) fun _ _ =>
      .giveCtx)) fun _ _ => .startReferee)
theorem IfSome.evPartitionDestroy (w : StoresCanonical s) : IfSome StoresCanonical (evPartitionDestroy o s) := by
  unfold Machine.evPartitionDestroy
  split
  · exact .none
  · split
    · exact .none
    · exact .some (.foldl (.foldl (.foldl (.frame (.foldl w fun _ _ => .killCfg)) fun _ _ => .giveTile) fun _ _ => .giveGranule)
        fun _ _ => .giveCtx)
theorem StoresCanonical.makeQuote (w : StoresCanonical s) : StoresCanonical (makeQuote s o ctx cmeas report).2 := w
theorem IfOk.quoteGranules (w : StoresCanonical s) : IfOk StoresCanonical (quoteGranules q l n s) := by
  induction l generalizing q n s with
  | nil => exact .ok w
  | cons p r ih =>
    unfold Machine.quoteGranules
    split
    · exact .error
    · exact ih (.arrive (IfOk.state ‹_› (.engWrite w)))
theorem IfSome.evQuoteComplete (w : StoresCanonical s) : IfSome StoresCanonical (evQuoteComplete s) := by
  unfold Machine.evQuoteComplete
  split
  · exact .none
  · split
    rename_i bs s' e
    have k : StoresCanonical s' := .psnd e (.makeQuote w)
    refine .some (.pendBy ?_)
    split
    · exact IfOk.state ‹_› (.quoteGranules (.frame k))
    · exact .frame k
theorem IfSome.evSessionNonce (w : StoresCanonical s) : IfSome StoresCanonical (evSessionNonce o nt s) :=
  .ite .none (.some (.frame (.modPart (.frame (.frame (.frame w))))))
theorem IfSome.evSessionCiphertext (w : StoresCanonical s) : IfSome StoresCanonical (evSessionCiphertext o ct s) := by
  unfold Machine.evSessionCiphertext
  split
  · exact .none
  · exact .ite .none (.some (.modPart w))
theorem StoresCanonical.freeze (w : StoresCanonical s) : StoresCanonical (freeze s o) := by
  unfold Machine.freeze
  split
  · exact w
  · exact .frame (.foldl (.modPart w) fun _ _ k => .ite k (.modTile k rfl))
theorem StoresCanonical.eraseKeys (w : StoresCanonical s) : StoresCanonical (eraseKeys s) := w
theorem StoresCanonical.fireAlarm (w : StoresCanonical s) : StoresCanonical (fireAlarm s a a') := by
  have freezes {s : State} {l : List Nat} (k : StoresCanonical s) : StoresCanonical (l.foldl Machine.freeze s) := .foldl k fun _
    _ k => .freeze k
  have k {r m} : StoresCanonical { Machine.logViolation s.takeFree.2 r with mgmt := m } := .frame (.logViolation (.takeFree w))
  unfold Machine.fireAlarm
  exact .ite (.frame (.ite (.eraseKeys (freezes (.ite (freezes k) k))) (.ite (freezes k) k)))
    (.ite (.eraseKeys (freezes (.ite (freezes k) k))) (.ite (freezes k) k))
theorem IfSome.evAlarm (w : StoresCanonical s) : IfSome StoresCanonical (evAlarm a a' s) :=
  .ite .none (.some (.fireAlarm (.ite (.modPart w) w)))
theorem IfSome.evUnfreeze (w : StoresCanonical s) : IfSome StoresCanonical (evUnfreeze o tag s) := by
  unfold Machine.evUnfreeze
  split
  · exact .none
  · split
    · exact .none
    · exact .ite .none (.some (.foldl (.modPart w) fun _ _ k => .ite (.modTile k rfl) k))
theorem IfSome.evDebugUnlock (w : StoresCanonical s) : IfSome StoresCanonical (evDebugUnlock ok o digest s) :=
  .some (.ite (.frame w) (.fireAlarm w))
theorem StoresCanonical.modLink (w : StoresCanonical s) : StoresCanonical (State.modLink s p f) := w
theorem IfSome.evLinkTraining (w : StoresCanonical s) : IfSome StoresCanonical (evLinkTraining p up s) := by
  unfold Machine.evLinkTraining
  dsimp only
  split
  · exact .none
  · split
    · exact .ite (.some (.frame w)) .none
    · split
      · exact .ite .none (.some (.modLink w))
      · exact .ite .none (.some (.modLink w))
theorem IfSome.evLinkTagFailure (w : StoresCanonical s) : IfSome StoresCanonical (evLinkTagFailure x s) := by
  unfold Machine.evLinkTagFailure
  dsimp only
  exact .ite .none (.ite (.some (.frame (.linkRoom w))) (.some (.frame (.foldl (.modLink w) fun _ _ k => .event k))))
theorem IfSome.evLinkRekey (w : StoresCanonical s) : IfSome StoresCanonical (evLinkRekey p s) :=
  .ite .none (.some (.modLink (.frame w)))
theorem IfSome.evIdeKeyExchange (w : StoresCanonical s) : IfSome StoresCanonical (evIdeKeyExchange s) :=
  .ite .none (.some (.frame (.frame w)))
theorem NextCanonical.execPowerOn (w : StoresCanonical s) : NextCanonical (execPowerOn b s) := .occur (fun _ => .evPowerOn) w
theorem NextCanonical.execPowerLoss (w : StoresCanonical s) : NextCanonical (execPowerLoss retention s) :=
  .occur (fun _ => .evPowerLoss) w
theorem NextCanonical.execPartitionCreate (w : StoresCanonical s) : NextCanonical (execPartitionCreate p s) :=
  .occur (fun _ => .evPartitionCreate) w
theorem NextCanonical.execPartitionDestroy (w : StoresCanonical s) : NextCanonical (execPartitionDestroy o s) :=
  .occur (fun _ => .evPartitionDestroy) w
theorem NextCanonical.execQuoteComplete (w : StoresCanonical s) : NextCanonical (execQuoteComplete s) :=
  .occur (fun _ => .evQuoteComplete) w
theorem NextCanonical.execSessionNonce (w : StoresCanonical s) : NextCanonical (execSessionNonce o nt s) :=
  .occur (fun _ => .evSessionNonce) w
theorem NextCanonical.execSessionCiphertext (w : StoresCanonical s) : NextCanonical (execSessionCiphertext o ct s) :=
  .occur (fun _ => .evSessionCiphertext) w
theorem NextCanonical.execAlarm (w : StoresCanonical s) : NextCanonical (execAlarm src a s) := .occur (fun _ => .evAlarm) w
theorem NextCanonical.execUnfreeze (w : StoresCanonical s) : NextCanonical (execUnfreeze o tag s) :=
  .occur (fun _ => .evUnfreeze) w
theorem NextCanonical.execDebugUnlock (w : StoresCanonical s) : NextCanonical (execDebugUnlock ok o digest s) :=
  .occur (fun _ => .evDebugUnlock) w
theorem NextCanonical.execLinkTraining (w : StoresCanonical s) : NextCanonical (execLinkTraining p up s) :=
  .occur (fun _ => .evLinkTraining) w
theorem NextCanonical.execLinkTagFailure (w : StoresCanonical s) : NextCanonical (execLinkTagFailure p s) :=
  .occur (fun _ => .evLinkTagFailure) w
theorem NextCanonical.execLinkRekey (w : StoresCanonical s) : NextCanonical (execLinkRekey p s) :=
  .occur (fun _ => .evLinkRekey) w
theorem NextCanonical.execIdeKeyExchange (w : StoresCanonical s) : NextCanonical (execIdeKeyExchange s) :=
  .occur (fun _ => .evIdeKeyExchange) w

/-! ## EvHost -/

theorem IfSome.evHostCxlMemAccess (w : StoresCanonical s) : IfSome StoresCanonical (evHostCxlMemAccess pa data wr s) := by
  have k {r} : StoresCanonical (logViolation s.takeFree.2 r) := .logViolation (.takeFree w)
  unfold Machine.evHostCxlMemAccess
  dsimp only
  split
  · exact .none
  · split
    · exact .some (.ite k (.frame k))
    · split
      · split
        · exact .some (IfOk.state ‹_› (.homeWrite w))
        · exact .some w
      · split
        · exact .some (.frame (IfOk.snd ‹_› (.homeRead w)))
        · exact .some (.frame w)
theorem StoresCanonical.cqFlushCtx (w : StoresCanonical s) : StoresCanonical (cqFlushCtx s c) := .cqFlush w
theorem StoresCanonical.queueWrite (w : StoresCanonical s) : StoresCanonical (queueWrite s c off v) := by
  unfold Machine.queueWrite
  split
  · exact .modCtx w rfl
  · exact .modCtx w rfl
  · exact IfSome.getD (.evSqtailDoorbell w) w
  · exact .modCtx w rfl
  · exact .cqFlushCtx (.modCtx w rfl)
  · exact .cqFlushCtx (.modCtx w rfl)
  · exact w
theorem StoresCanonical.telemetryWrite (w : StoresCanonical s) : StoresCanonical (telemetryWrite s off v) := by
  unfold Machine.telemetryWrite
  split
  · exact .frame w
  · exact .frame w
  · exact .frame w
  · exact w
theorem IfSome.evCsrWrite (w : StoresCanonical s) : IfSome StoresCanonical (evCsrWrite r v s) := by
  unfold Machine.evCsrWrite
  split
  · split
    · exact .ite (.some (.modTile w (by simp))) .none
    · exact .ite (.some (.refWrite w)) .none
    · exact .some (.when (.fieldWrite w) fun k => .watchLimit k)
    · exact .none
  · exact .ite (.some (.queueWrite w)) .none
  · exact .ite (.some (.telemetryWrite w)) .none
  · exact .ite (.some (.railWrite w)) .none
theorem IfSome.evSavebaseWrite (w : StoresCanonical s) : IfSome StoresCanonical (evSavebaseWrite c v s) :=
  .ite (.some (.writeSavebase w)) .none
theorem IfSome.evRedctlWrite (w : StoresCanonical s) : IfSome StoresCanonical (evRedctlWrite c v s) :=
  .ite (.some (.writeRedctl w)) .none
theorem IfSome.evCqheadWrite (w : StoresCanonical s) : IfSome StoresCanonical (evCqheadWrite c v s) := .evCsrWrite w
theorem IfSome.evTmtailWrite (w : StoresCanonical s) : IfSome StoresCanonical (evTmtailWrite v s) := .evCsrWrite w
theorem IfSome.evMgmtAssignGroup (w : StoresCanonical s) : IfSome StoresCanonical (evMgmtAssignGroup n v s) :=
  .ite (.some (.frame w)) .none
theorem IfSome.evMgmtReadStopwatch (w : StoresCanonical s) : IfSome StoresCanonical (evMgmtReadStopwatch s) := .some (.frame w)
theorem IfSome.evMgmtReadSecurityLog (w : StoresCanonical s) : IfSome StoresCanonical (evMgmtReadSecurityLog s) :=
  .some (.frame w)
theorem IfSome.evMgmtReadLinkst (w : StoresCanonical s) : IfSome StoresCanonical (evMgmtReadLinkst s) := .some (.frame w)
theorem NextCanonical.execHostCxlMemAccess (w : StoresCanonical s) : NextCanonical (execHostCxlMemAccess pa data wr s) :=
  .occur (fun _ => .evHostCxlMemAccess) w
theorem NextCanonical.execCsrWrite (w : StoresCanonical s) : NextCanonical (execCsrWrite r v s) :=
  .occur (fun _ => .evCsrWrite) w
theorem NextCanonical.execSavebaseWrite (w : StoresCanonical s) : NextCanonical (execSavebaseWrite ctx v s) :=
  .occur (fun _ => .evSavebaseWrite) w
theorem NextCanonical.execRedctlWrite (w : StoresCanonical s) : NextCanonical (execRedctlWrite ctx v s) :=
  .occur (fun _ => .evRedctlWrite) w
theorem NextCanonical.execCqheadWrite (w : StoresCanonical s) : NextCanonical (execCqheadWrite ctx v s) :=
  .occur (fun _ => .evCqheadWrite) w
theorem NextCanonical.execTmtailWrite (w : StoresCanonical s) : NextCanonical (execTmtailWrite v s) :=
  .occur (fun _ => .evTmtailWrite) w
theorem NextCanonical.execMgmtAssignGroup (w : StoresCanonical s) : NextCanonical (execMgmtAssignGroup n v s) :=
  .occur (fun _ => .evMgmtAssignGroup) w
theorem NextCanonical.execMgmtReadStopwatch (w : StoresCanonical s) : NextCanonical (execMgmtReadStopwatch s) :=
  .occur (fun _ => .evMgmtReadStopwatch) w
theorem NextCanonical.execMgmtReadSecurityLog (w : StoresCanonical s) : NextCanonical (execMgmtReadSecurityLog s) :=
  .occur (fun _ => .evMgmtReadSecurityLog) w
theorem NextCanonical.execMgmtReadLinkst (w : StoresCanonical s) : NextCanonical (execMgmtReadLinkst s) :=
  .occur (fun _ => .evMgmtReadLinkst) w

/-! ## Agenda -/

theorem IfSome.tileWork (w : StoresCanonical s) : IfSome StoresCanonical (tileWork s t) := by
  unfold Machine.tileWork
  refine .findSome (.both (.both (.both (.both (.both (.both (.both (.both (.both ?_ ?_) ?_) ?_) ?_) ?_) ?_) ?_) ?_) ?_)
  · exact .each fun _ => .or (.evLongLatencyFill w) (.evLdsWake w)
  · exact .each fun _ => .or (.evRejectReply w) (.or (.evDeadReturn w) (.evDueErrorReply w))
  · exact .each fun _ => .evDeadReturn w
  · exact .each fun _ => .evPerformAtHome w
  · exact .each fun _ => .or (.evAtomicAtHome w) (.or (.evRedArrival w) (.or (.evChainArrival w) (.evChainRetry w)))
  · exact .each fun _ => .evStreamElement w
  · exact .each fun _ => .evDreqReply w
  · exact .each fun _ => .evEngineFault w
  · exact .each fun _ => .evTokenArrival w
  · simp only [List.forall_mem_cons, List.not_mem_nil, false_implies, implies_true, and_true]
    exact ⟨.evRemoteCommandArrival w, .evEngineGranuleWrite w, .evChainConfirmation w, .evChainCancellation w, .evPatchCommand
      w,
      .evRunComplete w, .evPacerStop w, .evPacerGrant w, .evWakeAdmit w, .evPowerGate w, .evRecordArrival w, .evTdecArrival w,
      .evLaunchRecord w, .evWfeTimeout w, .evDrainTimeout w, .evActorClose w, .evFiring w, .evTaskStart w⟩
theorem IfSome.moduleWork (w : StoresCanonical s) : IfSome StoresCanonical (moduleWork s) := by
  unfold Machine.moduleWork
  refine .findSome (.both (.both (.each fun _ => ?_) (.each fun _ => .evLaunchPacket w)) ?_)
  · exact .or (.evStageTimeout w) (.or (.evConfigStart w) (.evEndNotice w))
  · exact List.forall_mem_singleton.2 (.ite .none (.evSequencedMessage w))
theorem DeedCanonical.autoDeed (w : StoresCanonical s) : DeedCanonical (autoDeed s) := by
  unfold Machine.autoDeed
  split
  · exact .done (IfSome.state ‹_› (.or (.tileWork w) (.moduleWork w)))
  · exact .tileTurn w
theorem DeedCanonical.nextDeed (w : StoresCanonical s0) : DeedCanonical (nextDeed s0) := by
  unfold Machine.nextDeed
  dsimp only
  split
  · exact .run (.frame (.passTime w))
  · split
    · exact .dead
    · split
      · exact .done (.frame (.passTime w))
      · split
        · exact .done (IfSome.getD (.evAlarm (.frame (.passTime w))) (.frame (.passTime w)))
        · split
          · exact .run (.frame (.passTime w))
          · exact .tileTurn (.frame (.passTime w))
          · exact .autoDeed (.passTime w)

/-! ## LaneOps -/

theorem Keeps.elemsA : Keeps (elemsA f ty) := .readElems
theorem Keeps.permM : Keeps (permM f vecB useC g) :=
  .whenLanes fun _ => .bind .dstReady fun _ => .bind .elemsA fun _ => .iteBind .readElems (.bind .readElem fun _ => .pure) fun _
    => .iteBind .readElems .pure fun _ => .bind .writeV fun _ => .pure
theorem Keeps.laneMoveM : Keeps (laneMoveM f g) :=
  .whenLanes fun _ => .bind .dstReady fun _ => .bind .elemsA fun _ => .bind .readElem fun _ => .bind .writeV fun _ => .pure
theorem Keeps.vlaneM : Keeps (vlaneM f) := by
  unfold Machine.vlaneM
  split
  · exact .whenBit0 (.bind .dstReady fun _ => .bind .elemsA fun _ => .bind .readElem fun _ => .bind .writeG fun _ => .pure)
  · exact .whenLanes fun _ => .bind .dstReady fun _ => .bind .elemsA fun _ => .bind .readElem fun _ => .bind .readElem fun _ =>
      .bind .writeV fun _ => .pure
theorem Keeps.finishRed : Keeps (finishRed f r) := .ite .finishG .finishV
theorem Keeps.vredM : Keeps (vredM f) :=
  .whenLanes fun _ => .bind .dstReady fun _ => .bind .elemsA fun _ => .ifBind .needMode fun _ => .bind .getT fun _ => .finishRed
theorem Keeps.vredxM : Keeps (vredxM f) :=
  .whenLanes fun _ => .bind .dstReady fun _ => .bind .elemsA fun _ => .bind .needMode fun _ => .bind .getT fun _ => .finishRed
theorem Keeps.vscanM : Keeps (vscanM f) :=
  .whenLanes fun _ => .bind .dstReady fun _ => .bind .elemsA fun _ => .ifBind .needMode fun _ => .bind .getT fun _ => .finishV
theorem Keeps.readPred : Keeps (readPred a) := by
  unfold Machine.readPred
  split
  · exact .readK
  · exact .bind .readC fun _ => .pure
  · exact .pure
  · exact .illop
theorem Keeps.kopM : Keeps (kopM f two g) :=
  .whenBit0 (.bind .readPred fun _ => .iteBind .readPred .pure fun _ => .bind .writeK fun _ => .pure)
theorem Keeps.kcountM : Keeps (kcountM f g) :=
  .whenBit0 (.bind .dstReady fun _ => .bind .readPred fun _ => .bind .writeG fun _ => .pure)
theorem Keeps.kmovM : Keeps (kmovM f) := by
  unfold Machine.kmovM
  refine .whenBit0 ?_
  dsimp only
  split
  · exact .bind .readPred fun _ => .bind .writeK fun _ => .pure
  · exact .bind .readScalar fun _ => .bind .writeK fun _ => .pure
  · exact .bind .elemsA fun _ => .bind .writeK fun _ => .pure
  · exact .bind .dstReady fun _ => .bind .readPred fun _ => .bind .writeG fun _ => .pure
theorem Keeps.vpackM : Keeps (vpackM f) := by
  unfold Machine.vpackM
  refine .whenLanes fun _ => .bind .dstReady fun _ => ?_
  extract_lets -underBinder +onlyGivenNames -merge w ws rest
  have keeps a : Keeps (rest a) := by
    dsimp -zeta only [rest]
    extract_lets -underBinder +onlyGivenNames -merge a rest
    have keeps a : Keeps (rest a) := .bind .getT fun _ => .finishV
    split
    · exact .bind .readV keeps
    · exact .bind .illop keeps
  split
  · exact .bind .readV keeps
  · exact .bind .illop keeps
theorem Keeps.vunpkM : Keeps (vunpkM f) := by
  unfold Machine.vunpkM
  refine .whenLanes fun _ => .bind .dstReady fun _ => ?_
  extract_lets -underBinder +onlyGivenNames -merge i4 w n rest
  have keeps a : Keeps (rest a) := .bind .writeV fun _ => .pure
  split
  · exact .bind .readV keeps
  · exact .bind .illop keeps
theorem Keeps.vmxqM : Keeps (vmxqM f) :=
  .whenLanes fun _ => .bind .dstReady fun _ => .bind .elemsA fun _ => .bind .readElems fun _ => .bind .needMode fun _ => .bind
    .need fun _ => .bind .getT fun _ => .ite .finishV .finishV
theorem Keeps.vmxdM : Keeps (vmxdM f) := by
  unfold Machine.vmxdM
  refine .whenLanes fun _ => .bind .dstReady fun _ => ?_
  extract_lets -underBinder +onlyGivenNames -merge rest
  have keeps a : Keeps (rest a) := .bind .needMode fun _ => .bind .getT fun _ => .finishV
  split
  · exact .bind .readV keeps
  · exact .bind .illop keeps
theorem Keeps.vdotM : Keeps (vdotM f) :=
  .whenLanes fun _ => .bind .dstReady fun _ => .bind .elemsA fun _ => .bind .readElems fun _ => .bind .readElems fun _ =>
    .ifBind .needMode fun _ => .bind .getT fun _ => .finishV
theorem Keeps.readWa : Keeps (readWa i) := .bind .parityGood fun _ => .bind .getT fun _ => .pure
theorem Keeps.waddM : Keeps (waddM f) := by
  unfold Machine.waddM
  refine .whenLanes fun _ => ?_
  extract_lets w rest
  have keeps a : Keeps (rest a) := .bind .readWa fun _ => .bind .getT fun _ => .bind .checkFp fun _ => .bind
    (.modT fun _ => rfl) fun _ => .bind .modR fun _ => .pure
  split
  · exact .bind .readV fun _ => .bind .pure keeps
  · exact .bind .readElem fun _ => .bind .pure keeps
theorem Keeps.wrndM : Keeps (wrndM f) := by
  unfold Machine.wrndM
  split
  · exact .whenBit0 (.bind .dstReady fun _ => .bind .needMode fun _ => .bind .readWa fun _ => .bind .getT fun _ => .finishG)
  · exact .whenLanes fun _ => .bind .dstReady fun _ => .bind .needMode fun _ => .bind .readWa fun _ => .bind .getT fun _ =>
      .finishV
theorem Keeps.wclrM : Keeps (wclrM f) := .whenLanes fun _ => .bind .modR fun _ => .pure
theorem Keeps.wmovM : Keeps (wmovM f) := by
  unfold Machine.wmovM
  refine .whenLanes fun _ => .ite ?_ (.bind .dstReady fun _ => .bind .need fun _ => .bind .readWa fun _ => .finishV)
  extract_lets rest
  have keeps a : Keeps (rest a) := by
    refine .bind .need fun _ => ?_
    split
    · exact .illop
    · exact .bind .modR fun _ => .pure
  split
  · exact .bind .readV keeps
  · exact .bind .illop keeps
theorem NextCanonical.execVperm (w : StoresCanonical s) : NextCanonical (execVperm f s) := .issue .permM w
theorem NextCanonical.execVbcast (w : StoresCanonical s) : NextCanonical (execVbcast f s) := .issue .permM w
theorem NextCanonical.execVrot (w : StoresCanonical s) : NextCanonical (execVrot f s) := .issue .permM w
theorem NextCanonical.execVslide (w : StoresCanonical s) : NextCanonical (execVslide f s) := .issue .permM w
theorem NextCanonical.execVred (w : StoresCanonical s) : NextCanonical (execVred f s) := .issue .vredM w
theorem NextCanonical.execVredx (w : StoresCanonical s) : NextCanonical (execVredx f s) := .issue .vredxM w
theorem NextCanonical.execVscan (w : StoresCanonical s) : NextCanonical (execVscan f s) := .issue .vscanM w
theorem NextCanonical.execVcmpr (w : StoresCanonical s) : NextCanonical (execVcmpr f s) := .issue .laneMoveM w
theorem NextCanonical.execVxpd (w : StoresCanonical s) : NextCanonical (execVxpd f s) := .issue .laneMoveM w
theorem NextCanonical.execVlane (w : StoresCanonical s) : NextCanonical (execVlane f s) := .issue .vlaneM w
theorem NextCanonical.execKand (w : StoresCanonical s) : NextCanonical (execKand f s) := .issue .kopM w
theorem NextCanonical.execKor (w : StoresCanonical s) : NextCanonical (execKor f s) := .issue .kopM w
theorem NextCanonical.execKxor (w : StoresCanonical s) : NextCanonical (execKxor f s) := .issue .kopM w
theorem NextCanonical.execKnot (w : StoresCanonical s) : NextCanonical (execKnot f s) := .issue .kopM w
theorem NextCanonical.execKpop (w : StoresCanonical s) : NextCanonical (execKpop f s) := .issue .kcountM w
theorem NextCanonical.execKfirst (w : StoresCanonical s) : NextCanonical (execKfirst f s) := .issue .kcountM w
theorem NextCanonical.execKmov (w : StoresCanonical s) : NextCanonical (execKmov f s) := .issue .kmovM w
theorem NextCanonical.execVpack (w : StoresCanonical s) : NextCanonical (execVpack f s) := .issue .vpackM w
theorem NextCanonical.execVunpk (w : StoresCanonical s) : NextCanonical (execVunpk f s) := .issue .vunpkM w
theorem NextCanonical.execVmxq (w : StoresCanonical s) : NextCanonical (execVmxq f s) := .issue .vmxqM w
theorem NextCanonical.execVmxd (w : StoresCanonical s) : NextCanonical (execVmxd f s) := .issue .vmxdM w
theorem NextCanonical.execVdot (w : StoresCanonical s) : NextCanonical (execVdot f s) := .issue .vdotM w
theorem NextCanonical.execWadd (w : StoresCanonical s) : NextCanonical (execWadd f s) := .issue .waddM w
theorem NextCanonical.execWrnd (w : StoresCanonical s) : NextCanonical (execWrnd f s) := .issue .wrndM w
theorem NextCanonical.execWclr (w : StoresCanonical s) : NextCanonical (execWclr f s) := .issue .wclrM w
theorem NextCanonical.execWmov (w : StoresCanonical s) : NextCanonical (execWmov f s) := .issue .wmovM w

/-! ## MemOps -/

theorem Keeps.effAddr : Keeps (effAddr f) := .bind .readG fun _ => .pure
theorem Keeps.readData : Keeps (readData f) := .ite (.bind .readG fun _ => .pure) .readV
theorem Keeps.placeFence : Keeps (placeFence scope) := .modS fun _ k => .modTile k rfl
theorem Keeps.orderFence : Keeps (orderFence on) := .ite .placeFence .pure
theorem Keeps.needMIf : Keeps (needMIf b) := .ite .needM .pure
theorem Keeps.ldM : Keeps (ldM f) :=
  .whenBit0 (.bind .needMIf fun _ => .bind .dstReady fun _ => .bind .effAddr fun _ => .bind .resolve fun _ => .bind .issueLoad
    fun _ => .bind .orderFence fun _ => .pure)
theorem Keeps.stM : Keeps (stM f) :=
  .whenBit0 (.bind .needMIf fun _ => .bind .readData fun _ => .bind .effAddr fun _ => .bind .resolve fun _ => .bind .orderFence
    fun _ => .bind .issueStore fun _ => .pure)
theorem Keeps.resolveLine : Keeps (resolveLine m a store) :=
  .look fun _ _ => .ifBind .trap fun _ => .ifBind .trap fun _ => .resolve
theorem Keeps.ldvM : Keeps (ldvM f) :=
  .whenLanes fun _ => .bind .needMIf fun _ => .bind .dstReady fun _ => .bind .effAddr fun _ => .bind .resolveLine fun _ => .bind
    .getT fun _ => .bind .issueLoad fun _ => .bind .orderFence fun _ => .pure
theorem Keeps.stvM : Keeps (stvM f) :=
  .whenLanes fun _ => .bind .needMIf fun _ => .bind .readData fun _ => .bind .effAddr fun _ => .bind .resolveLine fun _ => .bind
    .orderFence fun _ => .bind .issueStore fun _ => .pure
theorem Keeps.gatherParts : Keeps (gatherParts f m a ix store l) := by
  induction l generalizing f m a ix store with
  | nil => exact .pure
  | cons p r ih => exact .ite (.bind .resolve fun _ => .bind ih fun _ => .pure) ih
theorem Keeps.ldgM : Keeps (ldgM f) :=
  .whenLanes fun _ => .bind .dstReady fun _ => .bind .effAddr fun _ => .bind .readV fun _ => .bind .gatherParts fun _ => .bind
    .getT fun _ => .bind .issueLoad fun _ => .pure
theorem Keeps.stgM : Keeps (stgM f) :=
  .whenLanes fun _ => .bind .readV fun _ => .bind .effAddr fun _ => .bind .readV fun _ => .bind .gatherParts fun _ => .bind
    (.forIn fun _ _ => .bind .issueStore fun _ => .pure) fun _ => .pure
theorem Keeps.ldsM : Keeps (ldsM f) :=
  .whenBit0 (.bind .needMIf fun _ => .bind .dstReady fun _ => .bind .effAddr fun _ => .bind .resolve fun _ => .bind .getT fun _
    => .bind .newAcc fun _ => .look fun _ _ => .ite (.bind .emptyDst fun _ => .bind .sendAcc fun _ => .pure)
    (.bind .sendResult fun _ => .pure))
theorem Keeps.stfM : Keeps (stfM f) := by
  unfold Machine.stfM
  refine .whenBit0 (.bind .readData fun _ => .bind .effAddr fun _ => .look fun _ _ => ?_)
  extract_lets rest
  have keeps a : Keeps (rest a) := .bind .resolve fun _ => .bind .issueStore fun _ => .pure
  split
  · exact .ifBind .trap fun _ => keeps ()
  · exact keeps ()
theorem Keeps.feclrM : Keeps (feclrM f) := by
  unfold Machine.feclrM
  refine .whenBit0 (.bind .readG fun _ => .bind .effAddr fun _ => .ite .pure (.look fun _ _ => ?_))
  dsimp only
  split
  · exact .trap
  · exact .ifBind .trap fun _ => .ifBind .trap fun _ => .bind .resolve fun _ => .bind .newAcc fun _ => .bind .getT fun _ =>
      .iteBind .sendAcc .buffer fun _ => .pure
theorem Keeps.fetstM : Keeps (fetstM f) :=
  .whenBit0 (.bind .dstReady fun _ => .bind .effAddr fun _ => .bind .resolve fun _ => .bind .getT fun _ => .bind .newAcc fun _
    => .bind .emptyDst fun _ => .bind .sendAcc fun _ => .pure)
theorem Keeps.seqPair : Keeps (seqPair f) := by
  unfold Machine.seqPair
  refine .bind .readG fun _ => .bind .readG fun _ => .bind .need fun _ => .bind .need fun _ => .bind .getT fun _ => ?_
  split
  · exact .illop
  · exact .pure
theorem Keeps.resolveChain : Keeps (resolveChain a n store tag) := .bind .resolve fun _ => .ite .pure .trap
theorem Keeps.chainHold (hx : Keeps send) : Keeps (chainHold send) := by
  unfold Machine.chainHold
  refine .bind .getT fun _ => ?_
  split
  · exact .ite .hold (.bind (.modT fun _ => rfl) fun _ => .pure)
  · exact .bind hx fun _ => .sentHold
theorem Keeps.sendChain : Keeps (sendChain a) := .modT fun _ => rfl
theorem Keeps.ldcM : Keeps (ldcM f) :=
  .whenBit0 (.bind .needM fun _ => .bind .notReplay fun _ => .bind .notRedundant fun _ => .chainHold
    (.bind .dstReady fun _ => .bind .seqPair fun _ => .bind .effAddr fun _ => .bind .resolveChain fun _ => .bind .newAcc fun _
    => .bind .emptyDst fun _ => .sendChain))
theorem Keeps.stcM : Keeps (stcM f) :=
  .whenBit0 (.bind .notReplay fun _ => .bind .notRedundant fun _ => .bind .getT fun _ => .ite
    (.chainHold (.bind (.bind .seqPair fun _ => .bind .readData fun _ => .bind .effAddr fun _ => .bind .resolveChain fun _ =>
    .newAcc) fun _ => .sendChain)) (.bind (.bind .seqPair fun _ => .bind .readData fun _ => .bind .effAddr fun _ => .bind
    .resolveChain fun _ => .newAcc) fun _ => .bind .buffer fun _ => .pure))
theorem Keeps.chbindM : Keeps (chbindM f) := by
  unfold Machine.chbindM
  refine .whenBit0 (.bind .notReplay fun _ => .bind .notRedundant fun _ => .bind .readG fun _ => .bind .readG fun _ => .bind
    .need fun _ => .look fun _ _ => ?_)
  extract_lets slice ch sq rest
  have keeps a : Keeps (rest a) := .bind (.modT fun _ => rfl) fun _ => .pure
  split
  · exact .ifBind .trap fun _ => keeps ()
  · exact .bind (.modS fun _ => .modSlice) fun _ => keeps ()
theorem Keeps.amoM : Keeps (amoM f) := by
  unfold Machine.amoM
  refine .whenBit0 (.bind .needMIf fun _ => .bind .notReplay fun _ => .bind .readG fun _ => .iteBind .readG .pure fun _ => .bind
    .effAddr fun _ => ?_)
  extract_lets -underBinder +onlyGivenNames -merge w64 n rest
  have keeps a : Keeps (rest a) := .bind .resolve fun _ => .bind .notArmed fun _ => .bind .newAcc fun _ => .ifBind .emptyDst fun
    _ => .bind .getT fun _ => .iteBind .sendAcc .buffer fun _ => .pure
  exact .ite (.bind .resolve fun _ => keeps ()) (keeps ())
theorem Keeps.redOne : Keeps (redOne f x a n) :=
  .bind .getT fun _ => .bind .resolve fun _ => .bind .newAcc fun _ => .ite .sendAcc .buffer
theorem Keeps.needGlob : Keeps (needGlob a n aligned) := by
  unfold Machine.needGlob
  refine .look fun _ _ => ?_
  split
  · exact .ite .pure .trap
  · exact .trap
theorem Keeps.redLanes : Keeps (redLanes f d a m l) := by
  induction l generalizing f d a m with
  | nil => exact .pure
  | cons p r ih => exact .ite (.bind .needGlob fun _ => .bind .redOne fun _ => ih) ih
theorem Keeps.redM : Keeps (redM f) := by
  unfold Machine.redM
  extract_lets -underBinder +onlyGivenNames -merge rest
  have keeps a : Keeps (rest a) := .bind .notReplay fun _ => .ifBind .needMode fun _ => .bind .readData fun _ => .bind .effAddr
    fun _ => .ite (.bind .needGlob fun _ => .bind .redOne fun _ => .pure) (.bind .redLanes fun _ => .pure)
  exact .ite (.whenBit0 (keeps _)) (.whenLanes keeps)
theorem Keeps.fenceM : Keeps (fenceM f) :=
  .whenBit0 (.bind .needM fun _ => .bind .notReplay fun _ => .bind .placeFence fun _ => .pure)
theorem NextCanonical.execLd (w : StoresCanonical s) : NextCanonical (execLd f s) := .issue .ldM w
theorem NextCanonical.execSt (w : StoresCanonical s) : NextCanonical (execSt f s) := .issue .stM w
theorem NextCanonical.execLdv (w : StoresCanonical s) : NextCanonical (execLdv f s) := .issue .ldvM w
theorem NextCanonical.execStv (w : StoresCanonical s) : NextCanonical (execStv f s) := .issue .stvM w
theorem NextCanonical.execLdg (w : StoresCanonical s) : NextCanonical (execLdg f s) := .issue .ldgM w
theorem NextCanonical.execStg (w : StoresCanonical s) : NextCanonical (execStg f s) := .issue .stgM w
theorem NextCanonical.execLds (w : StoresCanonical s) : NextCanonical (execLds f s) := .issue .ldsM w
theorem NextCanonical.execStf (w : StoresCanonical s) : NextCanonical (execStf f s) := .issue .stfM w
theorem NextCanonical.execFeclr (w : StoresCanonical s) : NextCanonical (execFeclr f s) := .issue .feclrM w
theorem NextCanonical.execFetst (w : StoresCanonical s) : NextCanonical (execFetst f s) := .issue .fetstM w
theorem NextCanonical.execLdc (w : StoresCanonical s) : NextCanonical (execLdc f s) := .issue .ldcM w
theorem NextCanonical.execStc (w : StoresCanonical s) : NextCanonical (execStc f s) := .issue .stcM w
theorem NextCanonical.execChbind (w : StoresCanonical s) : NextCanonical (execChbind f s) := .issue .chbindM w
theorem NextCanonical.execAmo (w : StoresCanonical s) : NextCanonical (execAmo f s) := .issue .amoM w
theorem NextCanonical.execRed (w : StoresCanonical s) : NextCanonical (execRed f s) := .issue .redM w
theorem NextCanonical.execFence (w : StoresCanonical s) : NextCanonical (execFence f s) := .issue .fenceM w

/-! ## Dispatch -/

theorem NextCanonical.exec (w : StoresCanonical s) : NextCanonical (exec i s) := by
  unfold Machine.exec
  split
  · exact .execNop w
  · exact .execAdd w
  · exact .execSub w
  · exact .execMul w
  · exact .execMulh w
  · exact .execMulhn w
  · exact .execDiv w
  · exact .execDivn w
  · exact .execRem w
  · exact .execRemn w
  · exact .execNeg w
  · exact .execAbs w
  · exact .execMin w
  · exact .execMax w
  · exact .execMinn w
  · exact .execMaxn w
  · exact .execAnd w
  · exact .execOr w
  · exact .execXor w
  · exact .execAndn w
  · exact .execOrn w
  · exact .execNot w
  · exact .execShl w
  · exact .execShr w
  · exact .execSra w
  · exact .execRol w
  · exact .execClz w
  · exact .execCtz w
  · exact .execPopc w
  · exact .execBrev w
  · exact .execBext w
  · exact .execBins w
  · exact .execSext w
  · exact .execZext w
  · exact .execCmp w
  · exact .execSel w
  · exact .execMov w
  · exact .execMovi w
  · exact .execMovhi w
  · exact .execAddi w
  · exact .execLea w
  · exact .execSadd w
  · exact .execSsub w
  · exact .execFadd w
  · exact .execFsub w
  · exact .execFmul w
  · exact .execFma w
  · exact .execFms w
  · exact .execFnma w
  · exact .execFmin w
  · exact .execFmax w
  · exact .execFminp w
  · exact .execFmaxp w
  · exact .execFabs w
  · exact .execFneg w
  · exact .execFsgn w
  · exact .execFcmp w
  · exact .execFclass w
  · exact .execFrcp w
  · exact .execFrsq w
  · exact .execFsqrt w
  · exact .execFdiv w
  · exact .execFexp2 w
  · exact .execFlog2 w
  · exact .execFsin w
  · exact .execFcos w
  · exact .execFsinpi w
  · exact .execFcospi w
  · exact .execFtanh w
  · exact .execFsigm w
  · exact .execFrnd w
  · exact .execCvt w
  · exact .execFscale w
  · exact .execFgetexp w
  · exact .execVperm w
  · exact .execVbcast w
  · exact .execVrot w
  · exact .execVslide w
  · exact .execVred w
  · exact .execVredx w
  · exact .execVscan w
  · exact .execVcmpr w
  · exact .execVxpd w
  · exact .execVlane w
  · exact .execKand w
  · exact .execKor w
  · exact .execKxor w
  · exact .execKnot w
  · exact .execKpop w
  · exact .execKfirst w
  · exact .execKmov w
  · exact .execVpack w
  · exact .execVunpk w
  · exact .execVmxq w
  · exact .execVmxd w
  · exact .execVdot w
  · exact .execWadd w
  · exact .execWrnd w
  · exact .execWclr w
  · exact .execWmov w
  · exact .execLd w
  · exact .execSt w
  · exact .execLdv w
  · exact .execStv w
  · exact .execLdg w
  · exact .execStg w
  · exact .execLds w
  · exact .execStf w
  · exact .execFeclr w
  · exact .execFetst w
  · exact .execLdc w
  · exact .execStc w
  · exact .execChbind w
  · exact .execAmo w
  · exact .execRed w
  · exact .execFence w
  · exact .execSpbind w
  · exact .execSpgo w
  · exact .execSphalt w
  · exact .execSppos w
  · exact .execCpa w
  · exact .execCp2d w
  · exact .execHdinit w
  · exact .execHdarr w
  · exact .execHdwait w
  · exact .execHdtest w
  · exact .execHdkill w
  · exact .execDreq w
  · exact .execMxcfg w
  · exact .execMxwld w
  · exact .execMxwsw w
  · exact .execMxsc w
  · exact .execMxrun w
  · exact .execMxdrn w
  · exact .execMxclr w
  · exact .execMxrgn w
  · exact .execMxring w
  · exact .execMxlap w
  · exact .execMxrec w
  · exact .execMxcmd w
  · exact .execMxst w
  · exact .execBr w
  · exact .execBc w
  · exact .execJal w
  · exact .execJr w
  · exact .execLoop w
  · exact .execLbrk w
  · exact .execSnd w
  · exact .execRcv w
  · exact .execQpk w
  · exact .execQcnt w
  · exact .execEod w
  · exact .execQpsn w
  · exact .execSpawn w
  · exact .execTdec w
  · exact .execTend w
  · exact .execGform w
  · exact .execGend w
  · exact .execGsync w
  · exact .execCar w
  · exact .execCbc w
  · exact .execCrd w
  · exact .execCbar w
  · exact .execCsrr w
  · exact .execCsrw w
  · exact .execCsrs w
  · exact .execCsrc w
  · exact .execTrap w
  · exact .execEret w
  · exact .execBrk w
  · exact .execHgrpSet w
  · exact .execHgrpHalt w
  · exact .execHgrpRes w
  · exact .execHgrpStep w
  · exact .execHgrpRestile w
  · exact .execHgrpStat w
  · exact .execHgrpRead w
  · exact .execWfe w
  · exact .execRdtime w
  · exact .execRdperf w
  · exact .execAttq w
  · exact .execSeal w
  · exact .execUnseal w
  · exact .execCapset w
  · exact .execCapclr w
  · exact .execDgopen w
  · exact .execDgclose w
  · exact .execDgsnap w
  · exact .execDgver w
  · exact .execFnrect w
  · exact .execFnrectRel w
  · exact .execTkillTask w
  · exact .execTkillConfig w
  · exact .execTkillContext w
  · exact .execPrempSave w
  · exact .execPrempRestore w
  · exact .execPrempRemap w
  · exact .execUnassignedOpcode w
  · exact .execLongLatencyFill w
  · exact .execLdsWake w
  · exact .execPerformAtHome w
  · exact .execAtomicAtHome w
  · exact .execRedArrival w
  · exact .execChainArrival w
  · exact .execChainRetry w
  · exact .execEngineGranuleWrite w
  · exact .execDreqReply w
  · exact .execStreamElement w
  · exact .execPatchCommand w
  · exact .execPacerGrant w
  · exact .execPacerStop w
  · exact .execRunComplete w
  · exact .execFiring w
  · exact .execTaskStart w
  · exact .execActorClose w
  · exact .execTokenArrival w
  · exact .execRecordArrival w
  · exact .execTdecArrival w
  · exact .execConfigStart w
  · exact .execEndNotice w
  · exact .execLaunchPacket w
  · exact .execLaunchRecord w
  · exact .execEngfault w
  · exact .execEngineFault w
  · exact .execDigestScan w
  · exact .execPartitionCreate w
  · exact .execPowerOn w
  · exact .execSoftError w
  · exact .execHeartbeat w
  · exact .execDeadDeclaration w
  · exact .execCollectiveComplete w
  · exact .execHostCxlMemAccess w
  · exact .execSqtailDoorbell w
  · exact .execCsrWrite w
  · exact .execRemoteCommandArrival w
  · exact .execWakeAdmit w
  · exact .execPowerGate w
  · exact .execEngstFaultClear w
  · exact .execSavebaseWrite w
  · exact .execRedctlWrite w
  · exact .execCqheadWrite w
  · exact .execTmtailWrite w
  · exact .execStageTimeout w
  · exact .execDigestVerdict w
  · exact .execVerdictTimeout w
  · exact .execReservedTag w
  · exact .execChainConfirmation w
  · exact .execChainCancellation w
  · exact .execChgap w
  · exact .execShootDown w
  · exact .execPageMigration w
  · exact .execSensorSample w
  · exact .execThrottleStep w
  · exact .execNetworkGovernor w
  · exact .execStopwatchRecord w
  · exact .execPowerKill w
  · exact .execDeadReturn w
  · exact .execDueErrorReply w
  · exact .execRejectReply w
  · exact .execRebalanceWindow w
  · exact .execRebalanceMove w
  · exact .execDrainTimeout w
  · exact .execEscapeEntry w
  · exact .execRedundantCompare w
  · exact .execLinkTagFailure w
  · exact .execLinkRekey w
  · exact .execSessionNonce w
  · exact .execSessionCiphertext w
  · exact .execUnfreeze w
  · exact .execAlarm w
  · exact .execPartitionDestroy w
  · exact .execMgmtAssignGroup w
  · exact .execTileStateRequest w
  · exact .execStagedReleaseOrCancel w
  · exact .execRebalanceSample w
  · exact .execLostClockOrSupply w
  · exact .execLinkTraining w
  · exact .execDebugUnlock w
  · exact .execPowerLoss w
  · exact .execWfeTimeout w
  · exact .execSequencedMessage w
  · exact .execQuoteComplete w
  · exact .execMgmtReadStopwatch w
  · exact .execMgmtReadSecurityLog w
  · exact .execMgmtReadLinkst w
  · exact .execMigrationCancel w
  · exact .execIdeKeyExchange w

/-! ## Step -/

theorem NextCanonical.step (w : StoresCanonical s) : NextCanonical (step s) := by
  unfold Machine.step
  split
  · exact .exec (DeedCanonical.runs ‹_› (.nextDeed w))
  · exact .next (DeedCanonical.ends ‹_› (.nextDeed w))
  · exact .fault

/-! ## Every step -/

/-- Settles O6: `step` executes the instruction due in a state that `nextDeed` has prepared, or is where `nextDeed` has come to, and
both keep the form. -/
theorem stepKeepsStores : Obligations.StepKeepsStores := by
  unfold Obligations.StepKeepsStores
  intro s t w e
  have k := NextCanonical.step w
  rw [e] at k
  cases k with
  | next k => exact k

end Sys2Proof.Spec
end

section
/-! PROOF. The words of the instructions (R43-R56; O4, O5): a word is its opcode and its fields packed side by side, so that a format's
encoder and decoder undo each other; and the tables by opcode and the encoder name the same opcode for every instruction. -/

namespace Sys2Proof.Spec

open Sys2Proof.Machine

/-! ## Words as numbers -/

theorem toNat_fld (w : Word) (lo n : Nat) : (fld w lo n).toNat = w.toNat / 2 ^ lo % 2 ^ n := by
  rw [fld, BitVec.extractLsb'_toNat, Nat.shiftRight_eq_div_pow]
theorem toNat_bitAt (w : Word) (i : Nat) : (bitAt w i).toNat = w.toNat / 2 ^ i % 2 := by
  rw [bitAt, ← pow_one 2, ← pow_mul, Nat.one_mul, ← toNat_fld, fld]
  generalize w.extractLsb' i 1 = x
  revert x
  decide
theorem ofBool_bitAt (w : Word) (i : Nat) : BitVec.ofBool (bitAt w i) = fld w i 1 := by
  rw [← BitVec.toNat_inj, BitVec.toNat_ofBool, toNat_bitAt, toNat_fld, pow_one]
/-- Two fields side by side are one field. -/
theorem fld_append_fld (w : Word) (lo n : Nat) {m : Nat} : fld w (lo + n) m ++ fld w lo n = fld w lo (m + n) :=
  BitVec.extractLsb'_append_extractLsb'_eq_extractLsb' rfl
theorem fld_all (w : Word) : fld w 0 64 = w := by
  rw [← BitVec.toNat_inj, toNat_fld, pow_zero, Nat.div_one, Nat.mod_eq_of_lt w.isLt]
theorem toNat_append_add {m n : Nat} (x : BitVec m) (y : BitVec n) : (x ++ y).toNat = x.toNat * 2 ^ n + y.toNat := by
  rw [BitVec.toNat_append, ← Nat.shiftLeft_add_eq_or_of_lt y.isLt, Nat.shiftLeft_eq]
theorem bool_toNat_inj {a b : Bool} : a = b ↔ a.toNat = b.toNat := by
  revert a b
  decide

/-! ## Sources (R46) -/

theorem toNat_srcField (k : BitVec 2) (w : BitVec 1) (i : BitVec 8) :
    (k ++ w ++ i : BitVec 11).toNat = (k.toNat * 2 ^ 1 + w.toNat) * 2 ^ 8 + i.toNat := by
  rw [toNat_append_add, toNat_append_add]
/-- The kind, the wait bit and the index of a packed source field. -/
theorem srcField_parts (k : BitVec 2) (w : BitVec 1) (i : BitVec 8) :
    (k ++ w ++ i : BitVec 11).extractLsb' 9 2 = k ∧ (k ++ w ++ i : BitVec 11).extractLsb' 8 1 = w ∧
      (k ++ w ++ i : BitVec 11).extractLsb' 0 8 = i := by
  simp only [← BitVec.toNat_inj, BitVec.extractLsb'_toNat, toNat_srcField, Nat.shiftRight_eq_div_pow]
  omega
theorem srcField_of_parts (x : BitVec 11) : (x.extractLsb' 9 2 ++ x.extractLsb' 8 1 ++ x.extractLsb' 0 8 : BitVec 11) = x := by
  simp only [← BitVec.toNat_inj, toNat_srcField, BitVec.extractLsb'_toNat, Nat.shiftRight_eq_div_pow]
  omega
theorem ofBool_eq_one (x : BitVec 1) : BitVec.ofBool (x == 1#1) = x := by
  revert x
  decide
theorem eq_zero_of_ne_one {x : BitVec 1} (h : ¬ (x == 1#1) = true) : x = 0#1 := by
  revert x
  decide

theorem decodeSrc_encodeSrc (a : Src) : decodeSrc (encodeSrc a) = some a := by
  unfold decodeSrc
  cases a with
  | v i w =>
    obtain ⟨hk, hw, hi⟩ := srcField_parts 0#2 (BitVec.ofBool w) i
    cases w <;> simp only [encodeSrc, hk, hw, hi] <;> rfl
  | g i w =>
    obtain ⟨hk, hw, hi⟩ := srcField_parts 1#2 (BitVec.ofBool w) i
    cases w <;> simp only [encodeSrc, hk, hw, hi] <;> rfl
  | c i =>
    obtain ⟨hk, hw, hi⟩ := srcField_parts 2#2 0#1 i
    simp only [encodeSrc, hk, hw, hi]
    rfl
  | lit i =>
    obtain ⟨hk, hw, hi⟩ := srcField_parts 3#2 0#1 i
    simp only [encodeSrc, hk, hw, hi]
    rfl

/-- A field that decodes to a source is that source's: its kind names the constructor, and a constant or a literal has no wait bit. -/
theorem encodeSrc_decodeSrc {x : BitVec 11} {a : Src} (h : decodeSrc x = some a) : encodeSrc a = x := by
  have kind {k : BitVec 2} (hk : (x.extractLsb' 9 2).toNat = k.toNat) : k = x.extractLsb' 9 2 := BitVec.eq_of_toNat_eq hk.symm
  unfold decodeSrc at h
  dsimp only at h
  split at h
  · rename_i hk
    cases h
    rw [encodeSrc, kind (k := 0#2) hk, ofBool_eq_one, srcField_of_parts]
  · rename_i hk
    cases h
    rw [encodeSrc, kind (k := 1#2) hk, ofBool_eq_one, srcField_of_parts]
  · rename_i hk
    split at h
    · cases h
    · rename_i hw
      cases h
      rw [encodeSrc, kind (k := 2#2) hk, ← eq_zero_of_ne_one hw, srcField_of_parts]
  · rename_i h0 h1 h2
    split at h
    · cases h
    · rename_i hw
      cases h
      have hk : (x.extractLsb' 9 2).toNat = 3 := by
        have := (x.extractLsb' 9 2).isLt
        simp only [imp_false] at h0 h1 h2
        omega
      rw [encodeSrc, kind (k := 3#2) hk, ← eq_zero_of_ne_one hw, srcField_of_parts]

/-! ## Formats -/

theorem toNat_encFA (op : BitVec 10) (f : FA) : (encFA op f).toNat =
    (((((((((op.toNat * 2 ^ 4 + f.p.pk.toNat) * 2 ^ 1 + f.p.pn.toNat) * 2 ^ 1 + f.dk.toNat) * 2 ^ 8 + f.dst.toNat) * 2 ^ 11 +
      (encodeSrc f.a).toNat) * 2 ^ 11 + (encodeSrc f.b).toNat) * 2 ^ 11 + (encodeSrc f.c).toNat) * 2 ^ 4 + f.ty.toNat) * 2 ^ 1 +
      f.sat.toNat) * 2 ^ 2 + f.m.toNat := by
  unfold encFA
  iterate 10 rw [toNat_append_add]
  iterate 3 rw [BitVec.toNat_ofBool]
theorem toNat_encFI (op : BitVec 10) (f : FI) : (encFI op f).toNat =
    (((((op.toNat * 2 ^ 4 + f.p.pk.toNat) * 2 ^ 1 + f.p.pn.toNat) * 2 ^ 1 + f.dk.toNat) * 2 ^ 8 + f.dst.toNat) * 2 ^ 11 +
      (encodeSrc f.a).toNat) * 2 ^ 29 + f.imm.toNat := by
  unfold encFI
  iterate 6 rw [toNat_append_add]
  iterate 2 rw [BitVec.toNat_ofBool]
theorem toNat_encFM (op : BitVec 10) (f : FM) : (encFM op f).toNat =
    (((((((((op.toNat * 2 ^ 4 + f.p.pk.toNat) * 2 ^ 1 + f.p.pn.toNat) * 2 ^ 1 + f.dk.toNat) * 2 ^ 8 + f.dst.toNat) * 2 ^ 8 +
      f.base.toNat) * 2 ^ 1 + f.bw.toNat) * 2 ^ 3 + f.size.toNat) * 2 ^ 3 + f.ord.toNat) * 2 ^ 20 + f.off.toNat) * 2 ^ 5 +
      f.aux.toNat := by
  unfold encFM
  iterate 10 rw [toNat_append_add]
  iterate 3 rw [BitVec.toNat_ofBool]
theorem toNat_encFC (op : BitVec 10) (f : FC) : (encFC op f).toNat =
    ((((op.toNat * 2 ^ 4 + f.p.pk.toNat) * 2 ^ 1 + f.p.pn.toNat) * 2 ^ 8 + f.g.toNat) * 2 ^ 9 + f.aux.toNat) * 2 ^ 32 +
      f.off.toNat := by
  unfold encFC
  iterate 5 rw [toNat_append_add]
  rw [BitVec.toNat_ofBool]
theorem toNat_encFE (op : BitVec 10) (f : FE) : (encFE op f).toNat =
    ((((((op.toNat * 2 ^ 4 + f.p.pk.toNat) * 2 ^ 1 + f.p.pn.toNat) * 2 ^ 5 + f.ix.toNat) * 2 ^ 8 + f.ga.toNat) * 2 ^ 8 +
      f.gb.toNat) * 2 ^ 8 + f.gc.toNat) * 2 ^ 20 + f.cmd.toNat := by
  unfold encFE
  iterate 7 rw [toNat_append_add]
  rw [BitVec.toNat_ofBool]

/-! The opcode stands at bits 63 to 54 in every format. -/

theorem fld_encFA (op : BitVec 10) (f : FA) : fld (encFA op f) 54 10 = op := by
  rw [← BitVec.toNat_inj, toNat_fld, toNat_encFA]
  have := f.p.pn.toNat_lt
  have := f.dk.toNat_lt
  have := f.sat.toNat_lt
  omega
theorem fld_encFI (op : BitVec 10) (f : FI) : fld (encFI op f) 54 10 = op := by
  rw [← BitVec.toNat_inj, toNat_fld, toNat_encFI]
  have := f.p.pn.toNat_lt
  have := f.dk.toNat_lt
  omega
theorem fld_encFM (op : BitVec 10) (f : FM) : fld (encFM op f) 54 10 = op := by
  rw [← BitVec.toNat_inj, toNat_fld, toNat_encFM]
  have := f.p.pn.toNat_lt
  have := f.dk.toNat_lt
  have := f.bw.toNat_lt
  omega
theorem fld_encFC (op : BitVec 10) (f : FC) : fld (encFC op f) 54 10 = op := by
  rw [← BitVec.toNat_inj, toNat_fld, toNat_encFC]
  have := f.p.pn.toNat_lt
  omega
theorem fld_encFE (op : BitVec 10) (f : FE) : fld (encFE op f) 54 10 = op := by
  rw [← BitVec.toNat_inj, toNat_fld, toNat_encFE]
  have := f.p.pn.toNat_lt
  omega

/-! Each decoder reads back what its encoder packed. -/

theorem fld_encFA_src (op : BitVec 10) (f : FA) : fld (encFA op f) 29 11 = encodeSrc f.a ∧
    fld (encFA op f) 18 11 = encodeSrc f.b ∧ fld (encFA op f) 7 11 = encodeSrc f.c := by
  simp only [← BitVec.toNat_inj, toNat_fld, toNat_encFA]
  have := f.p.pn.toNat_lt
  have := f.dk.toNat_lt
  have := f.sat.toNat_lt
  omega
theorem decodeFA_encFA (op : BitVec 10) (f : FA) : decodeFA (encFA op f) = some f := by
  obtain ⟨ha, hb, hc⟩ := fld_encFA_src op f
  rw [decodeFA, ha, hb, hc, decodeSrc_encodeSrc, decodeSrc_encodeSrc, decodeSrc_encodeSrc]
  obtain ⟨⟨pk, pn⟩, dk, dst, a, b, c, ty, sat, m⟩ := f
  simp only [decodePred, Option.some.injEq, FA.mk.injEq, Pred.mk.injEq, true_and, ← BitVec.toNat_inj, bool_toNat_inj, toNat_fld,
    toNat_bitAt, toNat_encFA]
  have := pn.toNat_lt
  have := dk.toNat_lt
  have := sat.toNat_lt
  refine ⟨⟨?_, ?_⟩, ?_, ?_, ?_, ?_, ?_⟩ <;> omega
theorem decodeFI_encFI (op : BitVec 10) (f : FI) : decodeFI (encFI op f) = some f := by
  have ha : fld (encFI op f) 29 11 = encodeSrc f.a := by
    rw [← BitVec.toNat_inj, toNat_fld, toNat_encFI]
    have := f.p.pn.toNat_lt
    have := f.dk.toNat_lt
    omega
  rw [decodeFI, ha, decodeSrc_encodeSrc]
  obtain ⟨⟨pk, pn⟩, dk, dst, a, imm⟩ := f
  simp only [decodePred, Option.some.injEq, FI.mk.injEq, Pred.mk.injEq, true_and, ← BitVec.toNat_inj, bool_toNat_inj, toNat_fld,
    toNat_bitAt, toNat_encFI]
  have := pn.toNat_lt
  have := dk.toNat_lt
  refine ⟨⟨?_, ?_⟩, ?_, ?_, ?_⟩ <;> omega
theorem decodeFM_encFM (op : BitVec 10) (f : FM) : decodeFM (encFM op f) = f := by
  obtain ⟨⟨pk, pn⟩, dk, dst, base, bw, size, ord, off, aux⟩ := f
  simp only [decodeFM, decodePred, FM.mk.injEq, Pred.mk.injEq, ← BitVec.toNat_inj, bool_toNat_inj, toNat_fld, toNat_bitAt,
    toNat_encFM]
  have := pn.toNat_lt
  have := dk.toNat_lt
  have := bw.toNat_lt
  refine ⟨⟨?_, ?_⟩, ?_, ?_, ?_, ?_, ?_, ?_, ?_, ?_⟩ <;> omega
theorem decodeFC_encFC (op : BitVec 10) (f : FC) : decodeFC (encFC op f) = f := by
  obtain ⟨⟨pk, pn⟩, g, aux, off⟩ := f
  simp only [decodeFC, decodePred, FC.mk.injEq, Pred.mk.injEq, ← BitVec.toNat_inj, bool_toNat_inj, toNat_fld, toNat_bitAt,
    toNat_encFC]
  have := pn.toNat_lt
  refine ⟨⟨?_, ?_⟩, ?_, ?_, ?_⟩ <;> omega
theorem decodeFE_encFE (op : BitVec 10) (f : FE) : decodeFE (encFE op f) = f := by
  obtain ⟨⟨pk, pn⟩, ix, ga, gb, gc, cmd⟩ := f
  simp only [decodeFE, decodePred, FE.mk.injEq, Pred.mk.injEq, ← BitVec.toNat_inj, bool_toNat_inj, toNat_fld, toNat_bitAt,
    toNat_encFE]
  have := pn.toNat_lt
  refine ⟨⟨?_, ?_⟩, ?_, ?_, ?_, ?_, ?_⟩ <;> omega

/-! Each encoder packs again what its decoder read. -/

theorem encFA_decodeFA {w : Word} {f : FA} (h : decodeFA w = some f) : encFA (fld w 54 10) f = w := by
  unfold decodeFA at h
  split at h
  · rename_i a b c ha hb hc
    cases h
    simp only [encFA, decodePred, ofBool_bitAt, encodeSrc_decodeSrc ha, encodeSrc_decodeSrc hb, encodeSrc_decodeSrc hc]
    rw [fld_append_fld w 50 4, fld_append_fld w 49 1, fld_append_fld w 48 1, fld_append_fld w 40 8, fld_append_fld w 29 11,
      fld_append_fld w 18 11, fld_append_fld w 7 11, fld_append_fld w 3 4, fld_append_fld w 2 1, fld_append_fld w 0 2]
    exact fld_all w
  · cases h
theorem encFI_decodeFI {w : Word} {f : FI} (h : decodeFI w = some f) : encFI (fld w 54 10) f = w := by
  unfold decodeFI at h
  split at h
  · rename_i a ha
    cases h
    simp only [encFI, decodePred, ofBool_bitAt, encodeSrc_decodeSrc ha]
    rw [fld_append_fld w 50 4, fld_append_fld w 49 1, fld_append_fld w 48 1, fld_append_fld w 40 8, fld_append_fld w 29 11,
      fld_append_fld w 0 29]
    exact fld_all w
  · cases h
theorem encFM_decodeFM (w : Word) : encFM (fld w 54 10) (decodeFM w) = w := by
  simp only [encFM, decodeFM, decodePred, ofBool_bitAt]
  rw [fld_append_fld w 50 4, fld_append_fld w 49 1, fld_append_fld w 48 1, fld_append_fld w 40 8, fld_append_fld w 32 8,
    fld_append_fld w 31 1, fld_append_fld w 28 3, fld_append_fld w 25 3, fld_append_fld w 5 20, fld_append_fld w 0 5]
  exact fld_all w
theorem encFC_decodeFC (w : Word) : encFC (fld w 54 10) (decodeFC w) = w := by
  simp only [encFC, decodeFC, decodePred, ofBool_bitAt]
  rw [fld_append_fld w 50 4, fld_append_fld w 49 1, fld_append_fld w 41 8, fld_append_fld w 32 9, fld_append_fld w 0 32]
  exact fld_all w
theorem encFE_decodeFE (w : Word) : encFE (fld w 54 10) (decodeFE w) = w := by
  simp only [encFE, decodeFE, decodePred, ofBool_bitAt]
  rw [fld_append_fld w 50 4, fld_append_fld w 49 1, fld_append_fld w 44 5, fld_append_fld w 36 8, fld_append_fld w 28 8,
    fld_append_fld w 20 8, fld_append_fld w 0 20]
  exact fld_all w

/-! ## The tables by opcode (R55)

An opcode stands in one table, is none of the unassigned, and is the one that the encoder gives the instruction. -/

theorem ctorA_some {n : Nat} {mk : FA → Instr} (h : ctorA n = some mk) :
    unassignedOp n = false ∧ ∀ f, encode (mk f) = some (encFA (BitVec.ofNat 10 n) f) := by
  unfold ctorA at h
  split at h
  case h_103 => cases h
  all_goals
    cases h
    exact ⟨rfl, fun _ => rfl⟩
theorem ctorI_some {n : Nat} {mk : FI → Instr} (h : ctorI n = some mk) :
    unassignedOp n = false ∧ ctorA n = none ∧ ∀ f, encode (mk f) = some (encFI (BitVec.ofNat 10 n) f) := by
  unfold ctorI at h
  split at h
  case h_11 => cases h
  all_goals
    cases h
    exact ⟨rfl, rfl, fun _ => rfl⟩
theorem ctorM_some {n : Nat} {mk : FM → Instr} (h : ctorM n = some mk) :
    unassignedOp n = false ∧ ctorA n = none ∧ ctorI n = none ∧ ∀ f, encode (mk f) = some (encFM (BitVec.ofNat 10 n) f) := by
  unfold ctorM at h
  split at h
  case h_17 => cases h
  all_goals
    cases h
    exact ⟨rfl, rfl, rfl, fun _ => rfl⟩
theorem ctorC_some {n : Nat} {mk : FC → Instr} (h : ctorC n = some mk) :
    unassignedOp n = false ∧ ctorA n = none ∧ ctorI n = none ∧ ctorM n = none ∧
      ∀ f, encode (mk f) = some (encFC (BitVec.ofNat 10 n) f) := by
  unfold ctorC at h
  split at h
  case h_14 => cases h
  all_goals
    cases h
    exact ⟨rfl, rfl, rfl, rfl, fun _ => rfl⟩
theorem ctorE_some {n sub : Nat} {mk : FE → Instr} (h : ctorE n sub = some mk) :
    unassignedOp n = false ∧ ctorA n = none ∧ ctorI n = none ∧ ctorM n = none ∧ ctorC n = none ∧
      ∀ f, encode (mk f) = some (encFE (BitVec.ofNat 10 n) f) := by
  unfold ctorE at h
  split at h
  case h_46 => cases h
  case h_33 | h_43 | h_44 | h_45 =>
    split at h <;> cases h <;> exact ⟨rfl, rfl, rfl, rfl, rfl, fun _ => rfl⟩
  all_goals
    cases h
    exact ⟨rfl, rfl, rfl, rfl, rfl, fun _ => rfl⟩

/-! ## What a word's fields spell -/

section
variable {w : Word}

theorem decodeFields_unassigned (h : unassignedOp (fld w 54 10).toNat = true) : decodeFields w = some (.unassignedOpcode w) := by
  simp only [decodeFields, h, if_true]
theorem decodeFields_FA {mk : FA → Instr} (h : ctorA (fld w 54 10).toNat = some mk) :
    decodeFields w = (decodeFA w).map mk := by
  obtain ⟨hu, -⟩ := ctorA_some h
  simp only [decodeFields, hu, h, Bool.false_eq_true, if_false]
theorem decodeFields_FI {mk : FI → Instr} (h : ctorI (fld w 54 10).toNat = some mk) :
    decodeFields w = (decodeFI w).map mk := by
  obtain ⟨hu, hA, -⟩ := ctorI_some h
  simp only [decodeFields, hu, hA, h, Bool.false_eq_true, if_false]
theorem decodeFields_FM {mk : FM → Instr} (h : ctorM (fld w 54 10).toNat = some mk) :
    decodeFields w = some (mk (decodeFM w)) := by
  obtain ⟨hu, hA, hI, -⟩ := ctorM_some h
  simp only [decodeFields, hu, hA, hI, h, Bool.false_eq_true, if_false]
theorem decodeFields_FC {mk : FC → Instr} (h : ctorC (fld w 54 10).toNat = some mk) :
    decodeFields w = some (mk (decodeFC w)) := by
  obtain ⟨hu, hA, hI, hM, -⟩ := ctorC_some h
  simp only [decodeFields, hu, hA, hI, hM, h, Bool.false_eq_true, if_false]
theorem decodeFields_FE {mk : FE → Instr} (h : ctorE (fld w 54 10).toNat (subOf (fld w 54 10).toNat w) = some mk) :
    decodeFields w = some (mk (decodeFE w)) := by
  obtain ⟨hu, hA, hI, hM, hC, -⟩ := ctorE_some h
  simp only [decodeFields, hu, hA, hI, hM, hC, h, Bool.false_eq_true, if_false]

/-- Whatever a word's fields spell has that word. -/
theorem encode_decodeFields {i : Instr} (h : decodeFields w = some i) : encode i = some w := by
  simp only [decodeFields] at h
  split at h
  · cases h
    rfl
  split at h
  · rename_i mk hc
    obtain ⟨f, hf, rfl⟩ := Option.map_eq_some_iff.1 h
    rw [(ctorA_some hc).2, BitVec.ofNat_toNat, BitVec.setWidth_eq, encFA_decodeFA hf]
  split at h
  · rename_i mk hc
    obtain ⟨f, hf, rfl⟩ := Option.map_eq_some_iff.1 h
    obtain ⟨-, -, he⟩ := ctorI_some hc
    rw [he, BitVec.ofNat_toNat, BitVec.setWidth_eq, encFI_decodeFI hf]
  split at h
  · rename_i mk hc
    cases h
    obtain ⟨-, -, -, he⟩ := ctorM_some hc
    rw [he, BitVec.ofNat_toNat, BitVec.setWidth_eq, encFM_decodeFM]
  split at h
  · rename_i mk hc
    cases h
    obtain ⟨-, -, -, -, he⟩ := ctorC_some hc
    rw [he, BitVec.ofNat_toNat, BitVec.setWidth_eq, encFC_decodeFC]
  split at h
  · rename_i mk hc
    cases h
    obtain ⟨-, -, -, -, -, he⟩ := ctorE_some hc
    rw [he, BitVec.ofNat_toNat, BitVec.setWidth_eq, encFE_decodeFE]
  · cases h
end

/-- The operation in the command of a format E instruction, as `subOf` reads it from the word. -/
def commandSub (op : BitVec 10) (f : FE) : Nat := if op.toNat = 0x387 then f.cmd.toNat % 8 else f.cmd.toNat
theorem subOf_encFE (op : BitVec 10) (f : FE) : subOf op.toNat (encFE op f) = commandSub op f := by
  have hc : fld (encFE op f) 0 20 = f.cmd := congrArg FE.cmd (decodeFE_encFE op f)
  have h3 : (fld (encFE op f) 0 3).toNat = (fld (encFE op f) 0 20).toNat % 8 := by
    rw [toNat_fld, toNat_fld]
    omega
  rw [subOf, commandSub, h3, hc]

theorem commandSub_hgrp {f : FE} {n : Nat} (h : hgrpOp f n = true) : commandSub 0x387 f = n := by
  simp only [hgrpOp, Bool.and_eq_true, beq_iff_eq] at h
  obtain ⟨⟨⟨-, hn⟩, -⟩, -⟩ := h
  exact hn
theorem commandSub_cmd {op : BitVec 10} {f : FE} {b : Bool} {k : BitVec 20} (ho : op.toNat ≠ 0x387) (h : (b && f.cmd == k) = true) :
    commandSub op f = k.toNat := by
  simp only [Bool.and_eq_true, beq_iff_eq] at h
  rw [commandSub, if_neg ho, h.2]

/-- An instruction and its word: the row stands in the table of its format, under the opcode that its word has. -/
inductive Encodes : Instr → Word → Prop where
  | a {op : BitVec 10} {mk : FA → Instr} {f : FA} (h : ctorA op.toNat = some mk) : Encodes (mk f) (encFA op f)
  | i {op : BitVec 10} {mk : FI → Instr} {f : FI} (h : ctorI op.toNat = some mk) : Encodes (mk f) (encFI op f)
  | m {op : BitVec 10} {mk : FM → Instr} {f : FM} (h : ctorM op.toNat = some mk) : Encodes (mk f) (encFM op f)
  | c {op : BitVec 10} {mk : FC → Instr} {f : FC} (h : ctorC op.toNat = some mk) : Encodes (mk f) (encFC op f)
  | e {op : BitVec 10} {mk : FE → Instr} {f : FE} (h : ctorE op.toNat (commandSub op f) = some mk) : Encodes (mk f) (encFE op f)
  | unassigned {w : Word} (h : unassignedOp (fld w 54 10).toNat = true) : Encodes (.unassignedOpcode w) w

theorem Encodes.decodeFields {i : Instr} {w : Word} (r : Encodes i w) : decodeFields w = some i := by
  cases r with
  | a h => rw [decodeFields_FA (by rw [fld_encFA]; exact h), decodeFA_encFA, Option.map_some]
  | i h => rw [decodeFields_FI (by rw [fld_encFI]; exact h), decodeFI_encFI, Option.map_some]
  | m h => rw [decodeFields_FM (by rw [fld_encFM]; exact h), decodeFM_encFM]
  | c h => rw [decodeFields_FC (by rw [fld_encFC]; exact h), decodeFC_encFC]
  | e h => rw [decodeFields_FE (by rw [fld_encFE, subOf_encFE]; exact h), decodeFE_encFE]
  | unassigned h => exact decodeFields_unassigned h

/-- The encoder follows the tables. Where several rows share an opcode, `legal` has the command name the row. -/
theorem encodes_of_encode {i : Instr} {w : Word} (hw : i.wellFormed = true) (hl : i.legal = true) (h : encode i = some w) :
    Encodes i w := by
  cases i
  all_goals cases h
  case unassignedOpcode =>
    have hn : (fld w 54 10).toNat = (w >>> 54).toNat := by
      rw [toNat_fld, BitVec.toNat_ushiftRight, Nat.shiftRight_eq_div_pow]
      omega
    exact .unassigned (hn ▸ hw)
  case hgrpSet f | hgrpHalt f | hgrpRes f | hgrpStep f | hgrpRestile f | hgrpStat f | hgrpRead f =>
    refine .e ?_
    rw [commandSub_hgrp hl]
    rfl
  case fnrect f | fnrectRel f | tkillTask f | tkillConfig f | tkillContext f | prempSave f | prempRestore f | prempRemap f =>
    refine .e ?_
    rw [commandSub_cmd (by decide) hl]
    rfl
  all_goals
    constructor
    rfl

theorem decode_eq_some {w : Word} {i : Instr} :
    decode w = some i ↔ decodeFields w = some i ∧ i.wellFormed = true ∧ i.legal = true := by
  unfold decode
  cases decodeFields w with
  | none => simp
  | some j =>
    simp only [Option.ite_none_right_eq_some, Option.some.injEq, Bool.and_eq_true]
    constructor
    · rintro ⟨h, rfl⟩
      exact ⟨rfl, h⟩
    · rintro ⟨rfl, h⟩
      exact ⟨h, rfl⟩

/-- Settles O5: the fields of a format survive packing and unpacking, and the decoder's tables and the encoder agree on the opcodes. -/
theorem encodeDecode : Obligations.EncodeDecode := by
  unfold Obligations.EncodeDecode
  constructor
  · intro i w hw hl h
    exact decode_eq_some.2 ⟨(encodes_of_encode hw hl h).decodeFields, hw, hl⟩
  · intro w i h
    obtain ⟨hf, hw, hl⟩ := decode_eq_some.1 h
    exact ⟨encode_decodeFields hf, hw, hl⟩

/-- Settles O4: the decoder, evaluated on each of the words. -/
theorem wordsDecode : Obligations.WordsDecode := by
  unfold Obligations.WordsDecode
  exact ⟨rfl, rfl, rfl, rfl, rfl, rfl, rfl, rfl, rfl, rfl, rfl, rfl, rfl, rfl⟩

end Sys2Proof.Spec
end

section
/-! SUPPORT. How an instruction that issues by itself goes: its predicate, its destination, what it writes, and its outcome (R14, R37,
R40, R50). -/

namespace Sys2Proof.Spec

open Sys2Proof.Machine

variable {s s' : State} {p : Pred} {i : Instr}

theorem Alone.solo (h : Alone s) : Solo s :=
  let ⟨hg, hs, hh⟩ := h
  ⟨hg, hs, hh⟩

/-- A predicate whose register can be read, as the laws of predicates ask for it. -/
theorem maskGood_cases {r : Regs} (h : maskGood p r = true) : p.pk = 0 ∨ (RegKind.k, p.pk.toNat) ∉ r.parity := by
  simpa [maskGood] using h
theorem On.run (h : On p s) (m : M Go) : whenBit0 p m s = m s := by
  obtain ⟨hb, hg⟩ := Bool.and_eq_true_iff.1 h
  exact whenBit0_on (maskGood_cases hg) hb
theorem Lanes.run {k : BitVec 16} (h : Lanes p s k) (m : BitVec 16 → M Go) : whenLanes p m s = m k s := by
  obtain ⟨rfl, hk, hg⟩ := h
  exact whenLanes_on (maskGood_cases hg) hk

theorem writeG_run (d : BitVec 8) (v : Word) (s : State) :
    writeG d.toNat v s = .ok ((), s.modTile s.cur fun x => putScalar x d v) := by
  unfold writeG putScalar
  split <;> rfl
theorem writeV_run (d : BitVec 8) (m : BitVec 16) (v : Vec) (s : State) :
    writeV d.toNat m v s = .ok ((), s.modTile s.cur fun x => putVector x d m v) := by
  unfold writeV putVector
  split <;> rfl

/-- A meaning that completes and leaves the current tile changed. -/
theorem issue_done {m : M Go} {f : Tile → Tile} {g : Go} (a : Alone s) (hc : s'.cur = s.cur)
    (h : m s = .ok (g, s'.modTile s.cur f)) : issue i m s = .next (done s' f g) := by
  rw [issue_ok a.solo h, State.modTile_modTile, done, hc]
/-- A meaning whose end is the write of a scalar destination. -/
theorem issue_putScalar {m : M Go} {d : BitVec 8} {v : Word} (a : Alone s) (hc : s'.cur = s.cur)
    (h : m s = (writeG d.toNat v >>= fun _ => pure .on) s') : issue i m s = .next (done s' fun x => putScalar x d v) := by
  rw [bind_ok (writeG_run d v s'), pure_run, hc] at h
  exact issue_done a hc h
/-- A meaning whose end is the write of a vector destination. -/
theorem issue_putVector {m : M Go} {d : BitVec 8} {k : BitVec 16} {v : Vec} (a : Alone s) (hc : s'.cur = s.cur)
    (h : m s = (writeV d.toNat k v >>= fun _ => pure .on) s') : issue i m s = .next (done s' fun x => putVector x d k v) := by
  rw [bind_ok (writeV_run d k v s'), pure_run, hc] at h
  exact issue_done a hc h

end Sys2Proof.Spec
end

section
/-! PROOF. The immediate instructions, lea and nop (R59, R103; O11). -/

namespace Sys2Proof.Spec

open Sys2Proof.Machine

/-- movhi's sum has no carry: the immediate's bits stand above the low 29 (R103). -/
theorem movhi_value (x a : Word) : x * 2 ^ 29 + BitVec.ofNat 64 (a.toNat % 2 ^ 29) = x <<< 29 ||| (a.setWidth 29).setWidth 64 := by
  have low : BitVec.ofNat 64 (a.toNat % 2 ^ 29) = (a.setWidth 29).setWidth 64 := by
    rw [← BitVec.toNat_inj, BitVec.toNat_ofNat, BitVec.toNat_setWidth, BitVec.toNat_setWidth]
  have shift : x * 2 ^ 29 = x <<< 29 := by
    rw [BitVec.shiftLeft_eq_mul_twoPow]
    rfl
  rw [low, shift]
  refine BitVec.add_eq_or_of_and_eq_zero _ _ (BitVec.eq_of_getLsbD_eq fun i _ => ?_)
  rw [BitVec.getLsbD_and, BitVec.getLsbD_shiftLeft, BitVec.getLsbD_setWidth, BitVec.getLsbD_setWidth, BitVec.getLsbD_zero]
  by_cases h : i < 29 <;> simp [h]
/-- The low half of a sign-extended immediate. -/
theorem imm64_low (f : FI) : (imm64 f).toNat % 2 ^ 32 = (f.imm.signExtend 32).toNat := by
  rw [imm64, ← BitVec.toNat_setWidth]
  refine congrArg BitVec.toNat (BitVec.eq_of_getLsbD_eq fun i hi => ?_)
  simp only [BitVec.getLsbD_setWidth, BitVec.getLsbD_signExtend, hi, show i < 64 by omega, decide_true, Bool.true_and]
theorem splat32_elem (x i : Nat) (h : i < 16) : elemOf (splat32 x).toNat 32 i = x % 2 ^ 32 := by
  rw [splat32, elemOf_vec 32 _ i (by rwa [List.length_replicate]) (by rw [List.length_replicate]), List.getElem_replicate]
theorem el_eq_getElem {l : List Nat} {i : Nat} (h : i < l.length) : el l i = l[i] := by
  rw [el, List.getElem?_eq_getElem h, Option.getD_some]
theorem readElems_length {ty : BitVec 4} {n : Nat} {a : Src} {l : List Nat} {s s' : State} (h : readElems ty n a s = .ok (l, s')) :
    l.length = n := by
  unfold readElems at h
  split at h
  · obtain ⟨d, s1, -, h⟩ := bind_eq_ok h
    cases h
    simp [toElems]
  · obtain ⟨d, s1, -, h⟩ := bind_eq_ok h
    cases h
    simp

/-- Settles O11: each meaning reads its source, if it has one, and ends with the write of its destination. -/
theorem immediateResults : Obligations.ImmediateResults := by
  unfold Obligations.ImmediateResults
  refine ⟨?nop, ?movi, ?moviV, ?movhi, ?addi, ?addiV, ?lea⟩
  case nop =>
    intro f s a
    exact issue_ok a.solo rfl
  case movi =>
    intro f s dk a on fr
    refine issue_putScalar (m := moviM f) a rfl ?_
    rw [moviM, if_pos dk, on.run, bind_ok fr]
    rfl
  case moviV =>
    intro f s m dk a ln fr
    refine ⟨splat32 ((imm64 f).toNat % 2 ^ 32), fun i hi => ?_, issue_putVector (m := moviM f) a rfl ?_⟩
    · rw [splat32_elem _ _ hi, Nat.mod_mod, imm64_low]
    · rw [moviM, if_neg (by simp [dk]), ln.run, bind_ok fr]
  case movhi =>
    intro f s s' a al on fr g
    rw [← movhi_value]
    refine issue_putScalar (m := movhiM f) al (readScalar_kept g).cur ?_
    rw [movhiM, on.run, bind_ok fr, bind_ok g]
    rfl
  case addi =>
    intro f s s' a dk al on fr g
    refine issue_putScalar (m := addiM f) al (readScalar_kept g).cur ?_
    rw [addiM, if_pos dk, on.run, bind_ok fr, bind_ok g]
    rfl
  case addiV =>
    intro f s s' a m dk al ln fr g
    refine ⟨_, fun i hi => ?_, issue_putVector (m := addiM f) al (readElems_kept g).cur
      (by rw [addiM, if_neg (by simp [dk]), ln.run, bind_ok fr, bind_ok g])⟩
    have hl := readElems_length g
    rw [elemOf_vec 32 _ i (by simpa [hl] using hi) (by simp [hl]), List.getElem_map, Nat.mod_mod, el_eq_getElem (hl ▸ hi),
      BitVec.toNat_add, BitVec.toNat_ofNat, ← imm64_low, ← Nat.add_mod]
  case lea =>
    intro f s s' b al on fr g
    refine issue_putScalar (m := leaM f) al (readG_kept g).cur ?_
    rw [leaM, on.run, bind_ok fr, bind_ok g]

end Sys2Proof.Spec
end

section
/-! PROOF. Traps that instructions take, and the return from one (R56, R345, R402, R403; O43). -/

namespace Sys2Proof.Spec

open Sys2Proof.Machine

variable {s : State} {i : Instr}

/-! ## Checks of the level (R345, R402) -/

theorem needReferee_user (h : s.refLevel s.cur = false) : needReferee s = .error .priv := by
  simp only [needReferee, getS_bind, h]
  rfl
theorem csrCheck_priv {n : Nat} (hn : csrLevel n = some .ref ∨ csrLevel n = some .refRo) (h : s.refLevel s.cur = false) :
    csrCheck n s = .error .priv := by
  simp only [csrCheck, getS_bind, h]
  rcases hn with hn | hn <;> rw [hn] <;> rfl
theorem csrCheck_illop {n : Nat} (hn : csrLevel n = none) : csrCheck n s = .error .illop := by
  simp only [csrCheck, getS_bind, hn]
  rfl

/-- An instruction that asks for the referee's level first. -/
theorem issue_user {k : Unit → M Go} (a : Alone s) (h : s.refLevel s.cur = false) :
    issue i (needReferee >>= k) s = .next (takeTrap s s.cur 0x15 (wordOf i)) :=
  issue_priv a.solo (bind_error (needReferee_user h))
/-- A CSR instruction on a CSR of the referee, and on a number that names none. -/
theorem issue_csr_user {n : Nat} {k : Unit → M Go} (a : Alone s) (hn : csrLevel n = some .ref ∨ csrLevel n = some .refRo)
    (h : s.refLevel s.cur = false) : issue i (csrCheck n >>= k) s = .next (takeTrap s s.cur 0x15 (wordOf i)) :=
  issue_priv a.solo (bind_error (csrCheck_priv hn h))
theorem issue_csr_none {n : Nat} {k : Unit → M Go} (a : Alone s) (hn : csrLevel n = none) :
    issue i (csrCheck n >>= k) s = .next (takeTrap s s.cur 0x01 (wordOf i)) :=
  issue_illop a.solo (bind_error (csrCheck_illop hn))

/-! ## The return (R403) -/

theorem returnFromTrap_in {b : Bool} (h : (here s).csr.inTrap = true) : returnFromTrap b s =
    .ok ((here s).csr.tepc.toNat % 8192 + if b then 1 else 0,
      s.modTile s.cur fun x => { x with csr := { x.csr with inTrap := false } }) := by
  unfold here at *
  simp only [returnFromTrap, getT_bind, h, need_true_bind, modT_bind, pure_run, nfld, pow_zero, Nat.div_one, Nat.reducePow]
theorem returnFromTrap_out {b : Bool} (h : (here s).csr.inTrap = false) : returnFromTrap b s = .error .illop := by
  unfold here at h
  simp only [returnFromTrap, getT_bind, h, need_false_bind]

theorem jumpTo_ok {p : Nat} (h : p < 6144) : jumpTo p s = .ok (.jump p, s) := by
  rw [jumpTo, if_pos (show p < Config.codeWords from h), pure_run]

theorem exec_eret_in {f : FC} (a : Alone s) (on : On f.p s) (h : (here s).csr.inTrap = true)
    (hp : ((here s).csr.tepc.toNat % 8192 + if f.aux.getLsbD 0 then 1 else 0) < 6144) : exec (.eret f) s =
      .next (done s (fun x => { x with csr := { x.csr with inTrap := false } })
        (.jump ((here s).csr.tepc.toNat % 8192 + if f.aux.getLsbD 0 then 1 else 0))) := by
  refine issue_done (m := eretM f) a rfl ?_
  rw [eretM, on.run, nbit_toNat, bind_ok (returnFromTrap_in h), jumpTo_ok hp]

/-- Settles O43: each trap is taken by the first check that stops its instruction. -/
theorem trapInstructions : Obligations.TrapInstructions := by
  unfold Obligations.TrapInstructions
  refine ⟨⟨?trap, ?brk, ?unassigned, ?eret⟩, ?referee, ?wfe, ?csr⟩
  case trap =>
    intro f s a on
    exact issue_trap (m := trapM f) a.solo (by rw [trapM, on.run, trap_run])
  case brk =>
    intro f s a on
    exact issue_trap (m := brkM f) a.solo (by rw [brkM, on.run, trap_run])
  case unassigned =>
    intro w s h
    show execUnassignedOpcode w s = _
    rw [execUnassignedOpcode, h, stepDone]
  case eret =>
    intro f s a on
    refine ⟨exec_eret_in a on, fun h => issue_illop (m := eretM f) a.solo ?_⟩
    rw [eretM, on.run, bind_error (returnFromTrap_out h)]
  case referee =>
    intro mk hm f s a h
    fin_cases hm <;> exact issue_user a h
  case wfe => exact fun f s a h => issue_user a h
  case csr =>
    intro mk hm f s a
    fin_cases hm <;> exact ⟨issue_csr_user a, issue_csr_none a⟩

end Sys2Proof.Spec
end

section
/-! PROOF. CSR accesses (O42): what refutes the statement. -/

namespace Sys2Proof.Spec

open Sys2Proof.Machine

/-- A state whose table of loop counters holds counter 0 twice, which no canonical table does. -/
def twiceLc : State := State.reset.setTile 0 { regs := { lc := [(0, 1), (0, 1)] } }

/-- A write of zero takes one of the two entries out, and the other is read. -/
theorem csrRead_twiceLc : csrRead (csrStore twiceLc 0 0x008 .write 0) 0 0x008 = 1 := by
  decide

/-- Refutes O42: the clauses of LC0 to LC2 are about every state, but a write is read back only where the table of counters is in its
canonical form (`tget_tset_same`), which no premise asks for. In `twiceLc` counter 0 is written with 0 and reads 1. -/
theorem not_csrResults : ¬ Obligations.CsrResults := by
  unfold Obligations.CsrResults
  rintro ⟨-, -, -, -, -, -, lc, -⟩
  obtain ⟨h, -⟩ := lc twiceLc 0 0
  rw [csrRead_twiceLc] at h
  exact absurd h (by decide)

end Sys2Proof.Spec
end

section
/-! PROOF. Results that arrive (R37, R38, R57, R85, R222, R292, R293, R295; O49). -/

namespace Sys2Proof.Spec

open Sys2Proof.Machine

variable {s : State} {t n : Nat} {x : Tile}

/-! ## What arrives, as the statement says it -/

theorem fillValue_eq (x : Tile) (d : RegRef) (v : Vec) (fl : Flags) : x.fillValue d v fl = delivered x d v fl := by
  cases d <;> rfl
theorem fillMark_eq (x : Tile) (d : RegRef) (c : Byte) (a : Word) : x.fillMark d c a = marked x d c a := by
  cases d <;> rfl
/-- The lanes that a claim fills: of a v register beside what it holds, with its parity as it was; of a token beside zero. -/
theorem fillLanes_g (x : Tile) (i : Nat) (lanes : BitVec 16) (v : Vec) : x.fillLanes (.g i) lanes v = delivered x (.g i) v 0 := rfl
theorem fillLanes_v (x : Tile) (i : Nat) (lanes : BitVec 16) (v : Vec) : x.fillLanes (.v i) lanes v =
    let z := delivered x (.v i) (mergeLanes lanes (x.regs.getV i) v) 0
    if lanes ≠ 0xFFFF ∧ (.v, i) ∈ x.regs.parity then
      { z with regs := { z.regs with parity := (.v, i) :: z.regs.parity } } else z := by
  simp [Tile.fillLanes, fillValue_eq, Tile.laned]
theorem fillLanes_win (x : Tile) (q : Nat) (b : Bool) (lanes : BitVec 16) (v : Vec) :
    x.fillLanes (.win q b) lanes v = delivered x (.win q b) (if b then mergeLanes lanes 0 v else v) 0 := by
  cases b <;> rfl
theorem fillEnded_g (x : Tile) (i : Nat) (lanes : BitVec 16) (v : Vec) : x.fillEnded (.g i) lanes v = x := rfl
theorem fillEnded_v (x : Tile) (i : Nat) (lanes : BitVec 16) (v : Vec) : x.fillEnded (.v i) lanes v = x := rfl
theorem fillEnded_win (x : Tile) (q : Nat) (b : Bool) (lanes : BitVec 16) (v : Vec) :
    x.fillEnded (.win q b) lanes v = x.emit q 0 (if b then .vec (mergeLanes lanes 0 v) else .scalar (v.setWidth 64)) := by
  cases b <;> rfl

/-- What a token gives a claim: its value, or the mark that it stands for. -/
theorem fillToken_eq (x : Tile) (d : RegRef) (q : Nat) (any : Bool) (word : Word) (lanes : BitVec 16) (ended : Bool) (tok : Token) :
    x.fillToken d q any word lanes ended tok = received x d q any word lanes ended tok := by
  cases ended with
  | true =>
    cases d with
    | g i => cases tok <;> simp only [Tile.fillToken, received, fillEnded_g, Tile.popClaim, if_true]
    | v i => cases tok <;> simp only [Tile.fillToken, received, fillEnded_v, Tile.popClaim, if_true]
    | win k b => cases tok <;> simp only [Tile.fillToken, received, fillEnded_win, Tile.popClaim, if_true]
  | false =>
    cases d with
    | g i =>
      cases tok <;> simp only [Tile.fillToken, received, fillLanes_g, fillMark_eq, Tile.popClaim, Bool.false_eq_true, if_false,
        poisonTaddr]
    | v i =>
      cases tok <;> simp only [Tile.fillToken, received, fillLanes_v, fillMark_eq, Tile.popClaim, Bool.false_eq_true, if_false,
        poisonTaddr]
    | win k b =>
      cases tok <;> simp only [Tile.fillToken, received, fillLanes_win, fillMark_eq, Tile.popClaim, Bool.false_eq_true, if_false,
        poisonTaddr]

/-! ## LONG_LATENCY_FILL -/

theorem exec_fill_value {d : RegRef} {v : Vec} {fl : Flags} (h : Due s t n d (.value v fl)) :
    exec (.longLatencyFill t n) s = .next (s.modTile t fun x => delivered (x.dropPend n) d v fl) := by
  obtain ⟨hf, hw, k, hp⟩ := h
  refine occur_some (f := evLongLatencyFill t n) ?_
  simp only [evLongLatencyFill, hf, hw, hp, Bool.or_self, Bool.false_eq_true, if_false, fillValue_eq]
theorem exec_fill_mark {d : RegRef} {c : Byte} {a : Word} (h : Due s t n d (.mark c a)) :
    exec (.longLatencyFill t n) s = .next (passLate (s.modTile t fun x => marked (x.dropPend n) d c a) t) := by
  obtain ⟨hf, hw, k, hp⟩ := h
  refine occur_some (f := evLongLatencyFill t n) ?_
  simp only [evLongLatencyFill, hf, hw, hp, Bool.or_self, Bool.false_eq_true, if_false, fillMark_eq]

theorem exec_fill_claim {d : RegRef} {q : Nat} {any : Bool} {word : Word} {lanes : BitVec 16} {ended : Bool} {tok : Token}
    (h : Due s t n d (.claim q any word lanes) ended)
    (first : ∀ m, m < n → ∀ p, (s.tile t).pend[m]? = some p → ∀ any' word' lanes', p.what ≠ .claim q any' word' lanes')
    (ht : ((s.tile t).inQ q).toks[((s.tile t).inQ q).popped]? = some tok) :
    exec (.longLatencyFill t n) s =
      .next (passLate (s.modTile t fun x => received (x.dropPend n) d q any word lanes ended tok) t) := by
  obtain ⟨hf, hw, k, hp⟩ := h
  refine occur_some (f := evLongLatencyFill t n) ?_
  simp only [evLongLatencyFill, hf, hw, hp, ht, Bool.or_self, Bool.false_eq_true, if_false, fillToken_eq]
  refine if_neg fun c => ?_
  obtain ⟨e, he, hc⟩ := List.any_eq_true.1 c
  obtain ⟨m, hm⟩ := List.mem_iff_getElem?.1 he
  rw [List.getElem?_take] at hm
  split at hm
  · split at hc
    · rename_i hlt _ j _ _ _ hj
      exact first m hlt e hm _ _ _ (beq_iff_eq.1 hc ▸ hj)
    · cases hc
  · cases hm

/-! ## Causes that a disbanded gang's follower leaves to its anchor (R267) -/

/-- A write of one tile leaves another tile as it is, in any table of tiles. -/
theorem tget_tput_other {α : Type} (d : α) (l : List (Nat × α)) {k j : Nat} (x : α) (h : j ≠ k) :
    tget d (tput l k x) j = tget d l j := by
  induction l with
  | nil => simp [tput, tget, h]
  | cons e r ih =>
    obtain ⟨i, y⟩ := e
    simp only [tput]
    split
    · subst_vars
      simp [tget, h]
    · split
      · by_cases hj : j < k
        · simp [tget, h, hj, show j ≠ i by omega, show j < i by omega]
        · simp [tget, h, hj]
      · simp only [tget, ih]
theorem tile_modTile_other (s : State) {t u : Nat} (f : Tile → Tile) (h : u ≠ t) : (s.modTile t f).tile u = s.tile u :=
  tget_tput_other _ _ _ h

/-- Where a tile's task stands hangs on its task and its actor alone. -/
theorem taskTile_modTile {u : Nat} {f : Tile → Tile} (ht : ∀ x, (f x).sch.task = x.sch.task)
    (ha : ∀ x, (f x).sch.actor = x.sch.actor) : (s.modTile u f).taskTile t = s.taskTile t := by
  have task : ((s.modTile u f).tile t).sch.task = (s.tile t).sch.task := by
    by_cases h : t = u
    · rw [h, State.tile_modTile, ht]
    · rw [tile_modTile_other s f h]
  have actor : ((s.modTile u f).tile t).sch.actor = (s.tile t).sch.actor := by
    by_cases h : t = u
    · rw [h, State.tile_modTile, ha]
    · rw [tile_modTile_other s f h]
  have decl : (s.modTile u f).actorDecl t = s.actorDecl t := by
    simp only [State.actorDecl, actor]
    rfl
  have slot (k : Nat) : slotTile (s.modTile u f) t k = slotTile s t k := by
    simp only [slotTile, placeOf, actor]
    rfl
  simp only [State.taskTile, task, team, decl, actor, slot]

/-- Causes taken late by the tile of the task. -/
theorem late_foldl {u : Nat} (l : List (Byte × Word)) (h : s.taskTile t = u) (hu : u ≠ t) :
    ((l.foldl (fun a c => a.takeLate t c.1 c.2) s).tile u).sch.late = (s.tile u).sch.late ++ l ∧
      (l.foldl (fun a c => a.takeLate t c.1 c.2) s).tile t = s.tile t := by
  induction l generalizing s with
  | nil => simp
  | cons c r ih =>
    have k : (s.takeLate t c.1 c.2).taskTile t = u :=
      (taskTile_modTile (f := (·.takeLate c.1 c.2)) (fun _ => rfl) fun _ => rfl).trans h
    obtain ⟨hl, ht⟩ := ih k
    rw [List.foldl_cons]
    constructor
    · rw [hl, State.takeLate, h, State.tile_modTile, Tile.takeLate, List.append_assoc, List.singleton_append]
    · rw [ht, State.takeLate, h, tile_modTile_other _ _ hu.symm]
theorem passLate_same (h : s.taskTile t = t) : passLate s t = s := if_pos h
theorem passLate_other (h : s.taskTile t ≠ t) : ((passLate s t).tile t).sch.late = [] ∧
    ((passLate s t).tile (s.taskTile t)).sch.late = (s.tile (s.taskTile t)).sch.late ++ (s.tile t).sch.late := by
  obtain ⟨hu, ht⟩ := late_foldl (s := s.modTile t fun x => { x with sch := { x.sch with late := [] } }) (s.tile t).sch.late
    (taskTile_modTile (fun _ => rfl) fun _ => rfl) h
  rw [passLate, if_neg h, hu, ht, State.tile_modTile, tile_modTile_other _ _ h]
  exact ⟨rfl, rfl⟩

/-! ## LDS_WAKE (R222, R389) -/

theorem exec_wake_again {d : RegRef} {a : Acc} {take ended : Bool} {u : State} {ps : List Part}
    (h : Due s t n d (.again a take) ended) (live : tileLive s t = true) (task : (s.tile t).sch.task ≠ none)
    (gang : ∀ v ∈ gangTiles s t, (s.tile v).sch.halted = none ∧ (s.tile v).sch.asked = false)
    (walk : walkParts s t a.parts = .ok (ps, u)) : exec (.ldsWake t n) s = .next (u.modTile t fun x =>
      { x with pend := x.pend.modify n fun p => { p with what := .lds { a with parts := ps } take } }) := by
  obtain ⟨-, -, k, hp⟩ := h
  have htask : (s.tile t).sch.task.isNone = false := by
    rw [Option.isNone_eq_false_iff, Option.isSome_iff_ne_none]
    exact task
  have halt : ((gangTiles s t).any fun v => (s.tile v).sch.halted.isSome) = false := by
    rw [List.any_eq_false]
    intro v hv
    simp [(gang v hv).1]
  have ask : asking s t = false := by
    rw [asking, List.any_eq_false]
    intro v hv
    simp [(gang v hv).2]
  refine occur_some (f := evLdsWake t n) ?_
  simp only [evLdsWake, hp, issueAgain, live, htask, halt, ask, walk, Bool.not_true, Bool.false_and, Bool.or_self,
    Bool.false_eq_true, if_false, Tile.setPend]

theorem homeStore_add (h : Home) (i : Nat) : s.homeStore (h.add i) = ((s.homeStore h).1, (s.homeStore h).2 + i) := by
  cases h <;> rfl
theorem ofBytes_readBytes (s : State) (h : Home) (len : Nat) :
    ofBytes (readBytes (s.homeStore h).1.bytes (s.homeStore h).2 len) = numberAt s h len := by
  simp only [numberAt, byteAt, homeStore_add, readBytes]
theorem putBytes_zero (bs : List Byte) : putBytes 0 0 bs = BitVec.ofNat 512 (ofBytes bs) := by simp [putBytes]
/-- A read of a home that no reduce window is open over and whose store holds no error changes nothing. -/
theorem homeRead_quiescent {h : Home} {len : Nat} (q : Quiescent s h len) :
    homeRead s h len = .ok (readBytes (s.homeStore h).1.bytes (s.homeStore h).2 len, s) := by
  obtain ⟨hw, h1, h2⟩ := q
  simp only [homeRead, hw, Store.badRead, h1, h2, List.isEmpty_nil, Bool.true_or, if_true]

theorem exec_wake_reads {d : RegRef} {a : Acc} {take ended : Bool} {h : Home} {va : Word} {len slice at_ : Nat}
    (due : Due s t n d (.lds a take) ended) (next : Next s t a) (op : a.op = .lds d take [])
    (parts : a.parts = [⟨h, va, len, 0, slice, at_⟩]) (full : isFull s h len = true) (q : Quiescent s h len) :
    exec (.ldsWake t n) s = .next ((if take then setFull s h len false else s).modTile t fun x =>
      { x with pend := (x.pend ++ [({ dst := d, what := .value (BitVec.ofNat 512 (numberAt s h len)) 0 } : Pend)]).eraseIdx n }) := by
  obtain ⟨hf, hw, k, hp⟩ := due
  obtain ⟨free, miss, -⟩ := next
  have all : (a.parts.all fun p => isFull s p.home p.len) = true := by
    simp only [parts, List.all_cons, List.all_nil, full, Bool.and_self]
  have perf : performAcc s t a =
      .ok (arriveResult (if take then setFull s h len false else s) t d (BitVec.ofNat 512 (numberAt s h len))) := by
    simp only [performAcc, op, parts, performReads, homeRead_quiescent q, putBytes_zero, ofBytes_readBytes, List.foldl_cons,
      List.foldl_nil, overlay]
  refine occur_some (f := evLdsWake t n) ?_
  simp only [evLdsWake, hp, hf, hw, free, miss, all, perf, Bool.not_true, Option.isSome_none, Bool.or_self, Bool.false_eq_true,
    if_false, arriveResult, State.modTile_modTile, Tile.dropPend]

/-- Settles O49: what arrives is what the statement says, and the tile of the task takes the causes of a follower's windows. -/
theorem resultsArrive : Obligations.ResultsArrive := by
  unfold Obligations.ResultsArrive
  refine ⟨?value, ?mark, ?claim, ?late, ?again, ?lds⟩
  case value => exact fun s t n d v fl h => exec_fill_value h
  case mark => exact fun s t n d c a h => exec_fill_mark h
  case claim => exact fun s t n d q any word lanes ended tok h first ht => exec_fill_claim h first ht
  case late => exact fun s t => ⟨passLate_same, passLate_other⟩
  case again => exact fun s t n d a take ended u ps h live task gang walk => exec_wake_again h live task gang walk
  case lds => exact fun s t n d a take ended h va len slice at_ due next op parts _ full q => exec_wake_reads due next op parts full q

end Sys2Proof.Spec
end

section
/-! SUPPORT. The bytes of a register's value: what each byte is after bytes are put in (R3, R57). -/

namespace Sys2Proof.Spec

open Sys2Proof.Machine

theorem byteOf_getLsbD (x k j : Nat) : (byteOf x k).getLsbD j = (decide (j < 8) && x.testBit (8 * k + j)) := by
  rw [byteOf, BitVec.getLsbD_ofNat, Nat.testBit_div_two_pow, Nat.add_comm j]
theorem byteOf_add (lo y p k : Nat) (h : lo < 2 ^ (8 * p)) :
    byteOf (lo + 2 ^ (8 * p) * y) k = if k < p then byteOf lo k else byteOf y (k - p) := by
  refine BitVec.eq_of_getLsbD_eq fun j hj => ?_
  rw [byteOf_getLsbD, Nat.add_comm, Nat.testBit_two_pow_mul_add y h]
  by_cases hk : k < p
  · rw [if_pos hk, if_pos (by omega), byteOf_getLsbD]
  · rw [if_neg hk, if_neg (by omega), byteOf_getLsbD, show 8 * k + j - 8 * p = 8 * (k - p) + j by omega]
theorem byteOf_mod (x : Nat) {n k : Nat} (h : 8 * k + 8 ≤ n) : byteOf (x % 2 ^ n) k = byteOf x k := by
  refine BitVec.eq_of_getLsbD_eq fun j hj => ?_
  rw [byteOf_getLsbD, byteOf_getLsbD, Nat.testBit_mod_two_pow, decide_eq_true (show 8 * k + j < n by omega), Bool.true_and]
theorem byteOf_div (x p k : Nat) : byteOf (x / 2 ^ (8 * p)) k = byteOf x (p + k) := by
  rw [byteOf, byteOf, Nat.div_div_eq_div_mul, ← Nat.pow_add, Nat.mul_add]

theorem ofBytes_lt (bs : List Byte) : ofBytes bs < 2 ^ (8 * bs.length) := by
  induction bs with
  | nil => decide
  | cons b r ih =>
    have hb := b.isLt
    rw [ofBytes, List.length_cons, Nat.mul_add, Nat.pow_add]
    omega
theorem byteOf_ofBytes (bs : List Byte) (k : Nat) : byteOf (ofBytes bs) k = bs[k]?.getD 0 := by
  induction bs generalizing k with
  | nil => simp [ofBytes, byteOf]
  | cons b r ih =>
    rw [ofBytes, show 256 = 2 ^ (8 * 1) from rfl, byteOf_add b.toNat _ 1 k b.isLt]
    cases k with
    | zero => simp [byteOf]
    | succ k => rw [if_neg (by omega), Nat.add_sub_cancel, ih, List.getElem?_cons_succ]
theorem ofBytes_toBytes (n x : Nat) : ofBytes (toBytes n x) = x % 2 ^ (8 * n) := by
  induction n generalizing x with
  | zero => simp [toBytes, ofBytes, Nat.mod_one]
  | succ n ih =>
    have rest : (List.range n).map (byteOf x ∘ Nat.succ) = toBytes n (x / 2 ^ (8 * 1)) :=
      List.map_congr_left fun k _ => by rw [byteOf_div, Nat.add_comm, Function.comp]
    rw [toBytes, List.range_succ_eq_map, List.map_cons, List.map_map, rest, ofBytes, ih, Nat.mul_add, Nat.add_comm (8 * n),
      Nat.pow_add, Nat.mod_mul]
    simp [byteOf]

/-- A byte of a vector into which bytes were put. -/
theorem byteOf_putBytes (v : Vec) (bs : List Byte) {p k : Nat} (hk : k < 64) :
    byteOf (putBytes v p bs).toNat k = if k < p then byteOf v.toNat k else bs[k - p]?.getD (byteOf v.toNat k) := by
  rw [putBytes, BitVec.toNat_ofNat, byteOf_mod (n := 512) _ (by omega), byteOf_add _ _ _ _ (Nat.mod_lt _ (Nat.two_pow_pos _))]
  split
  next h => rw [byteOf_mod _ (by omega)]
  next h =>
    rw [byteOf_add _ _ _ _ (ofBytes_lt bs)]
    split
    next hl => rw [byteOf_ofBytes, List.getElem?_eq_getElem hl, Option.getD_some, Option.getD_some]
    next hl =>
      rw [byteOf_div, List.getElem?_eq_none (by omega), Option.getD_none, show p + bs.length + (k - p - bs.length) = k by omega]
/-- A byte of a vector over which the store buffer's bytes were laid, one at most for each place (R164). -/
theorem byteOf_overlay (g : Nat → Option Byte) (l : List Nat) (v : Vec) {k : Nat} (hk : k < 64) :
    byteOf (overlay v (l.filterMap fun i => (g i).map fun b => (i, b))).toNat k =
      if k ∈ l then (g k).getD (byteOf v.toNat k) else byteOf v.toNat k := by
  induction l generalizing v with
  | nil => simp [overlay]
  | cons i r ih =>
    cases h : g i with
    | none =>
      rw [List.filterMap_cons_none (by rw [h, Option.map_none]), ih v]
      by_cases e : k = i
      · subst e
        simp [h]
      · simp [e]
    | some b =>
      rw [List.filterMap_cons_some (by rw [h, Option.map_some]), overlay, List.foldl_cons, ← overlay, ih _, byteOf_putBytes v [b] hk]
      by_cases e : k = i
      · subst e
        simp [h]
      · have : k < i ∨ ([b])[k - i]? = none := by
          rw [List.getElem?_eq_none_iff, List.length_singleton]
          omega
        rcases this with hlt | hn
        · simp [e, hlt]
        · simp [e, hn]

/-- A 32-bit lane is the number in its four bytes. -/
theorem elemOf_ofBytes (x i : Nat) : elemOf x 32 i = ofBytes ((List.range 4).map fun j => byteOf x (4 * i + j)) := by
  have bytes : ((List.range 4).map fun j => byteOf x (4 * i + j)) = toBytes 4 (x / 2 ^ (8 * (4 * i))) :=
    List.map_congr_left fun j _ => (byteOf_div x (4 * i) j).symm
  rw [bytes, ofBytes_toBytes, elemOf, ← Nat.mul_assoc]

end Sys2Proof.Spec
end

section
/-! SUPPORT. A load of the own store as it performs at once (R57, R163, R166): the parts that have their turn are read in the order of
their places, and the value is on its way. -/

namespace Sys2Proof.Spec

open Sys2Proof.Machine

variable {s : State} {r : RegRef} {st : Store} {n o : Nat} {f : Tile → Tile} {p : Part}

theorem Corrected.refl (a : Store) : Corrected a a := ⟨rfl, rfl, rfl, fun _ h => h⟩
theorem Corrected.scrub {a b : Store} (c : Corrected a b) (o n : Nat) : Corrected a (b.scrub o n) := by
  obtain ⟨hb, hf, h2, h1⟩ := c
  unfold Store.scrub
  split
  · exact ⟨hb, hf, h2, h1⟩
  · exact ⟨hb, hf, h2, fun u hu => h1 u (List.mem_filter.1 hu).1⟩

/-- What the tile has outstanding is in its network and its waiting list. -/
theorem outstanding_modTile {t : Nat} (hn : (f (s.tile t)).net = (s.tile t).net) (hl : (f (s.tile t)).ldsAccs = (s.tile t).ldsAccs)
    (hw : (f (s.tile t)).withdrawn = (s.tile t).withdrawn) : outstanding (s.modTile t f) t = outstanding s t := by
  simp only [outstanding, State.tile_modTile, hn, hl, hw]
  rfl
theorem scopeClear_modTile {t : Nat} (ho : outstanding (s.modTile t f) t = outstanding s t) (scope below : Nat) :
    scopeClear (s.modTile t f) t scope below = scopeClear s t scope below := by
  simp only [scopeClear, ho]
  rfl

/-- The state of a load that has been issued and has not read all its parts: its destination is empty, errors in what it has read are
corrected. -/
def opened (s : State) (r : RegRef) (st : Store) : State := s.modTile s.cur fun x => { emptied (numbered x) r with store := st }

theorem opened_tile (s : State) (r : RegRef) (st : Store) :
    (opened s r st).tile s.cur = { emptied (numbered (here s)) r with store := st } := State.tile_modTile s s.cur _
theorem opened_outstanding : outstanding (opened s r st) s.cur = outstanding s s.cur := outstanding_modTile rfl rfl rfl
theorem opened_portBusy (id : Nat) (p : Part) : portBusy (opened s r st) s.cur id p = portBusy s s.cur id p := by
  simp only [portBusy, opened_outstanding, opened_tile]
  rfl
theorem opened_fenceOk (id : Nat) : fenceOk (opened s r st) s.cur id = fenceOk s s.cur id := by
  have clear (scope below : Nat) : scopeClear (opened s r st) s.cur scope below = scopeClear s s.cur scope below :=
    scopeClear_modTile opened_outstanding scope below
  simp only [fenceOk, clear, opened_tile]
  rfl

/-- A part in the own store that may be sent now and meets no uncorrectable unit. -/
structure PartReady (s : State) (p : Part) (o : Nat) : Prop where
  home : p.home = .tile s.cur o
  turn : PortFree s o p.len
  good : (here s).store.badRead o p.len = none

/-- The port looks at the home and the length of a part only. -/
theorem portBusy_home {t id : Nat} {p q : Part} (hh : p.home = q.home) (hl : p.len = q.len) : portBusy s t id p = portBusy s t id q := by
  have meets : p.meets = q.meets := funext fun b => by simp only [Part.meets, hh, hl]
  have shares : p.shares = q.shares := funext fun b => by simp only [Part.shares, hh, hl]
  simp only [portBusy, meets, shares]
theorem PartReady.partFree (h : PartReady s p o) {a : Acc} (hid : a.id = (here s).nextAcc) (hi : a.issued = (here s).nextAcc) :
    partFree (opened s r st) s.cur a [] p = true := by
  obtain ⟨hh, ⟨busy, fence, acq⟩, -⟩ := h
  have port : portBusy s s.cur (here s).nextAcc p = false := by
    rw [← busy]
    exact portBusy_home hh rfl
  have page : pageHolds (opened s r st) s.cur (here s).nextAcc p = false := by
    rw [pageHolds, hh]
    cases (opened s r st).migr <;> rfl
  have acq' : ((opened s r st).tile s.cur).acquired (here s).nextAcc = true := by
    rw [opened_tile]
    exact acq
  simp only [Machine.partFree, hid, hi, opened_portBusy, opened_fenceOk, port, fence, acq', page, List.any_nil, Bool.and_false,
    Bool.not_false, Bool.and_true]

/-- A read in the own store changes no byte and corrects at most soft errors. -/
theorem homeRead_opened (c : Corrected (here s).store st) (good : (here s).store.badRead o n = none) :
    ∃ st', Corrected (here s).store st' ∧
      homeRead (opened s r st) (.tile s.cur o) n = .ok (readBytes (here s).store.bytes o n, opened s r st') := by
  have good' : st.badRead o n = none := by
    rw [← good, Store.badRead, Store.badRead, c.2.2.1]
  have store : (opened s r st).homeStore (.tile s.cur o) = (st, o) := by
    simp only [State.homeStore, opened_tile]
  have put : (opened s r st).putHome (.tile s.cur o) (st.scrub o n) = opened s r (st.scrub o n) := by
    simp only [State.putHome, opened, State.modTile_modTile]
  simp only [homeRead, touchWindows, store, good', c.1, put]
  split
  · exact ⟨st, c, rfl⟩
  · exact ⟨_, c.scrub o n, rfl⟩

/-- The bytes of some parts of the own store in their places of a value. -/
def readParts (s : State) (v : Vec) (ps : List Part) : Vec :=
  ps.foldl (fun v p => putBytes v p.pos (readBytes (here s).store.bytes (s.homeStore p.home).2 p.len)) v

/-- A load's access over some parts. -/
def loadAcc (s : State) (r : RegRef) (ps : List Part) (old : Vec) (size : Nat) (sx lanes : Bool) (cov : List (Nat × Byte)) : Acc :=
  { id := (here s).nextAcc, parts := ps, op := .load r old size sx cov, lanes := lanes, issued := (here s).nextAcc }

/-- Parts that all have their turn are all read as the load issues. -/
theorem partsNow_loadAcc {size : Nat} {sx lanes : Bool} {cov : List (Nat × Byte)} {qs : List Part} (old : Vec) (ps : List Part)
    (c : Corrected (here s).store st) (h : ∀ p ∈ ps, ∃ o, PartReady s p o) :
    ∃ st', Corrected (here s).store st' ∧ partsNow (opened s r st) s.cur (loadAcc s r qs old size sx lanes cov) [] ps =
      .ok (loadAcc s r qs (readParts s old ps) size sx lanes cov, [], opened s r st') := by
  induction ps generalizing old st with
  | nil => exact ⟨st, c, rfl⟩
  | cons p ps ih =>
    obtain ⟨o, hp⟩ := h p List.mem_cons_self
    obtain ⟨st1, c1, read⟩ := homeRead_opened (r := r) c hp.good
    obtain ⟨st2, c2, rest⟩ := ih (putBytes old p.pos (readBytes (here s).store.bytes o p.len)) c1
      fun q hq => h q (List.mem_cons_of_mem _ hq)
    have own : p.own s.cur = true := by simp only [Part.own, hp.home, beq_self_eq_true]
    have free := hp.partFree (r := r) (st := st) (a := loadAcc s r qs old size sx lanes cov) rfl rfl
    refine ⟨st2, c2, ?_⟩
    simp only [loadAcc] at rest free ⊢
    simp only [partsNow, own, free, Bool.and_self, if_true, performPart, hp.home, read, rest, readParts, List.foldl_cons,
      State.homeStore]

/-- A load of which every part has its turn: its destination empties and the value is on its way. -/
theorem issueLoad_run {old : Vec} {size : Nat} {sx lanes : Bool} {ps qs : List Part} {cov : List (Nat × Byte)}
    (hc : sbOver (here s).sch.fx.sb ps = cov) (hq : uncovered cov ps = qs) (h : ∀ p ∈ qs, ∃ o, PartReady s p o) :
    ∃ st', Corrected (here s).store st' ∧ issueLoad r old size sx lanes ps s = .ok ((), s.modTile s.cur fun x =>
      loaded x r (extendLoad (overlay (readParts s old qs) cov) size sx) st') := by
  obtain ⟨st', c, now⟩ := partsNow_loadAcc (r := r) (qs := qs) (size := size) (sx := sx) (lanes := lanes) (cov := cov) old qs
    (Corrected.refl _) h
  have start : s.modTile s.cur (fun x => emptied (numbered x) r) = opened s r (here s).store := rfl
  have finish : finishAcc (opened s r st') s.cur (loadAcc s r qs (readParts s old qs) size sx lanes cov) =
      s.modTile s.cur fun x => loaded x r (extendLoad (overlay (readParts s old qs) cov) size sx) st' := by
    simp only [finishAcc, loadAcc, arriveResult, opened, State.modTile_modTile]
    rfl
  refine ⟨st', c, ?_⟩
  have empty : emptyDst r (s.modTile s.cur numbered) = .ok ((), opened s r (here s).store) := by
    rw [← start]
    simp only [emptyDst, modR_run, State.modTile_cur, State.modTile_modTile]
    rfl
  have send : sendFrom (opened s r (here s).store) s.cur (loadAcc s r qs old size sx lanes cov) =
      .ok (s.modTile s.cur fun x => loaded x r (extendLoad (overlay (readParts s old qs) cov) size sx) st') := by
    have byParts : (loadAcc s r qs old size sx lanes cov).op.byParts = true := rfl
    rw [sendFrom, if_pos byParts, show (loadAcc s r qs old size sx lanes cov).parts = qs from rfl, now, ← finish]
  have hc' : sbOver (s.tile s.cur).sch.fx.sb ps = cov := hc
  simp only [issueLoad, getT_bind, hc', hq, newAcc]
  rw [bind_ok (a := loadAcc s r qs old size sx false cov) (s' := s.modTile s.cur numbered) rfl, bind_ok empty]
  simp only [sendAcc, getS_bind]
  rw [show (opened s r (here s).store).cur = s.cur from rfl, show ({ loadAcc s r qs old size sx false cov with lanes := lanes } : Acc) =
    loadAcc s r qs old size sx lanes cov from rfl, send]
  rfl

end Sys2Proof.Spec
end

section
/-! PROOF. Loads of the own store (R57, R164, R218-R220; O23). -/

namespace Sys2Proof.Spec

open Sys2Proof.Machine

variable {s : State} {f : FM} {a : Word} {n off : Nat} {r : RegRef} {v : Vec} {st : Store}

theorem Address.run (h : Address f s a) : effAddr f s = .ok (a, s) := by
  obtain ⟨b, ⟨hr, hf, hp, rfl⟩, rfl⟩ := h
  rw [effAddr, bind_ok (readG_full hr hf hp)]
  rfl
theorem Own.run (h : Own s a n off) (store hostOk : Bool) :
    resolve a n n store hostOk s = .ok (⟨.tile s.cur off, 0, false, 0⟩, s) := by
  obtain ⟨hs, ha⟩ := h
  have hs' : steer s.cur (s.tile s.cur).csr.stkbase a n = some (.tile s.cur off) := hs
  simp only [resolve, getS_bind, hs', ha, ne_eq, not_true_eq_false, if_false, bne_self_eq_false, Bool.false_and, Bool.false_eq_true]
  rfl
theorem needMIf_run {b : Bool} (h : b = true → MTask s) : needMIf b s = .ok ((), s) := by
  cases b with
  | false => rfl
  | true =>
    have hm : (s.tile s.cur).isM = true := h rfl
    simp only [needMIf, if_true, needM, getT_bind, hm]
    rfl
theorem loaded_outstanding :
    outstanding (s.modTile s.cur fun x => loaded x r v st) s.cur = outstanding s s.cur := by
  refine outstanding_modTile rfl ?_ ?_
  · simp [Tile.ldsAccs, loaded, coming, emptied, numbered]
  · simp [Tile.withdrawn, loaded, coming, emptied, numbered]
/-- The fence of `.acq` stands behind its load (R219). -/
theorem orderFence_loaded (on : Bool) : orderFence on (s.modTile s.cur fun x => loaded x r v st) =
    .ok ((), s.modTile s.cur fun x => ordered s on (loaded x r v st)) := by
  cases on with
  | false => rfl
  | true =>
    have clear := scopeClear_modTile (loaded_outstanding (s := s) (r := r) (v := v) (st := st))
    simp only [orderFence, if_true, placeFence, modS, State.modTile_cur, clear, State.modTile_modTile, ordered, fenced]

/-- A loaded value of a size up to 8 bytes, extended (R218). -/
theorem extendLoad_bytes (h : n ≤ 8) (sx : Bool) : extendLoad v n sx =
    BitVec.setWidth 512 (if sx then (BitVec.ofNat (8 * n) v.toNat).signExtend 64 else (BitVec.ofNat (8 * n) v.toNat).setWidth 64) := by
  have small : BitVec.ofNat (8 * n) (v.toNat % 2 ^ (8 * n)) = BitVec.ofNat (8 * n) v.toNat := by
    rw [← BitVec.toNat_inj, BitVec.toNat_ofNat, BitVec.toNat_ofNat, Nat.mod_mod]
  rw [extendLoad, if_neg (by omega)]
  cases sx with
  | true => rw [if_pos rfl, if_pos rfl, toSigned_eq, wrapN_eq, small, BitVec.ofNat_toNat, BitVec.signExtend]
  | false =>
    rw [if_neg (by decide), if_neg (by decide), ← BitVec.toNat_ofNat, ← BitVec.ofNat_toNat 512 (BitVec.setWidth 64 _),
      BitVec.toNat_setWidth_of_le (by omega)]
/-- A number up to n bytes is told by them. -/
theorem ofNat_bytes {x : Nat} {g : Nat → Byte} (h : ∀ i, i < n → byteOf x i = g i) :
    BitVec.ofNat (8 * n) x = BitVec.ofNat (8 * n) (ofBytes ((List.range n).map g)) := by
  have bytes : (List.range n).map g = toBytes n x := List.map_congr_left fun i hi => (h i (List.mem_range.1 hi)).symm
  rw [bytes, ofBytes_toBytes, ← BitVec.toNat_inj, BitVec.toNat_ofNat, BitVec.toNat_ofNat, Nat.mod_mod]

/-- What the store buffer gives of one part, byte by byte. -/
theorem sbOver_one (sb : List BufItem) (p : Part) :
    sbOver sb [p] = (List.range p.len).filterMap fun i => (sbByte sb (p.home.add i)).map fun b => (p.pos + i, b) := by
  cases sb with
  | nil => simp [sbOver, sbByte]
  | cons => simp [sbOver]
theorem uncovered_one (cov : List (Nat × Byte)) (p : Part) :
    uncovered cov [p] = [p] ∨ uncovered cov [p] = [] ∧ ∀ i, i < p.len → ∃ b, (p.pos + i, b) ∈ cov := by
  unfold uncovered
  split
  · exact .inl rfl
  · cases h : (List.range p.len).all fun i => cov.any fun e => e.1 == p.pos + i with
    | false => exact .inl (by simp only [List.filter_cons, h, Bool.not_false, if_true, List.filter_nil])
    | true =>
      refine .inr ⟨by simp only [List.filter_cons, h, Bool.not_true, Bool.false_eq_true, if_false, List.filter_nil], fun i hi => ?_⟩
      obtain ⟨⟨j, b⟩, he, hj⟩ := List.any_eq_true.1 (List.all_eq_true.1 h i (List.mem_range.2 hi))
      exact ⟨b, eq_of_beq hj ▸ he⟩

/-- The byte i of the own store from an offset as the running task sees it: the latest buffered one, else the store's (R164). -/
def seenByte (s : State) (off i : Nat) : Byte :=
  (sbByte (here s).sch.fx.sb (.tile s.cur (off + i))).getD (tget 0 (here s).store.bytes (off + i))
/-- The part of a load of n bytes of the own store. -/
def ownPart (s : State) (a : Word) (n off : Nat) : Part := ⟨.tile s.cur off, a, n, 0, 0, 0⟩

/-- Each byte of a load of one part is the one that the task sees. -/
theorem load_one (h : n ≤ 64) (i : Nat) (hi : i < n) :
    let p := ownPart s a n off
    byteOf (overlay (readParts s 0 (uncovered (sbOver (here s).sch.fx.sb [p]) [p])) (sbOver (here s).sch.fx.sb [p])).toNat i =
      seenByte s off i := by
  intro p
  have cov : sbOver (here s).sch.fx.sb [p] = (List.range n).filterMap fun i =>
      (sbByte (here s).sch.fx.sb (.tile s.cur (off + i))).map fun b => (i, b) := by
    rw [sbOver_one]
    exact List.filterMap_congr fun i _ => by simp only [p, ownPart, Home.add, Nat.zero_add]
  have read : byteOf (readParts s 0 [p]).toNat i = tget 0 (here s).store.bytes (off + i) := by
    simp only [readParts, p, ownPart, List.foldl_cons, List.foldl_nil, State.homeStore]
    rw [byteOf_putBytes _ _ (by omega), if_neg (by omega)]
    simp [readBytes, hi]
  have laid := byteOf_overlay (fun i => sbByte (here s).sch.fx.sb (.tile s.cur (off + i))) (List.range n)
    (readParts s 0 (uncovered (sbOver (here s).sch.fx.sb [p]) [p])) (show i < 64 by omega)
  rw [← cov, if_pos (List.mem_range.2 hi)] at laid
  rw [laid, seenByte]
  rcases uncovered_one (sbOver (here s).sch.fx.sb [p]) p with hu | ⟨-, all⟩
  · rw [hu, read]
  · obtain ⟨b, hb⟩ := all i hi
    rw [cov] at hb
    obtain ⟨j, -, hj⟩ := List.mem_filterMap.1 hb
    obtain ⟨c, hc, e⟩ := Option.map_eq_some_iff.1 hj
    obtain ⟨rfl, -⟩ := Prod.mk.inj e
    have hc' : sbByte (here s).sch.fx.sb (.tile s.cur (off + i)) = some c := by
      rw [← hc]
      simp only [p, ownPart, Nat.zero_add]
    rw [hc', Option.getD_some, Option.getD_some]

theorem sizeBytes_le {z : BitVec 3} (h : z.toNat < 4) : sizeBytes z ≤ 8 := by
  obtain e | e | e | e : z.toNat = 0 ∨ z.toNat = 1 ∨ z.toNat = 2 ∨ z.toNat = 3 := by omega
  all_goals simp [sizeBytes, e]
/-- A load of up to 8 bytes of the own store, through the store buffer (R164, R218). -/
theorem exec_ld (size : f.size.toNat < 4) (m : f.ord = 1 → MTask s) (al : Alone s) (on : On f.p s) (fr : Free true f.dst s)
    (ha : Address f s a) (own : Own s a (sizeBytes f.size) off) (free : PortFree s off (sizeBytes f.size))
    (good : (here s).store.badRead off (sizeBytes f.size) = none) :
    let u := BitVec.ofNat (8 * sizeBytes f.size) (ofBytes ((List.range (sizeBytes f.size)).map (seenByte s off)))
    ∃ st, Corrected (here s).store st ∧ exec (.ld f) s = .next (done s fun x => ordered s (f.ord == 1)
      (loaded x (.g f.dst.toNat) ((if f.aux.getLsbD 0 then u.signExtend 64 else u.setWidth 64).setWidth 512) st)) := by
  intro u
  have n8 := sizeBytes_le size
  obtain ⟨st, c, load⟩ := issueLoad_run (r := .g f.dst.toNat) (old := 0) (size := sizeBytes f.size) (sx := nbit f.aux.toNat 0)
    (lanes := false) (ps := [ownPart s a (sizeBytes f.size) off]) rfl rfl fun p hp => by
      rcases uncovered_one (sbOver (here s).sch.fx.sb [ownPart s a (sizeBytes f.size) off]) (ownPart s a (sizeBytes f.size) off)
        with hu | ⟨hu, -⟩
      · rw [hu, List.mem_singleton] at hp
        exact ⟨off, hp ▸ ⟨rfl, free, good⟩⟩
      · rw [hu] at hp
        cases hp
  rw [extendLoad_bytes n8, ofNat_bytes (load_one (by omega))] at load
  refine ⟨st, c, issue_done (m := ldM f) al rfl ?_⟩
  rw [ldM, on.run, bind_ok (needMIf_run fun h => m (eq_of_beq h)), bind_ok fr, bind_ok ha.run, bind_ok (own.run false true)]
  refine (bind_ok load).trans ?_
  rw [bind_ok (orderFence_loaded _), nbit_toNat]
  rfl

end Sys2Proof.Spec
end

section
/-! PROOF. Vector loads of the own store, lane by lane (R57, R164, R218, R220; O23). -/

namespace Sys2Proof.Spec

open Sys2Proof.Machine

variable {s : State} {f : FM} {a b : Word} {n off t k i : Nat} {v ix : Vec} {m : BitVec 16} {ph : Phys} {p : Part} {ps : List Part}

/-- Where an address of the own store leads. -/
def ownPhys (s : State) (off : Nat) : Phys := ⟨.tile s.cur off, 0, false, 0⟩
/-- Whether a part gives a byte of the register. -/
def Reaches (p : Part) (k : Nat) : Prop := p.pos ≤ k ∧ k < p.pos + p.len

/-- The byte that a part reads from the own store for a place of the register. -/
def partByte (s : State) (p : Part) (k : Nat) : Byte := tget 0 (here s).store.bytes ((s.homeStore p.home).2 + (k - p.pos))

theorem byteOf_readPart (s : State) (v : Vec) (p : Part) (hk : k < 64) :
    (Reaches p k → byteOf (readParts s v [p]).toNat k = partByte s p k) ∧
      (¬ Reaches p k → byteOf (readParts s v [p]).toNat k = byteOf v.toNat k) := by
  have put := byteOf_putBytes v (readBytes (here s).store.bytes (s.homeStore p.home).2 p.len) (p := p.pos) hk
  refine ⟨fun h => put.trans ?_, fun h => put.trans ?_⟩
  · obtain ⟨lo, hi⟩ := h
    rw [if_neg (Nat.not_lt.2 lo), readBytes, List.getElem?_map, List.getElem?_range (by omega), Option.map_some, Option.getD_some,
      partByte]
  · unfold Reaches at h
    split
    · rfl
    · rw [List.getElem?_eq_none (by simp only [readBytes, List.length_map, List.length_range]; omega), Option.getD_none]
theorem readParts_cons (s : State) (v : Vec) (p : Part) (ps : List Part) :
    readParts s v (p :: ps) = readParts s (readParts s v [p]) ps := rfl
theorem byteOf_readParts_kept (hk : k < 64) (h : ∀ p ∈ ps, ¬ Reaches p k) :
    byteOf (readParts s v ps).toNat k = byteOf v.toNat k := by
  induction ps generalizing v with
  | nil => rfl
  | cons p ps ih =>
    rw [readParts_cons, ih fun q hq => h q (List.mem_cons_of_mem _ hq), (byteOf_readPart s v p hk).2 (h p List.mem_cons_self)]
/-- A byte that the parts which reach it agree on. -/
theorem byteOf_readParts {c : Byte} (hk : k < 64) (hc : ∀ p ∈ ps, Reaches p k → partByte s p k = c) (h : ∃ p ∈ ps, Reaches p k) :
    byteOf (readParts s v ps).toNat k = c := by
  induction ps generalizing v with
  | nil =>
    obtain ⟨p, hp, -⟩ := h
    cases hp
  | cons p ps ih =>
    rw [readParts_cons]
    by_cases hr : ∃ q ∈ ps, Reaches q k
    · exact ih (fun q hq => hc q (List.mem_cons_of_mem _ hq)) hr
    · rw [byteOf_readParts_kept hk fun q hq hqk => hr ⟨q, hq, hqk⟩]
      obtain ⟨q, hq, hqk⟩ := h
      obtain rfl : q = p := (List.mem_cons.1 hq).resolve_right fun hq => hr ⟨q, hq, hqk⟩
      rw [(byteOf_readPart s v q hk).1 hqk, hc q hq hqk]

/-- The lanes of a load whose parts read the enabled lanes, each at an offset of its own. -/
theorem lane_readParts {offs : Nat → Nat} (hi : i < 16)
    (on : m.getLsbD i = true → ∃ p ∈ ps, ∀ j, j < 4 → Reaches p (4 * i + j))
    (at_ : ∀ p ∈ ps, ∀ j, j < 4 → Reaches p (4 * i + j) →
      m.getLsbD i = true ∧ (s.homeStore p.home).2 + (4 * i + j - p.pos) = offs i + j) :
    lane (readParts s v ps) i = if m.getLsbD i then ownNumber s (offs i) 4 else lane v i := by
  rw [lane, elemOf_ofBytes]
  cases hm : m.getLsbD i with
  | true =>
    obtain ⟨p, hp, hr⟩ := on hm
    rw [if_pos rfl, ownNumber, readBytes]
    refine congrArg ofBytes (List.map_congr_left fun j hj => ?_)
    have hj4 := List.mem_range.1 hj
    refine byteOf_readParts (by omega) (fun q hq hqr => ?_) ⟨p, hp, hr j hj4⟩
    rw [partByte, (at_ q hq j hj4 hqr).2]
  | false =>
    rw [if_neg (by decide), lane, elemOf_ofBytes]
    refine congrArg ofBytes (List.map_congr_left fun j hj => ?_)
    have hj4 := List.mem_range.1 hj
    refine byteOf_readParts_kept (by omega) fun q hq hqr => ?_
    rw [hm] at at_
    exact Bool.false_ne_true (at_ q hq j hj4 hqr).1

theorem badRead_clean {st : Store} (h : st.bad2 = []) (o n : Nat) : st.badRead o n = none := by
  simp only [Store.badRead, h, List.isEmpty_nil, Bool.true_or, if_true]

/-- A vector load past an empty store buffer: the register's bytes, and the parts' over them. -/
theorem issueLoad_vector {r : RegRef} {lanes : Bool} (v : Vec) (sb : (here s).sch.fx.sb = [])
    (h : ∀ p ∈ ps, ∃ o, PartReady s p o) : ∃ st, Corrected (here s).store st ∧ issueLoad r v 64 false lanes ps s =
      .ok ((), s.modTile s.cur fun x => loaded x r (readParts s v ps) st) :=
  issueLoad_run (cov := []) (by rw [sb]; rfl) rfl h

/-! ## A line -/

/-- The parts of a line: what the mask enables of each 8-byte unit. -/
theorem mem_lineParts : p ∈ lineParts m ph a ↔ ∃ k, k < 8 ∧
    (m.getLsbD (2 * k) = true ∧ m.getLsbD (2 * k + 1) = true ∧ p = ph.partAt a (8 * k) 8 ∨
      m.getLsbD (2 * k) = true ∧ m.getLsbD (2 * k + 1) = false ∧ p = ph.partAt a (8 * k) 4 ∨
      m.getLsbD (2 * k) = false ∧ m.getLsbD (2 * k + 1) = true ∧ p = ph.partAt a (8 * k + 4) 4) := by
  simp only [lineParts, List.mem_filterMap, List.mem_range, nbit_toNat]
  refine exists_congr fun k => and_congr_right fun _ => ?_
  cases m.getLsbD (2 * k) <;> cases m.getLsbD (2 * k + 1) <;> simp [eq_comm]
/-- A part of a line gives enabled lanes only, from the same places of the line. -/
theorem lineParts_piece (h : p ∈ lineParts m ph a) :
    p.home = ph.home.add p.pos ∧ 0 < p.len ∧ p.pos + p.len ≤ 64 ∧
      ∀ i j, j < 4 → Reaches p (4 * i + j) → m.getLsbD i = true := by
  obtain ⟨k, hk, ⟨h0, h1, rfl⟩ | ⟨h0, -, rfl⟩ | ⟨-, h1, rfl⟩⟩ := mem_lineParts.1 h
  · refine ⟨rfl, by simp [Phys.partAt], by simp only [Phys.partAt]; omega, fun i j hj hr => ?_⟩
    simp only [Reaches, Phys.partAt] at hr
    obtain rfl | rfl : i = 2 * k ∨ i = 2 * k + 1 := by omega
    · exact h0
    · exact h1
  · refine ⟨rfl, by simp [Phys.partAt], by simp only [Phys.partAt]; omega, fun i j hj hr => ?_⟩
    simp only [Reaches, Phys.partAt] at hr
    obtain rfl : i = 2 * k := by omega
    exact h0
  · refine ⟨rfl, by simp [Phys.partAt], by simp only [Phys.partAt]; omega, fun i j hj hr => ?_⟩
    simp only [Reaches, Phys.partAt] at hr
    obtain rfl : i = 2 * k + 1 := by omega
    exact h1
/-- An enabled lane of a line is in one of its parts. -/
theorem lineParts_lane (hi : i < 16) (h : m.getLsbD i = true) : ∃ p ∈ lineParts m ph a, ∀ j, j < 4 → Reaches p (4 * i + j) := by
  obtain ⟨k, rfl | rfl⟩ : ∃ k, i = 2 * k ∨ i = 2 * k + 1 := ⟨i / 2, by omega⟩
  · cases h1 : m.getLsbD (2 * k + 1) with
    | true =>
      exact ⟨_, mem_lineParts.2 ⟨k, by omega, .inl ⟨h, h1, rfl⟩⟩, fun j hj => by simp only [Reaches, Phys.partAt]; omega⟩
    | false =>
      exact ⟨_, mem_lineParts.2 ⟨k, by omega, .inr (.inl ⟨h, h1, rfl⟩)⟩, fun j hj => by simp only [Reaches, Phys.partAt]; omega⟩
  · cases h0 : m.getLsbD (2 * k) with
    | true =>
      exact ⟨_, mem_lineParts.2 ⟨k, by omega, .inl ⟨h0, h, rfl⟩⟩, fun j hj => by simp only [Reaches, Phys.partAt]; omega⟩
    | false =>
      exact ⟨_, mem_lineParts.2 ⟨k, by omega, .inr (.inr ⟨h0, h, rfl⟩)⟩, fun j hj => by simp only [Reaches, Phys.partAt]; omega⟩

/-- The port is busy for a part if it is for one that meets no more accesses. -/
theorem portBusy_mono {id : Nat} {q : Part} (hm : ∀ c, p.meets c = true → q.meets c = true)
    (hs : ∀ c, p.shares c = true → q.shares c = true) (h : portBusy s t id p = true) : portBusy s t id q = true := by
  simp only [portBusy, Bool.or_eq_true, List.any_eq_true, Bool.and_eq_true] at h ⊢
  obtain ⟨b, hb, lt, c, hc, e⟩ | ⟨b, hb, lt, c, hc, e⟩ := h
  · exact .inl ⟨b, hb, lt, c, hc, hm c e⟩
  · refine .inr ⟨b, hb, lt, c, hc, ?_⟩
    split at e
    next own => rw [if_pos own]; exact hm c e
    next old => rw [if_neg old]; exact hs c e
/-- A port that is free for a line is free for its pieces (R163). -/
theorem PortFree.piece (h : PortFree s off 64) (ho : off % 64 = 0) (hn : 0 < n) (hk : k + n ≤ 64) : PortFree s (off + k) n := by
  obtain ⟨busy, fence, acq⟩ := h
  refine ⟨Bool.eq_false_iff.2 fun hb => ?_, fence, acq⟩
  rw [portBusy_mono (fun c => ?meets) (fun c => ?shares) hb] at busy
  case meets =>
    have e1 : (off + k) / 64 = off / 64 := by omega
    have e2 : (off + k + n - 1) / 64 = (off + 64 - 1) / 64 := by omega
    simp only [Part.meets]
    cases c.home with
    | tile u o => simp only [linesMeet, e1, e2, imp_self]
    | dram | host => exact id
  case shares =>
    simp only [Part.shares]
    cases c.home with
    | tile u o =>
      simp only [Bool.and_eq_true, decide_eq_true_eq]
      exact fun ⟨⟨hu, lo⟩, hi⟩ => ⟨⟨hu, by omega⟩, by omega⟩
    | dram | host => exact id
  cases busy

/-- The addresses of tile stores: the low window, the stack window, and the window of all tiles (R22-R24). -/
theorem steer_tile_iff {t u : Nat} {stk : Word} : steer t stk a n = some (.tile u off) ↔
    a.toNat + n ≤ 0x180000 ∧ u = t ∧ off = a.toNat ∨
    (0x1000000 ≤ a.toNat ∧ a.toNat + n ≤ 0x1010000) ∧ nfld stk.toNat 16 5 ≤ 0x17 ∧ u = t ∧
      off = nfld stk.toNat 16 5 * 65536 + (a.toNat - 0x1000000) ∨
    (0x10000000000 ≤ a.toNat ∧ a.toNat < 0x10480000000) ∧ (u < Config.numTiles ∧ off + n ≤ 0x180000) ∧
      u = (a.toNat - 0x10000000000) / 2 ^ 21 ∧ off = (a.toNat - 0x10000000000) % 2 ^ 21 := by
  simp only [steer]
  split
  next low => simp only [Option.some.injEq, Place.tile.injEq]; omega
  next low =>
    split
    next stack =>
      simp only [Bool.and_eq_true, decide_eq_true_eq] at stack
      split <;> simp only [Option.some.injEq, Place.tile.injEq, reduceCtorEq, false_iff] <;> omega
    next stack =>
      simp only [Bool.and_eq_true, decide_eq_true_eq] at stack
      split
      next tiles =>
        simp only [Bool.and_eq_true, decide_eq_true_eq] at tiles ⊢
        split <;> simp only [Option.some.injEq, Place.tile.injEq, reduceCtorEq, false_iff] <;> omega
      next tiles =>
        simp only [Bool.and_eq_true, decide_eq_true_eq] at tiles ⊢
        split <;> simp only [Option.some.injEq, reduceCtorEq, false_iff] <;> omega
/-- An offset that the address of a line leads to is aligned as the address is. -/
theorem Own.aligned (h : Own s a 64 off) : off % 64 = 0 := by
  obtain ⟨hs, ha⟩ := h
  obtain ⟨-, -, e⟩ | ⟨⟨lo, -⟩, -, -, e⟩ | ⟨⟨lo, -⟩, -, -, e⟩ := steer_tile_iff.1 hs
  all_goals omega
/-- The pieces of a line that an address leads to lead there too. -/
theorem Own.piece (h : Own s a 64 off) (hn : 0 < n) (hk : k + n ≤ 64) :
    steer s.cur (here s).csr.stkbase (a + BitVec.ofNat 64 k) n = some (.tile s.cur (off + k)) := by
  obtain ⟨hs, ha⟩ := h
  have hx : (a + BitVec.ofNat 64 k).toNat = a.toNat + k := by
    rw [BitVec.toNat_add, BitVec.toNat_ofNat]
    have := a.isLt
    omega
  rw [steer_tile_iff, hx]
  obtain ⟨low, -, e⟩ | ⟨⟨lo, hi⟩, stack, -, e⟩ | ⟨⟨lo, hi⟩, ⟨tiles, fits⟩, hu, e⟩ := steer_tile_iff.1 hs
  · exact .inl ⟨by omega, rfl, by omega⟩
  · exact .inr (.inl ⟨⟨by omega, by omega⟩, stack, rfl, by omega⟩)
  · have inside : (a.toNat - 0x10000000000) % 2 ^ 21 + k < 2 ^ 21 := by omega
    have same : (a.toNat + k - 0x10000000000) / 2 ^ 21 = (a.toNat - 0x10000000000) / 2 ^ 21 := by omega
    refine .inr (.inr ⟨⟨?_, ?_⟩, ⟨tiles, ?_⟩, hu.trans same.symm, ?_⟩) <;> omega

theorem Own.line (h : Own s a 64 off) (m : BitVec 16) : resolveLine m a false s = .ok (ownPhys s off, s) := by
  have lanes : ((List.range 16).any fun i =>
      nbit m.toNat i && (steer s.cur (s.tile s.cur).csr.stkbase (a + BitVec.ofNat 64 (4 * i)) 4).isNone) = false := by
    refine List.any_eq_false.2 fun i hi => ?_
    have leads : steer s.cur (s.tile s.cur).csr.stkbase (a + BitVec.ofNat 64 (4 * i)) 4 = some (.tile s.cur (off + 4 * i)) :=
      h.piece (by decide) (by have := List.mem_range.1 hi; omega)
    simp only [leads, Option.isNone_some, Bool.and_false, Bool.false_eq_true, not_false_eq_true]
  have aligned : ¬ a.toNat % 64 ≠ 0 := not_not.2 h.2
  simp only [resolveLine, getS_bind, lanes, Bool.false_eq_true, if_false, aligned]
  exact h.run false true
/-- A vector load of a line of the own store (R218). -/
theorem exec_ldv (om : f.ord = 1 → MTask s) (al : Alone s) (ln : Lanes f.p s m) (fr : Free false f.dst s m)
    (ha : Address f s a) (own : Own s a 64 off) (free : PortFree s off 64) (sb : (here s).sch.fx.sb = [])
    (clean : (here s).store.bad2 = []) : ∃ v st, Corrected (here s).store st ∧
      (∀ i, i < 16 → lane v i = if m.getLsbD i then ownNumber s (off + 4 * i) 4 else lane ((here s).regs.getV f.dst.toNat) i) ∧
      exec (.ldv f) s = .next (done s fun x => ordered s (f.ord == 1) (loaded x (.v f.dst.toNat) v st)) := by
  obtain ⟨st, c, load⟩ := issueLoad_vector (r := .v f.dst.toNat) (lanes := false)
    (ps := lineParts m (ownPhys s off) a) ((here s).regs.getV f.dst.toNat) sb fun p hp => by
      obtain ⟨home, len, end_, -⟩ := lineParts_piece hp
      exact ⟨off + p.pos, home, free.piece own.aligned len end_, badRead_clean clean _ _⟩
  refine ⟨readParts s ((here s).regs.getV f.dst.toNat) (lineParts m (ownPhys s off) a), st, c, fun i hi => ?lanes,
    issue_done (m := ldvM f) al rfl ?run⟩
  case run =>
    rw [ldvM, ln.run, bind_ok (needMIf_run fun h => om (eq_of_beq h)), bind_ok fr, bind_ok ha.run, bind_ok (own.line m), getT_bind]
    refine (bind_ok load).trans ?_
    rw [bind_ok (orderFence_loaded _)]
    rfl
  case lanes =>
    refine lane_readParts (offs := fun i => off + 4 * i) hi (lineParts_lane hi) fun p hp j hj hr => ?_
    obtain ⟨home, -, -, on⟩ := lineParts_piece hp
    refine ⟨on i j hj hr, ?_⟩
    obtain ⟨lo, -⟩ := hr
    simp only [home, ownPhys, Home.add, State.homeStore]
    omega

/-! ## A gather -/

/-- The part of a gather that reads an enabled lane. -/
def lanePart (s : State) (f : FM) (b : Word) (ix : Vec) (offs : Nat → Nat) (i : Nat) : Part :=
  ⟨.tile s.cur (offs i), laneAddr f b ix i, 4, 4 * i, 0, 0⟩

/-- The parts of a gather, in lane order. -/
def gathered (s : State) (f : FM) (b : Word) (ix : Vec) (offs : Nat → Nat) (m : BitVec 16) : List Part :=
  ((List.range 16).filter m.getLsbD).map (lanePart s f b ix offs)
theorem mem_gathered {offs : Nat → Nat} (h : p ∈ gathered s f b ix offs m) :
    ∃ i, i < 16 ∧ m.getLsbD i = true ∧ p = lanePart s f b ix offs i := by
  obtain ⟨i, hi, rfl⟩ := List.mem_map.1 h
  obtain ⟨hi, hm⟩ := List.mem_filter.1 hi
  exact ⟨i, List.mem_range.1 hi, hm, rfl⟩
theorem gatherParts_run {offs : Nat → Nat} (l : List Nat)
    (own : ∀ i ∈ l, m.getLsbD i = true → Own s (laneAddr f b ix i) 4 (offs i)) :
    gatherParts f m b ix false l s = .ok ((l.filter m.getLsbD).map (lanePart s f b ix offs), s) := by
  induction l with
  | nil => rfl
  | cons i l ih =>
    have rest := ih fun j hj => own j (List.mem_cons_of_mem _ hj)
    rw [gatherParts, nbit_toNat]
    cases h : m.getLsbD i with
    | false => rw [if_neg (by decide), List.filter_cons_of_neg (by simp [h]), rest]
    | true =>
      have addr : b + BitVec.ofInt 64 (toSigned 32 (elemOf ix.toNat 32 i) * 2 ^ (f.aux.toNat % 4)) = laneAddr f b ix i := by
        rw [toSigned_eq]
        rfl
      rw [if_pos rfl, List.filter_cons_of_pos h]
      simp only [addr]
      rw [bind_ok ((own i List.mem_cons_self h).run false true), bind_ok rest]
      rfl
/-- A gather from the own store, lane by lane (R220). -/
theorem exec_ldg {offs : Nat → Nat} (al : Alone s) (ln : Lanes f.p s m) (fr : Free false f.dst s m) (ha : Address f s b)
    (hx : Gives (readV (f.dst.toNat + 1) false) s ix s)
    (own : ∀ i, i < 16 → m.getLsbD i = true → Own s (laneAddr f b ix i) 4 (offs i) ∧ PortFree s (offs i) 4)
    (sb : (here s).sch.fx.sb = []) (clean : (here s).store.bad2 = []) : ∃ v st, Corrected (here s).store st ∧
      (∀ i, i < 16 → lane v i = if m.getLsbD i then ownNumber s (offs i) 4 else lane ((here s).regs.getV f.dst.toNat) i) ∧
      exec (.ldg f) s = .next (done s fun x => loaded x (.v f.dst.toNat) v st) := by
  obtain ⟨st, c, load⟩ := issueLoad_vector (r := .v f.dst.toNat) (lanes := true)
    (ps := gathered s f b ix offs m) ((here s).regs.getV f.dst.toNat) sb fun p hp => by
      obtain ⟨i, hi, hm, rfl⟩ := mem_gathered hp
      exact ⟨offs i, rfl, (own i hi hm).2, badRead_clean clean _ _⟩
  refine ⟨readParts s ((here s).regs.getV f.dst.toNat) (gathered s f b ix offs m), st, c, fun i hi => ?lanes,
    issue_done (m := ldgM f) al rfl ?run⟩
  case run =>
    rw [ldgM, ln.run, bind_ok fr, bind_ok ha.run, bind_ok hx,
      bind_ok (gatherParts_run (List.range 16) fun i hi hm => (own i (List.mem_range.1 hi) hm).1), getT_bind]
    exact bind_ok load
  case lanes =>
    refine lane_readParts hi (fun hm => ⟨_, List.mem_map_of_mem (List.mem_filter.2 ⟨List.mem_range.2 hi, hm⟩), fun j hj => ?_⟩)
      fun p hp j hj hr => ?_
    · simp only [Reaches, lanePart]
      omega
    · obtain ⟨k, hk, hm, rfl⟩ := mem_gathered hp
      simp only [Reaches, lanePart] at hr
      obtain rfl : i = k := by omega
      simp only [lanePart, State.homeStore]
      exact ⟨hm, by omega⟩

/-- Settles O23: each load reads its parts, all of them free, as it issues. -/
theorem loadResults : Obligations.LoadResults := by
  unfold Obligations.LoadResults
  refine ⟨⟨?ld, ?ldv, ?ldg⟩, ?buffer⟩
  case ld =>
    intro f s a off size om al on fr _ ha own free sb good
    have seen : seenByte s off = fun i => tget 0 (here s).store.bytes (off + i) := funext fun i => by rw [seenByte, sb]; rfl
    have load := exec_ld size om al on fr ha own free good
    rw [seen] at load
    exact load
  case ldv => exact fun f s a off m om al ln fr _ ha own free sb clean => exec_ldv om al ln fr ha own free sb clean
  case ldg => exact fun f s b ix m offs al ln fr _ ha hx own sb clean => exec_ldg al ln fr ha hx own sb clean
  case buffer =>
    intro f s a off size ord al on fr _ ha own free clean
    have load := exec_ld size (fun h => absurd (ord.symm.trans h) (by decide)) al on fr ha own free (badRead_clean clean _ _)
    rw [ord] at load
    exact load

end Sys2Proof.Spec
end

section
/-! PROOF. The element-wise execution that writes at once, and the integer instructions (R45, R57, R69, R83, R92, R96; O7). -/

namespace Sys2Proof.Spec

open Sys2Proof.Machine

variable {s s' : State} {f : FA} {i : Instr} {n : Nat} {op : ElemOp} {rounds late : Bool}

/-! ## Sources -/

/-- A source after the first one is read only where the instruction has it. -/
theorem bind_read_if {α β : Type} {p : Prop} [Decidable p] {m : M α} {d a : α}
    (h : if p then Gives m s a s' else a = d ∧ s' = s) (k : α → M β) : (if p then m >>= k else pure d >>= k) s = k a s' := by
  by_cases hp : p
  · rw [if_pos hp] at h ⊢
    exact bind_ok h
  · rw [if_neg hp] at h ⊢
    obtain ⟨rfl, rfl⟩ := h
    rfl
theorem read_if_kept {α : Type} {p : Prop} [Decidable p] {m : M α} {d a : α} (hm : Gives m s a s' → Kept s s')
    (h : if p then Gives m s a s' else a = d ∧ s' = s) : Kept s s' := by
  by_cases hp : p
  · rw [if_pos hp] at h
    exact hm h
  · rw [if_neg hp] at h
    obtain ⟨-, rfl⟩ := h
    exact Kept.refl _

theorem ScalarSources.kept {a b c : Nat} (h : ScalarSources f n s a b c s') : Kept s s' := by
  obtain ⟨s1, s2, ha, hb, hc⟩ := h
  exact ((readElem_kept ha).trans (read_if_kept readElem_kept hb)).trans (read_if_kept readElem_kept hc)
theorem VectorSources.kept {a b c : List Nat} (h : VectorSources f n s a b c s') : Kept s s' := by
  obtain ⟨s1, s2, ha, hb, hc⟩ := h
  exact ((readElems_kept ha).trans (read_if_kept readElems_kept hb)).trans (read_if_kept readElems_kept hc)

/-- What an instruction samples is the same before and after its sources are read. -/
theorem kept_csr (h : Kept s s') : (s'.tile s'.cur).csr = (here s).csr := by
  obtain ⟨-, -, -, csr, -⟩ := h.fields
  rw [h.cur]
  exact csr

/-- An instruction that rounds goes on where the mode is none of 6 and 7 (R72). -/
theorem ModeOk.run {α : Type} (h : ModeOk rounds s) (k : Unit → M α) :
    (if rounds then needMode >>= k else k ()) s = k () s := by
  cases rounds with
  | false => rfl
  | true => rw [if_pos rfl, bind_ok (needMode_ok (h rfl))]

/-! ## Elements and flags -/

/-- The flags of the enabled elements, gathered from the last as `mapElems` gathers them or from the first. -/
theorem foldl_flags (m : BitVec 16) (w : Nat) (g : Nat → Res) (k j : Nat) (fl : Flags) :
    ((List.range' j k).filter (Enabled m w)).foldl (fun fl j => fl ||| (g j).fl) fl = fl ||| orFlags m w g k j := by
  induction k generalizing j fl with
  | zero => simp [orFlags]
  | succ k ih =>
    rw [List.range'_succ, List.filter_cons, orFlags, nbit_toNat]
    cases he : Enabled m w j with
    | true =>
      rw [if_pos rfl, List.foldl_cons, ih, if_pos (show m.getLsbD (w * j / 32) = true from he), BitVec.or_assoc]
    | false =>
      rw [if_neg Bool.false_ne_true, ih, show m.getLsbD (w * j / 32) = false from he, if_neg Bool.false_ne_true]
      exact congrArg (fl ||| ·) BitVec.zero_or.symm
theorem mapElems_flags (en : Flags) (m : BitVec 16) (w k : Nat) (g : Nat → Res) :
    (mapElems en m w g k 0).fl = elementFlags m w k fun j => ((g j).code, (g j).fl) := by
  rw [mapElems_fl, elementFlags, List.range_eq_range', foldl_flags]
  exact BitVec.zero_or.symm
/-- The elements that `mapElems` computes, packed into a vector, are those of the operation where their lanes are enabled. -/
theorem mapElems_elements (en : Flags) (m : BitVec 16) {w : Nat} (g : Nat → Res) :
    Elements m w (512 / w) (fun j => ((g j).code, (g j).fl)) (BitVec.ofNat 512 (ofElems w (mapElems en m w g (512 / w) 0).codes)) := by
  intro j hj he
  have hl := mapElems_length en m w g (512 / w) 0
  have hc := mapElems_code en m w g (512 / w) 0 j hj
  rw [Nat.zero_add, nbit_toNat, if_pos (show m.getLsbD (w * j / 32) = true from he)] at hc
  rw [elemOf_vec w _ j (hl.symm ▸ hj) (hl.symm ▸ Nat.mul_div_le 512 w), (List.getElem?_eq_some_iff.1 hc).2]

/-! ## Results that are written at once -/

theorem finishG_now {d : BitVec 8} {v : Word} {fl : Flags} (q : fl &&& (s.tile s.cur).csr.ftrap.setWidth 7 = 0) :
    finishG false d v fl s = .ok (.on, s.modTile s.cur fun x => putScalar (x.raise fl) d v) := by
  rw [finishG, bind_ok (checkFp_quiet q)]
  show ((modT (·.raise fl) >>= fun _ => writeG d.toNat v >>= fun _ => pure Go.on) s) = _
  rw [modT_bind, bind_ok (writeG_run d v _), pure_run, State.modTile_cur, State.modTile_modTile]
theorem finishV_now {d : BitVec 8} {m l : BitVec 16} {v : Vec} {fl : Flags}
    (q : fl &&& (s.tile s.cur).csr.ftrap.setWidth 7 = 0) :
    finishV false d m v fl l s = .ok (.on, s.modTile s.cur fun x => putVector (x.raise fl) d m v) := by
  rw [finishV, bind_ok (checkFp_quiet q)]
  show ((modT (·.raise fl) >>= fun _ => writeV d.toNat m v >>= fun _ => pure Go.on) s) = _
  rw [modT_bind, bind_ok (writeV_run d m v _), pure_run, State.modTile_cur, State.modTile_modTile]

/-- An operation's result as a code with its flags. -/
def outOf (op : ElemOp) : Op := fun c j x y z => ((op c j x y z).code, (op c j x y z).fl)

/-- The scalar execution: the element's result is in the destination and its flags are raised, and nothing else has changed. -/
theorem alu_scalar {a b c : Nat} (hd : f.dk = true) (on : On f.p s) (fr : Free true f.dst s)
    (src : ScalarSources f n s a b c s') (md : ModeOk rounds s) (q : Quiet s (op (here s).csr 0 a b c).fl) :
    alu f n rounds false late noCheck op s = .ok (.on, s'.modTile s.cur fun x =>
      putScalar (x.raise (op (here s).csr 0 a b c).fl) f.dst (widen f.ty (op (here s).csr 0 a b c).code)) := by
  have k := src.kept
  obtain ⟨s1, s2, ha, hb, hc⟩ := src
  have csr := kept_csr k
  have md' : ModeOk rounds s' := by rwa [ModeOk, here, csr]
  rw [Quiet, ← csr] at q
  rw [← csr, ← k.cur, alu, if_pos hd, on.run, bind_ok fr, bind_ok ha]
  refine (bind_read_if hb _).trans ((bind_read_if hc _).trans ((md'.run _).trans ?_))
  simp only [noCheck, getT_bind, pure_bind, Bool.false_and, Bool.false_eq_true, if_false]
  exact finishG_now q

/-- The vector execution: likewise for the elements whose lanes are enabled. -/
theorem alu_vector {a b c : List Nat} {m : BitVec 16} (hd : f.dk = false) (ln : Lanes f.p s m) (fr : Free false f.dst s m)
    (src : VectorSources f n s a b c s') (md : ModeOk rounds s)
    (q : Quiet s (elementFlags m (tyWidth f.ty) (512 / tyWidth f.ty) fun j =>
      outOf op (here s).csr j (el a j) (el b j) (el c j))) :
    ∃ d, Elements m (tyWidth f.ty) (512 / tyWidth f.ty) (fun j => outOf op (here s).csr j (el a j) (el b j) (el c j)) d ∧
      alu f n rounds false late noCheck op s = .ok (.on, s'.modTile s.cur fun x =>
        putVector (x.raise (elementFlags m (tyWidth f.ty) (512 / tyWidth f.ty) fun j =>
          outOf op (here s).csr j (el a j) (el b j) (el c j))) f.dst m d) := by
  have k := src.kept
  obtain ⟨s1, s2, ha, hb, hc⟩ := src
  have csr := kept_csr k
  have md' : ModeOk rounds s' := by rwa [ModeOk, here, csr]
  rw [Quiet, ← csr] at q
  rw [← csr]
  refine ⟨_, mapElems_elements (s'.tile s'.cur).csr.enabled m _, ?_⟩
  unfold outOf at q ⊢
  rw [← mapElems_flags (s'.tile s'.cur).csr.enabled] at q ⊢
  rw [← k.cur, alu, if_neg (by rw [hd]; decide), ln.run, bind_ok fr, bind_ok ha]
  refine (bind_read_if hb _).trans ((bind_read_if hc _).trans ((md'.run _).trans ?_))
  simp only [noCheck, getT_bind, pure_bind, Bool.false_and, Bool.false_eq_true, if_false]
  exact finishV_now q

/-- An instruction whose meaning is the element-wise execution of an operation, and which is no long-latency producer. -/
theorem elementwise_of_alu (h : ∀ s, exec i s = issue i (alu f n rounds false late noCheck op) s) :
    Elementwise i f n rounds (outOf op) := by
  constructor
  · intro hd s s' a b c al on fr src md _ q
    rw [h]
    exact issue_done al src.kept.cur (alu_scalar hd on fr src md q)
  · intro hd s s' a b c m al ln fr src md _ w o fl q
    obtain ⟨d, he, hr⟩ := alu_vector (op := op) (rounds := rounds) (late := late) hd ln fr src md q
    refine ⟨d, he, ?_⟩
    rw [h]
    exact issue_done al src.kept.cur hr

/-! ## Integers (R68, R69) -/

theorem intLo_eq (ty : BitVec 4) : intLo (tyWidth ty) (tySigned ty) = intMin ty := rfl
theorem intHi_eq (ty : BitVec 4) : intHi (tyWidth ty) (tySigned ty) = intMax ty := rfl
/-- The model's narrowing is that of R69. -/
theorem fitInt_narrow (ty : BitVec 4) (sat : Bool) (z : Int) :
    ((fitInt (tyWidth ty) (tySigned ty) sat z).code, (fitInt (tyWidth ty) (tySigned ty) sat z).fl) = narrow ty sat z := by
  cases sat with
  | false => simp only [fitInt, narrow, wrapN_eq, Bool.false_eq_true, if_false, if_true]
  | true =>
    simp only [fitInt, narrow, intLo_eq, intHi_eq, wrapN_eq, if_true, Bool.true_eq_false, if_false]
    split
    · rfl
    · split <;> rfl
theorem outOf_intOp (g : Int → Int → Int) : outOf (intOp f g) = exactly f g := by
  funext c j x y z
  simp only [outOf, intOp, fitInt_narrow, exactly, intOf, toSigned_eq, BitVec.toNat_ofNat]

theorem elementwise_int {g : Int → Int → Int} (h : ∀ s, exec i s = issue i (intAlu f n g) s) :
    Elementwise i f n false (exactly f g) := by
  rw [← outOf_intOp]
  exact elementwise_of_alu h

/-- Settles O7: each is the element-wise execution of its operation on integers, narrowed to the type. -/
theorem integerResults : Obligations.IntegerResults := by
  unfold Obligations.IntegerResults
  simp only [integerRows, List.forall_mem_cons]
  refine ⟨?add, ?sub, ?mul, ?mulh, ?mulhn, ?neg, ?abs, ?min, ?max, ?minn, ?maxn, List.forall_mem_nil _⟩
  case abs =>
    simp only [Int.abs_eq_natAbs]
    exact fun f => elementwise_int fun s => rfl
  case min | minn =>
    simp only [min_def_lt]
    exact fun f => elementwise_int fun s => rfl
  case max | maxn =>
    simp only [max_def_lt]
    exact fun f => elementwise_int fun s => rfl
  all_goals exact fun f => elementwise_int fun s => rfl

end Sys2Proof.Spec
end

section
/-! PROOF. Rounding gives a neighbour of the exact value (R60-R63, R74, R75; O15). The magnitudes of a format are a grid, counted by the
magnitude bits of their codes, and rounding takes one of the two neighbours on the grid. -/

namespace Sys2Proof.Spec

open Sys2Proof.Machine

variable {f : Fmt} {rm : Rm} {x y : Dy} {s sat : Bool} {mb p n mag code : Nat} {q : Int}

/-! ## The grid of magnitudes (R60) -/

/-- How many of the format's least steps the magnitude bits stand for, with mb fraction bits. -/
def gridSteps (mb mag : Nat) : Nat :=
  if mag / 2 ^ mb = 0 then mag else (2 ^ mb + mag % 2 ^ mb) * 2 ^ (mag / 2 ^ mb - 1)
/-- The magnitude that magnitude bits stand for. -/
def gridValue (f : Fmt) (mag : Nat) : Rat := gridSteps f.mb mag * 2 ^ f.qmin

/-- The n-th position of the p-th binade is n units of 2^p steps; so is the first position of the next one. -/
theorem gridSteps_add (hn : n ≤ 2 ^ (mb + 1)) (hp : p = 0 ∨ 2 ^ mb ≤ n) : gridSteps mb (p * 2 ^ mb + n) = n * 2 ^ p := by
  have pos : 0 < 2 ^ mb := by positivity
  rw [pow_succ] at hn
  by_cases low : n < 2 ^ mb
  · obtain rfl := hp.resolve_right (by omega)
    rw [gridSteps, Nat.zero_mul, Nat.zero_add, if_pos (Nat.div_eq_of_lt low), pow_zero, Nat.mul_one]
  obtain ⟨k, rfl⟩ := Nat.exists_eq_add_of_le (Nat.le_of_not_lt low)
  rw [show p * 2 ^ mb + (2 ^ mb + k) = k + (p + 1) * 2 ^ mb by ring, gridSteps, Nat.add_mul_div_right _ _ pos, Nat.add_mul_mod_self_right,
    ← Nat.add_assoc, if_neg (Nat.add_one_ne_zero _), Nat.add_sub_cancel]
  by_cases top : k < 2 ^ mb
  · rw [Nat.div_eq_of_lt top, Nat.mod_eq_of_lt top, Nat.zero_add]
  · obtain rfl : k = 2 ^ mb := by omega
    rw [Nat.mod_self, Nat.div_self pos]
    ring
/-- Every position lies in a binade. -/
theorem exists_binade (mb mag : Nat) : ∃ p n, mag = p * 2 ^ mb + n ∧ n < 2 ^ (mb + 1) ∧ (p = 0 ∨ 2 ^ mb ≤ n) := by
  have pos : 0 < 2 ^ mb := by positivity
  have hd := Nat.div_add_mod' mag (2 ^ mb)
  have hr := Nat.mod_lt mag pos
  rw [pow_succ]
  cases hq : mag / 2 ^ mb with
  | zero =>
    rw [hq] at hd
    exact ⟨0, mag % 2 ^ mb, hd.symm, by omega, .inl rfl⟩
  | succ p =>
    rw [hq, Nat.succ_mul] at hd
    exact ⟨p, 2 ^ mb + mag % 2 ^ mb, by omega, by omega, .inr (by omega)⟩
theorem gridSteps_strictMono (mb : Nat) : StrictMono (gridSteps mb) := by
  refine strictMono_nat_of_lt_succ fun mag => ?_
  obtain ⟨p, n, rfl, hn, hp⟩ := exists_binade mb mag
  rw [gridSteps_add hn.le hp, Nat.add_assoc, gridSteps_add hn (hp.imp id Nat.le_succ_of_le)]
  exact Nat.mul_lt_mul_of_pos_right n.lt_succ_self (by positivity)
theorem gridValue_strictMono (f : Fmt) : StrictMono (gridValue f) := fun a b h => by
  have step : (gridSteps f.mb a : Rat) < gridSteps f.mb b := by exact_mod_cast gridSteps_strictMono f.mb h
  exact mul_lt_mul_of_pos_right step (by positivity)
theorem gridValue_nonneg (f : Fmt) (mag : Nat) : 0 ≤ gridValue f mag := by
  unfold gridValue
  positivity

/-! ## Signs -/

/-- A magnitude with a sign. -/
def signedMag (s : Bool) (v : Rat) : Rat := if s then -v else v
theorem abs_signedMag (s : Bool) (v : Rat) : |signedMag s v| = |v| := by
  cases s
  · rfl
  · exact abs_neg v
theorem ratOf_eq (x : Dy) : ratOf x = signedMag x.s (x.m * 2 ^ x.e) := by
  unfold ratOf signedMag
  cases x.s <;> simp

/-! ## Values of codes (R60-R63) -/

/-- The number that magnitude bits and a sign spell where they spell a number. -/
def numberOf (f : Fmt) (s : Bool) (mag : Nat) : Dy :=
  if mag / 2 ^ f.mb = 0 then ⟨s, mag, f.qmin⟩
  else ⟨s, 2 ^ f.mb + mag % 2 ^ f.mb, (mag / 2 ^ f.mb : Nat) - (f.bias : Int) - (f.mb : Int)⟩
theorem ratOf_numberOf (f : Fmt) (s : Bool) (mag : Nat) : ratOf (numberOf f s mag) = signedMag s (gridValue f mag) := by
  rw [ratOf_eq, numberOf, gridValue, gridSteps]
  split
  · rfl
  · next h =>
    obtain ⟨k, hk⟩ := Nat.exists_eq_succ_of_ne_zero h
    have e : ((k + 1 : Nat) : Int) - f.bias - f.mb = k + f.qmin := by
      unfold Fmt.qmin
      omega
    simp only [hk, e, Nat.succ_eq_add_one, Nat.add_sub_cancel, zpow_add₀ (two_ne_zero' Rat), zpow_natCast]
    push_cast
    rw [mul_assoc]
/-- The magnitude bits of a code. -/
def magOf (f : Fmt) (code : Nat) : Nat := code % 2 ^ f.w % 2 ^ (f.w - 1)
theorem magOf_eq (f : Fmt) (code : Nat) : magOf f code = code % 2 ^ f.w % 2 ^ (f.w - 1) := rfl

/-- What the magnitude bits above those of the largest finite number spell (R62): infinity and then NaNs, NaN alone, or there are none. -/
inductive Specials (f : Fmt) : Prop where
  | ieee (nan : f.nan = .ieee) (inf : f.inf = some (f.maxc + 1))
  | e4m3 (nan : f.nan = .e4m3) (inf : f.inf = none) (maxc : f.maxc = 0x7E) (width : f.w = 8)
  | none (nan : f.nan = .none) (inf : f.inf = none) (maxc : f.maxc + 1 = 2 ^ (f.w - 1))
/-- What the formats with a sign have in common. -/
structure SignedLayout (f : Fmt) : Prop where
  hasSign : f.signed = true
  width : 0 < f.w
  maxc : f.maxc < 2 ^ (f.w - 1)
  specials : Specials f
theorem signedLayout_of_mem : ∀ f ∈ formats, SignedLayout f := by
  simp only [formats, List.forall_mem_cons]
  refine ⟨?f32, ?bf16, ?f16, ?e4m3, ?e5m2, ?e2m1, List.forall_mem_nil _⟩
  case e4m3 => exact ⟨rfl, by decide, by decide, .e4m3 rfl rfl rfl rfl⟩
  case e2m1 => exact ⟨rfl, by decide, by decide, .none rfl rfl rfl⟩
  all_goals exact ⟨rfl, by decide, by decide, .ieee rfl rfl⟩

/-- The codes whose magnitude bits are not above those of the largest finite number are the numbers. -/
theorem SignedLayout.decodeVal_number (l : SignedLayout f) (h : magOf f code ≤ f.maxc) :
    decodeVal f code = .fin (numberOf f (decide (2 ^ (f.w - 1) ≤ code % 2 ^ f.w)) (magOf f code)) := by
  simp only [decodeVal, numberOf, ← magOf_eq, l.hasSign, Bool.true_and, if_true]
  generalize magOf f code = mag at *
  rw [apply_ite Val.fin]
  cases l.specials with
  | ieee nan inf =>
    simp only [nan, inf, Option.getD_some, Option.some.injEq, show ¬ f.maxc + 1 < mag by omega, show ¬ f.maxc + 1 = mag by omega,
      if_false]
  | e4m3 nan inf maxc width => simp only [nan, inf, show ¬ mag = 0x7F by omega, reduceCtorEq, if_false]
  | none nan inf maxc => simp only [nan, inf, reduceCtorEq, if_false]
theorem SignedLayout.decodeVal_special (l : SignedLayout f) (h : f.maxc < magOf f code) : decodeVal f code ≠ .fin y := by
  have top : magOf f code < 2 ^ (f.w - 1) := Nat.mod_lt _ (by positivity)
  simp only [decodeVal, ← magOf_eq, l.hasSign, Bool.true_and, if_true]
  generalize magOf f code = mag at *
  cases l.specials with
  | ieee nan inf =>
    by_cases e : f.maxc + 1 = mag
    · simp only [nan, inf, e, Option.getD_some, lt_irrefl, if_true, if_false, ne_eq, reduceCtorEq, not_false_eq_true]
    · simp only [nan, inf, Option.getD_some, show f.maxc + 1 < mag by omega, if_true, ne_eq, reduceCtorEq, not_false_eq_true]
  | e4m3 nan inf maxc width =>
    rw [width] at top
    simp only [nan, show mag = 0x7F by omega, if_true, ne_eq, reduceCtorEq, not_false_eq_true]
  | none nan inf maxc => omega

/-- Every number of a format stands at a position of its grid, the largest one's at most, with a sign. -/
theorem SignedLayout.value_on_grid (l : SignedLayout f) (h : decodeVal f code = .fin y) :
    ∃ s k, k ≤ f.maxc ∧ ratOf y = signedMag s (gridValue f k) := by
  have hk : magOf f code ≤ f.maxc := Nat.le_of_not_lt fun hk => l.decodeVal_special hk h
  rw [l.decodeVal_number hk] at h
  cases h
  exact ⟨_, _, hk, ratOf_numberOf _ _ _⟩
theorem SignedLayout.magOf_withSign (l : SignedLayout f) (s : Bool) (h : mag ≤ f.maxc) :
    magOf f (withSign f s mag) = mag ∧ decide (2 ^ (f.w - 1) ≤ withSign f s mag % 2 ^ f.w) = s := by
  have hw : 2 ^ f.w = 2 * 2 ^ (f.w - 1) := by rw [← pow_succ', Nat.sub_add_cancel l.width]
  have hm := l.maxc
  rw [magOf, withSign, l.hasSign, Bool.and_true]
  cases s with
  | false =>
    rw [if_neg Bool.false_ne_true, Nat.mod_eq_of_lt (show mag < 2 ^ f.w by omega), Nat.mod_eq_of_lt (by omega)]
    exact ⟨rfl, decide_eq_false (by omega)⟩
  | true =>
    rw [if_pos rfl, Nat.mod_eq_of_lt (show mag + 2 ^ (f.w - 1) < 2 ^ f.w by omega), Nat.add_mod_right, Nat.mod_eq_of_lt (by omega)]
    exact ⟨rfl, decide_eq_true (by omega)⟩
/-- The code with a sign and a position has that position's magnitude and the sign. -/
theorem SignedLayout.value_withSign (l : SignedLayout f) (s : Bool) (h : mag ≤ f.maxc) :
    ∃ y, decodeVal f (withSign f s mag) = .fin y ∧ ratOf y = signedMag s (gridValue f mag) := by
  obtain ⟨hm, hs⟩ := l.magOf_withSign s h
  refine ⟨_, l.decodeVal_number (hm.symm ▸ h), ?_⟩
  rw [ratOf_numberOf, hm, hs]

/-! ## Units (R74) -/

/-- A magnitude in units of 2^q is the fraction of these two. -/
def scaledNum (x : Dy) (q : Int) : Nat := x.m * 2 ^ (x.e - q).toNat
def scaledDen (x : Dy) (q : Int) : Nat := 2 ^ (q - x.e).toNat
theorem scaledDen_eq (x : Dy) (q : Int) : scaledDen x q = 2 ^ (q - x.e).toNat := rfl
theorem scaledDen_pos (x : Dy) (q : Int) : 0 < scaledDen x q := Nat.two_pow_pos _
theorem magnitude_eq_fraction (x : Dy) (q : Int) : (x.m : Rat) * 2 ^ x.e = scaledNum x q / scaledDen x q * 2 ^ q := by
  have e : (2 : Rat) ^ x.e = 2 ^ (x.e - q).toNat / 2 ^ (q - x.e).toNat * 2 ^ q := by
    rw [← zpow_natCast, ← zpow_natCast, ← zpow_sub₀ two_ne_zero, ← zpow_add₀ two_ne_zero]
    congr 1
    omega
  rw [scaledNum, scaledDen, e]
  push_cast
  ring

/-! ## The choice between two neighbours (R74) -/

/-- What is a whole number of units is not rounded up, in any mode. -/
theorem roundsUp_exact {neg odd : Bool} {d : Nat} (h : 0 < d) : roundsUp rm neg odd 0 d = false := by
  unfold roundsUp
  split <;> simp [h.ne, h.ne']
theorem roundsUp_nearest {neg odd : Bool} {r d : Nat} (h : rm.mode = 0 ∨ rm.mode = 4) :
    if roundsUp rm neg odd r d then d ≤ 2 * r else 2 * r ≤ d := by
  rcases h with h | h
  · simp only [roundsUp, h, Bool.or_eq_true, decide_eq_true_eq, Bool.and_eq_true]
    split <;> omega
  · simp only [roundsUp, h, decide_eq_true_eq]
    split <;> omega
theorem roundsUp_toZero {neg odd : Bool} {r d : Nat} (h : rm.mode = 1) : roundsUp rm neg odd r d = false := by
  simp only [roundsUp, h]
theorem roundsUp_down {neg odd : Bool} {r d : Nat} (h : rm.mode = 2) : roundsUp rm neg odd r d = (neg && decide (r ≠ 0)) := by
  simp only [roundsUp, h]
theorem roundsUp_up {neg odd : Bool} {r d : Nat} (h : rm.mode = 3) : roundsUp rm neg odd r d = (!neg && decide (r ≠ 0)) := by
  simp only [roundsUp, h]

/-- Rounding takes the whole units or one more, and is inexact where units are left. -/
theorem roundUnits_eq (rm : Rm) (x : Dy) (q : Int) (par : Bool) : ∃ odd, roundUnits rm x q par =
    (scaledNum x q / scaledDen x q + (roundsUp rm x.s odd (scaledNum x q % scaledDen x q) (scaledDen x q)).toNat,
      decide (scaledNum x q % scaledDen x q ≠ 0)) := by
  by_cases h : q ≤ x.e
  · have d : scaledDen x q = 1 := by rw [scaledDen, Int.toNat_eq_zero.2 (by omega), pow_zero]
    refine ⟨false, ?_⟩
    rw [roundUnits, if_pos h, d, Nat.mod_one, Nat.div_one, roundsUp_exact one_pos]
    rfl
  · have n : scaledNum x q = x.m := by rw [scaledNum, Int.toNat_eq_zero.2 (by omega), pow_zero, Nat.mul_one]
    refine ⟨(x.m / scaledDen x q % 2 == 1) != par, ?_⟩
    simp only [roundUnits, if_neg h, n, scaledDen_eq]
    congr 1
    split
    · next up => rw [up, Bool.toNat_true]
    · next up => rw [Bool.eq_false_iff.2 up, Bool.toNat_false, Nat.add_zero]

/-- The exponent of the units in which a number is rounded: those of its binade, the least steps at the bottom of the range. -/
def unitExp (f : Fmt) (x : Dy) : Int := max (ilog2 x - (f.mb : Int)) f.qmin
theorem unitExp_eq (f : Fmt) (x : Dy) : unitExp f x = max (ilog2 x - (f.mb : Int)) f.qmin := rfl
/-- The position of the grid at or below a number. -/
def floorPos (f : Fmt) (x : Dy) : Nat := (unitExp f x - f.qmin).toNat * 2 ^ f.mb + scaledNum x (unitExp f x) / scaledDen x (unitExp f x)
/-- How much is left above that position, in parts of a unit, and how many parts a unit has. -/
def unitRest (f : Fmt) (x : Dy) : Nat := scaledNum x (unitExp f x) % scaledDen x (unitExp f x)
def unitDen (f : Fmt) (x : Dy) : Nat := scaledDen x (unitExp f x)
theorem unitDen_pos (f : Fmt) (x : Dy) : 0 < unitDen f x := scaledDen_pos _ _
theorem unitRest_lt (f : Fmt) (x : Dy) : unitRest f x < unitDen f x := Nat.mod_lt _ (unitDen_pos f x)

theorem scaledNum_lt (f : Fmt) (x : Dy) : scaledNum x (unitExp f x) < 2 ^ (f.mb + 1) * scaledDen x (unitExp f x) := by
  have top : x.m < 2 ^ (x.m.log2 + 1) := Nat.lt_log2_self
  have hq : ilog2 x - f.mb ≤ unitExp f x := le_max_left _ _
  generalize unitExp f x = q at *
  have ex : x.m.log2 + 1 + (x.e - q).toNat ≤ f.mb + 1 + (q - x.e).toNat := by
    unfold ilog2 at hq
    omega
  rw [scaledNum, scaledDen, ← pow_add]
  calc x.m * 2 ^ (x.e - q).toNat
    _ < 2 ^ (x.m.log2 + 1) * 2 ^ (x.e - q).toNat := Nat.mul_lt_mul_of_pos_right top (Nat.two_pow_pos _)
    _ = 2 ^ (x.m.log2 + 1 + (x.e - q).toNat) := (pow_add _ _ _).symm
    _ ≤ 2 ^ (f.mb + 1 + (q - x.e).toNat) := Nat.pow_le_pow_right two_pos ex
theorem le_scaledNum (hx : x.m ≠ 0) (h : f.qmin < unitExp f x) : 2 ^ f.mb * scaledDen x (unitExp f x) ≤ scaledNum x (unitExp f x) := by
  have bottom : 2 ^ x.m.log2 ≤ x.m := Nat.log2_self_le hx
  have hq : unitExp f x = ilog2 x - f.mb := (max_choice _ _).resolve_right h.ne'
  generalize unitExp f x = q at *
  have ex : f.mb + (q - x.e).toNat ≤ x.m.log2 + (x.e - q).toNat := by
    unfold ilog2 at hq
    omega
  rw [scaledNum, scaledDen, ← pow_add]
  calc 2 ^ (f.mb + (q - x.e).toNat)
    _ ≤ 2 ^ (x.m.log2 + (x.e - q).toNat) := Nat.pow_le_pow_right two_pos ex
    _ = 2 ^ x.m.log2 * 2 ^ (x.e - q).toNat := pow_add _ _ _
    _ ≤ x.m * 2 ^ (x.e - q).toNat := Nat.mul_le_mul_right _ bottom

/-- Units and steps: position n of a binade whose unit is 2^q has the magnitude n · 2^q. -/
theorem gridValue_add (hq : f.qmin ≤ q) (hn : n ≤ 2 ^ (f.mb + 1)) (hp : f.qmin < q → 2 ^ f.mb ≤ n) :
    gridValue f ((q - f.qmin).toNat * 2 ^ f.mb + n) = n * 2 ^ q := by
  have e : (2 : Rat) ^ q = 2 ^ (q - f.qmin).toNat * 2 ^ f.qmin := by
    rw [← zpow_natCast, ← zpow_add₀ two_ne_zero]
    congr 1
    omega
  rw [gridValue, gridSteps_add hn ((Nat.eq_zero_or_pos _).imp id fun h => hp (by omega)), e]
  push_cast
  ring
theorem gridValue_floorPos (hx : x.m ≠ 0) :
    gridValue f (floorPos f x) = (scaledNum x (unitExp f x) / scaledDen x (unitExp f x) : Nat) * 2 ^ unitExp f x ∧
    gridValue f (floorPos f x + 1) = gridValue f (floorPos f x) + 2 ^ unitExp f x := by
  have top : scaledNum x (unitExp f x) / scaledDen x (unitExp f x) < 2 ^ (f.mb + 1) :=
    Nat.div_lt_of_lt_mul (Nat.mul_comm _ _ ▸ scaledNum_lt f x)
  have bottom (h : f.qmin < unitExp f x) : 2 ^ f.mb ≤ scaledNum x (unitExp f x) / scaledDen x (unitExp f x) :=
    (Nat.le_div_iff_mul_le (scaledDen_pos _ _)).2 (le_scaledNum hx h)
  have hq : f.qmin ≤ unitExp f x := le_max_right _ _
  have low : gridValue f (floorPos f x) = _ := gridValue_add hq top.le bottom
  rw [low, floorPos, Nat.add_assoc, gridValue_add hq top fun h => Nat.le_succ_of_le (bottom h)]
  push_cast
  exact ⟨rfl, by ring⟩
/-- A number's magnitude is that of the position below it and the part of a unit left. -/
theorem magnitude_eq (hx : x.m ≠ 0) :
    (x.m : Rat) * 2 ^ x.e = gridValue f (floorPos f x) + unitRest f x / unitDen f x * 2 ^ unitExp f x := by
  have hd : (unitDen f x : Rat) ≠ 0 := by exact_mod_cast (scaledDen_pos x (unitExp f x)).ne'
  have split : (scaledNum x (unitExp f x) : Rat) = unitDen f x * (scaledNum x (unitExp f x) / unitDen f x : Nat) + unitRest f x := by
    exact_mod_cast (Nat.div_add_mod _ _).symm
  rw [magnitude_eq_fraction x (unitExp f x), (gridValue_floorPos hx).1, ← unitDen, split]
  field_simp

/-! ## RoundTo (R74, R80) -/

theorem SignedLayout.zeroCode_eq (l : SignedLayout f) (s : Bool) : zeroCode f s = withSign f s 0 := by
  rw [zeroCode, Fmt.negZero]
  cases l.specials with
  | ieee nan | e4m3 nan | none nan => simp only [nan, if_true]
theorem overflowCode_fl (f : Fmt) (mode : Nat) (sat s : Bool) :
    (overflowCode f mode sat s).fl = OF ||| NX ||| SA ∨ (overflowCode f mode sat s).fl = OF ||| NX := by
  unfold overflowCode
  split
  · exact .inl rfl
  · split
    · exact .inl rfl
    · split <;> exact .inr rfl
theorem overflowCode_OF (f : Fmt) (mode : Nat) (sat s : Bool) : (overflowCode f mode sat s).fl &&& OF ≠ 0 := by
  rcases overflowCode_fl f mode sat s with h | h <;> rw [h] <;> decide
/-- The position that rounding takes: that at or below the number, or the next; a tie may ask whether it is odd. -/
def roundedPos (f : Fmt) (rm : Rm) (x : Dy) (odd : Bool) : Nat :=
  floorPos f x + (roundsUp rm x.s odd (unitRest f x) (unitDen f x)).toNat
/-- RoundTo for a format with a sign: an overflow, or the code of the position taken, inexact where anything is left above the lower one. -/
theorem SignedLayout.roundTo_eq (l : SignedLayout f) (hx : x.m ≠ 0) : ∃ odd tiny,
    roundTo f rm sat x = if f.maxc < roundedPos f rm x odd then overflowCode f rm.mode sat x.s
      else ⟨withSign f x.s (roundedPos f rm x odd), if unitRest f x ≠ 0 then if tiny = true then NX ||| UF else NX else 0⟩ := by
  obtain ⟨odd, h⟩ := roundUnits_eq rm x (unitExp f x) ((unitExp f x - f.qmin).toNat * 2 ^ f.mb % 2 == 1)
  have hz (c : Nat) : (if c = 0 then zeroCode f x.s else withSign f x.s c) = withSign f x.s c := by
    split
    · next h => rw [l.zeroCode_eq, h]
    · rfl
  refine ⟨odd, ?_⟩
  apply Exists.intro
  simp only [roundTo, if_neg hx, l.hasSign, Bool.not_true, Bool.and_false, Bool.false_eq_true, if_false, ← unitExp_eq, h, hz,
    ← Nat.add_assoc, decide_eq_true_eq]
  rfl

/-- A number with the magnitude of a position is exact: it has that position's code and raises nothing. -/
theorem SignedLayout.roundTo_exact (l : SignedLayout f) (hx : x.m ≠ 0) (hr : unitRest f x = 0) (hm : floorPos f x ≤ f.maxc) :
    roundTo f rm sat x = ⟨withSign f x.s (floorPos f x), 0⟩ := by
  obtain ⟨odd, tiny, e⟩ := l.roundTo_eq (rm := rm) (sat := sat) hx
  have pos : roundedPos f rm x odd = floorPos f x := by
    rw [roundedPos, hr, roundsUp_exact (unitDen_pos f x), Bool.toNat_false, Nat.add_zero]
  rw [e, pos, if_neg (Nat.not_lt.2 hm), if_neg (not_not.2 hr)]
/-- A number that raises no overflow has the code of a position that a number of the format has. -/
theorem SignedLayout.roundTo_finite (l : SignedLayout f) (hx : x.m ≠ 0) (h : (roundTo f rm sat x).fl &&& OF = 0) : ∃ odd,
    roundedPos f rm x odd ≤ f.maxc ∧ (roundTo f rm sat x).code = withSign f x.s (roundedPos f rm x odd) := by
  obtain ⟨odd, tiny, e⟩ := l.roundTo_eq (rm := rm) (sat := sat) hx
  by_cases c : f.maxc < roundedPos f rm x odd
  · rw [e, if_pos c] at h
    exact absurd h (overflowCode_OF _ _ _ _)
  · exact ⟨odd, Nat.le_of_not_lt c, by rw [e, if_neg c]⟩

/-! ## Neighbours (R74) -/

theorem abs_signedMag_sub (s : Bool) (v w : Rat) : |signedMag s w - signedMag s v| = |w - v| := by
  cases s
  · rfl
  · show |-w - -v| = |w - v|
    rw [neg_sub_neg, abs_sub_comm]
theorem exists_signedMag (s s' : Bool) (v : Rat) : ∃ w, signedMag s' v = signedMag s w ∧ (w = v ∨ w = -v) := by
  cases s <;> cases s'
  case false.false | true.true => exact ⟨v, rfl, .inl rfl⟩
  case false.true => exact ⟨-v, rfl, .inr rfl⟩
  case true.false => exact ⟨-v, (neg_neg v).symm, .inr rfl⟩
/-- Seen with any sign, no number of a format lies between two positions that follow each other. -/
theorem SignedLayout.no_value_between (l : SignedLayout f) (h : decodeVal f code = .fin y) (s : Bool) (lo : Nat) :
    ∃ z, ratOf y = signedMag s z ∧ (z ≤ gridValue f lo ∨ gridValue f (lo + 1) ≤ z) := by
  obtain ⟨s', k, -, hy⟩ := l.value_on_grid h
  obtain ⟨z, hz, rfl | rfl⟩ := exists_signedMag s s' (gridValue f k)
  · have mono := (gridValue_strictMono f).monotone
    exact ⟨_, hy.trans hz, (Nat.lt_or_ge lo k).symm.imp (fun h => mono h) fun h => mono h⟩
  · exact ⟨_, hy.trans hz, .inl ((neg_nonpos.2 (gridValue_nonneg f k)).trans (gridValue_nonneg f lo))⟩

/-- What a mode asks of the choice between the neighbours a and b of a magnitude v, of sign s: the result is w. -/
structure ChosenNeighbour (mode : Nat) (s : Bool) (a b v w : Rat) : Prop where
  neighbour : w = a ∨ w = b
  nearest : mode = 0 ∨ mode = 4 → |w - v| ≤ v - a ∧ |w - v| ≤ b - v
  toZero : mode = 1 → w = a
  down : mode = 2 → if s then v ≤ w else w ≤ v
  up : mode = 3 → if s then w ≤ v else v ≤ w
theorem not_strictly_between {a b v w z : Rat} (gap : z ≤ a ∨ b ≤ z) (hv : v ∈ Set.Icc a b) (hw : w ∈ Set.Icc a b) :
    ¬(v < z ∧ z < w) := by
  rintro ⟨h, h'⟩
  rcases gap with gap | gap
  · exact absurd (hv.1.trans_lt h) gap.not_gt
  · exact absurd (h'.trans_le hw.2) gap.not_gt
/-- A neighbour so chosen is what R74 asks for. -/
theorem SignedLayout.rounds_of_chosen (l : SignedLayout f) {lo mode : Nat} {v w : Rat} (low : gridValue f lo ≤ v)
    (high : v ≤ gridValue f (lo + 1)) (c : ChosenNeighbour mode s (gridValue f lo) (gridValue f (lo + 1)) v w) :
    Rounds f mode (signedMag s v) (signedMag s w) := by
  have nonneg := gridValue_nonneg f lo
  refine ⟨fun code z hz => ?between, fun hm code z hz => ?near, fun hm => ?zero, fun hm => ?down, fun hm => ?up⟩
  case between =>
    obtain ⟨z', hz', gap⟩ := l.no_value_between hz s lo
    have hv : v ∈ Set.Icc (gridValue f lo) (gridValue f (lo + 1)) := ⟨low, high⟩
    have hw : w ∈ Set.Icc (gridValue f lo) (gridValue f (lo + 1)) := by
      rcases c.neighbour with rfl | rfl
      · exact Set.left_mem_Icc.2 (low.trans high)
      · exact Set.right_mem_Icc.2 (low.trans high)
    rw [hz']
    cases s with
    | false => exact ⟨not_strictly_between gap hv hw, not_strictly_between gap hw hv⟩
    | true =>
      exact ⟨fun ⟨h, h'⟩ => not_strictly_between gap hw hv ⟨neg_lt_neg_iff.1 h', neg_lt_neg_iff.1 h⟩,
        fun ⟨h, h'⟩ => not_strictly_between gap hv hw ⟨neg_lt_neg_iff.1 h', neg_lt_neg_iff.1 h⟩⟩
  case near =>
    obtain ⟨z', hz', gap⟩ := l.no_value_between hz s lo
    obtain ⟨na, nb⟩ := c.nearest hm
    rw [hz', abs_signedMag_sub, abs_signedMag_sub]
    rcases gap with gap | gap
    · exact na.trans (le_abs.2 (.inr (by linarith)))
    · exact nb.trans (le_abs.2 (.inl (by linarith)))
  case zero =>
    rw [abs_signedMag, abs_signedMag, c.toZero hm, abs_of_nonneg nonneg, abs_of_nonneg (nonneg.trans low)]
    exact low
  case down =>
    have := c.down hm
    cases s <;> simpa [signedMag] using this
  case up =>
    have := c.up hm
    cases s <;> simpa [signedMag] using this

/-- The model's decision takes the neighbour that the mode asks for: r of d parts of the unit u are above the lower one. -/
theorem chosen_of_roundsUp {odd : Bool} {r d : Nat} {a u : Rat} (hu : 0 < u) (hr : r < d) :
    ChosenNeighbour rm.mode s a (a + u) (a + r / d * u) (a + (roundsUp rm s odd r d).toNat * u) := by
  have hd : (0 : Rat) < d := by exact_mod_cast Nat.zero_lt_of_lt hr
  have part : 0 ≤ (r : Rat) / d * u := by positivity
  have part' : (r : Rat) / d * u ≤ u := mul_le_of_le_one_left hu.le ((div_le_one hd).2 (by exact_mod_cast hr.le))
  have away : a + r / d * u ≤ a + (decide (r ≠ 0)).toNat * u := by
    by_cases z : r = 0
    · simp [z]
    · simpa [z] using part'
  refine ⟨?neighbour, fun h => ?near, fun h => ?zero, fun h => ?down, fun h => ?up⟩
  case neighbour => cases roundsUp rm s odd r d <;> simp
  case near =>
    have c := roundsUp_nearest (neg := s) (odd := odd) (r := r) (d := d) h
    have whole : u = d / d * u := by rw [div_self hd.ne', one_mul]
    have twice : 2 * ((r : Rat) / d * u) = (2 * r : Nat) / d * u := by push_cast; ring
    cases taken : roundsUp rm s odd r d with
    | true =>
      rw [taken, if_pos rfl] at c
      have half : u ≤ 2 * (r / d * u) := by
        rw [twice]
        nth_rw 1 [whole]
        gcongr
      have diff : a + (true.toNat : Nat) * u - (a + r / d * u) = u - r / d * u := by
        rw [Bool.toNat_true]
        push_cast
        ring
      rw [diff, abs_of_nonneg (by linarith)]
      constructor <;> linarith
    | false =>
      rw [taken, if_neg Bool.false_ne_true] at c
      have half : 2 * (r / d * u) ≤ u := by
        rw [twice]
        nth_rw 2 [whole]
        gcongr
      have diff : a + (false.toNat : Nat) * u - (a + r / d * u) = -(r / d * u) := by
        rw [Bool.toNat_false]
        push_cast
        ring
      rw [diff, abs_neg, abs_of_nonneg part]
      constructor <;> linarith
  case zero => rw [roundsUp_toZero h, Bool.toNat_false, Nat.cast_zero, zero_mul, add_zero]
  case down =>
    rw [roundsUp_down h]
    cases s with
    | false => simpa using part
    | true => exact away
  case up =>
    rw [roundsUp_up h]
    cases s with
    | true => simpa using part
    | false => exact away

/-! ## The statement -/

theorem gridValue_floorPos_le (hx : x.m ≠ 0) : gridValue f (floorPos f x) ≤ x.m * 2 ^ x.e := by
  rw [magnitude_eq hx]
  exact le_add_of_nonneg_right (by positivity)
theorem lt_gridValue_next (hx : x.m ≠ 0) : x.m * 2 ^ x.e < gridValue f (floorPos f x + 1) := by
  have part : (unitRest f x : Rat) / unitDen f x < 1 :=
    (div_lt_one (by exact_mod_cast unitDen_pos f x)).2 (by exact_mod_cast unitRest_lt f x)
  rw [magnitude_eq (f := f) hx, (gridValue_floorPos hx).2]
  exact add_lt_add_right (mul_lt_of_lt_one_left (by positivity) part) _
/-- The position taken is the neighbour that the mode asks for. -/
theorem chosen_roundedPos {odd : Bool} (hx : x.m ≠ 0) :
    ChosenNeighbour rm.mode x.s (gridValue f (floorPos f x)) (gridValue f (floorPos f x + 1)) (x.m * 2 ^ x.e)
      (gridValue f (roundedPos f rm x odd)) := by
  have next := (gridValue_floorPos (f := f) hx).2
  have taken : gridValue f (roundedPos f rm x odd) =
      gridValue f (floorPos f x) + (roundsUp rm x.s odd (unitRest f x) (unitDen f x)).toNat * 2 ^ unitExp f x := by
    rw [roundedPos]
    cases roundsUp rm x.s odd (unitRest f x) (unitDen f x) with
    | false => simp
    | true => simp [next]
  rw [taken, next, magnitude_eq hx]
  exact chosen_of_roundsUp (by positivity) (unitRest_lt f x)
/-- A number with the magnitude of a position is at that position, and nothing is left above it. -/
theorem floorPos_of_eq {k : Nat} (hx : x.m ≠ 0) (h : gridValue f k = x.m * 2 ^ x.e) : floorPos f x = k ∧ unitRest f x = 0 := by
  have mono := gridValue_strictMono f
  have low : floorPos f x ≤ k := mono.le_iff_le.1 (h ▸ gridValue_floorPos_le hx)
  have high : k < floorPos f x + 1 := mono.lt_iff_lt.1 (h ▸ lt_gridValue_next hx)
  obtain rfl : floorPos f x = k := by omega
  rw [magnitude_eq hx, left_eq_add] at h
  have unit : (2 : Rat) ^ unitExp f x ≠ 0 := by positivity
  have parts : (unitDen f x : Rat) ≠ 0 := by exact_mod_cast (unitDen_pos f x).ne'
  have zero := (div_eq_zero_iff.1 ((mul_eq_zero.1 h).resolve_right unit)).resolve_right parts
  exact ⟨rfl, by exact_mod_cast zero⟩

/-- Settles O15: the number lies between two positions of the format's grid that follow each other, and rounding takes the one that the
mode asks for. -/
theorem roundingBrackets : Obligations.RoundingBrackets := by
  unfold Obligations.RoundingBrackets
  intro f hf x hx mode sat rnd
  have l := signedLayout_of_mem f hf
  refine ⟨fun _ quiet => ?brackets, fun code y hy e => ?exact⟩
  case brackets =>
    obtain ⟨odd, hc, code⟩ := l.roundTo_finite hx quiet
    obtain ⟨y, hy, val⟩ := l.value_withSign x.s hc
    refine ⟨y, by rw [code, hy], ?_⟩
    rw [val, ratOf_eq]
    exact l.rounds_of_chosen (gridValue_floorPos_le hx) (lt_gridValue_next hx).le (chosen_roundedPos (rm := ⟨mode, rnd⟩) hx)
  case exact =>
    obtain ⟨s, k, hk, val⟩ := l.value_on_grid hy
    have mag : gridValue f k = x.m * 2 ^ x.e := by
      have abs := congrArg (|·|) e
      simp only [val, ratOf_eq x, abs_signedMag] at abs
      rwa [abs_of_nonneg (gridValue_nonneg f k), abs_of_nonneg (by positivity)] at abs
    obtain ⟨rfl, left⟩ := floorPos_of_eq hx mag
    obtain ⟨z, hz, valz⟩ := l.value_withSign x.s hk
    rw [l.roundTo_exact hx left hk]
    exact ⟨z, rfl, hz, by rw [valz, ratOf_eq x, mag]⟩

end Sys2Proof.Spec
end

section
/-! SUPPORT. Elements in their range, and operations that agree on them (R45, R47, R92). -/

namespace Sys2Proof.Spec

open Sys2Proof.Machine

variable {s s' : State} {f : FA} {i : Instr} {n : Nat} {rounds late : Bool} {ty : BitVec 4}

/-! ## Literals and sources are elements of their type (R47) -/

theorem withSign_lt {g : Fmt} {mag : Nat} (b : Bool) (hw : 0 < g.w) (h : mag < 2 ^ (g.w - 1)) : withSign g b mag < 2 ^ g.w := by
  have double : 2 ^ g.w = 2 * 2 ^ (g.w - 1) := by rw [← pow_succ', Nat.sub_add_cancel hw]
  unfold withSign
  split <;> omega
/-- A format whose infinity stands right above its largest number overflows to a code of its width. -/
theorem overflowCode_lt {g : Fmt} {mode : Nat} (b : Bool) (l : SignedLayout g) (inf : g.inf = some (g.maxc + 1))
    (top : g.maxc + 1 < 2 ^ (g.w - 1)) : (overflowCode g mode false b).code < 2 ^ g.w := by
  have max := withSign_lt b l.width l.maxc
  have above := withSign_lt b l.width top
  simp only [overflowCode, inf, Bool.false_eq_true, if_false]
  split_ifs <;> assumption
theorem roundTo_lt {g : Fmt} {rm : Rm} {x : Dy} (l : SignedLayout g) (inf : g.inf = some (g.maxc + 1))
    (top : g.maxc + 1 < 2 ^ (g.w - 1)) : (roundTo g rm false x).code < 2 ^ g.w := by
  by_cases hx : x.m = 0
  · rw [roundTo, if_pos hx, l.zeroCode_eq]
    exact withSign_lt _ l.width (by positivity)
  · obtain ⟨odd, tiny, e⟩ := l.roundTo_eq (rm := rm) (sat := false) hx
    rw [e]
    split
    · exact overflowCode_lt _ l inf top
    · next h => exact withSign_lt _ l.width (lt_of_le_of_lt (Nat.le_of_not_lt h) l.maxc)

/-- A literal's code is that of a number where it is not that of a NaN. -/
theorem e4m3_number {c : BitVec 8} (h : c.toNat % 128 ≠ 0x7F) : ∃ d, decodeVal e4m3 c.toNat = .fin d := by
  refine ⟨_, (signedLayout_of_mem e4m3 (by simp [formats])).decodeVal_number (code := c.toNat) ?_⟩
  have hc := c.isLt
  show c.toNat % 2 ^ 8 % 2 ^ 7 ≤ 0x7E
  omega
theorem convVal_e4m3_lt {g : Fmt} (hg : g ∈ formats) (inf : g.inf = some (g.maxc + 1)) (top : g.maxc + 1 < 2 ^ (g.w - 1)) {c : BitVec 8}
    (h : c.toNat % 128 ≠ 0x7F) : (convVal g ⟨0, 0⟩ false (decodeVal e4m3 c.toNat)).code < 2 ^ g.w := by
  obtain ⟨d, hd⟩ := e4m3_number h
  rw [hd]
  exact roundTo_lt (signedLayout_of_mem g hg) inf top
/-- Only a literal of f32, bf16 or f16 has a code of its own for NaN. -/
theorem litElem_eq {ty : BitVec 4} (h : ty ∉ ([8, 9, 10] : List (BitVec 4))) (c : BitVec 8) : litElem ty c = litVal ty c := by
  have codes : ty.toNat ≠ 8 ∧ ty.toNat ≠ 9 ∧ ty.toNat ≠ 10 := by
    revert ty
    decide
  obtain ⟨h8, h9, h10⟩ := codes
  simp only [litElem, ite_self]
theorem litElem_lt (ty : BitVec 4) (c : BitVec 8) : litElem ty c < 2 ^ tyWidth ty := by
  by_cases h : ty ∈ ([8, 9, 10] : List (BitVec 4))
  · by_cases nan : c.toNat % 128 = 0x7F
    · fin_cases h <;> cases sign : nbit c.toNat 7 <;> simp only [litElem, nan, if_true, BitVec.reduceToNat, sign] <;> decide
    · fin_cases h <;> simp only [litElem, litVal, nan, if_false, BitVec.reduceToNat, Nat.lt_irrefl, Nat.reduceLT]
      · exact convVal_e4m3_lt (g := f32) (by simp [formats]) rfl (by decide) nan
      · exact convVal_e4m3_lt (g := bf16) (by simp [formats]) rfl (by decide) nan
      · exact convVal_e4m3_lt (g := f16) (by simp [formats]) rfl (by decide) nan
  · have hc := c.isLt
    rw [litElem_eq h]
    have kinds : ty.toNat < 8 ∨ ty ∈ ([11, 12, 13, 14, 15] : List (BitVec 4)) := by
      revert ty
      decide
    rcases kinds with k | k
    · rw [litVal, if_pos k]
      exact wrapN_lt _ _
    · fin_cases k <;> simp [litVal, tyWidth] <;> omega

theorem readElem_lt {a : Src} {x : Nat} (h : Gives (readElem ty a) s x s') : x < 2 ^ tyWidth ty := by
  unfold Gives readElem at h
  split at h
  · cases h
    exact litElem_lt _ _
  · obtain ⟨d, s1, -, h⟩ := bind_eq_ok h
    cases h
    exact Nat.mod_lt _ (Nat.two_pow_pos _)
theorem el_toElems (k w x : Nat) {j : Nat} (h : j < k) : el (toElems k w x) j = elemOf x w j := by
  simp [el, toElems, h]
theorem el_lt {l : List Nat} {b : Nat} (h : ∀ x ∈ l, x < b) (hb : 0 < b) (j : Nat) : el l j < b := by
  rw [el]
  cases e : l[j]? with
  | none => exact hb
  | some x => exact h x (List.mem_of_getElem? e)
theorem readElems_lt {k : Nat} {a : Src} {l : List Nat} (h : Gives (readElems ty k a) s l s') (j : Nat) : el l j < 2 ^ tyWidth ty := by
  refine el_lt ?_ (Nat.two_pow_pos _) j
  unfold Gives readElems at h
  split at h
  · obtain ⟨d, s1, -, h⟩ := bind_eq_ok h
    cases h
    simp only [toElems, List.mem_map]
    rintro x ⟨j, -, rfl⟩
    exact Nat.mod_lt _ (Nat.two_pow_pos _)
  · obtain ⟨d, s1, hd, h⟩ := bind_eq_ok h
    cases h
    intro x hx
    rw [List.eq_of_mem_replicate hx]
    exact readElem_lt hd
/-- A source that the instruction does not have counts as zeros. -/
theorem read_if_lt {p : Prop} [Decidable p] {m : M Nat} {x b : Nat} (hm : Gives m s x s' → x < b) (hb : 0 < b)
    (h : if p then Gives m s x s' else x = 0 ∧ s' = s) : x < b := by
  by_cases hp : p
  · rw [if_pos hp] at h
    exact hm h
  · rw [if_neg hp] at h
    rwa [h.1]
theorem reads_if_lt {p : Prop} [Decidable p] {m : M (List Nat)} {l : List Nat} {b : Nat} (hm : Gives m s l s' → ∀ j, el l j < b) (hb : 0 < b)
    (h : if p then Gives m s l s' else l = [] ∧ s' = s) (j : Nat) : el l j < b := by
  by_cases hp : p
  · rw [if_pos hp] at h
    exact hm h j
  · rw [if_neg hp] at h
    rwa [h.1]
theorem ScalarSources.lt {a b c : Nat} (h : ScalarSources f n s a b c s') :
    a < 2 ^ tyWidth f.ty ∧ b < 2 ^ tyWidth f.ty ∧ c < 2 ^ tyWidth f.ty := by
  obtain ⟨s1, s2, ha, hb, hc⟩ := h
  have pos := Nat.two_pow_pos (tyWidth f.ty)
  exact ⟨readElem_lt ha, read_if_lt readElem_lt pos hb, read_if_lt readElem_lt pos hc⟩
theorem VectorSources.lt {a b c : List Nat} (h : VectorSources f n s a b c s') (j : Nat) :
    el a j < 2 ^ tyWidth f.ty ∧ el b j < 2 ^ tyWidth f.ty ∧ el c j < 2 ^ tyWidth f.ty := by
  obtain ⟨s1, s2, ha, hb, hc⟩ := h
  have pos := Nat.two_pow_pos (tyWidth f.ty)
  exact ⟨readElems_lt ha j, reads_if_lt readElems_lt pos hb j, reads_if_lt readElems_lt pos hc j⟩

/-! ## Operations that agree on the elements of a type -/

/-- Two operations give every three elements of the type the same bits of its width and the same flags. -/
def SameOn (ty : BitVec 4) (op op' : Op) : Prop := ∀ c j x y z, x < 2 ^ tyWidth ty → y < 2 ^ tyWidth ty → z < 2 ^ tyWidth ty →
  (op c j x y z).1 % 2 ^ tyWidth ty = (op' c j x y z).1 % 2 ^ tyWidth ty ∧ (op c j x y z).2 = (op' c j x y z).2

theorem widen_mod (ty : BitVec 4) (x : Nat) : widen ty (x % 2 ^ tyWidth ty) = widen ty x := by
  simp only [widen, toSigned, Nat.mod_mod]
/-- The flags that the enabled elements raise are all that is asked of the operation there. -/
theorem elementFlags_congr {m : BitVec 16} {w k : Nat} {o o' : Nat → Out} (h : ∀ j, (o j).2 = (o' j).2) :
    elementFlags m w k o = elementFlags m w k o' := by
  simp only [elementFlags, h]

/-- Only the bits of the type's width and the flags of an operation reach the destination. -/
theorem Elementwise.congr {op op' : Op} (e : Elementwise i f n rounds op) (h : SameOn f.ty op op') :
    Elementwise i f n rounds op' := by
  obtain ⟨scalar, vector⟩ := e
  constructor
  · intro hd s s' a b c al on fr src md _ q
    obtain ⟨ha, hb, hc⟩ := src.lt
    obtain ⟨code, fl⟩ := h (here s).csr 0 a b c ha hb hc
    rw [← fl] at q
    rw [scalar hd s s' a b c al on fr src md trivial q]
    simp only [fl, ← widen_mod f.ty (op _ _ _ _ _).1, code, widen_mod]
  · intro hd s s' a b c m al ln fr src md _ w o fl q
    have same (j : Nat) := h (here s).csr j _ _ _ (src.lt j).1 (src.lt j).2.1 (src.lt j).2.2
    have flags : elementFlags m w (512 / w) (fun j => op (here s).csr j (el a j) (el b j) (el c j)) = fl :=
      elementFlags_congr fun j => (same j).2
    obtain ⟨d, elems, run⟩ := vector hd s s' a b c m al ln fr src md trivial (flags ▸ q)
    refine ⟨d, fun j hj he => ?_, ?_⟩
    · rw [elems j hj he, (same j).1]
    · rw [run, ← flags]
end Sys2Proof.Spec
end

section
/-! PROOF. Logic, shifts, counts, fields, extensions, moves and halving sums (R96, R98-R100, R102; O8). -/

namespace Sys2Proof.Spec

open Sys2Proof.Machine

variable {f : FA} {i : Instr} {n : Nat} {late : Bool}

/-- An operation on elements as bit vectors: what it makes of three bit vectors is all that counts. -/
theorem elementwise_bits {op : ElemOp} {g : (w : Nat) → BitVec w → BitVec w → BitVec w → BitVec w}
    (h : ∀ s, exec i s = issue i (alu f n false false late noCheck op) s)
    (code : ∀ c j (x y z : BitVec (tyWidth f.ty)),
      (op c j x.toNat y.toNat z.toNat).code % 2 ^ tyWidth f.ty = (g (tyWidth f.ty) x y z).toNat)
    (quiet : ∀ c j x y z, (op c j x y z).fl = 0) : Elementwise i f n false (bitwise f g) := by
  refine (elementwise_of_alu h).congr fun c j x y z hx hy hz => ⟨?_, quiet c j x y z⟩
  have e := code c j (BitVec.ofNat _ x) (BitVec.ofNat _ y) (BitVec.ofNat _ z)
  simp only [BitVec.toNat_ofNat, Nat.mod_eq_of_lt hx, Nat.mod_eq_of_lt hy, Nat.mod_eq_of_lt hz] at e
  rw [outOf, e, bitwise, Nat.mod_eq_of_lt (BitVec.isLt _)]
/-- The same for the operations that the model narrows to the width. -/
theorem elementwise_bitAlu {op : Nat → Nat → Nat → Nat} {g : (w : Nat) → BitVec w → BitVec w → BitVec w → BitVec w}
    (h : ∀ s, exec i s = issue i (bitAlu f n op) s)
    (code : ∀ x y z : BitVec (tyWidth f.ty),
      op (tyWidth f.ty) x.toNat y.toNat % 2 ^ tyWidth f.ty = (g (tyWidth f.ty) x y z).toNat) :
    Elementwise i f n false (bitwise f g) :=
  elementwise_bits h (fun _ _ x y z => (Nat.mod_mod _ _).trans (code x y z)) fun _ _ _ _ _ => rfl

/-! ## The model's bit functions on bit vectors -/

section
variable {w : Nat} (x y z : BitVec w)

theorem mod_toNat : x.toNat % 2 ^ w = x.toNat := Nat.mod_eq_of_lt x.isLt
theorem ofNat_toNat_self : BitVec.ofNat w x.toNat = x := by simp
theorem shrN_eq : (if y.toNat < w then x.toNat / 2 ^ y.toNat else 0) % 2 ^ w = (x >>> y.toNat).toNat := by
  rw [BitVec.toNat_ushiftRight, Nat.shiftRight_eq_div_pow]
  split
  · exact Nat.mod_eq_of_lt (Nat.lt_of_le_of_lt (Nat.div_le_self _ _) x.isLt)
  · next h =>
    rw [Nat.zero_mod, Nat.div_eq_of_lt]
    exact x.isLt.trans_le (Nat.pow_le_pow_right two_pos (Nat.le_of_not_lt h))

/-- A shift by the width less one leaves the sign, and so does every longer one. -/
theorem toInt_shift_stays {k : Nat} (h : w ≤ k) : x.toInt / 2 ^ (w - 1) = x.toInt / 2 ^ k := by
  have lo := x.le_toInt
  have hi := x.toInt_lt
  have longer : (2 : Int) ^ (w - 1) ≤ 2 ^ k := pow_le_pow_right₀ (by norm_num) (by omega)
  have pos : (0 : Int) < 2 ^ (w - 1) := by positivity
  generalize (2 : Int) ^ (w - 1) = p at *
  generalize (2 : Int) ^ k = q at *
  rcases Int.lt_or_le x.toInt 0 with neg | nonneg
  · rw [Int.ediv_eq_neg_one_of_neg_of_le neg (by omega), Int.ediv_eq_neg_one_of_neg_of_le neg (by omega)]
  · rw [Int.ediv_eq_zero_of_lt nonneg hi, Int.ediv_eq_zero_of_lt nonneg (by omega)]
theorem sraN_eq : sraN w x.toNat y.toNat % 2 ^ w = (x.sshiftRight y.toNat).toNat := by
  have shift : sraN w x.toNat y.toNat = (BitVec.ofInt w (x.toInt / 2 ^ y.toNat)).toNat := by
    simp only [sraN, wrapN_eq, toSigned_eq, ofNat_toNat_self]
    split
    · rfl
    · next h => rw [toInt_shift_stays x (Nat.le_of_not_lt h)]
  rw [shift, mod_toNat, BitVec.sshiftRight, Int.shiftRight_eq_div_pow]
  push_cast
  rfl
theorem rolN_eq : rolN w x.toNat y.toNat % 2 ^ w = (x.rotateLeft y.toNat).toNat := by
  rcases Nat.eq_zero_or_pos w with rfl | pos
  · simp only [pow_zero, Nat.mod_one, BitVec.toNat_of_zero_length]
  · have hk := Nat.mod_lt y.toNat pos
    have e : rolN w x.toNat y.toNat = (x.rotateLeft y.toNat).toNat := by
      rw [BitVec.toNat_rotateLeft, rolN, Nat.shiftLeft_eq, Nat.shiftRight_eq_div_pow]
      generalize y.toNat % w = k at *
      have high : x.toNat * 2 ^ k % 2 ^ w = 2 ^ k * (x.toNat % 2 ^ (w - k)) := by
        rw [Nat.mul_comm, show 2 ^ w = 2 ^ k * 2 ^ (w - k) by rw [← pow_add]; congr 1; omega, Nat.mul_mod_mul_left]
      have low : x.toNat / 2 ^ (w - k) < 2 ^ k := by
        rw [Nat.div_lt_iff_lt_mul (by positivity), ← pow_add, show k + (w - k) = w by omega]
        exact x.isLt
      rw [high, Nat.two_pow_add_eq_or_of_lt low]
    rw [e, mod_toNat]

/-- The first place at which a test fails is how many places it holds from the bottom. -/
theorem takeWhile_range_length {p : Nat → Bool} {n k : Nat} (hk : k ≤ n) (holds : ∀ i < k, p i = true) (fails : k < n → p k = false) :
    ((List.range n).takeWhile p).length = k := by
  rcases Nat.lt_or_eq_of_le hk with hk | rfl
  · have first : (List.range n).findIdx (fun i => !p i) = k := by
      rw [List.findIdx_eq (by simpa using hk)]
      simp only [List.getElem_range, fails hk, Bool.not_false, true_and]
      exact fun j hj => by rw [holds j hj, Bool.not_true]
    rw [List.takeWhile_eq_take_findIdx_not, first, List.length_take, List.length_range, Nat.min_eq_left hk.le]
  · rw [List.takeWhile_eq_self_iff.2 fun i hi => holds i (List.mem_range.1 hi), List.length_range]
theorem clzN_eq : clzN w x.toNat = leadingZeros w x := by
  rw [clzN, leadingZeros]
  have msb {i : Nat} (hi : i < w) : x.getMsbD i = x.toNat.testBit (w - 1 - i) := by
    simp only [BitVec.getMsbD, hi, decide_true, Bool.true_and, BitVec.getLsbD]
  by_cases h : x.toNat = 0
  · rw [if_pos h, takeWhile_range_length le_rfl (fun i hi => ?_) fun h => absurd h (lt_irrefl _)]
    rw [msb hi, h, Nat.zero_testBit, Bool.not_false]
  · have top : x.toNat.log2 < w := (Nat.log2_lt h).2 x.isLt
    rw [if_neg h, takeWhile_range_length (k := w - 1 - x.toNat.log2) (by omega) (fun i hi => ?_) fun hk => ?_]
    · have above : x.toNat < 2 ^ (w - 1 - i) := Nat.lt_log2_self.trans_le (Nat.pow_le_pow_right two_pos (by omega))
      rw [msb (by omega), Nat.testBit_lt_two_pow above, Bool.not_false]
    · rw [msb hk, show w - 1 - (w - 1 - x.toNat.log2) = x.toNat.log2 by omega, Nat.testBit_log2 h, Bool.not_true]
theorem ctzN_eq : ctzN w x.toNat = trailingZeros w x := by
  rw [ctzN, trailingZeros, show nbit x.toNat = fun i => x.getLsbD i from funext (nbit_toNat x)]
  cases e : (List.range w).find? fun i => x.getLsbD i with
  | none => exact (takeWhile_range_length le_rfl (List.find?_range_eq_none.1 e) fun h => absurd h (lt_irrefl _)).symm
  | some k =>
    obtain ⟨set, hk, low⟩ := List.find?_range_eq_some.1 e
    exact (takeWhile_range_length (List.mem_range.1 hk).le low fun _ => by rw [set, Bool.not_true]).symm
theorem popN_eq : popN w x.toNat = onesOf w x := by
  rw [popN, onesOf, show nbit x.toNat = fun i => x.getLsbD i from funext (nbit_toNat x)]

/-- Bit j of a number whose bits are given. -/
theorem testBit_ofBits (p : Nat → Bool) (n j : Nat) :
    (ofElems 1 ((List.range n).map fun i => if p i then 1 else 0)).testBit j = (decide (j < n) && p j) := by
  by_cases h : j < n
  · have e := elemOf_ofElems 1 ((List.range n).map fun i => if p i then 1 else 0) j (by simpa using h)
    rw [elemOf, Nat.one_mul, List.getElem_map, List.getElem_range] at e
    rw [pow_one] at e
    rw [Nat.testBit_eq_decide_div_mod_eq, e]
    cases p j <;> simp [h]
  · have lt := ofElems_lt 1 ((List.range n).map fun i => if p i then 1 else 0)
    rw [Nat.testBit_lt_two_pow (lt.trans_le (Nat.pow_le_pow_right two_pos (by simpa using Nat.le_of_not_lt h)))]
    simp [h]
theorem brevN_eq : BitVec.ofNat w (brevN w x.toNat) = x.reverse := by
  refine BitVec.eq_of_getLsbD_eq fun j hj => ?_
  rw [BitVec.getLsbD_reverse, BitVec.getLsbD_ofNat, brevN]
  simp only [nbit_toNat]
  rw [testBit_ofBits fun i => x.getLsbD (w - 1 - i)]
  simp [BitVec.getMsbD, hj]
/-- Two's complement of a field of bits, extended. -/
theorem wrapN_toSigned (m v : Nat) : wrapN w (toSigned m v) = ((BitVec.ofNat m v).signExtend w).toNat := by
  rw [wrapN_eq, toSigned_eq, BitVec.signExtend]
theorem bextN_eq (sgn : Bool) : bextN sgn w x.toNat y.toNat % 2 ^ w =
    (if sgn then (x.extractLsb' (fieldPos w y) (fieldLen w y)).signExtend w
      else (x.extractLsb' (fieldPos w y) (fieldLen w y)).setWidth w).toNat := by
  have field : nfld x.toNat (fieldPos w y) (fieldLen w y) = (x.extractLsb' (fieldPos w y) (fieldLen w y)).toNat := by
    rw [nfld, BitVec.extractLsb'_toNat, Nat.shiftRight_eq_div_pow]
  have e : bextN sgn w x.toNat y.toNat = if sgn then wrapN w (toSigned (fieldLen w y) (nfld x.toNat (fieldPos w y) (fieldLen w y)))
      else nfld x.toNat (fieldPos w y) (fieldLen w y) := by
    have len : fieldLen w y = (fieldOfDesc w y.toNat).2 - (fieldOfDesc w y.toNat).1 := rfl
    rw [len]
    by_cases none : (fieldOfDesc w y.toNat).2 ≤ (fieldOfDesc w y.toNat).1
    · rw [Nat.sub_eq_zero_of_le none]
      simp [bextN, none, nfld, toSigned, wrapN, Nat.mod_one]
    · simp only [bextN, none, if_false]
      rfl
  rw [e, field, wrapN_toSigned, ofNat_toNat_self]
  cases sgn
  · exact (BitVec.toNat_setWidth ..).symm
  · exact mod_toNat _

theorem getLsbD_fieldMask (pos len j : Nat) : (fieldMask w pos len).getLsbD j = (decide (j < w) && decide (pos ≤ j) && decide (j < pos + len)) := by
  rw [fieldMask, BitVec.getLsbD_ofNat, Nat.testBit_mul_two_pow, Nat.testBit_two_pow_sub_one, Bool.and_assoc]
  congr 1
  by_cases h : pos ≤ j <;> simp [h]
  omega
/-- A number with a field of another one put in place of its own. -/
theorem testBit_fieldPut (a b pos len j : Nat) : (a % 2 ^ pos + b % 2 ^ len * 2 ^ pos + a / 2 ^ (pos + len) * 2 ^ (pos + len)).testBit j =
    if pos ≤ j ∧ j < pos + len then b.testBit (j - pos) else a.testBit j := by
  have nested : a % 2 ^ pos + b % 2 ^ len * 2 ^ pos + a / 2 ^ (pos + len) * 2 ^ (pos + len) =
      2 ^ pos * (2 ^ len * (a / 2 ^ (pos + len)) + b % 2 ^ len) + a % 2 ^ pos := by
    rw [pow_add]
    ring
  rw [nested, Nat.testBit_two_pow_mul_add _ (Nat.mod_lt _ (by positivity)), Nat.testBit_two_pow_mul_add _ (Nat.mod_lt _ (by positivity)),
    Nat.testBit_mod_two_pow, Nat.testBit_mod_two_pow, Nat.testBit_div_two_pow]
  by_cases low : j < pos
  · simp [low]
  · by_cases high : j < pos + len
    · simp [low, high, show j - pos < len by omega, show pos ≤ j by omega]
    · simp [low, high, show ¬ j - pos < len by omega, show j - pos - len + (pos + len) = j by omega]
theorem binsN_eq : BitVec.ofNat w (binsN w x.toNat y.toNat z.toNat) =
    ((x &&& ~~~ fieldMask w (fieldPos w z) (fieldLen w z)) |||
      (y <<< fieldPos w z &&& fieldMask w (fieldPos w z) (fieldLen w z))) := by
  refine BitVec.eq_of_getLsbD_eq fun j hj => ?_
  simp only [BitVec.getLsbD_or, BitVec.getLsbD_and, BitVec.getLsbD_not, BitVec.getLsbD_shiftLeft, getLsbD_fieldMask, BitVec.getLsbD_ofNat,
    hj, decide_true, Bool.true_and]
  have fields : fieldOfDesc w z.toNat = (fieldPos w z, Nat.min (fieldPos w z + z.toNat / 256 % 256) w) := rfl
  rw [fieldLen, binsN, fields]
  generalize fieldPos w z = pos
  generalize he : Nat.min (pos + z.toNat / 256 % 256) w = e
  dsimp only
  by_cases none : e ≤ pos
  · have out : (decide (pos ≤ j) && decide (j < pos + (e - pos))) = false := by
      rw [← Bool.decide_and, decide_eq_false]
      omega
    rw [if_pos none, out]
    simp [BitVec.getLsbD]
  · have whole : pos + (e - pos) = e := by omega
    rw [if_neg none, ← whole, Nat.add_sub_cancel_left, testBit_fieldPut]
    by_cases h : pos ≤ j ∧ j < pos + (e - pos)
    · simp [h, BitVec.getLsbD]
    · rw [if_neg h, ← Bool.decide_and, decide_eq_false h]
      simp [BitVec.getLsbD]
end

/-! ## Saturating shifts and halving sums (R98, R102) -/

theorem intOf_eq {ty : BitVec 4} {x : Nat} (h : x < 2 ^ tyWidth ty) :
    (if tySigned ty then toSigned (tyWidth ty) x else (x : Int)) = intOf ty x := by
  simp only [intOf, toSigned_eq, BitVec.toNat_ofNat, Nat.mod_eq_of_lt h]
theorem wrapN_narrow (ty : BitVec 4) (z : Int) : (wrapN (tyWidth ty) z, (0 : Flags)) = narrow ty false z := by
  rw [wrapN_eq, narrow, if_pos rfl]
theorem intMin_nonpos (ty : BitVec 4) : intMin ty ≤ 0 := by
  unfold intMin
  split
  · exact neg_nonpos.2 (by positivity)
  · exact le_rfl
theorem intMax_nonneg (ty : BitVec 4) : 0 ≤ intMax ty := by
  have half : (1 : Int) ≤ 2 ^ (tyWidth ty - 1) := one_le_pow₀ (by norm_num)
  have whole : (1 : Int) ≤ 2 ^ tyWidth ty := one_le_pow₀ (by norm_num)
  unfold intMax
  split <;> omega
theorem narrow_of_lt {ty : BitVec 4} {z z' : Int} (h : z < intMin ty) (h' : z' < intMin ty) : narrow ty true z = narrow ty true z' := by
  simp only [narrow, h, h', if_true, Bool.true_eq_false, if_false]
theorem narrow_of_gt {ty : BitVec 4} {z z' : Int} (h : intMax ty < z) (h' : intMax ty < z') : narrow ty true z = narrow ty true z' := by
  have lo := intMin_nonpos ty
  have hi := intMax_nonneg ty
  simp only [narrow, h, h', show ¬ z < intMin ty by omega, show ¬ z' < intMin ty by omega, if_true, Bool.true_eq_false, if_false]
/-- A number that is not zero leaves the range of its type as it is shifted by the width. -/
theorem narrow_shift (ty : BitVec 4) (x k : Nat) : narrow ty true (intOf ty x * 2 ^ min k (tyWidth ty)) = narrow ty true (intOf ty x * 2 ^ k) := by
  rcases Nat.le_total k (tyWidth ty) with h | h
  · rw [Nat.min_eq_left h]
  have unsigned (hs : tySigned ty = false) : 0 ≤ intOf ty x := by
    rw [intOf, hs]
    exact Int.natCast_nonneg _
  have lowest (hn : intOf ty x < 0) : -(2 ^ tyWidth ty) < intMin ty := by
    rw [intMin, if_pos (by by_contra hs; exact absurd (unsigned (by simpa using hs)) (by omega))]
    exact neg_lt_neg (pow_lt_pow_right₀ (by norm_num) (by have := tyWidth_pos ty; omega))
  have highest : intMax ty < 2 ^ tyWidth ty := by
    have : (2 : Int) ^ (tyWidth ty - 1) ≤ 2 ^ tyWidth ty := pow_le_pow_right₀ (by norm_num) (by omega)
    unfold intMax
    split <;> omega
  have longer : (2 : Int) ^ tyWidth ty ≤ 2 ^ k := pow_le_pow_right₀ (by norm_num) h
  have pos : (0 : Int) < 2 ^ tyWidth ty := by positivity
  rw [Nat.min_eq_right h]
  generalize (2 : Int) ^ tyWidth ty = p at *
  generalize (2 : Int) ^ k = q at *
  rcases lt_trichotomy (intOf ty x) 0 with hn | hz | hp
  · exact narrow_of_lt (by nlinarith [lowest hn]) (by nlinarith [lowest hn])
  · rw [hz, zero_mul, zero_mul]
  · exact narrow_of_gt (by nlinarith) (by nlinarith)

theorem outOf_shlOp (f : FA) : SameOn f.ty (outOf (shlOp f)) (shifted f) := by
  intro c j x y z hx hy hz
  cases hs : f.sat with
  | false =>
    have shift : (if y < tyWidth f.ty then x * 2 ^ y % 2 ^ tyWidth f.ty else 0) = (BitVec.ofNat (tyWidth f.ty) x <<< y).toNat := by
      rw [BitVec.toNat_shiftLeft, BitVec.toNat_ofNat, Nat.mod_eq_of_lt hx, Nat.shiftLeft_eq]
      split
      · rfl
      · next h => exact (Nat.mod_eq_zero_of_dvd (Dvd.dvd.mul_left (pow_dvd_pow 2 (Nat.le_of_not_lt h)) x)).symm
    simp only [outOf, shlOp, shifted, hs, Bool.not_false, if_true, Bool.false_eq_true, if_false, shift, and_self]
  | true =>
    have e : outOf (shlOp f) c j x y z = shifted f c j x y z := by
      simp only [outOf, shlOp, shifted, hs, Bool.not_true, if_true, Bool.false_eq_true, if_false, fitInt_narrow, intOf_eq hx,
        ← narrow_shift f.ty x y]
    rw [e]
    exact ⟨rfl, rfl⟩
theorem outOf_haddOp (f : FA) (sub : Bool) : SameOn f.ty (outOf (haddOp f sub)) (halved f sub) := by
  intro c j x y z hx hy hz
  have e : outOf (haddOp f sub) c j x y z = halved f sub c j x y z := by
    simp only [outOf, haddOp, halved, intOf_eq hx, intOf_eq hy]
    split
    · exact fitInt_narrow _ _ _
    · exact wrapN_narrow _ _
    · exact wrapN_narrow _ _
  rw [e]
  exact ⟨rfl, rfl⟩

/-- Settles O8: each is the element-wise execution of its operation on bits, or of its shift or sum of integers. -/
theorem bitResults : Obligations.BitResults := by
  unfold Obligations.BitResults
  refine ⟨?rows, ?shl, ?sadd, ?ssub⟩
  case rows =>
    simp only [bitRows, List.forall_mem_cons]
    refine ⟨?and, ?or, ?xor, ?andn, ?orn, ?not, ?shr, ?sra, ?rol, ?mov, ?sel, ?clz, ?ctz, ?popc, ?brev, ?sext, ?zext, ?bext, ?bins,
      List.forall_mem_nil _⟩
    case and =>
      refine fun f => elementwise_bitAlu (fun s => rfl) fun x y z => ?_
      rw [← mod_toNat (x &&& y), BitVec.toNat_and]
      rfl
    case or =>
      refine fun f => elementwise_bitAlu (fun s => rfl) fun x y z => ?_
      rw [← mod_toNat (x ||| y), BitVec.toNat_or]
      rfl
    case xor =>
      refine fun f => elementwise_bitAlu (fun s => rfl) fun x y z => ?_
      rw [← mod_toNat (x ^^^ y), BitVec.toNat_xor]
      rfl
    case andn =>
      refine fun f => elementwise_bitAlu (fun s => rfl) fun x y z => ?_
      rw [← mod_toNat (x &&& ~~~ y), BitVec.toNat_and, notN_eq, ofNat_toNat_self]
      rfl
    case orn =>
      refine fun f => elementwise_bitAlu (fun s => rfl) fun x y z => ?_
      rw [← mod_toNat (x ||| ~~~ y), BitVec.toNat_or, notN_eq, ofNat_toNat_self]
      rfl
    case not =>
      refine fun f => elementwise_bitAlu (fun s => rfl) fun x y z => ?_
      rw [notN_eq, ofNat_toNat_self, mod_toNat]
    case shr => exact fun f => elementwise_bitAlu (fun s => rfl) fun x y z => shrN_eq x y
    case sra => exact fun f => elementwise_bitAlu (fun s => rfl) fun x y z => sraN_eq x y
    case rol => exact fun f => elementwise_bitAlu (fun s => rfl) fun x y z => rolN_eq x y
    case mov => exact fun f => elementwise_bitAlu (fun s => rfl) fun x y z => mod_toNat x
    case sel =>
      refine fun f => elementwise_bits (fun s => rfl) (fun c j x y z => ?_) fun _ _ _ _ _ => rfl
      have zero : z.toNat ≠ 0 ↔ z ≠ 0 := (BitVec.toNat_inj (y := 0#_)).not
      show (if z.toNat ≠ 0 then x.toNat else y.toNat) % _ = (if z ≠ 0 then x else y).toNat
      rw [if_congr zero rfl rfl, ← apply_ite BitVec.toNat, mod_toNat]
    case clz =>
      refine fun f => elementwise_bitAlu (fun s => rfl) fun x y z => ?_
      rw [clzN_eq, BitVec.toNat_ofNat]
    case ctz =>
      refine fun f => elementwise_bitAlu (fun s => rfl) fun x y z => ?_
      rw [ctzN_eq, BitVec.toNat_ofNat]
    case popc =>
      refine fun f => elementwise_bitAlu (fun s => rfl) fun x y z => ?_
      rw [popN_eq, BitVec.toNat_ofNat]
    case brev =>
      refine fun f => elementwise_bitAlu (fun s => rfl) fun x y z => ?_
      rw [← brevN_eq, BitVec.toNat_ofNat]
    case sext =>
      refine fun f => elementwise_bitAlu (fun s => rfl) fun x y z => ?_
      rw [wrapN_toSigned, mod_toNat, BitVec.ofNat_toNat, extWidth]
    case zext =>
      refine fun f => elementwise_bitAlu (fun s => rfl) fun x y z => ?_
      rw [BitVec.toNat_setWidth, BitVec.toNat_setWidth, extWidth]
    case bext => exact fun f => elementwise_bitAlu (fun s => rfl) fun x y z => bextN_eq x y _
    case bins =>
      refine fun f => elementwise_bits (fun s => rfl) (fun c j x y z => ?_) fun _ _ _ _ _ => rfl
      rw [← BitVec.toNat_ofNat, binsN_eq]
  case shl => exact fun f => (elementwise_of_alu fun s => rfl).congr (outOf_shlOp f)
  case sadd => exact fun f => (elementwise_of_alu fun s => rfl).congr (outOf_haddOp f false)
  case ssub => exact fun f => (elementwise_of_alu fun s => rfl).congr (outOf_haddOp f true)

end Sys2Proof.Spec
end

section
/-! SUPPORT. Results that come later, and element-wise executions of long-latency producers (R57, R85, R92). -/

namespace Sys2Proof.Spec

open Sys2Proof.Machine

variable {s s' : State} {f : FA} {i : Instr} {n : Nat} {op : ElemOp} {chk : Check} {rounds ll late : Bool}

/-! ## Results on their way -/

theorem dstRef_scalar (d : BitVec 8) (s : State) : dstRef true d.toNat s = .ok (scalarRef (s.tile s.cur) d, s) := rfl
theorem dstRef_vector (d : BitVec 8) (s : State) : dstRef false d.toNat s = .ok (vectorRef (s.tile s.cur) d, s) := rfl
theorem sendResult_value (r : RegRef) (v : Vec) (fl : Flags) : sendResult r (.value v fl) = modT fun x => later x r v fl := by
  cases r <;> rfl

theorem ftrapZero_bind {α : Type} (k : Bool → M α) (s : State) :
    (ftrapZero >>= k) s = k ((s.tile s.cur).csr.ftrap.setWidth 7 == (0 : Flags)) s := rfl

/-- A long-latency producer's result, whether FTRAP is zero or not. -/
theorem finishG_deliver {d : BitVec 8} {v : Word} {fl : Flags} (q : fl &&& (s.tile s.cur).csr.ftrap.setWidth 7 = 0) :
    finishG true d v fl s = .ok (.on, s.modTile s.cur fun x => deliverScalar (s.tile s.cur).csr x d v fl) := by
  by_cases h : (s.tile s.cur).csr.ftrap.setWidth 7 = (0 : Flags)
  · rw [finishG, bind_ok (checkFp_quiet q)]
    simp only [Bool.true_and, ftrapZero_bind, h, beq_self_eq_true, if_true, bind_ok (dstRef_scalar d s), sendResult_value, deliverScalar]
    rfl
  · have now := finishG_now (d := d) (v := v) q
    rw [finishG, bind_ok (checkFp_quiet q)] at now ⊢
    simp only [Bool.true_and, ftrapZero_bind, beq_eq_false_iff_ne.2 h, Bool.false_eq_true, if_false, deliverScalar, h] at now ⊢
    exact now
theorem finishV_deliver {d : BitVec 8} {m l : BitVec 16} {v : Vec} {fl : Flags}
    (q : fl &&& (s.tile s.cur).csr.ftrap.setWidth 7 = 0) :
    finishV true d m v fl l s = .ok (.on, s.modTile s.cur fun x => deliverVector (s.tile s.cur).csr x d m v fl) := by
  by_cases h : (s.tile s.cur).csr.ftrap.setWidth 7 = (0 : Flags)
  · rw [finishV, bind_ok (checkFp_quiet q)]
    simp only [Bool.true_and, ftrapZero_bind, h, beq_self_eq_true, if_true, bind_ok (dstRef_vector d s), sendResult_value, deliverVector]
    rfl
  · have now := finishV_now (d := d) (m := m) (l := l) (v := v) q
    rw [finishV, bind_ok (checkFp_quiet q)] at now ⊢
    simp only [Bool.true_and, ftrapZero_bind, beq_eq_false_iff_ne.2 h, Bool.false_eq_true, if_false, deliverVector, h] at now ⊢
    exact now

/-! ## What follows the reading of the sources -/

/-- The part of `alu` that follows the reading of its sources, in a scalar and in a vector execution. -/
def scalarEnd (f : FA) (ll late : Bool) (chk : Check) (op : ElemOp) (a b c : Nat) : M Go := do
  chk 1 [a] [b]
  let r := op (← getT).csr 0 a b c
  if ll && !late then
    checkFp r.fl 1
    modT (·.raise r.fl)
    sendResult (← dstRef true f.dst.toNat) (.value ((widen f.ty r.code).setWidth 512) 0)
    pure .on
  else finishG ll f.dst (widen f.ty r.code) r.fl
def vectorEnd (f : FA) (ll late : Bool) (chk : Check) (op : ElemOp) (m : BitVec 16) (a b c : List Nat) : M Go := do
  chk m a b
  let t ← getT
  let e := mapElems t.csr.enabled m (tyWidth f.ty) (fun j => op t.csr j (el a j) (el b j) (el c j)) (512 / tyWidth f.ty) 0
  let d : Vec := BitVec.ofNat 512 (ofElems (tyWidth f.ty) e.codes)
  if ll && !late then
    checkFp e.fl e.lanes
    modT (·.raise e.fl)
    let old := if f.dst.toNat < 248 then t.regs.getV f.dst.toNat else 0
    sendResult (← dstRef false f.dst.toNat) (.value (mergeLanes m old d) 0)
    pure .on
  else finishV ll f.dst m d e.fl e.lanes

theorem alu_scalar_reads {a b c : Nat} (hd : f.dk = true) (on : On f.p s) (fr : Free true f.dst s)
    (src : ScalarSources f n s a b c s') (md : ModeOk rounds s) :
    alu f n rounds ll late chk op s = scalarEnd f ll late chk op a b c s' := by
  have k := src.kept
  obtain ⟨s1, s2, ha, hb, hc⟩ := src
  have md' : ModeOk rounds s' := by rwa [ModeOk, here, kept_csr k]
  rw [alu, if_pos hd, on.run, bind_ok fr, bind_ok ha]
  exact (bind_read_if hb _).trans ((bind_read_if hc _).trans (md'.run _))
theorem alu_vector_reads {a b c : List Nat} {m : BitVec 16} (hd : f.dk = false) (ln : Lanes f.p s m) (fr : Free false f.dst s m)
    (src : VectorSources f n s a b c s') (md : ModeOk rounds s) :
    alu f n rounds ll late chk op s = vectorEnd f ll late chk op m a b c s' := by
  have k := src.kept
  obtain ⟨s1, s2, ha, hb, hc⟩ := src
  have md' : ModeOk rounds s' := by rwa [ModeOk, here, kept_csr k]
  rw [alu, if_neg (by rw [hd]; decide), ln.run, bind_ok fr, bind_ok ha]
  exact (bind_read_if hb _).trans ((bind_read_if hc _).trans (md'.run _))

/-- An instruction whose meaning is the element-wise execution of a long-latency producer whose flags come with its result. -/
theorem elementwiseLater_of_alu (h : ∀ s, exec i s = issue i (alu f n rounds true true noCheck op) s) :
    ElementwiseLater i f n rounds (outOf op) := by
  constructor
  · intro hd s s' a b c al on fr src md _ q
    have csr := kept_csr src.kept
    rw [h]
    refine issue_done al src.kept.cur ((alu_scalar_reads hd on fr src md).trans ?_)
    rw [← csr, ← src.kept.cur]
    rw [Quiet, ← csr] at q
    exact finishG_deliver q
  · intro hd s s' a b c m al ln fr src md _ w o fl q
    have csr := kept_csr src.kept
    have flags : (mapElems (s'.tile s'.cur).csr.enabled m w (fun j => op (here s).csr j (el a j) (el b j) (el c j)) (512 / w) 0).fl = fl :=
      mapElems_flags _ _ _ _ _
    refine ⟨_, mapElems_elements (s'.tile s'.cur).csr.enabled m _, ?_⟩
    rw [h]
    refine issue_done al src.kept.cur ((alu_vector_reads hd ln fr src md).trans ?_)
    rw [← flags, ← csr, ← src.kept.cur]
    rw [Quiet, ← flags, ← csr] at q
    exact finishV_deliver q

end Sys2Proof.Spec
end

section
/-! PROOF. Division (R97; O9). -/

namespace Sys2Proof.Spec

open Sys2Proof.Machine

variable {s s' : State} {f : FA} {i : Instr} {g : Int → Int → Int} {m : BitVec 16} {a b : List Nat}

/-! ## The check of the divisors -/

/-- The lane that element j of a divisor counts in. -/
def divLane (f : FA) (j : Nat) : Nat := if f.dk then 0 else tyWidth f.ty * j / 32
/-- Element j is an enabled divisor of zero. -/
def ZeroDivisor (f : FA) (m : BitVec 16) (b : List Nat) (j : Nat) : Prop := j < b.length ∧ m.getLsbD (divLane f j) = true ∧ el b j = 0
/-- The lanes, as bits, in which `divZero` finds an enabled divisor of zero. -/
def zeroLanes (f : FA) (m : BitVec 16) (b : List Nat) : List Nat :=
  (b.zipIdx.filter fun e => e.1 == 0 && nbit m.toNat (divLane f e.2)).map fun e => 2 ^ divLane f e.2

theorem divZero_eq (f : FA) (m : BitVec 16) (a b : List Nat) : divZero f m a b =
    if (zeroLanes f m b).isEmpty then pure () else trap 0x08 (BitVec.ofNat 64 ((zeroLanes f m b).foldl Nat.lor 0 * 65536)) := rfl
theorem mem_zeroLanes {x : Nat} : x ∈ zeroLanes f m b ↔ ∃ j, ZeroDivisor f m b j ∧ 2 ^ divLane f j = x := by
  simp only [zeroLanes, ZeroDivisor, List.mem_map, List.mem_filter, Prod.exists, List.mk_mem_zipIdx_iff_getElem?, Bool.and_eq_true,
    beq_iff_eq, nbit_toNat]
  constructor
  · rintro ⟨y, j, ⟨hy, rfl, hm⟩, rfl⟩
    exact ⟨j, ⟨(List.getElem?_eq_some_iff.1 hy).1, hm, by rw [el, hy, Option.getD_some]⟩, rfl⟩
  · rintro ⟨j, ⟨hj, hm, hz⟩, rfl⟩
    exact ⟨el b j, j, ⟨by rw [el_eq_getElem hj, List.getElem?_eq_getElem hj], hz, hm⟩, rfl⟩
theorem divZero_ok (h : ∀ j, ¬ ZeroDivisor f m b j) : divZero f m a b = pure () := by
  have none : zeroLanes f m b = [] := List.eq_nil_iff_forall_not_mem.2 fun x hx => by
    obtain ⟨j, hj, -⟩ := mem_zeroLanes.1 hx
    exact h j hj
  rw [divZero_eq, none]
  rfl
theorem testBit_foldl_lor (l : List Nat) (x j : Nat) : (l.foldl Nat.lor x).testBit j = (x.testBit j || l.any (·.testBit j)) := by
  induction l generalizing x with
  | nil => simp
  | cons y r ih => rw [List.foldl_cons, ih, List.any_cons, ← Bool.or_assoc, show x.lor y = x ||| y from rfl, Nat.testBit_or]
/-- TADDR of DIVZERO: the lanes from bit 16 up. -/
def zeroTaddr (f : FA) (m : BitVec 16) (b : List Nat) : Word := BitVec.ofNat 64 ((zeroLanes f m b).foldl Nat.lor 0 * 65536)
theorem divZero_trap (h : ∃ j, ZeroDivisor f m b j) : divZero f m a b = trap 0x08 (zeroTaddr f m b) := by
  obtain ⟨j, hj⟩ := h
  have some : zeroLanes f m b ≠ [] := List.ne_nil_of_mem (mem_zeroLanes.2 ⟨j, hj, rfl⟩)
  rw [divZero_eq, if_neg (by simpa using some), zeroTaddr]
theorem getLsbD_zeroTaddr {i : Nat} (hi : i < 64) :
    (zeroTaddr f m b).getLsbD i = true ↔ 16 ≤ i ∧ ∃ j, ZeroDivisor f m b j ∧ divLane f j = i - 16 := by
  rw [zeroTaddr, BitVec.getLsbD_ofNat, show 65536 = 2 ^ 16 from rfl, Nat.testBit_mul_two_pow, testBit_foldl_lor]
  simp only [hi, decide_true, Bool.true_and, Nat.zero_testBit, Bool.false_or, Bool.and_eq_true, decide_eq_true_eq, List.any_eq_true,
    mem_zeroLanes]
  refine and_congr_right fun _ => ⟨?_, ?_⟩
  · rintro ⟨x, ⟨j, hj, rfl⟩, bit⟩
    exact ⟨j, hj, by simpa [Nat.testBit_two_pow] using bit⟩
  · rintro ⟨j, hj, e⟩
    exact ⟨_, ⟨j, hj, rfl⟩, by simp [e]⟩

/-! ## The divided result -/

theorem scalarEnd_division {x y : Nat} {op : ElemOp} (hy : y ≠ 0)
    (q : (op (s.tile s.cur).csr 0 x y 0).fl &&& (s.tile s.cur).csr.ftrap.setWidth 7 = 0) :
    scalarEnd f true false (divZero f) op x y 0 s = .ok (.on, s.modTile s.cur fun t =>
      later (t.raise (op (s.tile s.cur).csr 0 x y 0).fl) (scalarRef t f.dst)
        ((widen f.ty (op (s.tile s.cur).csr 0 x y 0).code).setWidth 512) 0) := by
  have ok : divZero f 1 [x] [y] = pure () := divZero_ok fun j ⟨hj, _, hz⟩ => by
    obtain rfl : j = 0 := by simpa using hj
    exact hy hz
  rw [scalarEnd, ok]
  simp only [pure_bind, getT_bind, Bool.not_false, Bool.and_self, if_true]
  rw [bind_ok (checkFp_quiet q)]
  simp only [modT_bind, bind_ok (dstRef_scalar _ _), sendResult_value]
  rw [State.modTile_cur, State.tile_modTile, State.modTile_modTile, pure_run]
  rfl
theorem vectorEnd_division {op : ElemOp} (hb : ∀ j, ¬ ZeroDivisor f m b j)
    (q : elementFlags m (tyWidth f.ty) (512 / tyWidth f.ty) (fun j => outOf op (s.tile s.cur).csr j (el a j) (el b j) (el [] j)) &&&
      (s.tile s.cur).csr.ftrap.setWidth 7 = 0) :
    ∃ d, Elements m (tyWidth f.ty) (512 / tyWidth f.ty) (fun j => outOf op (s.tile s.cur).csr j (el a j) (el b j) (el [] j)) d ∧
      vectorEnd f true false (divZero f) op m a b [] s = .ok (.on, s.modTile s.cur fun t =>
        later (t.raise (elementFlags m (tyWidth f.ty) (512 / tyWidth f.ty) fun j =>
          outOf op (s.tile s.cur).csr j (el a j) (el b j) (el [] j))) (vectorRef t f.dst) (mergeLanes m (oldVector t f.dst) d) 0) := by
  refine ⟨_, mapElems_elements (s.tile s.cur).csr.enabled m _, ?_⟩
  unfold outOf at q ⊢
  rw [← mapElems_flags (s.tile s.cur).csr.enabled] at q ⊢
  rw [vectorEnd, divZero_ok hb]
  simp only [pure_bind, getT_bind, Bool.not_false, Bool.and_self, if_true]
  rw [bind_ok (checkFp_quiet q)]
  simp only [modT_bind, bind_ok (dstRef_vector _ _), sendResult_value]
  rw [State.modTile_cur, State.tile_modTile, State.modTile_modTile, pure_run]
  rfl

/-! ## The statement -/

/-- A division whose divisors are not zero: its result is on its way. -/
theorem division_results (h : ∀ s, exec i s = issue i (divAlu f g) s) :
    ScalarResult i f 2 false (fun _ b => el b 0 ≠ 0) (exactly f g)
      (fun _ x o => later (x.raise o.2) (scalarRef x f.dst) ((widen f.ty o.1).setWidth 512) 0) ∧
    VectorResult i f 2 false
      (fun s b => ∀ j, j < b.length → Enabled (Pred.mask f.p (here s).regs) (tyWidth f.ty) j = true → el b j ≠ 0) (exactly f g)
      (fun _ x m d fl => later (x.raise fl) (vectorRef x f.dst) (mergeLanes m (oldVector x f.dst) d) 0) := by
  rw [← outOf_intOp]
  constructor
  · intro hd s s' a b c al on fr src md nz q
    have csr := kept_csr src.kept
    have k := src.kept.cur
    obtain ⟨s1, s2, ha, hb, rfl, rfl⟩ := id src
    rw [h]
    refine issue_done al k ((alu_scalar_reads hd on fr src md).trans ?_)
    rw [← csr, ← k]
    rw [Quiet, ← csr] at q
    exact scalarEnd_division nz q
  · intro hd s s' a b c m al ln fr src md nz w o fl q
    have csr := kept_csr src.kept
    have k := src.kept.cur
    obtain ⟨s1, s2, ha, hb, rfl, rfl⟩ := id src
    have good (j : Nat) : ¬ ZeroDivisor f m b j := fun ⟨hj, hm, hz⟩ => by
      obtain ⟨rfl, -⟩ := ln
      rw [divLane, if_neg (by rw [hd]; decide)] at hm
      exact nz j hj hm hz
    obtain ⟨d, elems, run⟩ := vectorEnd_division (s := s') (a := a) (op := intOp f g) good (by rwa [csr])
    rw [csr] at elems run
    rw [k] at run
    refine ⟨d, elems, ?_⟩
    rw [h]
    exact issue_done al k ((alu_vector_reads hd ln fr src md).trans run)

/-- An enabled divisor of zero stops the instruction as it issues. -/
theorem exec_division_scalar {x : Nat} (h : ∀ s, exec i s = issue i (divAlu f g) s) (hd : f.dk = true) (al : Alone s) (on : On f.p s)
    (fr : Free true f.dst s) (src : ScalarSources f 2 s x 0 0 s') : exec i s = .next (takeTrap s s.cur 0x08 0x10000) := by
  have lanes : zeroTaddr f 1 [0] = 0x10000 := by
    simp [zeroTaddr, zeroLanes, divLane, hd, nbit]
  have zero : ∃ j, ZeroDivisor f 1 [0] j := ⟨0, by decide, by rw [divLane, if_pos hd]; decide, rfl⟩
  rw [h, ← lanes]
  refine issue_trap al.solo ((alu_scalar_reads hd on fr src fun h => absurd h Bool.false_ne_true).trans ?_)
  rw [scalarEnd, divZero_trap zero, trap_bind]
theorem exec_division_vector (h : ∀ s, exec i s = issue i (divAlu f g) s) (hd : f.dk = false) (al : Alone s) (ln : Lanes f.p s m)
    (fr : Free false f.dst s m) (src : VectorSources f 2 s a b [] s') (zero : ∃ j, ZeroDivisor f m b j) :
    exec i s = .next (takeTrap s s.cur 0x08 (zeroTaddr f m b)) := by
  rw [h]
  refine issue_trap al.solo ((alu_vector_reads hd ln fr src fun h => absurd h Bool.false_ne_true).trans ?_)
  rw [vectorEnd, divZero_trap zero, trap_bind]

/-- What the statement asks of a division's result, and what of its traps. -/
theorem tmod_eq : (fun a b : Int => a - b * Int.tdiv a b) = Int.tmod := by
  funext a b
  rw [Int.tmod_def]
theorem division_meanings : ∀ mk ∈ ([.div, .divn, .rem, .remn] : List (FA → Instr)), ∃ g : Int → Int → Int, ∀ f s,
    exec (mk f) s = issue (mk f) (divAlu f g) s := by
  simp only [List.forall_mem_cons]
  exact ⟨⟨Int.tdiv, fun _ _ => rfl⟩, ⟨Int.tdiv, fun _ _ => rfl⟩, ⟨Int.tmod, fun _ _ => rfl⟩, ⟨Int.tmod, fun _ _ => rfl⟩,
    List.forall_mem_nil _⟩

/-- Settles O9: a division checks its divisors when it has read its sources, and then puts its result on its way. -/
theorem divisionResults : Obligations.DivisionResults := by
  unfold Obligations.DivisionResults
  refine ⟨?results, ?scalar, ?vector⟩
  case results =>
    simp only [List.forall_mem_cons, tmod_eq]
    exact ⟨fun f => division_results fun s => rfl, fun f => division_results fun s => rfl, fun f => division_results fun s => rfl,
      fun f => division_results fun s => rfl, List.forall_mem_nil _⟩
  case scalar =>
    intro mk hm f s s' x hd al on fr src
    obtain ⟨g, h⟩ := division_meanings mk hm
    exact exec_division_scalar (h f) hd al on fr src
  case vector =>
    intro mk hm f s s' a b m hd al ln fr src zero hz
    obtain ⟨g, h⟩ := division_meanings mk hm
    have len : b.length = 512 / tyWidth f.ty := by
      obtain ⟨s1, s2, -, hb, -⟩ := src
      exact readElems_length hb
    have same (j : Nat) : ZeroDivisor f m b j ↔ zero j := by
      rw [ZeroDivisor, divLane, if_neg (by rw [hd]; decide), len]
      rfl
    refine ⟨zeroTaddr f m b, fun i hi => ?_, exec_division_vector (h f) hd al ln fr src (by simpa only [same] using hz)⟩
    rw [getLsbD_zeroTaddr hi]
    simp only [same, divLane, hd, Bool.false_eq_true, if_false]

end Sys2Proof.Spec
end

section
/-! PROOF. Comparisons, and floating-point results element by element (R101, R104-R113; O10, O12, O13, O14). -/

namespace Sys2Proof.Spec

open Sys2Proof.Machine

variable {s s' : State} {f : FA} {i : Instr} {n : Nat} {op : ElemOp}

/-! ## Conditions (R101) -/

theorem widen_bit (ty : BitVec 4) {x : Nat} (h : x < 2) : widen ty x = BitVec.ofNat 64 x := by
  revert ty
  interval_cases x <;> decide
theorem condition_eq {p : Prop} [Decidable p] {b : Bool} (h : b = true ↔ p) (fl : Flags) : condition f p fl = (condElem f b, fl) := by
  unfold condition condElem
  cases b with
  | true => rw [if_pos (h.1 rfl), if_pos rfl]
  | false => rw [if_neg fun hp => absurd (h.2 hp) Bool.false_ne_true, if_neg Bool.false_ne_true]
theorem condElem_scalar (hd : f.dk = true) (b : Bool) : condElem f b < 2 := by
  cases b <;> simp [condElem, hd]

/-- An instruction whose meaning is the element-wise execution of a condition: a scalar result has no type. -/
theorem elementwise_of_condAlu (h : ∀ s, exec i s = issue i (condAlu f op) s)
    (bit : f.dk = true → ∀ c a b, (op c 0 a b 0).code < 2) : Elementwise i f 2 false (outOf op) := by
  constructor
  · intro hd s s' a b c al on fr src _ _ q
    have k := src.kept
    have csr := kept_csr k
    obtain ⟨s1, s2, ha, hb, rfl, rfl⟩ := src
    rw [h]
    refine issue_done al k.cur ?_
    rw [Quiet, ← csr] at q
    rw [condAlu, if_pos hd, on.run, bind_ok fr, bind_ok ha]
    refine (bind_ok hb).trans ?_
    simp only [getT_bind]
    rw [← widen_bit f.ty (bit hd _ _ _), ← csr, ← k.cur]
    exact finishG_now q
  · have vector (hd : f.dk = false) (s : State) : exec i s = issue i (alu f 2 false false false noCheck op) s := by
      rw [h, condAlu, if_neg (by rw [hd]; decide)]
    exact fun hd => (elementwise_of_alu (vector hd)).2 hd

/-- Elements of a type are the same where they are the same number. -/
theorem intOf_inj {ty : BitVec 4} {x y : Nat} (hx : x < 2 ^ tyWidth ty) (hy : y < 2 ^ tyWidth ty) : intOf ty x = intOf ty y ↔ x = y := by
  refine ⟨fun h => ?_, fun h => h ▸ rfl⟩
  have bits : BitVec.ofNat (tyWidth ty) x = BitVec.ofNat (tyWidth ty) y := by
    unfold intOf at h
    split at h
    · exact BitVec.toInt_inj.1 h
    · exact BitVec.toNat_inj.1 (Int.ofNat_inj.1 h)
  rw [← BitVec.toNat_inj, BitVec.toNat_ofNat, BitVec.toNat_ofNat, Nat.mod_eq_of_lt hx, Nat.mod_eq_of_lt hy] at bits
  exact bits
open Classical in
theorem outOf_cmpOp (f : FA) : SameOn f.ty (outOf (cmpOp f)) (fun _ _ a b _ => condition f (compares f a b) 0) := by
  intro c j x y z hx hy hz
  have e : outOf (cmpOp f) c j x y z = condition f (compares f x y) 0 := by
    refine (condition_eq ?_ 0).symm
    simp only [compares, intOf_eq hx, intOf_eq hy]
    split <;> simp [intOf_inj hx hy]
  rw [e]
  exact ⟨rfl, rfl⟩

/-- Settles O10: cmp is the element-wise execution of its condition. -/
theorem compareResults : Obligations.CompareResults := by
  unfold Obligations.CompareResults
  intro f
  exact (elementwise_of_condAlu (op := cmpOp f) (fun s => rfl) fun hd c a b => condElem_scalar hd _).congr (outOf_cmpOp f)

/-! ## One rounding (R105, R110, R111) -/

/-- Settles O12: each is the element-wise execution of its function of values. -/
theorem roundedResults : Obligations.RoundedResults := by
  unfold Obligations.RoundedResults
  simp only [roundedRows, List.forall_mem_cons]
  refine ⟨?fadd, ?fsub, ?fmul, ?fma, ?fms, ?fnma, List.forall_mem_nil _⟩
  all_goals exact fun f => elementwise_of_alu fun s => rfl

/-- Settles O13: each is the element-wise execution of its function, whose flags come with its result. -/
theorem longLatencyResults : Obligations.LongLatencyResults := by
  unfold Obligations.LongLatencyResults
  simp only [laterRows, List.forall_mem_cons]
  refine ⟨?fdiv, ?frcp, ?frsq, ?fsqrt, ?fexp2, ?flog2, ?fsin, ?fcos, ?fsinpi, ?fcospi, ?ftanh, ?fsigm, List.forall_mem_nil _⟩
  all_goals exact fun f => elementwiseLater_of_alu fun s => rfl

/-! ## Codes (R106-R109, R112, R113) -/

/-- An operation on bits that the model narrows to the width, as what it makes of two codes. -/
theorem elementwise_codes {g : Nat → Nat → Nat → Nat} {o : Nat → Nat → Nat} (h : ∀ s, exec i s = issue i (bitAlu f n g) s)
    (code : ∀ a b, g (tyWidth f.ty) a b = o a b) : Elementwise i f n false (fun _ _ a b _ => (o a b, 0)) := by
  refine (elementwise_of_alu h).congr fun c j x y z _ _ _ => ⟨?_, rfl⟩
  show g (tyWidth f.ty) x y % 2 ^ tyWidth f.ty % 2 ^ tyWidth f.ty = o x y % 2 ^ tyWidth f.ty
  rw [Nat.mod_mod, code]
theorem elementwise_minmax {lo num : Bool} (h : ∀ s, exec i s = issue i (minmaxAlu f lo num) s) :
    Elementwise i f 2 false (fun _ _ a b _ =>
      let r := minmaxVal (fOf f) lo num (decodeVal (fOf f) a) (decodeVal (fOf f) b) a b
      (r.code, r.fl)) := elementwise_of_alu h

/-- fcmp's condition with the flags of its comparison (R108). -/
def fcmpOp (f : FA) : ElemOp := fun _ _ x y _ =>
  let (r, fl) := fcmpVal f.m.toNat (decodeVal (fOf f) x) (decodeVal (fOf f) y)
  ⟨condElem f r, fl⟩
theorem outOf_fcmpOp (f : FA) : outOf (fcmpOp f) = fun _ _ a b _ =>
    let r := fcmpVal f.m.toNat (decodeVal (fOf f) a) (decodeVal (fOf f) b)
    condition f (r.1 = true) r.2 := by
  funext c j x y z
  exact (condition_eq Iff.rfl _).symm

/-- fscale in a scalar and in a vector execution: B is an integer of the type's width (R113). -/
theorem fscale_scalar {s1 s2 : State} {a b : Nat} (hd : f.dk = true) (al : Alone s) (on : On f.p s) (fr : Free true f.dst s)
    (md : ModeOk true s) (ha : Gives (readElem f.ty f.a) s a s1) (hb : Gives (readElem (intTy f.ty) f.b) s1 b s2) :
    let r := fscaleVal (fOf f) (rmOf (here s).csr true f.dst 0) f.sat (decodeVal (fOf f) a) (BitVec.ofNat (tyWidth f.ty) b).toInt
    Quiet s r.fl → exec (.fscale f) s = .next (done s2 fun x => putScalar (x.raise r.fl) f.dst (widen f.ty r.code)) := by
  intro r q
  have k := (readElem_kept ha).trans (readElem_kept hb)
  have csr := kept_csr k
  have md' : ModeOk true s2 := by rwa [ModeOk, here, csr]
  refine issue_done (m := fscaleM f) al k.cur ?_
  rw [Quiet, ← csr] at q
  rw [fscaleM, if_pos hd, on.run, bind_ok fr, bind_ok ha, bind_ok hb, bind_ok (needMode_ok (md' rfl))]
  simp only [getT_bind, hd, toSigned_eq, csr]
  rw [← k.cur]
  exact finishG_now q
theorem fscale_vector {s1 s2 : State} {a b : List Nat} {m : BitVec 16} (hd : f.dk = false) (al : Alone s) (ln : Lanes f.p s m)
    (fr : Free false f.dst s m) (md : ModeOk true s) (ha : Gives (readElems f.ty (512 / tyWidth f.ty) f.a) s a s1)
    (hb : Gives (readElems (intTy f.ty) (512 / tyWidth f.ty) f.b) s1 b s2) :
    let w := tyWidth f.ty
    let o (j : Nat) : Out :=
      let r := fscaleVal (fOf f) (rmOf (here s).csr false f.dst j) f.sat (decodeVal (fOf f) (el a j)) (BitVec.ofNat w (el b j)).toInt
      (r.code, r.fl)
    let fl := elementFlags m w (512 / w) o
    Quiet s fl → ∃ d, Elements m w (512 / w) o d ∧ exec (.fscale f) s = .next (done s2 fun x => putVector (x.raise fl) f.dst m d) := by
  intro w o fl q
  have k := (readElems_kept ha).trans (readElems_kept hb)
  have csr := kept_csr k
  have md' : ModeOk true s2 := by rwa [ModeOk, here, csr]
  have flags : (mapElems (here s).csr.enabled m w (fun j => ⟨(o j).1, (o j).2⟩) (512 / w) 0).fl = fl := mapElems_flags _ _ _ _ _
  refine ⟨_, mapElems_elements (here s).csr.enabled m fun j => ⟨(o j).1, (o j).2⟩, ?_⟩
  refine issue_done (m := fscaleM f) al k.cur ?_
  rw [Quiet, ← csr] at q
  rw [fscaleM, if_neg (by rw [hd]; decide), ln.run, bind_ok fr, bind_ok ha, bind_ok hb, bind_ok (needMode_ok (md' rfl))]
  simp only [getT_bind, hd, toSigned_eq, csr]
  rw [← k.cur, ← flags]
  exact finishV_now (flags ▸ q)

/-- Settles O14: each is the element-wise execution of its function of codes. -/
theorem codeResults : Obligations.CodeResults := by
  unfold Obligations.CodeResults
  refine ⟨?rows, ?frnd, ?fscale, ?fscaleV⟩
  case rows =>
    simp only [codeRows, List.forall_mem_cons]
    refine ⟨?fmin, ?fmax, ?fminp, ?fmaxp, ?fabs, ?fneg, ?fsgn, ?fclass, ?fgetexp, ?fcmp, List.forall_mem_nil _⟩
    case fmin | fmax | fminp | fmaxp => exact fun f => elementwise_minmax fun s => rfl
    case fabs => exact fun f => elementwise_codes (fun s => rfl) fun a b => rfl
    case fneg =>
      refine fun f => elementwise_codes (fun s => rfl) fun a b => ?_
      cases h : nbit a (tyWidth f.ty - 1) <;> simp
    case fsgn =>
      refine fun f => elementwise_codes (fun s => rfl) fun a b => ?_
      cases h : nbit b (tyWidth f.ty - 1) <;> simp
    case fclass => exact fun f => elementwise_codes (fun s => rfl) fun a b => rfl
    case fgetexp => exact fun f => elementwise_of_alu fun s => rfl
    case fcmp =>
      intro f
      rw [← outOf_fcmpOp]
      exact elementwise_of_condAlu (fun s => rfl) fun hd c a b => condElem_scalar hd _
  case frnd => exact fun f => elementwise_of_alu fun s => rfl
  case fscale => exact fun f s s1 s2 a b hd al on fr md ha hb => fscale_scalar hd al on fr md ha hb
  case fscaleV => exact fun f s s1 s2 a b m hd al ln fr md ha hb => fscale_vector hd al ln fr md ha hb

end Sys2Proof.Spec
end

section
/-! PROOF. Conversions (R114, R115; O16): the part of a vector that they write. -/

namespace Sys2Proof.Spec

open Sys2Proof.Machine

variable {s s' : State} {f : FA} {m : BitVec 16} {w k : Nat}

/-! ## Bits of elements and of masks -/

theorem testBit_elemOf (x w j i : Nat) : (elemOf x w j).testBit i = (decide (i < w) && x.testBit (w * j + i)) := by
  rw [elemOf, Nat.testBit_mod_two_pow, Nat.testBit_div_two_pow, Nat.add_comm i]
/-- Element k lies within a vector. -/
theorem element_fits (h : k < 512 / w) : w * k + w ≤ 512 := by
  rw [← Nat.mul_succ]
  exact (Nat.mul_le_mul_left w h).trans (Nat.mul_div_le 512 w)
/-- Its bits are all in one lane. -/
theorem element_lane {i : Nat} (hw : w ∣ 32) (hi : i < w) : (w * k + i) / 32 = w * k / 32 := by
  obtain ⟨c, hc⟩ := hw
  rw [hc, ← Nat.div_div_eq_div_mul, ← Nat.div_div_eq_div_mul, Nat.mul_add_div (by omega), Nat.div_eq_of_lt hi, Nat.add_zero,
    Nat.mul_div_cancel_left k (by omega)]
theorem getLsbD_maskBits (m : BitVec 16) {p : Nat} (h : p < 512) : (maskBits m).getLsbD p = m.getLsbD (p / 32) := by
  have lane : p / 32 < 16 := by omega
  have e := elemOf_vec 32 ((List.range 16).map fun i => if nbit m.toNat i then 2 ^ 32 - 1 else 0) (p / 32) (by simpa using lane) (by simp)
  have bit := testBit_elemOf (maskBits m).toNat 32 (p / 32) (p % 32)
  rw [Nat.div_add_mod, decide_eq_true (Nat.mod_lt p (by decide)), Bool.true_and, maskBits, e] at bit
  rw [BitVec.getLsbD, maskBits, ← bit, List.getElem_map, List.getElem_range, nbit_toNat, Nat.testBit_mod_two_pow,
    decide_eq_true (Nat.mod_lt p (by decide)), Bool.true_and]
  cases m.getLsbD (p / 32) with
  | false => simp
  | true => rw [if_pos rfl, Nat.testBit_two_pow_sub_one, decide_eq_true (Nat.mod_lt p (by decide))]
/-- Bits of one vector where a third one has ones, of the other one elsewhere: an element on which it is constant. -/
theorem elemOf_select {a b bits : Vec} (q : Bool) (h : ∀ i, i < w → bits.getLsbD (w * k + i) = q) :
    elemOf ((a &&& bits) ||| (b &&& ~~~ bits)).toNat w k = elemOf (if q then a else b).toNat w k := by
  refine Nat.eq_of_testBit_eq fun i => ?_
  rw [testBit_elemOf, testBit_elemOf]
  by_cases hi : i < w
  · have bit : ((a &&& bits) ||| (b &&& ~~~ bits)).getLsbD (w * k + i) = (if q then a else b).getLsbD (w * k + i) := by
      by_cases hp : w * k + i < 512
      · cases q <;> simp [-BitVec.getLsbD_eq_getElem, h i hi, hp]
      · rw [BitVec.getLsbD_of_ge _ _ (by omega), BitVec.getLsbD_of_ge _ _ (by omega)]
    exact congrArg _ bit
  · simp [hi]

/-! ## A part of a vector -/

/-- Elements of width w put in places `first` up, where their lanes are enabled; elsewhere the old vector. -/
def putPart (w first n : Nat) (m : BitVec 16) (codes : List Nat) (old : Vec) : Vec :=
  let bits : Vec := BitVec.ofNat 512 (2 ^ (w * first) * (2 ^ (w * n) - 1)) &&& maskBits m
  (BitVec.ofNat 512 (ofElems w codes * 2 ^ (w * first)) &&& bits) ||| (old &&& ~~~ bits)
/-- Element k is in the part and its lane is enabled. -/
def inPart (w first n : Nat) (m : BitVec 16) (k : Nat) : Bool := decide (first ≤ k) && decide (k < first + n) && Enabled m w k

theorem elemOf_shifted (x w first k : Nat) (h : first ≤ k) : elemOf (x * 2 ^ (w * first)) w k = elemOf x w (k - first) := by
  obtain ⟨j, rfl⟩ := Nat.exists_eq_add_of_le h
  rw [elemOf, elemOf, Nat.add_sub_cancel_left, Nat.mul_add, pow_add, Nat.mul_comm x, Nat.mul_div_mul_left _ _ (by positivity)]
/-- A place within element k is within the elements of a part where k is one of them. -/
theorem bit_lt_iff {i first : Nat} (hi : i < w) : w * k + i < w * first ↔ k < first := by
  refine ⟨fun h => ?_, fun h => ?_⟩
  · by_contra c
    have := Nat.mul_le_mul_left w (Nat.le_of_not_lt c)
    omega
  · have := Nat.mul_le_mul_left w (Nat.succ_le_of_lt h)
    rw [Nat.mul_succ] at this
    omega
theorem elemOf_putPart {first n : Nat} {codes : List Nat} {old : Vec} (hw : w ∣ 32) (hk : k < 512 / w) (len : codes.length = n) :
    elemOf (putPart w first n m codes old).toNat w k =
      if inPart w first n m k then el codes (k - first) % 2 ^ w else elemOf old.toNat w k := by
  have fits := element_fits hk
  have pos : 0 < w := Nat.pos_of_dvd_of_pos hw (by decide)
  have bits (i : Nat) (hi : i < w) : (BitVec.ofNat 512 (2 ^ (w * first) * (2 ^ (w * n) - 1)) &&& maskBits m).getLsbD (w * k + i) =
      inPart w first n m k := by
    rw [BitVec.getLsbD_and, getLsbD_maskBits m (by omega), element_lane hw hi, BitVec.getLsbD_ofNat, Nat.mul_comm (2 ^ (w * first)),
      Nat.testBit_mul_two_pow, Nat.testBit_two_pow_sub_one, decide_eq_true (show w * k + i < 512 by omega), Bool.true_and, inPart]
    have low : w * first ≤ w * k + i ↔ first ≤ k := by rw [← Nat.not_lt, ← Nat.not_lt, bit_lt_iff hi]
    have high : w * k + i < w * first + w * n ↔ k < first + n := by rw [← Nat.mul_add, bit_lt_iff hi]
    have rest : w * first ≤ w * k + i → (w * k + i - w * first < w * n ↔ w * k + i < w * first + w * n) := fun h => by omega
    refine congrArg (· && m.getLsbD (w * k / 32)) ?_
    rw [← Bool.decide_and, ← Bool.decide_and, decide_eq_decide, and_congr_right rest, low, high]
  rw [putPart, elemOf_select _ bits]
  cases h : inPart w first n m k with
  | false => rfl
  | true =>
    simp only [inPart, Bool.and_eq_true, decide_eq_true_eq] at h
    obtain ⟨⟨lo, hi⟩, -⟩ := h
    have len' : k - first < codes.length := by omega
    rw [if_pos rfl, if_pos rfl, BitVec.toNat_ofNat, elemOf_mod _ _ _ _ fits, elemOf_shifted _ _ _ _ lo, elemOf_ofElems _ _ _ len',
      el_eq_getElem len']


/-! ## The conversion -/

theorem filter_range_part {first n k : Nat} (h : first + n ≤ k) (p : Nat → Bool) :
    (List.range k).filter (fun j => decide (first ≤ j) && decide (j < first + n) && p j) = (List.range' first n).filter p := by
  obtain ⟨r, rfl⟩ := Nat.exists_eq_add_of_le h
  have split : List.range (first + n + r) = List.range' 0 first ++ (List.range' first n ++ List.range' (first + n) r) := by
    have joined := List.range'_append_1 (s := 0) (m := first) (n := n + r)
    rw [Nat.zero_add] at joined
    rw [List.range'_append_1, joined, List.range_eq_range', Nat.add_assoc]
  have below : (List.range' 0 first).filter (fun j => decide (first ≤ j) && decide (j < first + n) && p j) = [] := by
    rw [List.filter_eq_nil_iff]
    intro j hj
    have := List.mem_range'_1.1 hj
    simp [show ¬ first ≤ j by omega]
  have above : (List.range' (first + n) r).filter (fun j => decide (first ≤ j) && decide (j < first + n) && p j) = [] := by
    rw [List.filter_eq_nil_iff]
    intro j hj
    have := List.mem_range'_1.1 hj
    simp [show ¬ j < first + n by omega]
  have within : (List.range' first n).filter (fun j => decide (first ≤ j) && decide (j < first + n) && p j) = (List.range' first n).filter p := by
    refine List.filter_congr fun j hj => ?_
    have := List.mem_range'_1.1 hj
    simp [show first ≤ j ∧ j < first + n by omega]
  rw [split, List.filter_append, List.filter_append, below, above, within, List.nil_append, List.append_nil]
/-- The flags of the elements of a part. -/
theorem mapElems_partFlags (en : Flags) (g : Nat → Res) {first n : Nat} (h : first + n ≤ k) :
    (mapElems en m w g n first).fl = ((List.range k).filter (inPart w first n m)).foldl (fun fl j => fl ||| (g j).fl) 0 := by
  have part : (List.range k).filter (inPart w first n m) = (List.range' first n).filter (Enabled m w) := filter_range_part h _
  rw [mapElems_fl, part, foldl_flags]
  exact BitVec.zero_or.symm

theorem cvt_scalar {a : Nat} (hd : f.dk = true) (al : Alone s) (on : On f.p s) (fr : Free true f.dst s)
    (md : ModeOk (decide (8 ≤ (cvtS f).toNat) || decide (8 ≤ f.ty.toNat)) s) (ha : Gives (readElem (cvtS f) f.a) s a s') :
    let r := convElem f.ty (cvtS f) (here s).csr.fmt8 (rmOf (here s).csr true f.dst 0) f.sat a
    Quiet s r.fl → exec (.cvt f) s = .next (done s' fun x => putScalar (x.raise r.fl) f.dst (widen f.ty r.code)) := by
  intro r q
  have k := readElem_kept ha
  have csr := kept_csr k
  have md' : ModeOk (decide (8 ≤ (cvtS f).toNat) || decide (8 ≤ f.ty.toNat)) s' := by rwa [ModeOk, here, csr]
  refine issue_done (m := cvtM f) al k.cur ?_
  rw [Quiet, ← csr] at q
  rw [cvtM, if_pos hd, on.run, bind_ok fr, bind_ok ha]
  refine (md'.run _).trans ?_
  simp only [getT_bind, csr]
  rw [← k.cur]
  exact finishG_now q

/-- How many elements a conversion converts, and the first one of those that it writes. -/
def cvtCount (f : FA) : Nat := 512 / Nat.max (tyWidth f.ty) (tyWidth (cvtS f))
def cvtFirst (f : FA) : Nat := if tyWidth f.ty < tyWidth (cvtS f) then f.m.toNat * cvtCount f else 0
/-- The element of the source from which element k comes. -/
def cvtPlace (f : FA) (k : Nat) : Nat :=
  if tyWidth (cvtS f) < tyWidth f.ty then f.m.toNat * cvtCount f + (k - cvtFirst f) else k - cvtFirst f
/-- Element k of the result of a conversion. -/
def cvtElem (f : FA) (c : Csrs) (a : List Nat) (k : Nat) : Res :=
  convElem f.ty (cvtS f) c.fmt8 (rmOf c false f.dst k) f.sat (el a (cvtPlace f k))
/-- The elements that a conversion writes, with their flags. -/
def cvtElems (f : FA) (c : Csrs) (m : BitVec 16) (a : List Nat) : Elems :=
  mapElems c.enabled m (tyWidth f.ty) (cvtElem f c a) (cvtCount f) (cvtFirst f)

theorem cvt_vector {a : List Nat} (hd : f.dk = false) (al : Alone s) (ln : Lanes f.p s m)
    (fr : Free false f.dst s (if tyWidth f.ty < tyWidth (cvtS f) then 0 else m))
    (md : ModeOk (decide (8 ≤ (cvtS f).toNat) || decide (8 ≤ f.ty.toNat)) s)
    (ha : Gives (readElems (cvtS f) (512 / tyWidth (cvtS f)) f.a) s a s') (q : Quiet s (cvtElems f (here s).csr m a).fl) :
    exec (.cvt f) s = .next (done s' fun x => putVector (x.raise (cvtElems f (here s).csr m a).fl) f.dst 0xFFFF
      (putPart (tyWidth f.ty) (cvtFirst f) (cvtCount f) m (cvtElems f (here s).csr m a).codes (oldVector (here s) f.dst))) := by
  have k := readElems_kept ha
  have csr := kept_csr k
  have regs : (s'.tile s'.cur).regs = (here s).regs := by
    obtain ⟨-, -, regs, -⟩ := k.fields
    rw [k.cur]
    exact regs
  have md' : ModeOk (decide (8 ≤ (cvtS f).toNat) || decide (8 ≤ f.ty.toNat)) s' := by rwa [ModeOk, here, csr]
  have old : BitVec.ofNat 512 (if f.dst.toNat < 248 then ((s'.tile s'.cur).regs.getV f.dst.toNat).toNat else 0) =
      oldVector (here s) f.dst := by
    rw [regs, oldVector]
    split
    · rw [BitVec.ofNat_toNat, BitVec.setWidth_eq]
    · rfl
  refine issue_done (m := cvtM f) al k.cur ?_
  rw [cvtM, if_neg (by rw [hd]; decide), ln.run, bind_ok fr]
  refine (bind_ok ha).trans ((md'.run _).trans ?_)
  simp only [getT_bind, old]
  rw [csr, ← k.cur]
  exact finishV_now (by rw [csr]; exact q)

theorem tyWidth_dvd {ty : BitVec 4} (h : tyWidth ty ≤ 32) : tyWidth ty ∣ 32 := by
  revert ty
  decide
/-- An element that is in the part and enabled is the one computed for its place. -/
theorem el_mapElems (en : Flags) (g : Nat → Res) {first n : Nat} (h : inPart w first n m k = true) :
    el (mapElems en m w g n first).codes (k - first) = (g k).code := by
  simp only [inPart, Bool.and_eq_true, decide_eq_true_eq] at h
  obtain ⟨⟨lo, hi⟩, on⟩ := h
  rw [el, mapElems_code en m w g n first (k - first) (by omega), Nat.add_sub_cancel' lo, nbit_toNat, Option.getD_some]
  exact if_pos on

/-- Settles O16: the scalar execution converts one element; the vector execution puts the converted elements in their part. -/
theorem conversionResults : Obligations.ConversionResults := by
  unfold Obligations.ConversionResults
  refine ⟨fun f s s' a hd al on fr md ha => cvt_scalar hd al on fr md ha, ?vector⟩
  intro f s s' a m hd al ln fr md ha wd ws n first from_ o part fl fits narrow q
  have width : wd ∣ 32 := tyWidth_dvd narrow
  have place (k : Nat) : cvtPlace f k = from_ + (k - first) := by
    rw [cvtPlace]
    show (if ws < wd then _ else _) = (if ws < wd then _ else _) + _
    split
    · rfl
    · exact (Nat.zero_add _).symm
  have elem (k : Nat) : cvtElem f (here s).csr a k = ⟨(o k).1, (o k).2⟩ := by
    rw [cvtElem, place]
  have flags : (cvtElems f (here s).csr m a).fl = fl := by
    rw [cvtElems, mapElems_partFlags (k := 512 / wd)]
    · simp only [elem]
      rfl
    · exact (Nat.le_div_iff_mul_le (tyWidth_pos f.ty)).2 fits
  refine ⟨_, fun k hk => ?_, flags ▸ cvt_vector hd al ln fr md ha (flags ▸ q)⟩
  refine (elemOf_putPart width hk (mapElems_length ..)).trans ?_
  rw [show part k = inPart wd (cvtFirst f) (cvtCount f) m k from rfl]
  split
  next h => exact congrArg (· % 2 ^ wd) ((el_mapElems _ _ h).trans (congrArg Res.code (elem k)))
  next => rfl

end Sys2Proof.Spec
end

section
/-! PROOF. Moves of elements and of lanes (R117, R118; O17). -/

namespace Sys2Proof.Spec

open Sys2Proof.Machine

variable {s s1 s2 s3 : State} {f : FA} {i : Instr} {m : BitVec 16} {a b c : List Nat}

/-! ## Vectors built from lists -/

/-- Element j of a vector packed from a list that fits it. -/
theorem elemOf_vecOf {w j : Nat} {l : List Nat} (hj : j < l.length) (hl : w * l.length ≤ 512) :
    elemOf (vecOf w l).toNat w j = el l j % 2 ^ w := by
  rw [vecOf, elemOf_vec w l j hj hl, el_eq_getElem hj]
theorem el_map_range {n j : Nat} (g : Nat → Nat) (h : j < n) : el ((List.range n).map g) j = g j := by
  simp [el, h]
/-- A vector whose elements are given one by one. -/
theorem elements_vecOf {w n : Nat} (hn : w * n ≤ 512) (g : Nat → Nat) (fl : Nat → Flags) :
    Elements m w n (fun j => (g j, fl j)) (vecOf w ((List.range n).map g)) := by
  intro j hj _
  rw [elemOf_vecOf (by simpa using hj) (by simpa using hn), el_map_range g hj]

/-! ## Permutes (R117) -/

theorem readB_run {α : Type} {vec : Bool} (h : ReadsB f vec s b s1) (k : List Nat → M α) :
    (if vec then readElems (intTy f.ty) (512 / tyWidth f.ty) f.b >>= k
      else (readElem (intTy f.ty) f.b >>= fun x => pure [x]) >>= k) s = k b s1 := by
  unfold ReadsB at h
  cases vec with
  | true => exact bind_ok h
  | false =>
    obtain ⟨x, hx, rfl⟩ := h
    exact bind_ok (bind_ok hx)
theorem ReadsB.kept {vec : Bool} (h : ReadsB f vec s b s1) : Kept s s1 := by
  unfold ReadsB at h
  cases vec with
  | true => exact readElems_kept h
  | false =>
    obtain ⟨x, hx, -⟩ := h
    exact readElem_kept hx
/-- A permute writes, element by element, what it picks from its sources. -/
theorem exec_permute {vecB useC : Bool} {g : Nat → List Nat → List Nat → List Nat → Nat → Nat} {g' : Nat → Nat}
    (h : ∀ s, exec i s = issue i (permM f vecB useC g) s) (al : Alone s) (ln : Lanes f.p s m) (fr : Free false f.dst s m)
    (ha : Gives (readElems f.ty (512 / tyWidth f.ty) f.a) s a s1) (hb : ReadsB f vecB s1 b s2)
    (hc : if useC then Gives (readElems f.ty (512 / tyWidth f.ty) f.c) s2 c s3 else c = [] ∧ s3 = s2)
    (hg : ∀ j, j < 512 / tyWidth f.ty → g (512 / tyWidth f.ty) a b c j = g' j) :
    ∃ d, Elements m (tyWidth f.ty) (512 / tyWidth f.ty) (fun j => (g' j, 0)) d ∧
      exec i s = .next (done s3 fun x => putVector x f.dst m d) := by
  have k := ((readElems_kept ha).trans hb.kept).trans (read_if_kept readElems_kept hc)
  have elems : (List.range (512 / tyWidth f.ty)).map (g (512 / tyWidth f.ty) a b c) = (List.range (512 / tyWidth f.ty)).map g' :=
    List.map_congr_left fun j hj => hg j (List.mem_range.1 hj)
  refine ⟨_, elements_vecOf (Nat.mul_div_le ..) g' _, ?_⟩
  rw [h, ← elems]
  refine issue_putVector al k.cur ?_
  rw [permM, ln.run, bind_ok fr]
  refine (bind_ok ha).trans ((readB_run hb _).trans ((bind_read_if hc _).trans rfl))
/-- A slide by more than all the elements takes what a slide by all of them takes. -/
theorem slide_eq {α : Type} (n j k : Nat) (a c : Nat → α) : (if j + Nat.min k n < n then a (j + Nat.min k n) else c (j + Nat.min k n - n)) =
    if j + k < n then a (j + k) else c (j + Nat.min k n - n) := by
  rcases Nat.le_total k n with hk | hk
  · rw [show Nat.min k n = k from Nat.min_eq_left hk]
  · rw [show Nat.min k n = n from Nat.min_eq_right hk, if_neg (by omega), if_neg (by omega)]

/-! ## Lanes under a selector (R118) -/

theorem nbit_testBit (x i : Nat) : nbit x i = x.testBit i := by
  simp [nbit, Nat.testBit, Nat.shiftRight_eq_div_pow]
/-- The lanes that a selector picks, as the statement reads it. -/
def selected (sel : BitVec 16) : List Nat := (List.range 16).filter fun k => sel.getLsbD k
theorem picked_toNat (sel : BitVec 16) : picked sel.toNat = selected sel := by
  rw [picked, selected, show nbit sel.toNat = fun k => sel.getLsbD k from funext (nbit_toNat sel)]
theorem picked_below (sel : BitVec 16) {i : Nat} (hi : i ≤ 16) : (picked (sel.toNat % 2 ^ i)).length = below sel i := by
  have low : nbit (sel.toNat % 2 ^ i) = fun k => decide (0 ≤ k) && decide (k < 0 + i) && sel.getLsbD k := by
    funext k
    rw [nbit_testBit, Nat.testBit_mod_two_pow, decide_eq_true (Nat.zero_le k), Bool.true_and, Nat.zero_add]
    rfl
  rw [picked, low, filter_range_part (by omega), below, List.range_eq_range']
/-- A selected lane stands in the list of them behind those below it. -/
theorem selected_below {sel : BitVec 16} {i : Nat} (hi : i < 16) (on : sel.getLsbD i = true) : (selected sel)[below sel i]? = some i := by
  obtain ⟨r, hr⟩ := Nat.exists_eq_add_of_lt hi
  have split : List.range 16 = List.range i ++ i :: (List.range r).map (i + 1 + ·) := by
    rw [hr, Nat.add_assoc, List.range_add, Nat.add_comm r, List.range_add]
    simp [Nat.add_assoc]
  rw [selected, split, List.filter_append, List.filter_cons_of_pos (by exact on), below, List.getElem?_append_right le_rfl, Nat.sub_self,
    List.getElem?_cons_zero]
theorem selected_length_le (sel : BitVec 16) : (selected sel).length ≤ 16 :=
  (List.length_filter_le _ _).trans_eq List.length_range

theorem compress_length (l : List Nat) (sel : BitVec 16) : (compress l sel.toNat).length = 16 := by
  have := selected_length_le sel
  simp only [compress, picked_toNat, List.length_append, List.length_map, List.length_replicate]
  omega
theorem el_compress_selected (l : List Nat) {sel : BitVec 16} {i : Nat} (hi : i < 16) (on : sel.getLsbD i = true) :
    el (compress l sel.toNat) (below sel i) = el l i := by
  have at_ := selected_below hi on
  have lt := (List.getElem?_eq_some_iff.1 at_).1
  rw [el, compress, picked_toNat, List.getElem?_append_left (by simpa using lt), List.getElem?_map, at_]
  rfl
theorem el_compress_above (l : List Nat) {sel : BitVec 16} {i : Nat} (h : below sel 16 ≤ i) :
    el (compress l sel.toNat) i = 0 := by
  have count : below sel 16 = (selected sel).length := rfl
  rw [el, compress, picked_toNat, List.getElem?_append_right (by simpa [← count] using h), List.getElem?_replicate]
  split <;> rfl
theorem el_expand (l : List Nat) (sel : BitVec 16) {i : Nat} (hi : i < 16) :
    el (expand l sel.toNat) i = if sel.getLsbD i then el l (below sel i) else 0 := by
  rw [expand, el_map_range _ hi, nbit_toNat, picked_below sel hi.le]

/-- A move of lanes under a selector writes what it makes of its source. -/
theorem exec_laneMove {g : List Nat → Nat → List Nat} {b : Nat} (h : ∀ s, exec i s = issue i (laneMoveM f g) s) (al : Alone s)
    (ln : Lanes f.p s m) (fr : Free false f.dst s m) (ha : Gives (readElems 0 (512 / tyWidth 0) f.a) s a s1)
    (hb : Gives (readElem 0 f.b) s1 b s2) :
    exec i s = .next (done s2 fun x => putVector x f.dst m (vecOf 32 (g a (BitVec.ofNat 16 b).toNat))) := by
  rw [h]
  refine issue_putVector al ((readElems_kept ha).trans (readElem_kept hb)).cur ?_
  rw [laneMoveM, ln.run, bind_ok fr]
  exact (bind_ok ha).trans (bind_ok hb)

theorem exec_vlane_scalar {b : Nat} (hd : f.dk = true) (al : Alone s) (on : On f.p s) (fr : Free true f.dst s)
    (ha : Gives (readElems 0 (512 / tyWidth 0) f.a) s a s1) (hb : Gives (readElem 0 f.b) s1 b s2) :
    exec (.vlane f) s = .next (done s2 fun x => putScalar x f.dst (widen f.ty (el a (b % 16)))) := by
  refine issue_putScalar (m := vlaneM f) al ((readElems_kept ha).trans (readElem_kept hb)).cur ?_
  rw [vlaneM, if_pos hd, on.run, bind_ok fr]
  exact (bind_ok ha).trans (bind_ok hb)
theorem exec_vlane_vector {b c : Nat} (hd : f.dk = false) (al : Alone s) (ln : Lanes f.p s m) (fr : Free false f.dst s m)
    (ha : Gives (readElems 0 (512 / tyWidth 0) f.a) s a s1) (hb : Gives (readElem 0 f.b) s1 b s2)
    (hc : Gives (readElem f.ty f.c) s2 c s3) :
    exec (.vlane f) s = .next (done s3 fun x => putVector x f.dst m (vecOf 32 (a.set (b % 16) c))) := by
  refine issue_putVector (m := vlaneM f) al (((readElems_kept ha).trans (readElem_kept hb)).trans (readElem_kept hc)).cur ?_
  rw [vlaneM, if_neg (by rw [hd]; decide), ln.run, bind_ok fr]
  exact (bind_ok ha).trans ((bind_ok hb).trans (bind_ok hc))
theorem el_set {l : List Nat} {k i x : Nat} (hi : i < l.length) : el (l.set k x) i = if i = k then x else el l i := by
  rw [el, List.getElem?_set]
  by_cases h : k = i
  · subst h
    rw [if_pos rfl, if_pos hi, if_pos rfl, Option.getD_some]
  · rw [if_neg h, if_neg (Ne.symm h), el]

/-- Settles O17: each writes the vector of what it picks, element by element. -/
theorem moveResults : Obligations.MoveResults := by
  unfold Obligations.MoveResults
  refine ⟨?permutes, ?vcmpr, ?vxpd, ?vlane, ?vlaneV⟩
  case permutes =>
    simp only [permuteRows, List.forall_mem_cons]
    refine ⟨?vperm, ?vbcast, ?vrot, ?vslide, List.forall_mem_nil _⟩
    case vperm | vbcast =>
      intro f s s1 s2 s3 a b c m al ln fr ha hb hc
      exact exec_permute (fun s => rfl) al ln fr ha hb hc fun j hj => rfl
    case vrot =>
      intro f s s1 s2 s3 a b c m al ln fr ha hb hc
      refine exec_permute (fun s => rfl) al ln fr ha hb hc fun j hj => ?_
      have : el b 0 % (512 / tyWidth f.ty) < 512 / tyWidth f.ty := Nat.mod_lt _ (by omega)
      rw [Nat.add_sub_assoc this.le]
      rfl
    case vslide =>
      intro f s s1 s2 s3 a b c m al ln fr ha hb hc
      exact exec_permute (fun s => rfl) al ln fr ha hb hc fun j hj => slide_eq _ _ _ (el a) (el c)
  case vcmpr =>
    intro f s s1 s2 a b m al ln fr ha hb
    have len := compress_length a (BitVec.ofNat 16 b)
    refine ⟨_, fun i hi on => ?_, fun i lo hi => ?_, exec_laneMove (fun s => rfl) al ln fr ha hb⟩
    · have lt := (List.getElem?_eq_some_iff.1 (selected_below hi on)).1
      have := selected_length_le (BitVec.ofNat 16 b)
      rw [elemOf_vecOf (by omega) (by rw [len]), el_compress_selected _ hi on]
    · rw [elemOf_vecOf (by omega) (by rw [len]), el_compress_above _ lo, Nat.zero_mod]
  case vxpd =>
    intro f s s1 s2 a b m al ln fr ha hb
    have len : (expand a (BitVec.ofNat 16 b).toNat).length = 16 := by simp [expand]
    refine ⟨_, fun i hi => ?_, exec_laneMove (fun s => rfl) al ln fr ha hb⟩
    rw [elemOf_vecOf (by omega) (by rw [len]), el_expand _ _ hi, apply_ite (· % 2 ^ 32), Nat.zero_mod]
  case vlane => exact fun f s s1 s2 a b hd al on fr ha hb => exec_vlane_scalar hd al on fr ha hb
  case vlaneV =>
    intro f s s1 s2 s3 a b c m hd al ln fr ha hb hc
    have len : a.length = 16 := readElems_length ha
    refine ⟨_, fun i hi => ?_, exec_vlane_vector hd al ln fr ha hb hc⟩
    rw [elemOf_vecOf (by simpa [len] using hi) (by simp [len]), el_set (by omega), apply_ite (· % 2 ^ 32)]

end Sys2Proof.Spec
end

section
/-! PROOF. Predicate logic, counts and moves (R122, R123; O19). -/

namespace Sys2Proof.Spec

open Sys2Proof.Machine

variable {s s' : State} {f : FA} {i : Instr} {a b : BitVec 16}

theorem readK_ok {k : Nat} (h : k ≠ 0 → Good s .k k) : readK k s = .ok ((here s).regs.getK k, s) := by
  by_cases hk : k = 0
  · subst hk
    rfl
  · simp only [readK, ne_eq, hk, not_false_eq_true, if_true]
    rw [bind_ok (parityGood_ok (h hk))]
    rfl
theorem readC_ok {k : Nat} (h : Good s .c k) : readC k s = .ok (tget 0 (here s).regs.c k, s) := by
  rw [readC, bind_ok (parityGood_ok h)]
  rfl
theorem readPred_ok {src : Src} (h : PredSource src s a) : readPred src s = .ok (a, s) := by
  cases src with
  | v j w => exact h.elim
  | g j w =>
    obtain ⟨good, rfl⟩ := h
    exact readK_ok good
  | c j =>
    obtain ⟨good, rfl⟩ := h
    rw [readPred, bind_ok (readC_ok good)]
    rfl
  | lit c =>
    obtain rfl := h
    rfl
theorem readPred_bind {α : Type} {src : Src} (h : PredSource src s a) (k : BitVec 16 → M α) : (readPred src >>= k) s = k a s :=
  bind_ok (readPred_ok h)

/-- A meaning whose end is the write of a predicate. -/
theorem issue_putK {m : M Go} {d : BitVec 8} {v : BitVec 16} (al : Alone s) (hc : s'.cur = s.cur)
    (h : m s = (writeK d.toNat v >>= fun _ => pure .on) s') :
    issue i m s = .next (done s' fun x => { x with regs := x.regs.putK d.toNat v }) :=
  issue_done al hc (by rw [h, ← hc]; rfl)

theorem exec_kop2 {g : BitVec 16 → BitVec 16 → BitVec 16} (h : ∀ s, exec i s = issue i (kopM f true g) s) (al : Alone s) (on : On f.p s)
    (ha : PredSource f.a s a) (hb : PredSource f.b s b) :
    exec i s = .next (done s fun x => { x with regs := x.regs.putK f.dst.toNat (g a b) }) := by
  rw [h]
  refine issue_putK al rfl ?_
  rw [kopM, on.run, readPred_bind ha]
  exact readPred_bind hb _
theorem exec_kcount {g : Nat → Nat} (h : ∀ s, exec i s = issue i (kcountM f g) s) (al : Alone s) (on : On f.p s) (fr : Free true f.dst s)
    (ha : PredSource f.a s a) : exec i s = .next (done s fun x => putScalar x f.dst (BitVec.ofNat 64 (g a.toNat))) := by
  rw [h]
  refine issue_putScalar al rfl ?_
  rw [kcountM, on.run, bind_ok fr, readPred_bind ha]

/-- A vector source is a v register or a window, read whole. -/
theorem VectorSource.cases {src : Src} {v : Vec} (h : VectorSource src s v s') : ∃ j w, src = .v j w ∧ Gives (readV j.toNat w) s v s' := by
  cases src with
  | v j w => exact ⟨j, w, rfl, h⟩
  | g j w | c j | lit c => exact h.elim
theorem VectorSource.kept {src : Src} {v : Vec} (h : VectorSource src s v s') : Kept s s' := by
  obtain ⟨j, w, -, hr⟩ := h.cases
  exact readV_kept hr
theorem VectorSource.elems {src : Src} {v : Vec} (h : VectorSource src s v s') (ty : BitVec 4) (n : Nat) :
    Gives (readElems ty n src) s (toElems n (tyWidth ty) v.toNat) s' := by
  obtain ⟨j, w, rfl, hr⟩ := h.cases
  exact bind_ok hr

/-- The predicate whose bits say which 32-bit lanes of a vector are not zero. -/
def nonzeroLanes (v : Vec) : BitVec 16 :=
  BitVec.ofNat 16 (ofElems 1 ((toElems 16 32 v.toNat).map fun x => if x = 0 then 0 else 1))
theorem getLsbD_nonzeroLanes (v : Vec) {j : Nat} (hj : j < 16) : (nonzeroLanes v).getLsbD j = (elemOf v.toNat 32 j != 0) := by
  have bits : ((toElems 16 32 v.toNat).map fun x => if x = 0 then 0 else 1) =
      (List.range 16).map fun i => if (elemOf v.toNat 32 i != 0) = true then 1 else 0 := by
    rw [toElems, List.map_map]
    refine List.map_congr_left fun i _ => ?_
    by_cases h : elemOf v.toNat 32 i = 0 <;> simp [h]
  rw [nonzeroLanes, bits, BitVec.getLsbD_ofNat, testBit_ofBits fun i => elemOf v.toNat 32 i != 0]
  simp only [hj, decide_true, Bool.true_and]

/-- Settles O19: each reads its predicates and ends with the write of one or of a scalar. -/
theorem predicateResults : Obligations.PredicateResults := by
  unfold Obligations.PredicateResults
  refine ⟨?logic, ?knot, ?kpop, ?kfirst, ?move, ?toScalar, ?toLanes, ?fromPred⟩
  case logic =>
    simp only [List.forall_mem_cons]
    refine ⟨?kand, ?kor, ?kxor, List.forall_mem_nil _⟩
    all_goals exact fun f s a b al on ha hb => exec_kop2 (fun s => rfl) al on ha hb
  case knot =>
    intro f s a al on ha
    refine issue_putK (m := kopM f false fun a _ => ~~~ a) al rfl ?_
    rw [kopM, on.run, readPred_bind ha]
    rfl
  case kpop =>
    intro f s a al on fr ha
    rw [← popN_eq]
    exact exec_kcount (fun s => rfl) al on fr ha
  case kfirst =>
    intro f s a al on fr ha
    rw [← ctzN_eq]
    exact exec_kcount (fun s => rfl) al on fr ha
  case move =>
    intro f s a hm al on ha
    refine issue_putK (m := kmovM f) al rfl ?_
    rw [kmovM, on.run, hm]
    exact readPred_bind ha _
  case toScalar =>
    intro f s s' a hm al on ha
    refine issue_putK (m := kmovM f) al (readScalar_kept ha).cur ?_
    rw [kmovM, on.run, hm]
    exact bind_ok ha
  case toLanes =>
    intro f s s' v hm al on ha
    refine ⟨nonzeroLanes v, fun j hj => getLsbD_nonzeroLanes v hj, ?_⟩
    refine issue_putK (m := kmovM f) al ha.kept.cur ?_
    rw [kmovM, on.run, hm]
    exact bind_ok (ha.elems 0 16)
  case fromPred =>
    intro f s a hm al on fr ha
    refine issue_putScalar (m := kmovM f) al rfl ?_
    rw [kmovM, on.run, hm]
    exact (bind_ok fr).trans (readPred_bind ha _)

end Sys2Proof.Spec
end

section
/-! PROOF. Wide accumulators (R127; O21). -/

namespace Sys2Proof.Spec

open Sys2Proof.Machine

variable {s s' : State} {f : FA} {i : Instr} {m : BitVec 16}

/-! ## Adding -/

theorem waddList_eq (en : Flags) (w : Wide) (l : List (Nat × Val)) :
    (waddList en w l).1 = (w.addAll (l.map (·.2))).1 ∧ (waddList en w l).2.1 = (w.addAll (l.map (·.2))).2 := by
  induction l generalizing w with
  | nil => exact ⟨rfl, rfl⟩
  | cons e r ih =>
    obtain ⟨h1, h2⟩ := ih (w.add e.2).1
    exact ⟨h1, congrArg ((w.add e.2).2 ||| ·) h2⟩

theorem readWa_ok {k : Nat} (h : Good s .wa k) : readWa k s = .ok ((here s).regs.getWa k, s) := by
  rw [readWa, bind_ok (parityGood_ok h)]
  rfl
theorem Good.kept {r : RegKind} {j : Nat} (h : Good s r j) (kept : Kept s s') : Good s' r j := by
  obtain ⟨-, -, regs, -⟩ := kept.fields
  rw [Good, here, kept.cur, regs]
  exact h

/-- The end of wadd: the accumulator takes the sum, and the flags are raised. -/
def waddEnd (f : FA) (xs : List (Nat × Nat)) : M Go := do
  let w0 ← readWa f.m.toNat
  let t ← getT
  let (w', fl, lanes) := waddList t.csr.enabled w0 (xs.map fun e => (e.1, waddVal f e.2))
  checkFp fl lanes
  modT (·.raise fl)
  modR (·.putWa f.m.toNat w')
  pure .on
theorem waddEnd_ok {xs : List (Nat × Nat)} (good : Good s .wa f.m.toNat)
    (q : Quiet s (((here s).regs.getWa f.m.toNat).addAll (xs.map fun e => waddVal f e.2)).2) :
    waddEnd f xs s = .ok (.on, s.modTile s.cur fun x =>
      let r := ((here s).regs.getWa f.m.toNat).addAll (xs.map fun e => waddVal f e.2)
      { (x.raise r.2) with regs := x.regs.putWa f.m.toNat r.1 }) := by
  have sum := waddList_eq (s.tile s.cur).csr.enabled ((here s).regs.getWa f.m.toNat) (xs.map fun e => (e.1, waddVal f e.2))
  rw [List.map_map] at sum
  rw [waddEnd, bind_ok (readWa_ok good), getT_bind]
  rcases hw : waddList (s.tile s.cur).csr.enabled ((here s).regs.getWa f.m.toNat) (xs.map fun e => (e.1, waddVal f e.2)) with
    ⟨w', fl, lanes⟩
  rw [hw] at sum
  obtain ⟨rfl, rfl⟩ := sum
  simp only [hw]
  refine (bind_ok (checkFp_quiet q)).trans ?_
  rw [modT_bind, modR_bind, pure_run, State.modTile_cur, State.modTile_modTile]
  rfl

/-- wadd, once its source has been read. -/
theorem exec_wadd {xs : List (Nat × Nat)} (al : Alone s) (k : Kept s s') (run : waddM f s = waddEnd f xs s')
    (good : Good s .wa f.m.toNat) (q : Quiet s (((here s).regs.getWa f.m.toNat).addAll (xs.map fun e => waddVal f e.2)).2) :
    exec (.wadd f) s = .next (done s' fun x =>
      let r := ((here s).regs.getWa f.m.toNat).addAll (xs.map fun e => waddVal f e.2)
      { (x.raise r.2) with regs := x.regs.putWa f.m.toNat r.1 }) := by
  have csr := kept_csr k
  obtain ⟨-, -, regs, -⟩ := k.fields
  have regs' : (here s').regs = (here s).regs := by
    rw [here, k.cur]
    exact regs
  refine issue_done (m := waddM f) al k.cur (run.trans ?_)
  rw [← k.cur, ← regs']
  refine waddEnd_ok (good.kept k) ?_
  have csr' : (here s').csr = (here s).csr := csr
  rw [regs', Quiet, csr']
  exact q
/-- A list with the places of its elements. -/
theorem zipIdx_eq_map (l : List Nat) : l.zipIdx = (List.range l.length).map fun j => (el l j, j) := by
  refine List.ext_getElem (by simp) fun j h h' => ?_
  rw [List.getElem_zipIdx, List.getElem_map, List.getElem_range, el_eq_getElem (by simpa using h), Nat.zero_add]
theorem toElems_length (n w x : Nat) : (toElems n w x).length = n := by
  simp [toElems]
/-- The enabled elements of a vector, each with its lane, as wadd takes them, and as the statement lists them. -/
theorem enabled_elements (w : Nat) (v : Vec) (g : Nat → Val) :
    ((((toElems (512 / w) w v.toNat).zipIdx.map fun e => (laneOf w e.2, e.1)).filter fun e => nbit m.toNat e.1).map fun e => g e.2) =
      ((List.range (512 / w)).filter (Enabled m w)).map fun j => g (elemOf v.toNat w j) := by
  rw [zipIdx_eq_map, toElems_length, List.map_map, List.filter_map, List.map_map]
  have enabled : ((fun e : Nat × Nat => nbit m.toNat e.1) ∘ ((fun e : Nat × Nat => (laneOf w e.2, e.1)) ∘
      fun j => (el (toElems (512 / w) w v.toNat) j, j))) = Enabled m w := by
    funext j
    exact nbit_toNat m _
  rw [enabled]
  refine List.map_congr_left fun j hj => ?_
  exact congrArg g (el_toElems _ _ _ (List.mem_range.1 (List.mem_filter.1 hj).1))

theorem addAll_single (w : Wide) (v : Val) : w.addAll [v] = w.add v := Prod.ext rfl BitVec.or_zero

/-! ## Exactness -/

theorem wide_add_fin (w : Wide) (d : Dy) (hw : w.W = 0) (lo : -(2 ^ 319) ≤ w.V.toInt + d.toInt (-149))
    (hi : w.V.toInt + d.toInt (-149) < 2 ^ 319) :
    (w.add (.fin d)).2 = 0 ∧ (w.add (.fin d)).1.W = 0 ∧ (w.add (.fin d)).1.V.toInt = w.V.toInt + d.toInt (-149) := by
  have fits : wideFits (w.val + d.toInt (-149)) = true := by
    exact Bool.and_eq_true_iff.2 ⟨decide_eq_true lo, decide_eq_true hi⟩
  have e : w.add (.fin d) = ({ w with V := BitVec.ofInt 320 (w.val + d.toInt (-149)) }, 0) := by
    simp only [Wide.add, hw, fits, if_true]
    rfl
  rw [e]
  refine ⟨rfl, hw, ?_⟩
  rw [Wide.val, BitVec.toInt_ofInt_eq_self (by decide) lo hi]
theorem wide_add_inf (w : Wide) (neg : Bool) (hw : w.W = 0) : w.add (.inf neg) = ({ w with W := if neg then 2 else 1 }, 0) := by
  simp [Wide.add, hw]

/-! ## The 512-bit layout -/

theorem ofVec_toVec (w : Wide) : Wide.ofVec w.toVec = some w := by
  have hV := w.V.isLt
  have hW := w.W.isLt
  have hQ := w.Q.isLt
  have n : w.toVec.toNat = w.V.toNat + w.W.toNat * 2 ^ 320 + w.Q.toNat * 2 ^ 352 := by
    rw [Wide.toVec, BitVec.toNat_ofNat, Nat.mod_eq_of_lt]
    omega
  have zeros : nfld w.toVec.toNat 322 30 = 0 ∧ nfld w.toVec.toNat 384 128 = 0 := by
    rw [n]
    unfold nfld
    omega
  have V : BitVec.ofNat 320 w.toVec.toNat = w.V := by
    rw [← BitVec.toNat_inj, BitVec.toNat_ofNat, n]
    omega
  have W : BitVec.ofNat 2 (nfld w.toVec.toNat 320 2) = w.W := by
    rw [← BitVec.toNat_inj, BitVec.toNat_ofNat, n]
    unfold nfld
    omega
  have Q : BitVec.ofNat 32 (nfld w.toVec.toNat 352 32) = w.Q := by
    rw [← BitVec.toNat_inj, BitVec.toNat_ofNat, n]
    unfold nfld
    omega
  simp only [Wide.ofVec, zeros, V, W, Q, decide_true, Bool.and_self, if_true]

/-! ## The statement -/

/-- What a vector source and what another one make of wadd. -/
theorem waddM_vector {v : Vec} (ln : Lanes f.p s m) (src : VectorSource f.a s v s') : waddM f s = waddEnd f
    (((toElems (512 / tyWidth f.ty) (tyWidth f.ty) v.toNat).zipIdx.map fun e => (laneOf (tyWidth f.ty) e.2, e.1)).filter
      fun e => nbit m.toNat e.1) s' := by
  obtain ⟨j, w, hs, hr⟩ := src.cases
  rw [waddM, ln.run, hs]
  exact bind_ok hr
theorem waddM_scalar {a : Nat} (hs : ∀ i w, f.a ≠ .v i w) (ln : Lanes f.p s m) (src : Gives (readElem f.ty f.a) s a s') :
    waddM f s = waddEnd f [(0, a)] s' := by
  rw [waddM, ln.run]
  cases h : f.a with
  | v j w => exact absurd h (hs j w)
  | g j w | c j | lit c =>
    rw [h] at src
    exact bind_ok src

theorem exec_wrnd_scalar (hd : f.dk = true) (al : Alone s) (on : On f.p s) (fr : Free true f.dst s) (md : ModeOk true s)
    (good : Good s .wa f.m.toNat) :
    let r := ((here s).regs.getWa f.m.toNat).round (fOf f) (rmOf (here s).csr true f.dst 0) f.sat
    Quiet s r.fl → exec (.wrnd f) s = .next (done s fun x => deliverScalar (here s).csr x f.dst (widen f.ty r.code) r.fl) := by
  intro r q
  refine issue_done (m := wrndM f) al rfl ?_
  rw [wrndM, if_pos hd, on.run, bind_ok fr, bind_ok (needMode_ok (md rfl)), bind_ok (readWa_ok good)]
  exact finishG_deliver q
theorem exec_wrnd_vector (hd : f.dk = false) (al : Alone s) (ln : Lanes f.p s m) (fr : Free false f.dst s m) (md : ModeOk true s)
    (good : Good s .wa f.m.toNat) :
    let r := ((here s).regs.getWa f.m.toNat).round (fOf f) (rmOf (here s).csr false f.dst 0) f.sat
    let fl := if m.getLsbD 0 then r.fl else 0
    Quiet s fl → exec (.wrnd f) s = .next (done s fun x => deliverVector (here s).csr x f.dst m (BitVec.ofNat 512 r.code) fl) := by
  intro r fl q
  refine issue_done (m := wrndM f) al rfl ?_
  rw [wrndM, if_neg (by rw [hd]; decide), ln.run, bind_ok fr, bind_ok (needMode_ok (md rfl)), bind_ok (readWa_ok good)]
  simp only [getT_bind, nbit_toNat]
  exact finishV_deliver q

/-- Settles O21: wadd adds the enabled elements in their order, and each other one reads or writes the accumulator whole. -/
theorem wideResults : Obligations.WideResults := by
  unfold Obligations.WideResults
  refine ⟨?wadd, ?waddS, fun w d hw _ lo hi => wide_add_fin w d hw lo hi, fun w neg hw => wide_add_inf w neg hw, ?wclr, ?wrnd, ?wrndV,
    ?wmovOut, ?wmovIn, ofVec_toVec⟩
  case wadd =>
    intro f s s' v m al ln src good l r q
    have run := exec_wadd (s := s) al src.kept (waddM_vector ln src) good
    simp only [enabled_elements] at run
    exact run q
  case waddS =>
    intro f s s' a m hs al ln src good
    have run := exec_wadd (s := s) al (readElem_kept src) (waddM_scalar hs ln src) good
    simp only [List.map_cons, List.map_nil, addAll_single] at run
    exact run
  case wclr =>
    intro f s m al ln
    refine issue_done (m := wclrM f) al rfl ?_
    rw [wclrM, ln.run]
    rfl
  case wrnd => exact fun f s hd al on fr md good => exec_wrnd_scalar hd al on fr md good
  case wrndV => exact fun f s m hd al ln fr md good => exec_wrnd_vector hd al ln fr md good
  case wmovOut =>
    intro f s hs al ln fr good
    refine issue_done (m := wmovM f) al rfl ?_
    rw [wmovM, ln.run, if_neg (by rw [hs]; decide), bind_ok fr]
    refine (need_true_bind _ _).trans ((bind_ok (readWa_ok good)).trans ?_)
    exact finishV_deliver BitVec.zero_and
  case wmovIn =>
    intro f s s' v w hs al ln src hw
    refine issue_done (m := wmovM f) al src.kept.cur ?_
    obtain ⟨j, b, ha, hr⟩ := src.cases
    rw [wmovM, ln.run, if_pos hs, ha]
    refine (bind_ok hr).trans ((need_true_bind _ _).trans ?_)
    rw [hw, ← (readV_kept hr).cur]
    rfl

end Sys2Proof.Spec
end

section
/-! PROOF. Reductions and scans (R119-R121; O18). -/

namespace Sys2Proof.Spec

open Sys2Proof.Machine

variable {s s' : State} {f : FA} {i : Instr} {m : BitVec 16} {a : List Nat} {h : Int → Int → Int} {g : Nat → Int → Int → Acc1}

/-! ## The tree of an associative operation (R119) -/

/-- Two values joined where both are there, else the one that is. -/
def joinOpt (h : Int → Int → Int) : Option Int → Option Int → Option Int
  | some a, some b => some (h a b)
  | none, b => b
  | a, none => a
theorem joinOpt_none_right (h : Int → Int → Int) (x : Option Int) : joinOpt h x none = x := by
  cases x <;> rfl
theorem joinOpt_assoc (assoc : ∀ x y z, h (h x y) z = h x (h y z)) (x y z : Option Int) :
    joinOpt h (joinOpt h x y) z = joinOpt h x (joinOpt h y z) := by
  cases x <;> cases y <;> cases z <;> simp [joinOpt, assoc]
/-- The values of a list that are there, joined. -/
def joinAll (h : Int → Int → Int) (l : List (Option Int)) : Option Int := l.foldr (joinOpt h) none

/-- A level of the tree joins neighbours: it halves the list, and all its values joined stay. -/
theorem treeLevel_joins (assoc : ∀ x y z, h (h x y) z = h x (h y z)) (hg : ∀ idx x y, g idx x y = ⟨h x y, 0⟩) (lvl : Nat) :
    ∀ (l : List (Option Int)) (j n : Nat), l.length ≤ 2 * n →
      (treeLevel g lvl j l).1.length ≤ n ∧ joinAll h (treeLevel g lvl j l).1 = joinAll h l
  | [], _, _, hl => ⟨Nat.zero_le _, rfl⟩
  | [x], _, n, hl => ⟨by simp only [List.length_singleton] at hl; simpa [treeLevel] using by omega, rfl⟩
  | x :: y :: r, j, n, hl => by
    simp only [List.length_cons] at hl
    obtain ⟨len, joined⟩ := treeLevel_joins assoc hg lvl r (j + 1) (n - 1) (by omega)
    have pair : (treeLevel g lvl j (x :: y :: r)).1 = joinOpt h x y :: (treeLevel g lvl (j + 1) r).1 := by
      cases x <;> cases y <;> simp [treeLevel, joinOpt, hg]
    rw [pair]
    refine ⟨by simp only [List.length_cons]; omega, ?_⟩
    simp only [joinAll, List.foldr_cons] at joined ⊢
    rw [joined, joinOpt_assoc assoc]
theorem treeRed_joins (assoc : ∀ x y z, h (h x y) z = h x (h y z)) (hg : ∀ idx x y, g idx x y = ⟨h x y, 0⟩) (n : Nat) :
    ∀ (lvl : Nat) (l : List (Option Int)), l.length ≤ 2 ^ n → (treeRed g n lvl l).1 = joinAll h l := by
  induction n with
  | zero =>
    intro lvl l hl
    match l, hl with
    | [], _ => rfl
    | [x], _ => exact (joinOpt_none_right h x).symm
  | succ n ih =>
    intro lvl l hl
    obtain ⟨len, joined⟩ := treeLevel_joins assoc hg lvl l 0 (2 ^ n) (by rwa [pow_succ'] at hl)
    rw [← joined, ← ih (lvl + 1) _ len]
    rfl

/-- The values of the places that a test picks, joined, are those of the list of them. -/
theorem joinAll_picked (p : Nat → Bool) (v : Nat → Int) (l : List Nat) :
    joinAll h (l.map fun j => if p j then some (v j) else none) = joinAll h (((l.filter p).map v).map some) := by
  induction l with
  | nil => rfl
  | cons j r ih =>
    simp only [joinAll, List.map_cons, List.foldr_cons] at ih ⊢
    rw [ih, List.filter_cons]
    cases p j <;> rfl
theorem joinAll_sum (l : List Int) : (joinAll (· + ·) (l.map some)).getD 0 = l.sum := by
  have parts : ∀ r : List Int, r ≠ [] → joinAll (· + ·) (r.map some) = some r.sum := by
    intro r
    induction r with
    | nil => exact fun h => absurd rfl h
    | cons x r ih =>
      intro _
      cases r with
      | nil => simp [joinAll, joinOpt]
      | cons y r =>
        have := ih (List.cons_ne_nil _ _)
        simp only [joinAll, List.map_cons, List.foldr_cons, List.sum_cons] at this ⊢
        rw [this]
        rfl
  cases l with
  | nil => rfl
  | cons x r => rw [parts _ (List.cons_ne_nil _ _), Option.getD_some]
theorem joinAll_max (l : List Int) : joinAll max (l.map some) = l.max? := by
  induction l with
  | nil => rfl
  | cons x r ih =>
    rw [List.max?_cons, ← ih, List.map_cons, joinAll, List.foldr_cons, ← joinAll]
    cases joinAll max (r.map some) <;> rfl
theorem joinAll_min (l : List Int) : joinAll min (l.map some) = l.min? := by
  induction l with
  | nil => rfl
  | cons x r ih =>
    rw [List.min?_cons, ← ih, List.map_cons, joinAll, List.foldr_cons, ← joinAll]
    cases joinAll min (r.map some) <;> rfl

/-! ## The elements of a reduction -/

/-- The leaves of a reduction's tree: an element whose lane is not enabled is absent (R119). -/
def leavesOf (f : FA) (m : BitVec 16) (a : List Nat) (v : Nat → Int) : List (Option Int) :=
  (List.range a.length).map fun j => if Enabled m (tyWidth f.ty) j then some (v j) else none
theorem leaves_eq (f : FA) (m : BitVec 16) (a : List Nat) :
    (a.zipIdx.map fun e => if nbit m.toNat (laneOf (tyWidth f.ty) e.2) then some (redElem f e.1) else none) =
      leavesOf f m a fun j => redElem f (el a j) := by
  rw [zipIdx_eq_map, List.map_map]
  refine List.map_congr_left fun j _ => ?_
  show (if nbit m.toNat _ then _ else _) = _
  rw [nbit_toNat]
  rfl
theorem redElem_int {x : Nat} (hx : x < 2 ^ tyWidth f.ty) : redElem f x = intOf f.ty x := intOf_eq hx
theorem redElem_float (hf : (fmtOf f.ty 0).isSome = true) (x : Nat) : redElem f x = (x : Int) := by
  have unsigned : ∀ ty : BitVec 4, (fmtOf ty 0).isSome = true → tySigned ty = false := by decide
  rw [redElem, unsigned f.ty hf]
  rfl
theorem enabledVals_eq (m : BitVec 16) (w : Nat) (g : Fmt) (a : List Nat) :
    enabledVals m w g a = ((List.range a.length).filter (Enabled m w)).map fun j => decodeVal g (el a j) := by
  rw [enabledVals, zipIdx_eq_map, List.filter_map, List.map_map]
  have enabled : ((fun e : Nat × Nat => nbit m.toNat (laneOf w e.2)) ∘ fun j => (el a j, j)) = Enabled m w := by
    funext j
    exact nbit_toNat m _
  rw [enabled]
  rfl
theorem count_pow (ty : BitVec 4) : 512 / tyWidth ty = 2 ^ (512 / tyWidth ty).log2 := by
  revert ty
  decide

/-- Combine's operation on integers. -/
def combineInt (op : Nat) (x y : Int) : Int := if op = 0 then x + y else if op = 1 then max x y else min x y
theorem combine_int (hi : fmtOf f.ty 0 = none) (op : Nat) (rm : Rm) (x y : Int) : combine f op rm x y = ⟨combineInt op x y, 0⟩ := by
  simp only [combine, hi, combineInt]
  split
  · rfl
  · split <;> rfl
theorem combineInt_assoc (op : Nat) (x y z : Int) : combineInt op (combineInt op x y) z = combineInt op x (combineInt op y z) := by
  unfold combineInt
  split
  · exact Int.add_assoc x y z
  · split
    · exact max_assoc x y z
    · exact min_assoc x y z
theorem treeLevel_quiet (hg : ∀ idx x y, (g idx x y).fl = 0) (lvl : Nat) : ∀ (l : List (Option Int)) (j : Nat), (treeLevel g lvl j l).2 = 0
  | [], _ => rfl
  | [_], _ => rfl
  | x :: y :: r, j => by
    have rest := treeLevel_quiet hg lvl r (j + 1)
    cases x <;> cases y <;> simp [treeLevel, rest, hg]
theorem treeRed_quiet (hg : ∀ idx x y, (g idx x y).fl = 0) (n : Nat) : ∀ (lvl : Nat) (l : List (Option Int)), (treeRed g n lvl l).2 = 0 := by
  induction n with
  | zero => exact fun _ _ => rfl
  | succ n ih =>
    intro lvl l
    have level := treeLevel_quiet hg lvl l 0
    simp only [treeRed, level, ih]
    exact BitVec.zero_or
/-- The tree of an integer reduction gives its operation on all enabled elements, without flags. -/
theorem treeRed_int (hi : fmtOf f.ty 0 = none) (rm : Nat → Rm) (len : a.length = 512 / tyWidth f.ty) (lt : ∀ j, el a j < 2 ^ tyWidth f.ty) :
    treeRed (fun idx => combine f f.m.toNat (rm idx)) (512 / tyWidth f.ty).log2 1 (leavesOf f m a fun j => redElem f (el a j)) =
      (joinAll (combineInt f.m.toNat) ((enabledInts f m a).map some), 0) := by
  have ints (j : Nat) : redElem f (el a j) = intOf f.ty (el a j) := redElem_int (lt j)
  refine Prod.ext ?_ (treeRed_quiet (fun idx x y => congrArg Acc1.fl (combine_int hi _ _ x y)) _ _ _)
  refine (treeRed_joins (combineInt_assoc f.m.toNat) (fun idx x y => combine_int hi _ _ x y) _ _ _ ?_).trans ?_
  · rw [leavesOf, List.length_map, List.length_range, len]
    exact (count_pow f.ty).le
  · simp only [leavesOf, ints]
    exact joinAll_picked _ _ _

/-! ## The end of a reduction -/

theorem finishRed_deliver {r : Res} (q : r.fl &&& (s.tile s.cur).csr.ftrap.setWidth 7 = 0) :
    finishRed f r s = .ok (.on, s.modTile s.cur fun x => deliverReduction (s.tile s.cur).csr f x r.code r.fl) := by
  unfold finishRed deliverReduction
  cases f.dk with
  | true => exact finishG_deliver q
  | false => exact finishV_deliver q

/-- The value of vred, once the elements of A have been read. -/
def vredValue (f : FA) (c : Csrs) (m : BitVec 16) (a : List Nat) : Res :=
  let r := treeRed (fun idx => combine f f.m.toNat (rmOf c f.dk f.dst idx)) (512 / tyWidth f.ty).log2 1
    (leavesOf f m a fun j => redElem f (el a j))
  let v := r.1.getD 0
  if (fmtOf f.ty 0).isSome then ⟨(lone f v).v.toNat, (lone f v).fl ||| r.2⟩
  else if f.m = 0 then fitInt (tyWidth f.ty) (tySigned f.ty) f.sat v else ⟨wrapN (tyWidth f.ty) v, 0⟩
theorem exec_vred (al : Alone s) (ln : Lanes f.p s m) (fr : Free f.dk f.dst s) (ha : Gives (readElems f.ty (512 / tyWidth f.ty) f.a) s a s')
    (md : ModeOk ((fmtOf f.ty 0).isSome && f.m == 0) s) (q : Quiet s (vredValue f (here s).csr m a).fl) :
    exec (.vred f) s = .next (done s' fun x =>
      deliverReduction (here s).csr f x (vredValue f (here s).csr m a).code (vredValue f (here s).csr m a).fl) := by
  have k := readElems_kept ha
  have csr := kept_csr k
  have md' : ModeOk ((fmtOf f.ty 0).isSome && f.m == 0) s' := by rwa [ModeOk, here, csr]
  refine issue_done (m := vredM f) al k.cur ?_
  rw [Quiet, ← csr] at q
  rw [vredM, ln.run, bind_ok fr]
  refine (bind_ok ha).trans ((md'.run _).trans ?_)
  simp only [getT_bind, leaves_eq]
  rw [← csr, ← k.cur]
  exact finishRed_deliver q
theorem vredValue_int (hi : fmtOf f.ty 0 = none) (c : Csrs) (ha : Gives (readElems f.ty (512 / tyWidth f.ty) f.a) s a s') :
    ((vredValue f c m a).code, (vredValue f c m a).fl) = match f.m.toNat with
      | 0 => narrow f.ty f.sat (enabledInts f m a).sum
      | 1 => narrow f.ty false ((enabledInts f m a).max?.getD 0)
      | _ => narrow f.ty false ((enabledInts f m a).min?.getD 0) := by
  simp only [vredValue, treeRed_int hi _ (readElems_length ha) (readElems_lt ha), hi, Option.isSome_none, Bool.false_eq_true, if_false]
  match hm : f.m.toNat with
  | 0 =>
    rw [if_pos (BitVec.eq_of_toNat_eq hm), ← fitInt_narrow, ← joinAll_sum]
    rfl
  | 1 =>
    rw [if_neg (by rintro h; simp [h] at hm), ← wrapN_narrow, ← joinAll_max]
    rfl
  | n + 2 =>
    have op : combineInt (n + 2) = min := rfl
    rw [if_neg (by rintro h; simp [h] at hm), ← joinAll_min, op]
    exact wrapN_narrow _ _

theorem exec_vredx (al : Alone s) (ln : Lanes f.p s m) (fr : Free f.dk f.dst s) (ha : Gives (readElems f.ty (512 / tyWidth f.ty) f.a) s a s')
    (md : ModeOk true s) :
    let vs := ((List.range a.length).filter (Enabled m (tyWidth f.ty))).map fun j => decodeVal (fOf f) (el a j)
    let r := exactSum (fOf f) (rmOf (here s).csr f.dk f.dst 0) vs
    Quiet s r.fl → exec (.vredx f) s = .next (done s' fun x => deliverReduction (here s).csr f x r.code r.fl) := by
  intro vs r q
  have k := readElems_kept ha
  have csr := kept_csr k
  have md' : ModeOk true s' := by rwa [ModeOk, here, csr]
  refine issue_done (m := vredxM f) al k.cur ?_
  rw [Quiet, ← csr] at q
  rw [vredxM, ln.run, bind_ok fr]
  refine (bind_ok ha).trans ((bind_ok (needMode_ok (md' rfl))).trans ?_)
  have run := finishRed_deliver (f := f) (r := r) q
  rw [csr, k.cur] at run
  simp only [getT_bind, enabledVals_eq, csr]
  exact run
theorem exec_vscan (al : Alone s) (ln : Lanes f.p s m) (fr : Free false f.dst s m)
    (ha : Gives (readElems f.ty (512 / tyWidth f.ty) f.a) s a s')
    (md : ModeOk ((fmtOf f.ty 0).isSome && decide (f.m.toNat < 2)) s) :
    let e := scanElems f (here s).csr m 0 none a
    Quiet s e.fl → exec (.vscan f) s =
      .next (done s' fun x => deliverVector (here s).csr x f.dst m (vecOf (tyWidth f.ty) e.codes) e.fl) := by
  intro e q
  have k := readElems_kept ha
  have csr := kept_csr k
  have md' : ModeOk ((fmtOf f.ty 0).isSome && decide (f.m.toNat < 2)) s' := by rwa [ModeOk, here, csr]
  refine issue_done (m := vscanM f) al k.cur ?_
  rw [Quiet, ← csr] at q
  rw [vscanM, ln.run, bind_ok fr]
  refine (bind_ok ha).trans ((md'.run _).trans ?_)
  have run := finishV_deliver (d := f.dst) (m := m) (v := vecOf (tyWidth f.ty) e.codes) (l := e.lanes) q
  rw [csr, k.cur] at run
  simp only [getT_bind, csr]
  exact run

/-- Settles O18: an integer reduction is its operation on the enabled elements, whatever the tree; the others are their own functions. -/
theorem reductionResults : Obligations.ReductionResults := by
  unfold Obligations.ReductionResults
  refine ⟨?int, ?float, ?exact, ?scan⟩
  case int =>
    intro f s s' a m hi al ln fr ha l r q
    have value : ((vredValue f (here s).csr m a).code, (vredValue f (here s).csr m a).fl) = r := vredValue_int hi _ ha
    have md : ModeOk ((fmtOf f.ty 0).isSome && f.m == 0) s := by
      rw [hi]
      exact fun h => absurd h Bool.false_ne_true
    rw [← value] at q ⊢
    exact exec_vred al ln fr ha md q
  case float =>
    intro f s s' a m hf al ln fr ha md leaves r v fl q
    have value : vredValue f (here s).csr m a = ⟨v.v.toNat, fl⟩ := by
      simp only [vredValue, redElem_float hf]
      rw [if_pos hf]
      rfl
    have run := exec_vred (m := m) al ln fr ha (by rw [hf]; exact md)
    rw [value] at run
    exact run q
  case exact => exact fun f s s' a m al ln fr ha md => exec_vredx al ln fr ha md
  case scan => exact fun f s s' a m al ln fr ha md => exec_vscan al ln fr ha md

end Sys2Proof.Spec
end

section
/-! PROOF. Packing, MX blocks and dot products (R124-R126, R128; O20). -/

namespace Sys2Proof.Spec

open Sys2Proof.Machine

variable {s s' s1 s2 s3 : State} {f : FA} {m : BitVec 16} {a b c : List Nat}

/-! ## Elements -/

/-- Only the places below the count reach what is computed element by element. -/
theorem mapElems_congr (en : Flags) (w : Nat) {g g' : Nat → Res} : ∀ (n j : Nat), (∀ k, k < j + n → g k = g' k) →
    mapElems en m w g n j = mapElems en m w g' n j
  | 0, _, _ => rfl
  | n + 1, j, h => by
    have rest := mapElems_congr en w n (j + 1) fun k hk => h k (by omega)
    have first := h j (by omega)
    simp only [mapElems, rest, first]
theorem width_halves {w : Nat} {ty : BitVec 4} (h : w = 4 ∨ w = tyWidth ty) : 512 / w ≤ 2 * (512 / (2 * w)) := by
  obtain rfl | rfl := h
  · decide
  · revert ty
    decide
theorem el_append_left {l r : List Nat} {j : Nat} (h : j < l.length) : el (l ++ r) j = el l j := by
  rw [el, List.getElem?_append_left h]
  rfl
theorem el_append_right {l r : List Nat} {j : Nat} (h : l.length ≤ j) : el (l ++ r) j = el r (j - l.length) := by
  rw [el, List.getElem?_append_right h]
  rfl
/-- An element of a vector as the integer that the model makes of it. -/
theorem wideInt_eq (f : FA) (w : Nat) (v : Vec) (j : Nat) :
    (if tySigned f.ty then toSigned w (elemOf v.toNat w j) else (elemOf v.toNat w j : Int)) = wideInt f w v j := by
  rw [wideInt, toSigned_eq]

/-! ## Packing (R124) -/

/-- Element j of what vpack writes. -/
def packed (f : FA) (w : Nat) (va vb : Vec) (j : Nat) : Res :=
  let half := 512 / (2 * w)
  fitInt w (tySigned f.ty) f.sat (if j < half then wideInt f (2 * w) va j else wideInt f (2 * w) vb (j - half))
theorem packed_eq {w : Nat} {va vb : Vec} {j : Nat} (h : j < 2 * (512 / (2 * w))) :
    fitInt w (tySigned f.ty) f.sat (if tySigned f.ty then
        toSigned (2 * w) (el (toElems (512 / (2 * w)) (2 * w) va.toNat ++ toElems (512 / (2 * w)) (2 * w) vb.toNat) j)
      else (el (toElems (512 / (2 * w)) (2 * w) va.toNat ++ toElems (512 / (2 * w)) (2 * w) vb.toNat) j : Int)) =
      packed f w va vb j := by
  have len := toElems_length (512 / (2 * w)) (2 * w) va.toNat
  rw [packed]
  by_cases hj : j < 512 / (2 * w)
  · rw [el_append_left (len.symm ▸ hj), el_toElems _ _ _ hj, if_pos hj, wideInt_eq]
  · rw [el_append_right (len.symm ▸ Nat.le_of_not_lt hj), len, el_toElems _ _ _ (by omega), if_neg hj, wideInt_eq]
theorem exec_vpack {va vb : Vec} (al : Alone s) (ln : Lanes f.p s m) (fr : Free false f.dst s m) (ha : VectorSource f.a s va s1)
    (hb : VectorSource f.b s1 vb s2) (q : Quiet s (mapElems (here s).csr.enabled m (if f.m = 1 then 4 else tyWidth f.ty)
      (packed f (if f.m = 1 then 4 else tyWidth f.ty) va vb) (512 / (if f.m = 1 then 4 else tyWidth f.ty)) 0).fl) :
    let w := if f.m = 1 then 4 else tyWidth f.ty
    let e := mapElems (here s).csr.enabled m w (packed f w va vb) (512 / w) 0
    exec (.vpack f) s = .next (done s2 fun x => putVector (x.raise e.fl) f.dst m (vecOf w e.codes)) := by
  intro w e
  have k := ha.kept.trans hb.kept
  have csr := kept_csr k
  have ws : (if f.m = 1 then 8 else 2 * w) = 2 * w := by
    by_cases h : f.m = 1
    · simp [w, h]
    · rw [if_neg h]
  have halves : 512 / w ≤ 2 * (512 / (2 * w)) := width_halves (ite_eq_or_eq _ _ _)
  refine issue_done (m := vpackM f) al k.cur ?_
  have quiet : e.fl &&& (s2.tile s2.cur).csr.ftrap.setWidth 7 = 0 := by rwa [csr]
  obtain ⟨ia, pa, srcA, readA⟩ := ha.cases
  obtain ⟨ib, pb, srcB, readB⟩ := hb.cases
  rw [vpackM, ln.run, bind_ok fr, srcA, srcB]
  refine (bind_ok readA).trans ((bind_ok readB).trans ?_)
  have run := finishV_now (d := f.dst) (m := m) (v := vecOf w e.codes) (l := e.lanes) quiet
  rw [k.cur] at run
  simp only [getT_bind, csr]
  refine Eq.trans ?_ run
  show (finishV false f.dst m (vecOf w (mapElems _ m w _ (512 / w) 0).codes) _ _) s2 = _
  rw [ws, mapElems_congr (g' := packed f w va vb) _ w (512 / w) 0 fun j hj => packed_eq (by omega)]

/-- Element j of what vunpk writes. -/
def unpacked (f : FA) (w : Nat) (v : Vec) (j : Nat) : Nat :=
  if tySigned f.ty then wrapN (2 * w) (toSigned w (elemOf v.toNat w j)) else elemOf v.toNat w j
theorem unpacked_eq (f : FA) (w : Nat) (v : Vec) (j : Nat) :
    unpacked f w v j % 2 ^ (2 * w) = (BitVec.ofInt (2 * w) (wideInt f w v j)).toNat % 2 ^ (2 * w) := by
  rw [unpacked, ← wideInt_eq]
  split
  · rw [wrapN_eq]
  · rw [← wrapN_eq, wrapN]
    norm_cast
    rw [Nat.mod_mod]
theorem exec_vunpk {v : Vec} (al : Alone s) (ln : Lanes f.p s m) (fr : Free false f.dst s m) (ha : VectorSource f.a s v s') :
    let w := if f.m.getLsbD 1 then 4 else tyWidth f.ty
    let n := 512 / (2 * w)
    exec (.vunpk f) s = .next (done s' fun x => putVector x f.dst m
      (vecOf (2 * w) ((List.range n).map fun j => unpacked f w v (j + if f.m.getLsbD 0 then n else 0)))) := by
  intro w n
  have width : (if nbit f.m.toNat 1 then 4 else tyWidth f.ty) = w := by rw [nbit_toNat]
  have halves : 2 * n ≤ 512 / w := by
    have : n = 512 / w / 2 := by rw [Nat.div_div_eq_div_mul, Nat.mul_comm w]
    omega
  have elem (j : Nat) (hj : j < n) : el (toElems (512 / w) w v.toNat) (j + if f.m.getLsbD 0 then n else 0) =
      elemOf v.toNat w (j + if f.m.getLsbD 0 then n else 0) := el_toElems _ _ _ (by split <;> omega)
  refine issue_putVector (m := vunpkM f) al ha.kept.cur ?_
  obtain ⟨i, p, src, read⟩ := ha.cases
  rw [vunpkM, ln.run, bind_ok fr, src]
  refine (bind_ok read).trans ?_
  rw [width, nbit_toNat]
  refine congrArg (fun l => (writeV f.dst.toNat m (vecOf (2 * w) l) >>= fun _ => pure Go.on) s') (List.map_congr_left fun j hj => ?_)
  rw [elem j (List.mem_range.1 hj)]
  rfl

/-! ## MX blocks (R125, R126) -/

/-- The finite values of a list of f32 codes. -/
def finites (l : List Nat) : List Dy := l.filterMap fun x => match decodeVal f32 x with | .fin d => some d | _ => none
/-- The elements of an MX block of finite values. -/
def mxElems (f : FA) (c : Csrs) (ds : List Dy) : Elems :=
  mapElems c.enabled 0xFFFF (fOf f).w (fun j => match ds[j]? with
    | some d => roundTo (fOf f) (rmOf c false f.dst j) f.sat { d with e := d.e - mxExp f.ty ds }
    | none => ⟨0, 0⟩) 32 0
theorem exec_vmxq (al : Alone s) (ln : Lanes f.p s 0xFFFF) (fr : Free false f.dst s) (ha : Gives (readElems 8 (512 / tyWidth 8) f.a) s a s1)
    (hb : Gives (readElems 8 16 f.b) s1 b s2) (md : ModeOk true s) (fin : ∀ x ∈ a ++ b, ∃ d, decodeVal f32 x = .fin d) :
    let ds := finites (a ++ b)
    let r := mxElems f (here s).csr ds
    Quiet s r.fl → exec (.vmxq f) s = .next (done s2 fun x => deliverVector (here s).csr x f.dst 0xFFFF
      (BitVec.ofNat 512 (ofElems (fOf f).w r.codes + (mxExp f.ty ds + 127).toNat * 2 ^ mxScaleAt f.ty)) r.fl) := by
  intro ds r q
  have k := (readElems_kept ha).trans (readElems_kept hb)
  have csr := kept_csr k
  have md' : ModeOk true s2 := by rwa [ModeOk, here, csr]
  have noneSpecial : ((a ++ b).map (decodeVal f32)).any (fun x => x.isNan || x.isInf) = false := by
    rw [List.any_map, List.any_eq_false]
    intro x hx
    obtain ⟨d, hd⟩ := fin x hx
    simp [hd, Val.isNan, Val.isInf]
  refine issue_done (m := vmxqM f) al k.cur ?_
  rw [Quiet, ← csr] at q
  rw [vmxqM, ln.run, bind_ok fr]
  refine (bind_ok ha).trans ((bind_ok hb).trans ((bind_ok (needMode_ok (md' rfl))).trans ?_))
  have run := finishV_deliver (d := f.dst) (m := 0xFFFF) (l := r.lanes)
    (v := BitVec.ofNat 512 (ofElems (fOf f).w r.codes + (mxExp f.ty ds + 127).toNat * 2 ^ mxScaleAt f.ty)) q
  rw [csr, k.cur] at run
  simp only [beq_self_eq_true, need_true_bind, getT_bind, csr, noneSpecial, Bool.false_eq_true, if_false, List.filterMap_map]
  exact run

/-- Element j of what vmxd writes where the scale is a number. -/
def unscaled (f : FA) (c : Csrs) (v : Vec) (j : Nat) : Res :=
  match decodeVal (fOf f) (elemOf v.toNat (fOf f).w (j + if f.m = 1 then 16 else 0)) with
  | .fin d => roundTo f32 (rmOf c false f.dst j) false { d with e := d.e + nfld v.toNat (mxScaleAt f.ty) 8 - 127 }
  | x => convVal f32 (rmOf c false f.dst j) false x
theorem exec_vmxd {v : Vec} (al : Alone s) (ln : Lanes f.p s m) (fr : Free false f.dst s m) (ha : VectorSource f.a s v s')
    (md : ModeOk true s) (scale : nfld v.toNat (mxScaleAt f.ty) 8 ≠ 0xFF) :
    let e := mapElems (here s).csr.enabled m 32 (unscaled f (here s).csr v) 16 0
    Quiet s e.fl → exec (.vmxd f) s = .next (done s' fun x => putVector (x.raise e.fl) f.dst m (vecOf 32 e.codes)) := by
  intro e q
  have k := ha.kept
  have csr := kept_csr k
  have md' : ModeOk true s' := by rwa [ModeOk, here, csr]
  refine issue_done (m := vmxdM f) al k.cur ?_
  rw [Quiet, ← csr] at q
  obtain ⟨i, p, src, read⟩ := ha.cases
  rw [vmxdM, ln.run, bind_ok fr, src]
  refine (bind_ok read).trans ((bind_ok (needMode_ok (md' rfl))).trans ?_)
  have run := finishV_now (d := f.dst) (m := m) (v := vecOf 32 e.codes) (l := e.lanes) q
  rw [k.cur] at run
  simp only [getT_bind, csr, if_neg scale]
  exact run

/-! ## Dot products (R128) -/

theorem pairUp_map (g h : Nat → Val) (l : List Nat) : pairUp (l.map g) (l.map h) = l.map fun j => (g j, h j) := by
  induction l with
  | nil => rfl
  | cons x r ih => exact congrArg ((g x, h x) :: ·) ih
/-- Element i of what vdot writes. -/
def dotElem (f : FA) (t : Csrs) (a b c : List Nat) (i : Nat) : Res :=
  let k := 32 / tyWidth f.ty
  match fmtOf f.ty t.fmt8 with
  | some g => dotVal (rmOf t false f.dst i) f.sat (decodeVal f32 (el c i))
      ((List.range k).map fun j => (decodeVal g (el a (i * k + j)), decodeVal g (el b (i * k + j))))
  | none => fitInt 32 true f.sat (intOf 0 (el c i) +
      ((List.range k).map fun j => intOf f.ty (el a (i * k + j)) * intOf f.ty (el b (i * k + j))).sum)
theorem exec_vdot (al : Alone s) (ln : Lanes f.p s m) (fr : Free false f.dst s m)
    (ha : Gives (readElems f.ty (512 / tyWidth f.ty) f.a) s a s1) (hb : Gives (readElems f.ty (512 / tyWidth f.ty) f.b) s1 b s2)
    (hc : Gives (readElems (if 8 ≤ f.ty.toNat then 8 else 0) 16 f.c) s2 c s3) (md : ModeOk (decide (8 ≤ f.ty.toNat)) s) :
    let e := mapElems (here s).csr.enabled m 32 (dotElem f (here s).csr a b c) 16 0
    Quiet s e.fl → exec (.vdot f) s = .next (done s3 fun x => deliverVector (here s).csr x f.dst m (vecOf 32 e.codes) e.fl) := by
  intro e q
  have k := ((readElems_kept ha).trans (readElems_kept hb)).trans (readElems_kept hc)
  have csr := kept_csr k
  have md' : ModeOk (decide (8 ≤ f.ty.toNat)) s3 := by rwa [ModeOk, here, csr]
  have intsA (j : Nat) : redElem f (el a j) = intOf f.ty (el a j) := redElem_int (readElems_lt ha j)
  have intsB (j : Nat) : redElem f (el b j) = intOf f.ty (el b j) := redElem_int (readElems_lt hb j)
  have intC (i : Nat) : toSigned 32 (el c i) = intOf 0 (el c i) := toSigned_eq 32 _
  refine issue_done (m := vdotM f) al k.cur ?_
  rw [Quiet, ← csr] at q
  rw [vdotM, ln.run, bind_ok fr]
  refine (bind_ok ha).trans ((bind_ok hb).trans ?_)
  have readC : Gives (readElems (if decide (8 ≤ f.ty.toNat) = true then 8 else 0) 16 f.c) s2 c s3 := by
    simpa only [decide_eq_true_eq] using hc
  refine (bind_ok readC).trans ((md'.run _).trans ?_)
  have run := finishV_deliver (d := f.dst) (m := m) (v := vecOf 32 e.codes) (l := e.lanes) q
  rw [csr, k.cur] at run
  simp only [getT_bind, csr, List.map_map, pairUp_map, List.zip_map', intC, Function.comp_def, intsA, intsB]
  exact run

/-- Settles O20: each writes its elements one by one, as the statement lists them. -/
theorem packAndBlockResults : Obligations.PackAndBlockResults := by
  unfold Obligations.PackAndBlockResults
  refine ⟨⟨?vpack, ?vunpk⟩, ?vmxq, ?vmxd, ?vdot⟩
  case vpack =>
    intro f s s1 s2 va vb m al ln fr ha hb w half o fl q
    have flags : (mapElems (here s).csr.enabled m w (packed f w va vb) (512 / w) 0).fl = fl := mapElems_flags _ _ _ _ _
    refine ⟨_, mapElems_elements (here s).csr.enabled m (packed f w va vb), ?_⟩
    rw [← flags] at q ⊢
    exact exec_vpack al ln fr ha hb q
  case vunpk =>
    intro f s s' v m al ln fr ha w n
    refine ⟨_, fun j hj on => ?_, exec_vunpk al ln fr ha⟩
    rw [elements_vecOf (m := m) (Nat.mul_div_le 512 (2 * w)) _ (fun _ => 0) j hj on]
    exact unpacked_eq f w v _
  case vmxq => exact fun f s s1 s2 a b al ln fr ha hb md fin => exec_vmxq al ln fr ha hb md fin
  case vmxd =>
    intro f s s' v m al ln fr ha md scale o fl q
    have elem : o = fun j => ((unscaled f (here s).csr v j).code, (unscaled f (here s).csr v j).fl) := rfl
    have flags : (mapElems (here s).csr.enabled m 32 (unscaled f (here s).csr v) 16 0).fl = fl := mapElems_flags _ _ _ _ _
    refine ⟨_, elem ▸ mapElems_elements (w := 32) (here s).csr.enabled m (unscaled f (here s).csr v), ?_⟩
    rw [← flags] at q ⊢
    exact exec_vmxd al ln fr ha md scale q
  case vdot =>
    intro f s s1 s2 s3 a b c m al ln fr ha hb hc md k o fl q
    have elem : o = fun j => ((dotElem f (here s).csr a b c j).code, (dotElem f (here s).csr a b c j).fl) := by
      funext i
      simp only [o, dotElem]
      cases fmtOf f.ty (here s).csr.fmt8 with
      | none => exact (fitInt_narrow 0 _ _).symm
      | some g => rfl
    have flags : (mapElems (here s).csr.enabled m 32 (dotElem f (here s).csr a b c) 16 0).fl = fl := by
      rw [mapElems_flags, ← elem]
    refine ⟨_, elem ▸ mapElems_elements (w := 32) (here s).csr.enabled m (dotElem f (here s).csr a b c), ?_⟩
    rw [← flags] at q ⊢
    exact exec_vdot al ln fr ha hb hc md q

end Sys2Proof.Spec
end

section
/-! SUPPORT. The reduction of a collective's elements over the ranks (R311), and a state that writes and events leave as it is. -/

namespace Sys2Proof.Spec

open Sys2Proof.Machine

variable {s s' : State}

/-! ## One element over the ranks (R311) -/

theorem wrapN_toSigned_self (y : Nat) : wrapN 32 (toSigned 32 y) = y % 2 ^ 32 := by
  rw [wrapN_eq, toSigned_eq, BitVec.ofInt_toInt, BitVec.toNat_ofNat]
/-- A fold of a choice between two integers gives one of them, which no other precedes. -/
theorem foldl_choice {h : Int → Int → Int} {le : Int → Int → Prop} (refl : ∀ a, le a a) (trans : ∀ a b c, le a b → le b c → le a c)
    (choice : ∀ a b, (h a b = a ∨ h a b = b) ∧ le (h a b) a ∧ le (h a b) b) (l : List Int) (x : Int) :
    l.foldl h x ∈ x :: l ∧ ∀ z ∈ x :: l, le (l.foldl h x) z := by
  induction l generalizing x with
  | nil => simpa using refl x
  | cons y r ih =>
    obtain ⟨mem, best⟩ := ih (h x y)
    obtain ⟨either, left, right⟩ := choice x y
    have head := best _ List.mem_cons_self
    rw [List.foldl_cons]
    constructor
    · rcases List.mem_cons.1 mem with e | e
      · rw [e]
        rcases either with e | e <;> rw [e] <;> simp
      · exact List.mem_cons_of_mem _ (List.mem_cons_of_mem _ e)
    · intro z hz
      rcases List.mem_cons.1 hz with rfl | hz
      · exact trans _ _ _ head left
      · rcases List.mem_cons.1 hz with rfl | hz
        · exact trans _ _ _ head right
        · exact best z (List.mem_cons_of_mem _ hz)
/-- The chosen one of the elements of every rank, as a code. -/
theorem chosen_code {h : Int → Int → Int} {le : Int → Int → Prop} (refl : ∀ a, le a a) (trans : ∀ a b c, le a b → le b c → le a c)
    (choice : ∀ a b, (h a b = a ∨ h a b = b) ∧ le (h a b) a ∧ le (h a b) b) (same : ∀ a, h a a = a) (x : Nat) (xs : List Nat) :
    ∃ y ∈ x :: xs, wrapN 32 (((x :: xs).map (toSigned 32)).foldl h (((x :: xs).map (toSigned 32)).headD 0)) = y % 2 ^ 32 ∧
      ∀ z ∈ x :: xs, le (toSigned 32 y) (toSigned 32 z) := by
  obtain ⟨mem, best⟩ := foldl_choice refl trans choice (xs.map (toSigned 32)) (toSigned 32 x)
  have fold : ((x :: xs).map (toSigned 32)).foldl h (((x :: xs).map (toSigned 32)).headD 0) =
      (xs.map (toSigned 32)).foldl h (toSigned 32 x) := by
    rw [List.map_cons, List.headD_cons, List.foldl_cons, same]
  rw [fold]
  rw [← List.map_cons] at mem best
  obtain ⟨y, hy, e⟩ := List.mem_map.1 mem
  rw [← e] at best ⊢
  exact ⟨y, hy, wrapN_toSigned_self y, fun z hz => best _ (List.mem_map_of_mem hz)⟩

theorem reduceElem_sum (rm : Rm) (sat : Bool) (xs : List Nat) :
    (reduceElem 0 0 rm sat xs).code = (BitVec.ofInt 32 (xs.map fun y => (BitVec.ofNat 32 y).toInt).sum).toNat := by
  rw [← wrapN_eq, ← funext (toSigned_eq 32)]
  rfl
theorem reduceElem_max (rm : Rm) (sat : Bool) (x : Nat) (xs : List Nat) : ∃ y ∈ x :: xs, (reduceElem 0 1 rm sat (x :: xs)).code = y % 2 ^ 32 ∧
    ∀ z ∈ x :: xs, (BitVec.ofNat 32 z).toInt ≤ (BitVec.ofNat 32 y).toInt := by
  simp only [← toSigned_eq]
  exact chosen_code (h := max) (le := fun a b => b ≤ a) Int.le_refl (fun _ _ _ h h' => Int.le_trans h' h)
    (fun a b => ⟨max_choice a b, le_max_left a b, le_max_right a b⟩) max_self x xs
theorem reduceElem_min (rm : Rm) (sat : Bool) (x : Nat) (xs : List Nat) : ∃ y ∈ x :: xs, (reduceElem 0 2 rm sat (x :: xs)).code = y % 2 ^ 32 ∧
    ∀ z ∈ x :: xs, (BitVec.ofNat 32 y).toInt ≤ (BitVec.ofNat 32 z).toInt := by
  simp only [← toSigned_eq]
  exact chosen_code (h := min) (le := fun a b => a ≤ b) Int.le_refl (fun _ _ _ => Int.le_trans)
    (fun a b => ⟨min_choice a b, min_le_left a b, min_le_right a b⟩) min_self x xs
/-- A float sum is exact and rounded once; the first rank's element stands for itself. -/
theorem reduceElem_exact {ty : BitVec 4} (ht : ty ≠ 0) (rm : Rm) (sat : Bool) (xs : List Nat) :
    let f := if ty = 9 then bf16 else f32
    let sum := ({} : Wide).addAll (xs.map (decodeVal f))
    reduceElem ty 0 rm sat xs = ⟨(sum.1.round f rm sat).code, (sum.1.round f rm sat).fl ||| sum.2⟩ := by
  simp only [reduceElem, ht, if_false, if_true]
theorem reduceElem_one {ty : BitVec 4} {op : BitVec 2} (ht : ty ≠ 0) (ho : op ≠ 0) (rm : Rm) (sat : Bool) (x : Nat) :
    reduceElem ty op rm sat [x] = ⟨x, 0⟩ := by
  simp only [reduceElem, ht, ho, if_false, List.foldl_nil]
/-- One more rank's element is compared with the value of those before it. -/
theorem reduceElem_snoc {ty : BitVec 4} {op : BitVec 2} (ht : ty ≠ 0) (ho : op ≠ 0) (rm : Rm) (sat : Bool) (x : Nat) (xs : List Nat) (y : Nat) :
    let f := if ty = 9 then bf16 else f32
    let r := reduceElem ty op rm sat (x :: xs)
    let m := minmaxVal f (op == 2) false (decodeVal f r.code) (decodeVal f y) r.code y
    reduceElem ty op rm sat (x :: xs ++ [y]) = ⟨m.code, r.fl ||| m.fl⟩ := by
  simp only [reduceElem, ht, ho, if_false, List.cons_append, List.foldl_append, List.foldl_cons, List.foldl_nil]

end Sys2Proof.Spec
end

section
/-! SUPPORT. The lines that a collective writes to its buffer (R310). -/

namespace Sys2Proof.Spec

open Sys2Proof.Machine

variable {s s' : State}

/-! ## What a write and an event leave as it is -/

/-- The slices with their windows, and the collectives, are the same. -/
def Aside (s s' : State) : Prop := s'.slices = s.slices ∧ s'.coll = s.coll
theorem Aside.refl (s : State) : Aside s s := ⟨rfl, rfl⟩
theorem Aside.trans {s'' : State} (h : Aside s s') (h' : Aside s' s'') : Aside s s'' := ⟨h'.1.trans h.1, h'.2.trans h.2⟩
theorem aside_putHome (h : Home) (st : Store) : Aside s (s.putHome h st) := by
  cases h <;> exact .refl s
/-- Regions of digests stand in the contexts. -/
theorem digestWrite_eq (s : State) (h : Home) (n : Nat) (old new : Store) : ∃ cs, digestWrite s h n old new = { s with ctxs := cs } := by
  unfold digestWrite
  split
  · exact ⟨s.ctxs, rfl⟩
  · exact ⟨_, rfl⟩
theorem rawWrite_eq (s : State) (h : Home) (bs : List Byte) :
    ∃ cs, rawWrite s h bs = { s.putHome h ((s.homeStore h).1.put (s.homeStore h).2 bs) with ctxs := cs } := digestWrite_eq ..
theorem aside_rawWrite (h : Home) (bs : List Byte) : Aside s (rawWrite s h bs) := by
  obtain ⟨cs, e⟩ := rawWrite_eq s h bs
  rw [e]
  exact aside_putHome h _
theorem aside_event (owner typ cause tile ctx slot : Nat) (d0 d1 : Word) : Aside s (event s owner typ cause tile ctx slot d0 d1) := by
  unfold event
  cases s.part owner with
  | none => exact .refl s
  | some p =>
    dsimp only
    split
    · exact .refl s
    · refine Aside.trans (s' := _) ?_ (.refl _)
      split
      · exact .refl s
      · exact aside_rawWrite _ _
theorem aside_closeWindow (w : Window) : Aside s (closeWindow s w) := by
  unfold closeWindow
  split
  · exact aside_event ..
  · exact (aside_rawWrite (.dram w.pa) _).trans (.refl _)
theorem aside_closeAll (l : List Window) : Aside s (l.foldl closeWindow s) := by
  induction l generalizing s with
  | nil => exact .refl s
  | cons w r ih => exact (aside_closeWindow w).trans ih

/-! ## Windows over a range -/

/-- No reduce window is open over n bytes of DRAM. -/
def NoWindow (s : State) (pa n : Nat) : Prop := ∀ e ∈ s.slices, ∀ w ∈ e.2.wins, ¬ (w.pa < pa + n ∧ pa < w.pa + 4)
/-- Closing the windows that a test selects changes nothing just where it selects none. -/
theorem closeWindows_eq_self {p : Window → Bool} : closeWindows s p = s ↔ ∀ e ∈ s.slices, ∀ w ∈ e.2.wins, p w = false := by
  have none : (s.slices.map fun e => e.2.wins.filter p).flatten.isEmpty = true ↔ ∀ e ∈ s.slices, ∀ w ∈ e.2.wins, p w = false := by
    simp only [List.isEmpty_iff, List.flatten_eq_nil_iff, List.forall_mem_map, List.filter_eq_nil_iff, Bool.not_eq_true]
  rw [← none]
  simp only [closeWindows]
  split
  next h => exact ⟨fun _ => h, fun _ => rfl⟩
  next h =>
    refine ⟨fun same => none.2 fun e he w hw => ?_, fun h' => absurd h' h⟩
    have kept := ((congrArg State.slices same).symm.trans (aside_closeAll _).1).symm.trans (List.map_id s.slices).symm
    have wins := congrArg (fun e : Nat × Slice => e.2.wins) (List.map_inj_left.1 kept e he)
    simpa using List.filter_eq_self.1 wins w hw
theorem noWindow_iff {pa n : Nat} : touchWindows s (.dram pa) n = s ↔ NoWindow s pa n := by
  rw [touchWindows, closeWindows_eq_self, NoWindow]
  simp only [Bool.and_eq_false_iff, decide_eq_false_iff_not, not_and_or]
theorem NoWindow.part {pa n p k : Nat} (h : NoWindow s pa n) (lo : pa ≤ p) (hi : p + k ≤ pa + n) : NoWindow s p k :=
  fun e he w hw meets => h e he w hw (by omega)

/-! ## One line -/

/-- A range of DRAM that a line may be written to: nothing is open over it, and no error stands in DRAM. -/
structure Writable (s : State) (pa n : Nat) : Prop where
  canonical : StoresCanonical s
  single : s.dram.bad1 = []
  double : s.dram.bad2 = []
  windows : NoWindow s pa n

/-- A store with other full/empty bits. -/
theorem setFes_eq (st : Store) (k : Nat) (b : Bool) (n : Nat) : ∃ fe, st.setFes k b n = { st with fe := fe } := by
  induction n generalizing st k with
  | zero => exact ⟨st.fe, rfl⟩
  | succ n ih => exact ih (st.setFe k b) (k + 1)
theorem Writable.rawWrite {pa n : Nat} (h : Writable s pa n) (p : Nat) (bs : List Byte) : Writable (rawWrite s (.dram p) bs) pa n := by
  obtain ⟨cs, e⟩ := rawWrite_eq s (.dram p) bs
  have canonical := h.canonical.rawWrite (h := .dram p) (bs := bs)
  rw [e] at canonical ⊢
  refine ⟨canonical, ?_, ?_, h.windows⟩
  · simp only [State.homeStore, State.putHome, Store.put, h.single, List.isEmpty_nil, if_true]
  · simp only [State.homeStore, State.putHome, Store.put, h.double, List.isEmpty_nil, if_true]
theorem Writable.setFull {pa n : Nat} (h : Writable s pa n) (p k : Nat) (b : Bool) : Writable (setFull s (.dram p) k b) pa n := by
  obtain ⟨fe, e⟩ := setFes_eq s.dram (p / 64) b ((p + k + 63) / 64 - p / 64)
  have canonical := StoresCanonical.setFull (hm := .dram p) (n := k) (b := b) h.canonical
  have eq : Machine.setFull s (.dram p) k b = { s with dram := { s.dram with fe := fe } } := congrArg (fun d => { s with dram := d }) e
  rw [eq] at canonical ⊢
  exact ⟨canonical, h.single, h.double, h.windows⟩
/-- Bytes of DRAM after a write of some from place p up. -/
theorem byteAt_rawWrite_dram (w : StoresCanonical s) (p q : Nat) (bs : List Byte) : byteAt (rawWrite s (.dram p) bs) (.dram q) =
    if p ≤ q then bs[q - p]?.getD (byteAt s (.dram q)) else byteAt s (.dram q) := by
  obtain ⟨inside, outside, -⟩ := writtenBytes s (.dram p) bs w
  by_cases h : p ≤ q ∧ q - p < bs.length
  · obtain ⟨lo, hi⟩ := h
    have written := inside (q - p) hi
    rw [Home.add, Nat.add_sub_cancel' lo] at written
    rw [written, if_pos lo, List.getElem?_eq_getElem hi, Option.getD_some]
  · have apart : Outside (.dram p) bs.length (.dram q) := by
      intro i hi e
      have : q = p + i := Home.dram.inj e
      omega
    rw [outside _ apart]
    split
    next lo => rw [List.getElem?_eq_none (by omega), Option.getD_none]
    next => rfl
theorem byteAt_setFull_dram (p k q : Nat) (b : Bool) : byteAt (setFull s (.dram p) k b) (.dram q) = byteAt s (.dram q) := by
  obtain ⟨fe, e⟩ := setFes_eq s.dram (p / 64) b ((p + k + 63) / 64 - p / 64)
  have eq : setFull s (.dram p) k b = { s with dram := { s.dram with fe := fe } } := congrArg (fun d => { s with dram := d }) e
  rw [eq]
  rfl
theorem setDirty_eq {at_ : Nat} (good : s.dram.bad2 = []) : setDirty s at_ = s ∨ ∃ v, setDirty s at_ = rawWrite s (.dram at_) (toBytes 8 v) := by
  have read : (s.dram.badRead at_ 8).isSome = false := by simp [Store.badRead, good]
  unfold setDirty setPteBit
  simp only [read, Bool.false_eq_true, if_false]
  split
  · exact .inl rfl
  · split
    · exact .inl rfl
    · exact .inr ⟨_, rfl⟩

/-- A line of a buffer in DRAM, written, full, its page's entry dirty. -/
def lineWritten (s : State) (p at_ : Nat) (b : List Byte) : State := setDirty (setFull (rawWrite s (.dram p) b) (.dram p) 64 true) at_

theorem lineWritten_aside {pa n : Nat} (h : Writable s pa n) (p at_ : Nat) (b : List Byte) : Aside s (lineWritten s p at_ b) := by
  have full : Aside s (setFull (rawWrite s (.dram p) b) (.dram p) 64 true) := (aside_rawWrite _ b).trans (aside_putHome (.dram p) _)
  rcases setDirty_eq (at_ := at_) ((h.rawWrite p b).setFull p 64 true).double with e | ⟨v, e⟩
  · rw [lineWritten, e]
    exact full
  · rw [lineWritten, e]
    exact full.trans (aside_rawWrite _ _)
theorem lineWritten_writable {pa n : Nat} (h : Writable s pa n) (p at_ : Nat) (b : List Byte) : Writable (lineWritten s p at_ b) pa n := by
  have full := (h.rawWrite p b).setFull p 64 true
  rcases setDirty_eq (at_ := at_) full.double with e | ⟨v, e⟩
  · rw [lineWritten, e]
    exact full
  · rw [lineWritten, e]
    exact full.rawWrite _ _
theorem byteAt_lineWritten {pa n q at_ : Nat} (h : Writable s pa n) (apart : q < at_ ∨ at_ + 8 ≤ q) (p : Nat) (b : List Byte) :
    byteAt (lineWritten s p at_ b) (.dram q) = if p ≤ q then b[q - p]?.getD (byteAt s (.dram q)) else byteAt s (.dram q) := by
  have full := (h.rawWrite p b).setFull p 64 true
  have byte : byteAt (setFull (rawWrite s (.dram p) b) (.dram p) 64 true) (.dram q) = _ :=
    (byteAt_setFull_dram p 64 q true).trans (byteAt_rawWrite_dram h.canonical p q b)
  rcases setDirty_eq (at_ := at_) full.double with e | ⟨v, e⟩
  · rw [lineWritten, e, byte]
  · have entry : (if at_ ≤ q then (toBytes 8 v)[q - at_]?.getD (byteAt (setFull (rawWrite s (.dram p) b) (.dram p) 64 true) (.dram q))
        else byteAt (setFull (rawWrite s (.dram p) b) (.dram p) 64 true) (.dram q)) =
        byteAt (setFull (rawWrite s (.dram p) b) (.dram p) 64 true) (.dram q) := by
      split
      next lo => rw [List.getElem?_eq_none (by simp [toBytes]; omega), Option.getD_none]
      next => rfl
    rw [lineWritten, e, byteAt_rawWrite_dram full.canonical, entry, byte]

/-! ## The lines of a buffer -/

/-- A buffer of one page in DRAM, of a collective whose lines no hurdle counts. -/
structure OnePage (c : Coll) (pa at_ : Nat) : Prop where
  pages : ∃ va slice, c.pages = [⟨.dram pa, va, c.bytes, 0, slice, at_⟩]
  hurdle : c.hd = none
  apart : at_ + 8 ≤ pa ∨ pa + c.bytes ≤ at_

theorem collWrite_cons {c : Coll} {pa at_ : Nat} (o : OnePage c pa at_) (h : Writable s pa c.bytes) {b : List Byte} (hb : b.length = 64)
    (r : List (List Byte)) {i : Nat} (hi : 64 * i + 64 ≤ c.bytes) :
    collWrite c (b :: r) i s = collWrite c r (i + 1) (lineWritten s (pa + 64 * i) at_ b) := by
  obtain ⟨⟨va, slice, pages⟩, hurdle, -⟩ := o
  have line : c.line i = some (.dram (pa + 64 * i), at_) := by
    simp [Coll.line, pages, Home.add, show 64 * i < c.bytes by omega]
  have touch : touchWindows s (.dram (pa + 64 * i)) b.length = s :=
    noWindow_iff.2 (h.windows.part (by omega) (by omega))
  have write : homeWrite s (.dram (pa + 64 * i)) b = .ok (rawWrite s (.dram (pa + 64 * i)) b) := by
    simp only [homeWrite, touch, State.homeStore, Store.badWrite, h.double, List.isEmpty_nil, Bool.true_or, if_true, keepWrite]
  rw [collWrite]
  simp only [line, write, hurdle]
  rfl
/-- The lines of a buffer are written in order, and nothing else of it changes. -/
theorem collWrite_lines {c : Coll} {pa at_ : Nat} (o : OnePage c pa at_) (l : List (List Byte)) (i : Nat) (h : Writable s pa c.bytes)
    (whole : ∀ b ∈ l, b.length = 64) (fits : 64 * (i + l.length) ≤ c.bytes) : (collWrite c l i s).coll = s.coll ∧
      ∀ k, k < c.bytes → byteAt (collWrite c l i s) (.dram (pa + k)) =
        if 64 * i ≤ k then l.flatten[k - 64 * i]?.getD (byteAt s (.dram (pa + k))) else byteAt s (.dram (pa + k)) := by
  induction l generalizing i s with
  | nil => exact ⟨rfl, fun k _ => by simp [collWrite]⟩
  | cons b r ih =>
    simp only [List.length_cons] at fits
    have hb := whole b List.mem_cons_self
    rw [collWrite_cons o h hb r (by omega)]
    obtain ⟨coll, bytes⟩ := ih (i + 1) (lineWritten_writable h (pa + 64 * i) at_ b) (fun b hb => whole b (List.mem_cons_of_mem _ hb)) (by omega)
    refine ⟨coll.trans (lineWritten_aside h _ _ b).2, fun k hk => ?_⟩
    rw [bytes k hk, byteAt_lineWritten h (by rcases o.apart with a | a <;> omega), List.flatten_cons]
    by_cases h1 : 64 * i ≤ k
    · rw [if_pos h1, if_pos (show pa + 64 * i ≤ pa + k by omega), show pa + k - (pa + 64 * i) = k - 64 * i by omega]
      by_cases h2 : 64 * (i + 1) ≤ k
      · rw [if_pos h2, List.getElem?_append_right (by omega), List.getElem?_eq_none (l := b) (by omega), Option.getD_none, hb,
          show k - 64 * i - 64 = k - 64 * (i + 1) by omega]
      · rw [if_neg h2, List.getElem?_append_left (by omega)]
    · rw [if_neg h1, if_neg (by omega), if_neg (by omega)]

/-- The pieces of a list whose length they divide are whole, and together the list. -/
theorem chunks_pieces {n : Nat} (hn : 0 < n) : ∀ (k : Nat) (l : List Byte), l.length = n * k →
    (chunks n k l).length = k ∧ (∀ b ∈ chunks n k l, b.length = n) ∧ (chunks n k l).flatten = l
  | 0, l, h => ⟨rfl, List.forall_mem_nil _, (List.length_eq_zero_iff.1 h).symm⟩
  | k + 1, l, h => by
    rw [Nat.mul_succ] at h
    obtain ⟨count, whole, joined⟩ := chunks_pieces hn k (l.drop n) (by rw [List.length_drop, h, Nat.add_sub_cancel])
    have some : l.isEmpty = false := by
      rw [List.isEmpty_eq_false_iff]
      rintro rfl
      simp only [List.length_nil] at h
      omega
    have first : (l.take n).length = n := by
      rw [List.length_take]
      omega
    simp only [chunks, some, Bool.false_eq_true, if_false, List.length_cons, List.flatten_cons, joined, List.take_append_drop, count,
      List.forall_mem_cons, first, true_and, and_true]
    exact whole
/-- A result as long as its buffer is written over it. -/
theorem collWrite_result {c : Coll} {pa at_ : Nat} (o : OnePage c pa at_) (h : Writable s pa c.bytes) {out : List Byte}
    (lines : c.bytes % 64 = 0) (len : out.length = c.bytes) :
    (collWrite c (chunks 64 (c.bytes / 64) out) 0 s).coll = s.coll ∧
      ∀ k, k < c.bytes → byteAt (collWrite c (chunks 64 (c.bytes / 64) out) 0 s) (.dram (pa + k)) = out[k]?.getD 0 := by
  have whole : out.length = 64 * (c.bytes / 64) := by omega
  obtain ⟨count, each, joined⟩ := chunks_pieces (by decide) (c.bytes / 64) out whole
  obtain ⟨coll, bytes⟩ := collWrite_lines o (chunks 64 (c.bytes / 64) out) 0 h each (by rw [count]; omega)
  refine ⟨coll, fun k hk => ?_⟩
  rw [bytes k hk, if_pos (by omega), joined, Nat.mul_zero, Nat.sub_zero, List.getElem?_eq_getElem (by omega),
    Option.getD_some, Option.getD_some]
theorem collWrite_nothing (c : Coll) (k : Nat) : collWrite c (chunks 64 k []) 0 s = s := by
  cases k <;> rfl

end Sys2Proof.Spec
end

section
/-! SUPPORT. A collective of two ranks completes (R310-R313): the sides in the order of their ranks, the result's bytes, the state after. -/

namespace Sys2Proof.Spec

open Sys2Proof.Machine

variable {s s' : State} {c : Coll} {d : CollSide} {g pa at_ w j : Nat}

/-! ## Elements and their bytes -/

theorem elemOf_bytes (x w j : Nat) : elemOf x (8 * w) j = ofBytes ((List.range w).map fun i => byteOf x (w * j + i)) := by
  have bytes : ((List.range w).map fun i => byteOf x (w * j + i)) = toBytes w (x / 2 ^ (8 * (w * j))) :=
    List.map_congr_left fun i _ => (byteOf_div x (w * j) i).symm
  rw [bytes, ofBytes_toBytes, elemOf, ← Nat.mul_assoc]
/-- An element within n bytes of DRAM, in the number that they make. -/
theorem elemOf_readBytes {n : Nat} (h : w * j + w ≤ n) :
    elemOf (ofBytes (readBytes s.dram.bytes pa n)) (8 * w) j = numberAt s (.dram (pa + w * j)) w := by
  rw [elemOf_bytes]
  refine congrArg ofBytes (List.map_congr_left fun i hi => ?_)
  have lt := List.mem_range.1 hi
  rw [byteOf_ofBytes, readBytes, List.getElem?_map, List.getElem?_range (by omega), Option.map_some, Option.getD_some, ← Nat.add_assoc]
  rfl
/-- Byte i of the j-th of some pieces of one length. -/
theorem getElem?_pieces {f : Nat → List Byte} (len : ∀ j, (f j).length = w) {i : Nat} (hi : i < w) (l : List Nat) (j : Nat) :
    (l.map f).flatten[w * j + i]? = l[j]?.bind fun x => (f x)[i]? := by
  induction l generalizing j with
  | nil => rfl
  | cons x r ih =>
    rw [List.map_cons, List.flatten_cons]
    cases j with
    | zero => rw [Nat.mul_zero, Nat.zero_add, List.getElem?_append_left (by rw [len]; exact hi)]; rfl
    | succ j =>
      rw [List.getElem?_append_right (by rw [len, Nat.mul_succ]; omega), len, Nat.mul_succ,
        show w * j + w + i - w = w * j + i by omega, ih]
      rfl
/-- A number of DRAM whose bytes are those of a list of codes. -/
theorem numberAt_codes {code : Nat → Nat} {n : Nat} (hj : j < n)
    (bytes : ∀ k, k < n * w → byteAt s (.dram (pa + k)) = ((List.range n).map fun j => toBytes w (code j)).flatten[k]?.getD 0) :
    numberAt s (.dram (pa + w * j)) w = code j % 2 ^ (8 * w) := by
  have fits : w * j + w ≤ n * w := by
    rw [← Nat.mul_succ, Nat.mul_comm n]
    exact Nat.mul_le_mul_left w hj
  rw [← ofBytes_toBytes]
  refine congrArg ofBytes (List.map_congr_left fun i hi => ?_)
  have lt := List.mem_range.1 hi
  rw [Home.add, Nat.add_assoc, bytes _ (by omega), getElem?_pieces (by simp [toBytes]) lt, List.getElem?_range hj]
  simp [toBytes, lt]

/-! ## The result -/

/-- The codes of a reduction of two ranks' sides. -/
def pairCode (c : Coll) (x y : List Byte) (j : Nat) : Nat :=
  let w := collWidth c.ty
  let rm : Rm := ⟨c.car.mode, if c.car.mode = 5 then srRnd c.car.seed (BitVec.ofNat 32 (w * j)) j else 0⟩
  (reduceElem c.ty c.op rm c.car.sat [elemOf (ofBytes x) (8 * w) j, elemOf (ofBytes y) (8 * w) j]).code
theorem collResult_reduced (hk : c.kind ≠ 1) (x y : CollSide) :
    (collResult c [x, y]).1 = ((List.range c.count).map fun j => toBytes (collWidth c.ty) (pairCode c x.data y.data j)).flatten := by
  simp only [collResult, hk, if_false, List.map_map]
  rfl
theorem collResult_sent (hk : c.kind = 1) (hr : c.root = 1) {x y : CollSide} (hx : x.rank = 0) (hy : y.rank = 1) :
    (collResult c [x, y]).1 = y.data := by
  simp [collResult, hk, hr, hx, hy]

/-! ## The event -/

theorem linkRoom_eq (n : Nat) (s : State) (p : Nat) : ∃ fr, (linkRoom n s p).2 = { s with free := fr } := by
  unfold linkRoom
  dsimp only
  split
  · exact ⟨s.free, rfl⟩
  · exact ⟨_, rfl⟩
theorem portFrames_eq (n : Nat) (s : State) (p : Nat) : ∃ ls fr, portFrames n s p = { s with links := ls, free := fr } := by
  obtain ⟨fr, e⟩ := linkRoom_eq n s p
  unfold portFrames
  split
  · exact ⟨s.links, s.free, rfl⟩
  · rcases room : linkRoom n s p with ⟨y, u⟩
    rw [room] at e
    obtain rfl : u = { s with free := fr } := e
    exact ⟨_, fr, rfl⟩
/-- Frames over the links change nothing but them and the free values. -/
theorem linkFrames_eq (s : State) (n : Nat) : ∃ ls fr, linkFrames s n = { s with links := ls, free := fr } := by
  unfold linkFrames
  generalize s.links.map (·.1) = l
  induction l generalizing s with
  | nil => exact ⟨s.links, s.free, rfl⟩
  | cons p r ih =>
    obtain ⟨ls, fr, e⟩ := portFrames_eq n s p
    obtain ⟨ls', fr', e'⟩ := ih (portFrames n s p)
    exact ⟨ls', fr', by rw [List.foldl_cons, e', e]⟩

/-- The state as the result comes: its flags in the configuration, its frames over the links. -/
def resultCome (s : State) (c : Coll) (fl : Flags) : State :=
  linkFrames (s.modCfg c.cfg fun k => { k with rflags := k.rflags ||| fl }) ((c.bytes + 4095) / 4096)
/-- The state after a collective of rank 0, its result written where this rank takes it. -/
def completed (s : State) (c : Coll) (r : List Byte × Flags) : State :=
  let v := resultCome s c r.2
  let u := if c.writes 0 then collWrite c (chunks 64 (c.bytes / 64) r.1) 0 v else v
  { u with coll := { u.coll with out := u.coll.out.erase c } }
theorem resultCome_kept (s : State) (c : Coll) (fl : Flags) :
    (resultCome s c fl).dram = s.dram ∧ (resultCome s c fl).coll = s.coll ∧ (resultCome s c fl).slices = s.slices := by
  obtain ⟨ls, fr, e⟩ := linkFrames_eq (s.modCfg c.cfg fun k => { k with rflags := k.rflags ||| fl }) ((c.bytes + 4095) / 4096)
  rw [resultCome, e]
  exact ⟨rfl, rfl, rfl⟩
theorem resultCome_writable (canonical : StoresCanonical s) (q : Quiescent s (.dram pa) c.bytes) (fl : Flags) :
    Writable (resultCome s c fl) pa c.bytes := by
  obtain ⟨windows, single, double⟩ := q
  obtain ⟨dram, -, slices⟩ := resultCome_kept s c fl
  refine ⟨.linkFrames (.modCfg canonical), dram ▸ single, dram ▸ double, ?_⟩
  rw [NoWindow, slices]
  exact noWindow_iff.1 windows

/-- What this rank's buffer gives to the collective. -/
def ownData (s : State) (c : Coll) (pa : Nat) : List Byte := if c.reads 0 then readBytes s.dram.bytes pa c.bytes else []
theorem exec_complete (h : Completes s g c d) (o : OnePage c pa at_) (len : d.data.length = c.bytes) (q : Quiescent s (.dram pa) c.bytes) :
    exec (.collectiveComplete g [d]) s = .next (completed s c (collResult c [ownSide c (ownData s c pa), d])) := by
  obtain ⟨oldest, ⟨open_, running⟩, ⟨nr, own, other⟩, ⟨e, mem, up⟩, agree, ⟨kind, hurdle⟩, ready⟩ := h
  obtain ⟨⟨va, slice, pages⟩, -, -⟩ := o
  have linked : (s.links.any fun l => l.2.st == 2) = true := List.any_eq_true.2 ⟨e, mem, by rw [up]; rfl⟩
  have acked : ((outstanding s c.tile).all fun a => decide (c.stamp ≤ a.id)) = true := by simpa using ready
  have stopped : s.coll.stopped.contains g = false := by simpa using running
  have barrier : (c.kind == 3) = false := beq_eq_false_iff_ne.2 kind
  have whole : ((List.range 2).all fun r => r == 0 || (([d].map (·.rank)).filter (· == r)).length == 1) = true := by
    simp [List.range_succ, other]
  have elsewhere : ([d].map (·.rank)).contains 0 = false := by simp [other]
  have agreed : ([d].any fun d => !agrees d (ownSide c [])) = false := by simp [agree]
  have full : ([d].any fun d => d.data.length != c.bytes && (c.kind != 1 || d.rank == c.root)) = false := by simp [len]
  have read : (if c.reads 0 then collRead c.pages s else some ([], s)) = some (ownData s c pa, s) := by
    unfold ownData
    split
    · simp [pages, collRead, homeRead_quiescent q, State.homeStore]
    · rfl
  have order : ([ownSide c (ownData s c pa), d].mergeSort fun a b => decide (a.rank ≤ b.rank)) = [ownSide c (ownData s c pa), d] := by
    refine List.mergeSort_of_pairwise ?_
    simp [ownSide, own]
  refine occur_some (f := evCollectiveComplete g [d]) ?_
  simp only [evCollectiveComplete, oldest, open_, stopped, nr, own, linked, acked, barrier, whole, elsewhere, agreed, full, read, order,
    hurdle, List.length_singleton, bne_self_eq_false, Bool.or_true, Bool.or_self, Bool.not_true, Bool.false_eq_true, if_false]
  rfl

end Sys2Proof.Spec
end

section
/-! PROOF. Collectives and barriers (R308-R313; O41). -/

namespace Sys2Proof.Spec

open Sys2Proof.Machine

variable {s s' : State} {c : Coll} {d : CollSide} {g pa at_ : Nat}

/-! ## Completion -/

theorem exec_barrier_alone (oldest : s.coll.out.find? (·.g == g) = some c) (open_ : s.written c.tile = false) (kind : c.kind = 3)
    (running : g ∉ s.coll.stopped) (nr : grpNr c.grp = 1) (own : grpRank c.grp = 0) : exec (.collectiveComplete g []) s =
      .next { s with coll := { s.coll with barDone := tput s.coll.barDone g (c.n + 1), out := s.coll.out.erase c } } := by
  have reads : c.reads 0 = false := by
    rw [Coll.reads, kind]
    rfl
  refine occur_some (f := evCollectiveComplete g []) ?_
  simp [evCollectiveComplete, oldest, open_, running, kind, nr, own, reads]

/-- A barrier of two ranks as the other rank's side has come over a link. -/
structure BarrierHere (s : State) (g : Nat) (c : Coll) (d : CollSide) : Prop where
  oldest : s.coll.out.find? (·.g == g) = some c
  open_ : s.written c.tile = false
  kind : c.kind = 3
  running : g ∉ s.coll.stopped
  ranks : grpNr c.grp = 2 ∧ grpRank c.grp = 0 ∧ d.rank = 1
  linked : ∃ e ∈ s.links, e.2.st = 2
theorem evCollectiveComplete_barrier (h : BarrierHere s g c d) : evCollectiveComplete g [d] s = some (
    if agrees d (ownSide c []) then
      { s with coll := { s.coll with barDone := tput s.coll.barDone g (c.n + 1), out := s.coll.out.erase c } }
    else
      let u := event s (((s.cfg c.cfg).map (·.owner)).getD 0) 0x05 0 0xFFFF c.ctx 0xFFFF (BitVec.ofNat 64 g) (BitVec.ofNat 64 c.n)
      { u with coll := { u.coll with stopped := u.coll.stopped ++ [g] } }) := by
  obtain ⟨oldest, open_, kind, running, ⟨nr, own, other⟩, ⟨e, mem, up⟩⟩ := h
  have linked : (s.links.any fun l => l.2.st == 2) = true := List.any_eq_true.2 ⟨e, mem, by rw [up]; rfl⟩
  have stopped : s.coll.stopped.contains g = false := by simpa using running
  have barrier : (c.kind == 3) = true := beq_iff_eq.2 kind
  have reads : c.reads 0 = false := by
    rw [Coll.reads, kind]
    rfl
  have whole : ((List.range 2).all fun r => r == 0 || (([d].map (·.rank)).filter (· == r)).length == 1) = true := by
    simp [List.range_succ, other]
  have elsewhere : ([d].map (·.rank)).contains 0 = false := by simp [other]
  simp only [evCollectiveComplete, oldest, open_, stopped, nr, own, linked, barrier, whole, elsewhere, reads,
    List.length_singleton, bne_self_eq_false, Bool.or_true, Bool.or_self, Bool.not_true, Bool.true_or, Bool.false_eq_true, if_false]
  cases agree : agrees d (ownSide c []) with
  | true => simp [agree]
  | false => simp [agree]

/-! ## The buffer after a completion -/

theorem bytes_reduced (hk : c.kind ≠ 1) : c.bytes = c.count * collWidth c.ty := by
  rw [Coll.bytes, if_neg hk]
theorem result_length (hk : c.kind ≠ 1) (x y : CollSide) : (collResult c [x, y]).1.length = c.bytes := by
  rw [collResult_reduced hk, bytes_reduced hk]
  simp [toBytes, Function.comp_def]
/-- The result that a broadcast's receiver takes is the other rank's data, or nothing where no side is the root's. -/
theorem result_broadcast (hk : c.kind = 1) (hw : c.writes 0 = true) {x y : CollSide} (hx : x.rank = 0) (hy : y.rank = 1) :
    (collResult c [x, y]).1 = y.data ∨ (collResult c [x, y]).1 = [] := by
  have notRoot : c.root ≠ 0 := by
    simp only [Coll.writes, hk] at hw
    simpa using Ne.symm (by simpa using hw)
  by_cases hr : c.root = 1
  · exact .inl (collResult_sent hk hr hx hy)
  · refine .inr ?_
    simp [collResult, hk, hx, hy, Ne.symm notRoot, Ne.symm hr]

section
variable {r : List Byte × Flags} (o : OnePage c pa at_) (lines : c.bytes % 64 = 0) (canonical : StoresCanonical s)
  (q : Quiescent s (.dram pa) c.bytes)
include o lines canonical q

theorem completed_written (hw : c.writes 0 = true) (len : r.1.length = c.bytes) : (completed s c r).coll.out = s.coll.out.erase c ∧
    ∀ k, k < c.bytes → byteAt (completed s c r) (.dram (pa + k)) = r.1[k]?.getD 0 := by
  obtain ⟨coll, bytes⟩ := collWrite_result o (resultCome_writable canonical q r.2) lines len
  have e : completed s c r = { collWrite c (chunks 64 (c.bytes / 64) r.1) 0 (resultCome s c r.2) with
      coll := { (collWrite c (chunks 64 (c.bytes / 64) r.1) 0 (resultCome s c r.2)).coll with
        out := (collWrite c (chunks 64 (c.bytes / 64) r.1) 0 (resultCome s c r.2)).coll.out.erase c } } := by
    simp only [completed, hw, if_true]
  rw [e]
  refine ⟨?_, bytes⟩
  show (collWrite c _ 0 _).coll.out.erase c = _
  rw [coll, (resultCome_kept s c r.2).2.1]
theorem completed_reduced (hk : c.kind ≠ 1) (reads : c.reads 0 = true) (hw : c.writes 0 = true) {j : Nat} (hj : j < c.count) :
    let w := collWidth c.ty
    let rm : Rm := ⟨c.car.mode, if c.car.mode = 5 then srRnd c.car.seed (BitVec.ofNat 32 (w * j)) j else 0⟩
    numberAt (completed s c (collResult c [ownSide c (ownData s c pa), d])) (.dram (pa + w * j)) w = (reduceElem c.ty c.op rm c.car.sat
      [numberAt s (.dram (pa + w * j)) w, elemOf (ofBytes d.data) (8 * w) j]).code % 2 ^ (8 * w) := by
  intro w rm
  have bytes := (completed_written o lines canonical q hw (result_length hk (ownSide c (ownData s c pa)) d)).2
  have data : ownData s c pa = readBytes s.dram.bytes pa c.bytes := if_pos reads
  have fits : w * j + w ≤ c.bytes := by
    rw [bytes_reduced hk, ← Nat.mul_succ, Nat.mul_comm c.count]
    exact Nat.mul_le_mul_left w hj
  rw [bytes_reduced hk] at bytes
  rw [← elemOf_readBytes (s := s) fits, ← data]
  refine numberAt_codes (code := pairCode c (ownData s c pa) d.data) hj fun k hk' => ?_
  rw [bytes k hk', collResult_reduced hk]
  rfl
end
/-- Where nothing is written, memory stays. -/
theorem completed_unwritten (r : List Byte × Flags) (h : c.writes 0 = false ∨ r.1 = []) :
    (completed s c r).coll.out = s.coll.out.erase c ∧ (completed s c r).dram = s.dram := by
  obtain ⟨dram, coll, -⟩ := resultCome_kept s c r.2
  have e : completed s c r = { resultCome s c r.2 with coll := { (resultCome s c r.2).coll with
      out := (resultCome s c r.2).coll.out.erase c } } := by
    rcases h with h | h
    · simp only [completed, h, Bool.false_eq_true, if_false]
    · simp only [completed, h, collWrite_nothing, ite_self]
  rw [e, coll]
  exact ⟨rfl, dram⟩

section
variable (h : Completes s g c d) (o : OnePage c pa at_) (lines : c.bytes % 64 = 0) (len : d.data.length = c.bytes)
  (canonical : StoresCanonical s) (q : Quiescent s (.dram pa) c.bytes)
include h o lines len canonical q

theorem completed_out : (completed s c (collResult c [ownSide c (ownData s c pa), d])).coll.out = s.coll.out.erase c := by
  obtain ⟨-, own, other⟩ := h.ranks
  cases hw : c.writes 0 with
  | false => exact (completed_unwritten _ (.inl hw)).1
  | true =>
    by_cases hk : c.kind = 1
    · rcases result_broadcast (x := ownSide c (ownData s c pa)) hk hw own other with e | e
      · exact (completed_written o lines canonical q hw (e ▸ len)).1
      · exact (completed_unwritten _ (.inr e)).1
    · exact (completed_written o lines canonical q hw (result_length hk _ _)).1
theorem completed_sent (hk : c.kind = 1) (hr : c.root = 1) {j : Nat} (hj : j < c.count) :
    numberAt (completed s c (collResult c [ownSide c (ownData s c pa), d])) (.dram (pa + 4 * j)) 4 = elemOf (ofBytes d.data) 32 j := by
  obtain ⟨-, own, other⟩ := h.ranks
  have result : (collResult c [ownSide c (ownData s c pa), d]).1 = d.data := collResult_sent hk hr own other
  have hw : c.writes 0 = true := by
    simp only [Coll.writes, hk, hr]
    rfl
  have bytes := (completed_written o lines canonical q hw (result ▸ len)).2
  have size : c.bytes = c.count * 4 := by rw [Coll.bytes, if_pos hk]
  rw [elemOf_bytes (w := 4)]
  refine congrArg ofBytes (List.map_congr_left fun i hi => ?_)
  have lt := List.mem_range.1 hi
  rw [Home.add, Nat.add_assoc, bytes _ (by omega), result, byteOf_ofBytes]
end

end Sys2Proof.Spec
end

section
/-! PROOF. Collectives and barriers as they are issued (R308-R311; O41). -/

namespace Sys2Proof.Spec

open Sys2Proof.Machine

variable {s s' : State} {f : FE} {kind : BitVec 2} {a n : Word} {root : Nat} {parts : List Part} {v : Word} {r : BitVec 8}

/-! ## The checks of a collective -/

theorem Holds.run (h : Holds s r v) : readG r.toNat false s = .ok (v, s) := by
  obtain ⟨hr, full, good, rfl⟩ := h
  exact readG_full hr full good
theorem needM_ok (h : MTask s) : needM s = .ok ((), s) := by
  have hm : (s.tile s.cur).isM = true := h
  simp only [needM, getT_bind, hm]
  rfl
theorem notReplay_ok (h : NoReplay s) : notReplay s = .ok ((), s) := by
  unfold NoReplay at h
  simp only [notReplay, getS_bind, h]
  rfl
theorem notRedundant_ok (h : NotRedundant s) : notRedundant s = .ok ((), s) := by
  unfold NotRedundant at h
  simp only [notRedundant, getS_bind, h]
  rfl
theorem need_bind {α : Type} {b : Bool} (h : b = true) (k : Unit → M α) : (need b >>= k) s = k () s := by
  rw [h]
  rfl
theorem collRoom_ok {g : Nat} (h : g ∉ s.coll.stopped ∧ s.coll.out.length < 8) : collRoom g s = .ok ((), s) := by
  obtain ⟨running, room⟩ := h
  have stopped : s.coll.stopped.contains g = false := by simpa using running
  simp only [collRoom, getS_bind, stopped, room]
  rfl
/-- A task that may issue collectives: an M task whose actor neither replays nor runs redundantly, alone, its predicate on (R50, R309). -/
structure CollTask (p : Pred) (s : State) : Prop where
  mt : MTask s
  nr : NoReplay s
  nd : NotRedundant s
  al : Alone s
  on : On p s
/-- The word of a hurdle in a store without errors. -/
theorem readHurdle_ok (h : Whole s) (i : Nat) : readHurdle i s = .ok ((here s).armed i, s) := by
  obtain ⟨listed, single, double⟩ := h
  have good : (s.tile s.cur).hdBad i = none := by
    have : (s.tile s.cur).store.bad2 = [] := double
    simp [Tile.hdBad, Store.badRead, this]
  have same : (match ((s.tile s.cur).hd i).bound with
      | some o => { s.tile s.cur with store := (s.tile s.cur).store.scrub o 8 }
      | none => s.tile s.cur) = s.tile s.cur := by
    have : (s.tile s.cur).store.bad1 = [] := single
    split
    · simp only [Store.scrub, this, List.isEmpty_nil, Bool.true_or, if_true]
    · rfl
  simp only [readHurdle, getT_bind, good, modT_bind]
  have kept : s.modTile s.cur (fun x => match (x.hd i).bound with
      | some o => { x with store := x.store.scrub o 8 }
      | none => x) = s := by
    refine Eq.trans ?_ listed
    exact congrArg (s.setTile s.cur) same
  exact congrArg (fun u => Except.ok ((s.tile s.cur).armed i, u)) kept

/-! ## The collective that is issued -/

/-- The hurdle that a collective names. -/
def collHurdle (f : FE) : Option Nat := if f.cmd.getLsbD 7 then some (f.cmd.toNat / 256 % 32) else none
/-- Whether the issuing rank's buffer is written. -/
def collWrites (s : State) (f : FE) (kind : BitVec 2) (root : Nat) : Bool :=
  kind == 0 || (if kind = 1 then grpRank (groupWord s f) != root else grpRank (groupWord s f) == root)
/-- What becomes outstanding. -/
def collOp (s : State) (f : FE) (kind : BitVec 2) (a : Word) (n root : Nat) (parts : List Part) : Coll :=
  { g := f.ix.toNat, n := tget 0 s.coll.ord f.ix.toNat, grp := groupWord s f, kind := kind, ty := f.cmd.setWidth 4
    op := (f.cmd >>> 4).setWidth 2, dg := f.cmd.getLsbD 6, va := a, count := n, root := root, car := (here s).csr.carry, pgsz := pageCode s
    hd := collHurdle f, tile := s.cur, cfg := s.sqOf s.cur, ctx := s.ctxOf s.cur, stamp := (here s).nextAcc, pages := parts }
/-- The same as the model writes it: the tile, its context, its carried modes and its page size were read before the walks. -/
def collRecord (f : FE) (kind : BitVec 2) (a : Word) (n root : Nat) (parts : List Part) (t cx : Nat) (car : Carried) (pg : BitVec 2)
    (u : State) : Coll :=
  { g := f.ix.toNat, n := tget 0 u.coll.ord f.ix.toNat, grp := groupWord u f, kind := kind, ty := BitVec.ofNat 4 f.cmd.toNat
    op := BitVec.ofNat 2 (f.cmd.toNat / 16), dg := nbit f.cmd.toNat 6, va := a, count := n, root := root, car := car, pgsz := pg
    hd := if nbit f.cmd.toNat 7 then some (nfld f.cmd.toNat 8 5) else none, tile := t, cfg := u.sqOf t, ctx := cx
    stamp := (u.tile t).nextAcc, pages := parts }
/-- The state as it becomes so: counted in its group and on its hurdle, the lines that it writes empty, the photo finish armed where it
asks. -/
def collCounted (op : Coll) (s : State) : State :=
  { s with coll := { s.coll with ord := tput s.coll.ord op.g (op.n + 1), out := s.coll.out ++ [op] } }
def collPended (op : Coll) (s : State) : State :=
  match op.hd with
  | some h => pendBy s op.tile h true false
  | none => s
def collEmptied (op : Coll) (writes : Bool) (s : State) : State := if writes then emptyParts s op.tile op.pages else s
def collArmed (op : Coll) (s : State) : State :=
  if op.dg then s.modCfg (s.sqOf op.tile) fun c => { c with dg := some (op.g, op.n, op.grp) } else s
def collIssued (s : State) (op : Coll) (writes : Bool) : State := collArmed op (collEmptied op writes (collPended op (collCounted op s)))
theorem collWrites_eq (hk : kind = 0 ∨ kind = 1 ∨ kind = 2) : (match kind.toNat with
      | 0 => true
      | 1 => grpRank (groupWord s f) != root
      | _ => grpRank (groupWord s f) == root) = collWrites s f kind root := by
  rcases hk with rfl | rfl | rfl <;> rfl

/-- A collective's root, as its kind has one. -/
theorem rootRead (h : (kind = 0 ∧ root = 0) ∨ (kind ≠ 0 ∧ ∃ r, Holds s f.gc r ∧ root = r.toNat ∧ root < grpNr (groupWord s f)))
    (k : Nat → M Go) : (if kind = 0 then (pure 0 : M Nat) >>= k
      else (readG f.gc.toNat false >>= fun x => pure x.toNat) >>= k) s = k root s := by
  rcases h with ⟨h, rfl⟩ | ⟨h, x, hx, rfl, -⟩
  · rw [if_pos h]
    rfl
  · rw [if_neg h]
    exact bind_ok (bind_ok hx.run)
/-- The hurdle that a collective names is armed and counts bytes. -/
theorem hurdleRead (h : f.cmd.getLsbD 7 = true → Whole s ∧ ∃ o x, (here s).armed (f.cmd.toNat / 256 % 32) = some (o, x) ∧ x / 2 ^ 34 % 2 = 1)
    (k : Unit → M Go) : (match (if nbit f.cmd.toNat 7 then some (nfld f.cmd.toNat 8 5) else none : Option Nat) with
      | none => k ()
      | some h => readHurdle h >>= fun r => match r with
        | some (_, x) => need (hwBytes x) >>= k
        | none => illop >>= k) s = k () s := by
  rw [nbit_toNat]
  by_cases h7 : f.cmd.getLsbD 7 = true
  · obtain ⟨whole, o, x, armed, bytes⟩ := h h7
    simp only [h7, if_true]
    rw [bind_ok (readHurdle_ok whole _)]
    have armed' : (here s).armed (nfld f.cmd.toNat 8 5) = some (o, x) := armed
    rw [armed']
    exact need_bind (beq_iff_eq.2 bytes) k
  · simp only [h7]
    rfl

/-- The last part of `collM`: the walks of the buffer, and the issue. -/
def collWalked (kind : BitVec 2) (f : FE) (a : Word) (n root : Nat) (s : State) : M Go := do
  let (cx, car, pg) ← carryNow
  let ty : BitVec 4 := BitVec.ofNat 4 f.cmd.toNat
  let bytes := n * if kind = 1 then 4 else collWidth ty
  let rank := grpRank (groupWord s f)
  let size := pageBytes pg
  let pages := (a.toNat + bytes - 1) / size - a.toNat / size + 1
  let parts ← bufferParts a bytes false size pages
  let writes : Bool := match kind.toNat with
    | 0 => true
    | 1 => rank != root
    | _ => rank == root
  if writes then
    let _ ← bufferParts a bytes true size pages
  collRoom f.ix.toNat
  modS fun u => collIssued u (collRecord f kind a n root parts s.cur cx car pg u) writes
  pure .on
/-- The part of `collM` that follows the reading of its operands. -/
def collPlaced (kind : BitVec 2) (f : FE) (a : Word) (n root : Nat) (s : State) : M Go := do
  need (!(nbit f.cmd.toNat 6 && hasDg s))
  let ty : BitVec 4 := BitVec.ofNat 4 f.cmd.toNat
  match steer s.cur 0 a (n * if kind = 1 then 4 else collWidth ty) with
  | some (.glob _) => pure ()
  | _ => trap 0x03 a
  if a.toNat % 64 ≠ 0 then trap 0x06 a
  if kind != 1 && ty != 0 then needMode
  collWalked kind f a n root s

theorem collRecord_eq {u : State} (cur : u.cur = s.cur) (tile : here u = here s) (coll : u.coll = s.coll) (n : Nat) :
    collRecord f kind a n root parts s.cur (s.ctxOf s.cur) (here s).csr.carry (pageCode s) u = collOp s f kind a n root parts := by
  have tile' : u.tile s.cur = s.tile s.cur := by
    rw [here, cur] at tile
    exact tile
  have op : BitVec.ofNat 2 (f.cmd.toNat / 16) = (f.cmd >>> 4).setWidth 2 := by
    rw [← BitVec.toNat_inj, BitVec.toNat_ofNat, BitVec.toNat_setWidth, BitVec.toNat_ushiftRight, Nat.shiftRight_eq_div_pow]
  simp only [collRecord, collOp, coll, groupWord, State.sqOf, tile', nbit_toNat, BitVec.ofNat_toNat, op, collHurdle]
  rfl
theorem collWalked_ok {s2 : State} (hk : kind = 0 ∨ kind = 1 ∨ kind = 2) (room : f.ix.toNat ∉ s.coll.stopped ∧ s.coll.out.length < 8)
    (cur : s2.cur = s.cur) (tile : here s2 = here s) (coll : s2.coll = s.coll) {n : Nat} {s1 : State} {ps : List Part} :
    let size := pageBytes (pageCode s)
    let bytes := n * if kind = 1 then 4 else collWidth (f.cmd.setWidth 4)
    let pages := (a.toNat + bytes - 1) / size - a.toNat / size + 1
    Gives (bufferParts a bytes false size pages) s parts s1 →
    (if collWrites s f kind root then Gives (bufferParts a bytes true size pages) s1 ps s2 else s2 = s1) →
    collWalked kind f a n root s s = .ok (.on, collIssued s2 (collOp s f kind a n root parts) (collWrites s f kind root)) := by
  intro size bytes pages walk walk'
  have page : BitVec.ofNat 2 (nfld (s.tile s.cur).csr.pgsz.toNat 0 2) = pageCode s := by
    rw [nfld, pow_zero, Nat.div_one, ← BitVec.toNat_inj, BitVec.toNat_ofNat, Nat.mod_mod, pageCode, BitVec.toNat_setWidth]
    rfl
  have carry : carryNow s = .ok ((s.ctxOf s.cur, (here s).csr.carry, pageCode s), s) := by
    rw [← page]
    rfl
  have issued : (modS (fun u => collIssued u (collRecord f kind a n root parts s.cur (s.ctxOf s.cur) (here s).csr.carry (pageCode s) u)
      (collWrites s f kind root)) >>= fun _ => pure Go.on) s2 =
      .ok (.on, collIssued s2 (collOp s f kind a n root parts) (collWrites s f kind root)) := by
    rw [modS_bind, pure_run, collRecord_eq cur tile coll]
  rw [collWalked, bind_ok carry]
  simp only [BitVec.ofNat_toNat, collWrites_eq hk]
  rw [bind_ok walk]
  cases hw : collWrites s f kind root with
  | true =>
    rw [hw, if_pos rfl] at walk'
    rw [if_pos rfl, bind_ok walk', bind_ok (collRoom_ok (coll ▸ room)), ← hw]
    exact issued
  | false =>
    rw [hw, if_neg Bool.false_ne_true] at walk'
    subst walk'
    rw [if_neg Bool.false_ne_true, bind_ok (collRoom_ok (coll ▸ room)), ← hw]
    exact issued
theorem collPlaced_ok {n : Nat} (photo : f.cmd.getLsbD 6 = true → hasDg s = false)
    (buffer : ∃ va, steer s.cur 0 a (n * if kind = 1 then 4 else collWidth (f.cmd.setWidth 4)) = some (.glob va))
    (aligned : a.toNat % 64 = 0) (mode : ModeOk (kind != 1 && (f.cmd.setWidth 4 : BitVec 4) != 0) s) :
    collPlaced kind f a n root s s = collWalked kind f a n root s s := by
  obtain ⟨va, buffer⟩ := buffer
  have unarmed : (!(nbit f.cmd.toNat 6 && hasDg s)) = true := by
    rw [nbit_toNat]
    cases h : f.cmd.getLsbD 6 with
    | false => rfl
    | true => simp [photo h]
  rw [collPlaced, need_bind unarmed]
  simp only [BitVec.ofNat_toNat, buffer, aligned, ne_eq, not_true_eq_false, if_false]
  exact mode.run _

theorem collM_run (task : CollTask f.p s) (ha : Holds s f.ga a) (hn : Holds s f.gb n) (hk : kind = 0 ∨ kind = 1 ∨ kind = 2)
    (ok : CollOk f kind s a n.toNat root)
    (walked : Walked s a (n.toNat * if kind = 1 then 4 else collWidth (f.cmd.setWidth 4)) (collWrites s f kind root) parts) :
    ∃ s2, s2.cur = s.cur ∧ here s2 = here s ∧ s2.coll = s.coll ∧
      collM kind f s = .ok (.on, collIssued s2 (collOp s f kind a n.toNat root parts) (collWrites s f kind root)) := by
  obtain ⟨s1, s2, ps, walk, walk', cur, tile, coll⟩ := walked
  refine ⟨s2, cur, tile, coll, ?_⟩
  obtain ⟨hroot, ⟨lo, hi, lines⟩, group, hurdle, photo, buffer, aligned, mode, room⟩ := ok
  have count : (decide (16 ≤ n.toNat) && decide (n.toNat ≤ 2 ^ 24) &&
      n.toNat * (if kind = 1 then 4 else collWidth (BitVec.ofNat 4 f.cmd.toNat)) % 64 == 0) = true := by
    rw [BitVec.ofNat_toNat, lines, decide_eq_true lo, decide_eq_true hi]
    rfl
  have rank : (grpOk s f.ix.toNat && (decide (kind = 0) || decide (root < grpNr (tget 0 s.coll.grp f.ix.toNat)))) = true := by
    rw [group, Bool.true_and, Bool.or_eq_true, decide_eq_true_eq, decide_eq_true_eq]
    rcases hroot with ⟨h, -⟩ | ⟨-, x, -, -, h⟩
    · exact .inl h
    · exact .inr h
  rw [collM, task.on.run, bind_ok (needM_ok task.mt), bind_ok (notReplay_ok task.nr), bind_ok (notRedundant_ok task.nd), bind_ok ha.run,
    bind_ok hn.run]
  refine (rootRead hroot _).trans ((getS_bind _ _).trans ((me_bind _ _).trans ?_))
  refine (need_bind count _).trans ((need_bind rank _).trans ((hurdleRead hurdle fun _ => collPlaced kind f a n.toNat root s).trans ?_))
  exact (collPlaced_ok photo buffer aligned mode).trans (collWalked_ok hk room cur tile coll walk walk')

/-! ## The state once a collective is issued -/

/-- The collectives, the executing tile, and a tile's registers and engines are the same. -/
structure Untouched (t : Nat) (s s' : State) : Prop where
  coll : s'.coll = s.coll
  cur : s'.cur = s.cur
  regs : (s'.tile t).regs = (s.tile t).regs
  eng : (s'.tile t).eng = (s.tile t).eng
theorem Untouched.refl (t : Nat) (s : State) : Untouched t s s := ⟨rfl, rfl, rfl, rfl⟩
theorem Untouched.trans {t : Nat} {u : State} (h : Untouched t s s') (h' : Untouched t s' u) : Untouched t s u :=
  ⟨h'.coll.trans h.coll, h'.cur.trans h.cur, h'.regs.trans h.regs, h'.eng.trans h.eng⟩
theorem untouched_setFull (t : Nat) (h : Home) (k : Nat) (b : Bool) : Untouched t s (setFull s h k b) := by
  cases h with
  | dram pa => exact ⟨rfl, rfl, rfl, rfl⟩
  | host pa => exact .refl t s
  | tile u off =>
    by_cases e : t = u
    · subst e
      exact ⟨rfl, rfl, by simp [setFull, State.putHome], by simp [setFull, State.putHome]⟩
    · have same : (setFull s (.tile u off) k b).tile t = s.tile t := tile_modTile_other s _ e
      exact ⟨rfl, rfl, congrArg Tile.regs same, congrArg Tile.eng same⟩
theorem untouched_emptyParts (t : Nat) (ps : List Part) : Untouched t s (emptyParts s t ps) := by
  unfold emptyParts
  generalize ht : t = u
  induction ps generalizing s with
  | nil => exact .refl u s
  | cons p r ih =>
    rw [List.foldl_cons]
    refine Untouched.trans ?_ ih
    split
    · exact untouched_setFull u ..
    · exact .refl u s
theorem hd_pendBy (t h : Nat) : (((pendBy s t h true false).tile t).hd h).pend = ((s.tile t).hd h).pend + 1 := by
  simp [pendBy, Tile.hd, Tile.setHd, tget_tput_same]
theorem untouched_emptied (op : Coll) (writes : Bool) : Untouched op.tile s (collEmptied op writes s) := by
  unfold collEmptied
  split
  · exact untouched_emptyParts ..
  · exact .refl ..
theorem untouched_armed (op : Coll) : Untouched op.tile s (collArmed op s) := by
  unfold collArmed
  split
  · exact ⟨rfl, rfl, rfl, rfl⟩
  · exact .refl ..
theorem collPended_facts (op : Coll) : (collPended op s).coll = s.coll ∧ (collPended op s).cur = s.cur ∧
    ((collPended op s).tile op.tile).regs = (s.tile op.tile).regs ∧
    ∀ h, op.hd = some h → (((collPended op s).tile op.tile).hd h).pend = ((s.tile op.tile).hd h).pend + 1 := by
  unfold collPended
  cases op.hd with
  | none => exact ⟨rfl, rfl, rfl, fun h e => by cases e⟩
  | some i =>
    refine ⟨rfl, rfl, by simp [pendBy, Tile.setHd], fun h e => ?_⟩
    cases e
    exact hd_pendBy op.tile i
/-- A collective that is issued is outstanding and counted; the tile's registers stay, and its hurdle waits for it. -/
theorem collIssued_facts (op : Coll) (writes : Bool) :
    let u := collIssued s op writes
    u.coll = { s.coll with ord := tput s.coll.ord op.g (op.n + 1), out := s.coll.out ++ [op] } ∧ u.cur = s.cur ∧
      (u.tile op.tile).regs = (s.tile op.tile).regs ∧
      ∀ h, op.hd = some h → ((u.tile op.tile).hd h).pend = ((s.tile op.tile).hd h).pend + 1 := by
  obtain ⟨coll, cur, regs, pend⟩ := collPended_facts (s := collCounted op s) op
  have rest := (untouched_emptied (s := collPended op (collCounted op s)) op writes).trans (untouched_armed op)
  refine ⟨rest.coll.trans coll, rest.cur.trans cur, rest.regs.trans regs, fun h e => ?_⟩
  refine Eq.trans ?_ (pend h e)
  rw [collIssued, Tile.hd, rest.eng]
  rfl

theorem exec_coll {i : Instr} (hx : ∀ s, exec i s = issue i (collM kind f) s) (task : CollTask f.p s) (ha : Holds s f.ga a)
    (hn : Holds s f.gb n) (hk : kind = 0 ∨ kind = 1 ∨ kind = 2) (ok : CollOk f kind s a n.toNat root)
    (walked : Walked s a (n.toNat * if kind = 1 then 4 else collWidth (f.cmd.setWidth 4)) (collWrites s f kind root) parts) :
    ∃ t, exec i s = .next t ∧ t.coll.out = s.coll.out ++ [collOp s f kind a n.toNat root parts] ∧
      tget 0 t.coll.ord f.ix.toNat = tget 0 s.coll.ord f.ix.toNat + 1 ∧ (here t).regs = (here s).regs.advance ∧
      ∀ h, collHurdle f = some h → ((here t).hd h).pend = ((here s).hd h).pend + 1 := by
  obtain ⟨s2, cur, tile, coll, run⟩ := collM_run task ha hn hk ok walked
  obtain ⟨coll', cur', regs, pend⟩ := collIssued_facts (s := s2) (collOp s f kind a n.toNat root parts) (collWrites s f kind root)
  refine ⟨_, (hx s).trans (issue_ok task.al.solo run), ?_⟩
  have tile' : s2.tile s.cur = here s := by
    rw [← tile, here, cur]
  have own : (collIssued s2 (collOp s f kind a n.toNat root parts) (collWrites s f kind root)).cur = s.cur := cur'.trans cur
  rw [here, State.modTile_cur, own, State.tile_modTile, State.modTile_coll, coll', coll]
  have regs' := regs.trans (congrArg Tile.regs tile')
  refine ⟨rfl, tget_tput_same .., ?_, fun h e => ?_⟩
  · rw [← regs']
    rfl
  · rw [← tile']
    exact pend h e

/-! ## Barriers -/

/-- A barrier, as it becomes outstanding. -/
def barrierOp (s : State) (f : FE) : Coll :=
  { g := f.ix.toNat, n := tget 0 s.coll.ord f.ix.toNat, grp := groupWord s f, kind := 3, ty := 0, op := 0, dg := false, va := 0, count := 0
    root := 0, car := (here s).csr.carry, pgsz := 0, hd := none, tile := s.cur, cfg := s.sqOf s.cur, ctx := s.ctxOf s.cur, stamp := 0 }
theorem exec_cbar_issued (task : CollTask f.p s) (bar : (here s).sch.bar = none)
    (group : grpOk s f.ix.toNat = true) (clear : scopeClear s s.cur 3 (here s).nextAcc = true)
    (room : f.ix.toNat ∉ s.coll.stopped ∧ s.coll.out.length < 8) :
    exec (.cbar f) s = .next ((collCounted (barrierOp s f) s).modTile s.cur fun x =>
      { x with sch := { x.sch with bar := some (f.ix.toNat, tget 0 s.coll.ord f.ix.toNat) } }) := by
  have bar' : (s.tile s.cur).sch.bar = none := bar
  have clear' : scopeClear s s.cur 3 (s.tile s.cur).nextAcc = true := clear
  refine issue_sent (m := cbarM f) task.al.solo ?_
  rw [cbarM, task.on.run, bind_ok (needM_ok task.mt), bind_ok (notReplay_ok task.nr), bind_ok (notRedundant_ok task.nd)]
  simp only [getS_bind, getT_bind, bar', clear']
  rw [need_bind group, await_true_bind, bind_ok (collRoom_ok room)]
  rfl
theorem exec_cbar_waits (task : CollTask f.p s) {h m : Nat}
    (bar : (here s).sch.bar = some (h, m)) :
    (m < tget 0 s.coll.barDone h → exec (.cbar f) s = .next (done s fun x => { x with sch := { x.sch with bar := none } })) ∧
      (tget 0 s.coll.barDone h ≤ m → exec (.cbar f) s = .next s) := by
  have bar' : (s.tile s.cur).sch.bar = some (h, m) := bar
  have run : cbarM f s = (await (decide (m < tget 0 s.coll.barDone h)) >>= fun _ =>
      modT (fun x => { x with sch := { x.sch with bar := none } }) >>= fun _ => pure .on) s := by
    rw [cbarM, task.on.run, bind_ok (needM_ok task.mt), bind_ok (notReplay_ok task.nr), bind_ok (notRedundant_ok task.nd)]
    simp only [getS_bind, getT_bind, bar']
  constructor
  · intro past
    refine issue_done (m := cbarM f) task.al rfl ?_
    rw [run, decide_eq_true past]
    rfl
  · intro waits
    refine issue_hold (m := cbarM f) task.al.solo ?_
    rw [run, decide_eq_false (Nat.not_lt.2 waits)]
    rfl

/-- Settles O41: the checks of an issue go through as its hypotheses say, and a completion is that of the two sides in their order. -/
theorem collectives : Obligations.Collectives := by
  unfold Obligations.Collectives
  refine ⟨⟨?issue, ?barrier⟩, ⟨?alone, ?pair, ?values⟩, ?int, ?float, ?exact⟩
  case issue =>
    refine List.forall_mem_cons.2 ⟨?car, List.forall_mem_cons.2 ⟨?cbc, List.forall_mem_cons.2 ⟨?crd, List.forall_mem_nil _⟩⟩⟩
    case car =>
      intro f s a n root mt nr nd al on ha hn ok ty hd rank writes parts walked
      exact exec_coll (fun s => rfl) ⟨mt, nr, nd, al, on⟩ ha hn (.inl rfl) ok walked
    case cbc =>
      intro f s a n root mt nr nd al on ha hn ok ty hd rank writes parts walked
      exact exec_coll (fun s => rfl) ⟨mt, nr, nd, al, on⟩ ha hn (.inr (.inl rfl)) ok walked
    case crd =>
      intro f s a n root mt nr nd al on ha hn ok ty hd rank writes parts walked
      exact exec_coll (fun s => rfl) ⟨mt, nr, nd, al, on⟩ ha hn (.inr (.inr rfl)) ok walked
  case barrier =>
    intro f s mt nr nd al on
    exact ⟨fun bar group clear running room => exec_cbar_issued ⟨mt, nr, nd, al, on⟩ bar group clear ⟨running, room⟩,
      fun h m bar => exec_cbar_waits ⟨mt, nr, nd, al, on⟩ bar⟩
  case alone => exact fun s g c oldest open_ kind running nr own => exec_barrier_alone oldest open_ kind running nr own
  case pair =>
    intro s g c d oldest open_ kind running nr own other linked
    have run : exec (.collectiveComplete g [d]) s = _ :=
      occur_some (evCollectiveComplete_barrier ⟨oldest, open_, kind, running, ⟨nr, own, other⟩, linked⟩)
    constructor
    · intro agree
      rw [run, if_pos agree]
    · intro differ
      rw [run, if_neg (by rw [differ]; decide)]
      exact ⟨_, rfl, congrArg (fun l : CollSt => l.stopped ++ [g]) (aside_event ..).2⟩
  case values =>
    intro s g c d pa va slice at_ h pages lines len canonical q apart
    have o : OnePage c pa at_ := ⟨⟨va, slice, pages⟩, h.kind.2, apart⟩
    have written (hc : c.kind = 0 ∨ (c.kind = 2 ∧ c.root = 0)) : c.kind ≠ 1 ∧ c.reads 0 = true ∧ c.writes 0 = true := by
      rcases hc with hk | ⟨hk, hr⟩
      · simp [Coll.reads, Coll.writes, hk]
      · simp [Coll.reads, Coll.writes, hk, hr]
    refine ⟨_, exec_complete h o len q, completed_out h o lines len canonical q, fun hc j hj => ?_,
      fun hk hr j hj => completed_sent h o lines len canonical q hk hr hj, fun hc => (completed_unwritten _ (.inl ?_)).2⟩
    · obtain ⟨hk, reads, hw⟩ := written hc
      exact completed_reduced o lines canonical q hk reads hw hj
    · rcases hc with ⟨hk, hr⟩ | ⟨hk, hr⟩ <;> simp [Coll.writes, hk, hr]
  case int => exact fun rm sat x xs => ⟨reduceElem_sum .., reduceElem_max .., reduceElem_min .., rfl, rfl, rfl⟩
  case float =>
    intro ty hty rm sat x xs f sum
    have ht : ty ≠ 0 := by
      rintro rfl
      simp at hty
    have total := reduceElem_exact ht rm sat (x :: xs)
    refine ⟨by rw [total], by rw [total], fun op hop => ?_⟩
    have ho : op ≠ 0 := by
      rintro rfl
      simp at hop
    refine ⟨congrArg Res.code (reduceElem_one ht ho rm sat x), fun y => ?_⟩
    have more := reduceElem_snoc ht ho rm sat x xs y
    constructor <;> rw [more]
  case exact => decide

end Sys2Proof.Spec
end

section
/-! SUPPORT. Reads of the engines, translations and the emptying of a range change no tile but its store (R142, R167-R174, R178). -/

namespace Sys2Proof.Spec

open Sys2Proof.Machine

variable {a s : State} {α β ε : Type}

/-- From a to s the same tile executes, and no tile has changed but for its store. -/
def OnlyStores (a s : State) : Prop := s.cur = a.cur ∧ ∀ t, ∃ st, s.tile t = { a.tile t with store := st }
abbrev SndOnlyStores (a : State) (p : α × State) : Prop := OnlyStores a p.2
abbrev ThdOnlyStores (a : State) (p : α × β × State) : Prop := OnlyStores a p.2.2

theorem OnlyStores.refl (s : State) : OnlyStores s s := ⟨rfl, fun t => ⟨(s.tile t).store, rfl⟩⟩
theorem OnlyStores.cur (w : OnlyStores a s) : s.cur = a.cur := w.1
theorem OnlyStores.pu (w : OnlyStores a s) (t : Nat) : (s.tile t).pu = (a.tile t).pu := by
  obtain ⟨st, e⟩ := w.2 t
  rw [e]
theorem OnlyStores.state {r : Except ε State} (e : r = .ok s) (h : IfOk (OnlyStores a) r) : OnlyStores a s := IfOk.get e h
theorem OnlyStores.snd {r : Except ε (α × State)} {x : α} (e : r = .ok (x, s)) (h : IfOk (SndOnlyStores a) r) : OnlyStores a s :=
  IfOk.get (P := SndOnlyStores a) e h
theorem OnlyStores.thd {r : Except ε (α × β × State)} {x : α} {y : β} (e : r = .ok (x, y, s)) (h : IfOk (ThdOnlyStores a) r) :
    OnlyStores a s := IfOk.get (P := ThdOnlyStores a) e h

/-! ## What an update has to show -/

theorem OnlyStores.modPart {o : Nat} {f : Partition → Partition} (w : OnlyStores a s) : OnlyStores a (s.modPart o f) := w
theorem OnlyStores.modCfg {n : Nat} {f : Cfg → Cfg} (w : OnlyStores a s) : OnlyStores a (s.modCfg n f) := w
theorem OnlyStores.modField {n : Nat} {f : FieldSt → FieldSt} (w : OnlyStores a s) : OnlyStores a (s.modField n f) := w
theorem OnlyStores.putHome {h : Home} {st : Store} (w : OnlyStores a s) : OnlyStores a (s.putHome h st) := by
  cases h with
  | dram pa => exact w
  | host pa => exact w
  | tile u off =>
    refine ⟨w.cur, fun t => ?_⟩
    obtain ⟨st', e⟩ := w.2 t
    by_cases h : t = u
    · subst h
      exact ⟨st, by rw [State.putHome, State.tile_modTile, e]⟩
    · exact ⟨st', (tile_modTile_other s _ h).trans e⟩
theorem OnlyStores.foldl {l : List α} {f : State → α → State} (w : OnlyStores a s)
    (h : ∀ s x, OnlyStores a s → OnlyStores a (f s x)) : OnlyStores a (l.foldl f s) := by
  induction l generalizing s with
  | nil => exact w
  | cons x r ih => exact ih (h s x w)
theorem OnlyStores.ite {p : Prop} [Decidable p] {u : State} (w : OnlyStores a s) (w' : OnlyStores a u) :
    OnlyStores a (if p then s else u) := by
  split
  · exact w
  · exact w'

/-! ## Writes of DRAM, events and reduce windows -/

theorem OnlyStores.rawWrite {h : Home} {bs : List Byte} (w : OnlyStores a s) : OnlyStores a (rawWrite s h bs) := by
  obtain ⟨cs, e⟩ := rawWrite_eq s h bs
  rw [e]
  exact w.putHome
theorem OnlyStores.event {owner typ cause tile ctx slot : Nat} {d0 d1 : Word} (w : OnlyStores a s) :
    OnlyStores a (event s owner typ cause tile ctx slot d0 d1) := by
  unfold Machine.event
  split
  · exact w
  · dsimp only
    split
    · exact w
    · exact .modPart (w.ite w.rawWrite)
theorem OnlyStores.closeWindows {p : Window → Bool} (w : OnlyStores a s) : OnlyStores a (closeWindows s p) := by
  refine w.ite (.foldl w fun s k w => ?_)
  unfold Machine.closeWindow
  split
  · exact w.event
  · exact w.rawWrite (h := .dram k.pa)
theorem OnlyStores.homeRead {h : Home} {n : Nat} (w : OnlyStores a s) : IfOk (SndOnlyStores a) (homeRead s h n) := by
  have touched : OnlyStores a (touchWindows s h n) := by
    cases h with
    | dram pa => exact w.closeWindows
    | tile t off => exact w
    | host pa => exact w
  simp only [Machine.homeRead]
  split
  · exact .error
  · exact .ok (touched.ite touched.putHome)
theorem OnlyStores.setFull {h : Home} {n : Nat} {b : Bool} (w : OnlyStores a s) : OnlyStores a (setFull s h n b) := by
  cases h with
  | dram pa => exact w
  | host pa => exact w
  | tile t off => exact w.putHome (h := .tile t off)

/-! ## Translation (R167-R174, R394) -/

theorem OnlyStores.walkReads {l : List Nat} (w : OnlyStores a s) : IfOk (OnlyStores a) (walkReads l s) := by
  induction l generalizing s with
  | nil => exact .ok w
  | cons p r ih =>
    unfold Machine.walkReads
    split
    · exact .error
    · exact ih (OnlyStores.snd ‹_› w.homeRead)
theorem OnlyStores.walkCtx {c va leafLow : Nat} (w : OnlyStores a s) :
    IfOk (ThdOnlyStores a) (walkCtx s c va leafLow) := by
  unfold Machine.walkCtx
  refine .ite .error ?_
  split
  · exact .error
  · split
    · exact .error
    · exact .ok (OnlyStores.state ‹_› w.walkReads)
theorem OnlyStores.settleOwed {c pa size : Nat} {hit : Owed → Bool} (w : OnlyStores a s) :
    OnlyStores a (settleOwed s c pa size hit) :=
  w.ite (.foldl w fun _ _ k => k.setFull.ite k)
theorem OnlyStores.tlbFind {fl c : Nat} {pg : BitVec 2} {va : Word} (w : OnlyStores a s) :
    IfOk (SndOnlyStores a) (tlbFind s fl c pg va) := by
  unfold Machine.tlbFind
  dsimp only
  split
  · exact .ok w
  · exact .ok w
  · split
    · exact .error
    · have walked := OnlyStores.thd ‹_› w.walkCtx
      exact .ok (.modField (walked.ite walked.settleOwed))
theorem OnlyStores.setPteBit {at_ bit : Nat} (w : OnlyStores a s) : OnlyStores a (setPteBit s at_ bit) :=
  w.event.ite (w.ite w.rawWrite)
theorem OnlyStores.translate1 {t c : Nat} {ref store hostOk : Bool} {pg : BitVec 2} {va : Word} (w : OnlyStores a s) :
    IfOk (SndOnlyStores a) (translate1 s t c ref pg va store hostOk) := by
  unfold Machine.translate1
  split
  · exact .error
  · exact .ite .error (.ite .error (.ite .error (.ok (OnlyStores.snd ‹_› w.tlbFind).setPteBit)))
theorem OnlyStores.copyDram {p q n : Nat} (w : OnlyStores a s) : OnlyStores a (copyDram s p q n) := by
  obtain ⟨cs, e⟩ := digestWrite_eq _ _ n _ _
  rw [Machine.copyDram, e]
  exact w.closeWindows
theorem OnlyStores.shadowPage {t c : Nat} {store : Bool} {pg : BitVec 2} {va : Word} {ph : Phys} (w : OnlyStores a s) :
    IfOk (SndOnlyStores a) (shadowPage s t c pg va store ph) := by
  simp only [Machine.shadowPage]
  split
  · split
    · exact .ok w.settleOwed
    · refine .ite (.ok w) ?_
      split
      · exact .error
      · split
        · exact .error
        · exact .ite .error (.ok (.settleOwed (.modCfg (OnlyStores.thd ‹_› w.walkCtx).copyDram)))
  · exact .ite .error (.ok w)
  · exact .ok w
theorem OnlyStores.translate {t c : Nat} {ref store hostOk : Bool} {pg : BitVec 2} {va : Word} (w : OnlyStores a s) :
    IfOk (SndOnlyStores a) (translate s t c ref pg va store hostOk) := by
  unfold Machine.translate
  split
  · exact .error
  · exact (OnlyStores.snd ‹_› w.translate1).shadowPage

/-! ## Reads of an engine, and a range that is emptied (R142, R178) -/

theorem OnlyStores.engReach {t c n : Nat} {stk va : Word} {pg : BitVec 2} {store hostOk : Bool} (w : OnlyStores a s) :
    IfOk (SndOnlyStores a) (engReach s t c stk pg va n store hostOk) := by
  unfold Machine.engReach
  split
  · exact .error
  · refine .ite .error ?_
    split
    · exact .error
    · exact .error
    · exact .ok w
  · refine .ite .error ?_
    split
    · exact .error
    · exact .error
    · split
      · exact .error
      · exact .ok (OnlyStores.snd ‹_› w.translate)
theorem OnlyStores.engRead {t c fuel n : Nat} {stk va : Word} {pg : BitVec 2} {sb : List BufItem} (w : OnlyStores a s) :
    IfOk (SndOnlyStores a) (engRead s t c stk pg sb fuel va n) := by
  induction fuel generalizing s va n with
  | zero => exact .ok w
  | succ fuel ih =>
    unfold Machine.engRead
    refine .ite (.ok w) ?_
    dsimp only
    split
    · exact .error
    · split
      · exact .error
      · split
        · exact .error
        · exact .ok (.snd ‹_› (ih (.snd ‹_› (OnlyStores.snd ‹_› w.engReach).homeRead)))
theorem OnlyStores.sourceUnits {t : Nat} {e : PEntry} {addr : Word} {l : List Nat} (w : OnlyStores a s) :
    IfOk (SndOnlyStores a) (sourceUnits s t e addr l s) := by
  induction l generalizing s with
  | nil => exact .ok w
  | cons p r ih =>
    unfold Machine.sourceUnits
    dsimp only
    split
    · exact .error
    · refine .map (P := SndOnlyStores a) (ih (.snd ‹_› ?_)) fun _ k => k
      split
      · exact .ok w
      · exact w.engRead
/-- Taking from a source leaves the patches: a port's buffer gives tokens, or the store's units are read. -/
theorem takeSource_pu {t : Nat} {e : PEntry} {src : Nat} {addr : Word} {k n : Nat} {bs : List Byte} {u : State}
    (h : takeSource s t e src addr k n = .ok (bs, u)) : (u.tile t).pu = (s.tile t).pu := by
  unfold takeSource at h
  dsimp only at h
  split at h
  · split at h
    · cases h
    · cases h
      rw [State.tile_modTile]
      rfl
  · exact (OnlyStores.snd h (OnlyStores.refl s).sourceUnits).pu t
theorem OnlyStores.emptyPiece {t c n : Nat} {stk va : Word} {pg : BitVec 2} (w : OnlyStores a s) :
    OnlyStores a (emptyPiece s t c stk pg va n) := by
  unfold Machine.emptyPiece
  split
  · exact w
  · exact w.ite w.setFull
  · dsimp only
    split
    · exact w
    · refine w.ite ?_
      split
      · exact w
      · have shadowed := OnlyStores.snd ‹_› w.shadowPage
        exact shadowed.ite shadowed.setFull
theorem OnlyStores.emptyRange {t c fuel n : Nat} {stk va : Word} {pg : BitVec 2} (w : OnlyStores a s) :
    OnlyStores a (emptyRange s t c stk pg fuel va n) := by
  induction fuel generalizing s va n with
  | zero => exact w
  | succ fuel ih => exact w.ite (ih w.emptyPiece)

end Sys2Proof.Spec
end

section
/-! PROOF. What a group 5 instruction does at issue (R137-R145, R149-R153, R161; O35): its checks pass, and the command enters the
patch's queue. -/

namespace Sys2Proof.Spec

open Sys2Proof.Machine

variable {s s' u : State} {i : Instr} {f : FE} {m : M Go} {c : PCmd}

/-! ## The checks at issue -/

theorem needPlainPatch_ok (h : PlainPatch s) : needPlainPatch s = .ok ((), s) := by
  have plain : ((s.tile s.cur).isM || (!(s.tile s.cur).view.rgn && !(s.tile s.cur).view.ring)) = true := by
    cases hm : (s.tile s.cur).isM with
    | true => rfl
    | false =>
      obtain ⟨rgn, ring⟩ := h hm
      unfold here at rgn ring
      rw [rgn, ring]
      rfl
  simp only [needPlainPatch, getT_bind, plain]
  rfl
theorem ModeOk.needMode_ok (h : ModeOk true s) : needMode s = .ok ((), s) := Machine.needMode_ok (h rfl)
theorem Ready.run {r : BitVec 8} (h : Ready s r) : dstReady true r.toNat 0xFFFF s = .ok ((), s) := by
  obtain ⟨lt, full⟩ := h
  have full' : (tget .full (s.tile s.cur).regs.gFe r.toNat != .empty) = true := bne_iff_ne.2 full
  simp only [dstReady, getT_bind, if_true, Nat.not_le.2 lt, if_false, full', pure_run]
theorem OwnBlock.run {a : Word} {n align off : Nat} (h : OwnBlock s a n align off) : needOwn a n align s = .ok (off, s) := by
  obtain ⟨leads, aligned⟩ := h
  unfold here at leads
  simp only [needOwn, getS_bind, leads, bne_self_eq_false, Bool.false_eq_true, if_false, aligned, ne_eq, not_true_eq_false, pure_run]
theorem CmdAddr.run {named : Bool} {r : BitVec 8} {n : Nat} {a : Word} (h : CmdAddr s named r n a) :
    cmdAddr named r n s = .ok (a, s) := by
  unfold CmdAddr at h
  cases named with
  | false =>
    rw [show a = 0 from h]
    rfl
  | true =>
    obtain ⟨holds, off, own⟩ := h
    rw [cmdAddr, if_pos rfl, bind_ok holds.run, bind_ok own.run, pure_run]

/-! ## The queue of commands (R144) -/

theorem askStart_cur (t : Nat) : (askStart s t).cur = s.cur := by
  unfold askStart
  dsimp only
  split
  · rfl
  · split
    · rfl
    · split <;> rfl
theorem askWake_cur (t : Nat) : (askWake s t).cur = s.cur := by
  unfold askWake
  dsimp only
  split <;> rfl
theorem queued_cur (s : State) (c : PCmd) : (queued s c).cur = s.cur := by
  unfold queued enqueueCmd
  rw [askStart_cur]
  split
  · exact askWake_cur _
  · rfl
theorem issueCmd_ok (h : CmdRoom s) : issueCmd c s = .ok (.on, queued s c) := by
  have room : decide ((s.tile s.cur).pu.q.length < 16) = true := decide_eq_true h
  simp only [issueCmd, getT_bind, room, await_true_bind, me_bind, modS_bind, pure_run]
  rfl
theorem issueCmd_full (h : 16 ≤ (here s).pu.q.length) : issueCmd c s = .error .hold := by
  have full : decide ((s.tile s.cur).pu.q.length < 16) = false := decide_eq_false (Nat.not_lt.2 h)
  simp only [issueCmd, getT_bind, full, await_false_bind]

/-- A meaning that comes to the entry of a command, in a state that has room. -/
theorem issue_queued (al : Alone s) (cur : u.cur = s.cur) (room : CmdRoom u) (h : m s = issueCmd c u) :
    issue i m s = .next (done (queued u c) id) := by
  rw [issueCmd_ok room] at h
  rw [issue_ok al.solo h, done, queued_cur, cur]
  rfl
/-- The same where the queue is full. -/
theorem issue_queue_full (al : Alone s) (full : 16 ≤ (here s).pu.q.length) (h : m s = issueCmd c s) : issue i m s = .next s :=
  issue_hold al.solo (h.trans (issueCmd_full full))

/-! ## A drain (R139, R140) -/

/-- The destination of a drain emptied, where it is the tile store (R140). -/
def drainEmptied (s : State) (toQueue : Bool) (n : Nat) (a : Word) : State :=
  if toQueue then s else emptyRange s s.cur 0 (here s).csr.stkbase 0 (pagesOf n) a n
theorem onlyStores_drainEmptied {toQueue : Bool} {n : Nat} {a : Word} : OnlyStores s (drainEmptied s toQueue n a) :=
  .ite (.refl s) (.emptyRange (.refl s))
/-- A drain rounds only where its type is a floating-point one (R139). -/
theorem ModeOk.run_if {α : Type} {p : Prop} [Decidable p] (h : ModeOk (decide p) s) (k : Unit → M α) :
    (if p then needMode >>= k else k ()) s = k () s := by
  rw [← h.run k]
  simp only [decide_eq_true_eq]

/-! ## What each meaning comes to -/

section
variable (on : On f.p s)
include on

section
variable (plain : PlainPatch s)
include plain

theorem mxcfgM_run : mxcfgM f s = issueCmd (.cfg f.ix.toNat (f.cmd.setWidth 4)) s := by
  rw [mxcfgM, on.run, bind_ok (needPlainPatch_ok plain), BitVec.ofNat_toNat]
theorem mxwswM_run : mxwswM f s = issueCmd .wsw s := by
  rw [mxwswM, on.run, bind_ok (needPlainPatch_ok plain)]
theorem mxclrM_run : mxclrM f s = issueCmd (.clr (f.cmd.getLsbD 0) (f.cmd.getLsbD 1)) s := by
  rw [mxclrM, on.run, bind_ok (needPlainPatch_ok plain), nbit_toNat, nbit_toNat]
theorem mxrecM_off (off : f.cmd.getLsbD 0 = false) : mxrecM f s = issueCmd (.recur false 0) s := by
  rw [mxrecM, on.run, bind_ok (needPlainPatch_ok plain), nbit_toNat, off]
  rfl
theorem mxrecM_on {d : Word} (set : f.cmd.getLsbD 0 = true) (mode : ModeOk true s) (hd : Holds s f.ga d) (lo : 1 ≤ d.toNat)
    (hi : d.toNat ≤ 16) : mxrecM f s = issueCmd (.recur true d.toNat) s := by
  rw [mxrecM, on.run, bind_ok (needPlainPatch_ok plain), nbit_toNat, if_pos set, bind_ok hd.run, bind_ok mode.needMode_ok,
    need_bind (by simp only [lo, hi, decide_true, Bool.and_self])]
theorem mxwldM_run {a : Word} (ring : (here s).view.ring = false) (scales : f.cmd.getLsbD 4 = true → 2 ≤ (here s).view.scq)
    (ha : CmdAddr s (f.ix == 4) f.ga (512 * (if f.cmd.getLsbD 5 then 4 else tyWidth (f.cmd.setWidth 4))) a) :
    mxwldM f s = issueCmd (.wld f.ix.toNat a (f.cmd.setWidth 4) (f.cmd.getLsbD 5) (f.cmd.getLsbD 4)) s := by
  have checks : (!(s.tile s.cur).view.ring && (!f.cmd.getLsbD 4 || decide (2 ≤ (s.tile s.cur).view.scq))) = true := by
    unfold here at ring scales
    rw [ring]
    cases h : f.cmd.getLsbD 4 with
    | false => rfl
    | true => exact decide_eq_true (scales h)
  rw [mxwldM, on.run, bind_ok (needPlainPatch_ok plain), BitVec.ofNat_toNat, nbit_toNat, nbit_toNat, getT_bind, need_bind checks,
    bind_ok ha.run]
theorem mxscM_run {n a : Word} (hn : Holds s f.gb n) (lo : 1 ≤ n.toNat) (hi : n.toNat ≤ 8)
    (room : (here s).view.scq + n.toNat ≤ 8) (ha : CmdAddr s (f.ix == 4) f.ga (64 * n.toNat) a) :
    mxscM f s = issueCmd (.sc f.ix.toNat a n.toNat) s := by
  unfold here at room
  rw [mxscM, on.run, bind_ok (needPlainPatch_ok plain), bind_ok hn.run, getT_bind,
    need_bind (by simp only [lo, hi, room, decide_true, Bool.and_self]), bind_ok ha.run]
theorem mxrunM_run {rows r0 a : Word} (hr : Holds s f.gb rows) (h0 : Holds s f.gc r0)
    (legal : runLegal s s.cur f.ix.toNat rows.toNat r0.toNat (f.cmd.getLsbD 0) (f.cmd.getLsbD 1) (f.cmd.getLsbD 2) = true)
    (ha : CmdAddr s (f.ix == 4) f.ga
      (8 * rows.toNat * tyWidth (tget {} (here s).view.fmts f.ix.toNat : ActFmt).ty) a) :
    mxrunM f s = issueCmd
      (.run f.ix.toNat a rows.toNat r0.toNat (f.cmd.getLsbD 0) (f.cmd.getLsbD 1) (f.cmd.getLsbD 2)) s := by
  unfold here at ha
  rw [mxrunM, on.run, bind_ok (needPlainPatch_ok plain), bind_ok hr.run, bind_ok h0.run, getS_bind]
  simp only [nbit_toNat]
  rw [need_bind legal, bind_ok ha.run]

theorem mxstM_run (ready : Ready s f.ga) : mxstM f s = (issueCmd (.st (f.cmd.getLsbD 0)) >>= fun go =>
    sendResult (.g f.ga.toNat) .status >>= fun _ => pure go) s := by
  rw [mxstM, on.run, bind_ok (needPlainPatch_ok plain), bind_ok ready.run, nbit_toNat]

theorem mxdrnM_run {first rows a : Word} {toQueue : Bool} (ix : (f.ix != 16) = toQueue) (hf : Holds s f.gb first)
    (hr : Holds s f.gc rows) (fits : first.toNat + rows.toNat ≤ 64)
    (legal : drainLegal (here s).view (f.cmd.setWidth 4) (f.cmd.getLsbD 4) = true)
    (mode : ModeOk (decide (8 ≤ (f.cmd.setWidth 4 : BitVec 4).toNat)) s)
    (queue : toQueue = true → 0 < ((here s).outQ f.ix.toNat).depth)
    (ha : CmdAddr s (!toQueue) f.ga (8 * rows.toNat * tyWidth (f.cmd.setWidth 4)) a) (room : CmdRoom s) :
    mxdrnM f s = issueCmd (.drn toQueue f.ix.toNat a (f.cmd.setWidth 4) (f.cmd.getLsbD 4) (f.cmd.getLsbD 5) (f.cmd.getLsbD 6)
      first.toNat rows.toNat) (drainEmptied s toQueue (8 * rows.toNat * tyWidth (f.cmd.setWidth 4)) a) := by
  have declared : (!toQueue || decide (0 < ((s.tile s.cur).outQ f.ix.toNat).depth)) = true := by
    cases toQueue with
    | false => rfl
    | true => exact decide_eq_true (queue rfl)
  have space : decide ((s.tile s.cur).pu.q.length < 16) = true := decide_eq_true room
  unfold here at legal
  rw [mxdrnM, on.run, bind_ok (needPlainPatch_ok plain), bind_ok hf.run, bind_ok hr.run, getT_bind, BitVec.ofNat_toNat]
  simp only [nbit_toNat, ix]
  rw [need_bind (by simp only [fits, legal, decide_true, Bool.and_self]), need_bind declared, mode.run_if, bind_ok ha.run, space,
    await_true_bind, me_bind]
  cases toQueue <;> rfl
end

section
variable (mt : MTask s)
include mt

theorem mxrgnM_run {n : Word} (hn : Holds s f.ga n) : mxrgnM f s =
    (need ((here s).view.rgn != f.cmd.getLsbD 0 && (regionOf s s.cur).map (·.1) == some n.toNat) >>= fun _ =>
      issueCmd (.rgn (f.cmd.getLsbD 0) n.toNat)) s := by
  rw [mxrgnM, on.run, bind_ok (needM_ok mt), bind_ok hn.run, getS_bind, nbit_toNat]
  rfl
theorem mxringM_run {n : Word} (hn : Holds s f.ga n) : mxringM f s =
    (need ((here s).view.ring != f.cmd.getLsbD 0 && (ringOf s s.cur).map (·.1) == some n.toNat) >>= fun _ =>
      issueCmd (.ring (f.cmd.getLsbD 0) n.toNat)) s := by
  rw [mxringM, on.run, bind_ok (needM_ok mt), bind_ok hn.run, getS_bind, nbit_toNat]
  rfl
theorem mxlapM_run : mxlapM f s = (need (here s).view.ring >>= fun _ => issueCmd .lap) s := by
  rw [mxlapM, on.run, bind_ok (needM_ok mt), getT_bind]
  rfl
end
end

/-- Region and ring mode are turned to what they are not, under the number that the setup declares (R149, R151, R161). -/
theorem declares_iff {α : Type} {now on : Bool} {o : Option (Nat × α)} {n : Nat} :
    (now != on && o.map (·.1) == some n) = true ↔ now = !on ∧ ∃ r, o = some (n, r) := by
  cases o <;> cases now <;> cases on <;> simp [Prod.ext_iff]
theorem declares_not {α : Type} {now on : Bool} {o : Option (Nat × α)} {n : Nat} (h : (∀ r, o ≠ some (n, r)) ∨ now = on) :
    (now != on && o.map (·.1) == some n) = false := by
  refine Bool.eq_false_iff.2 fun c => ?_
  obtain ⟨rfl, r, e⟩ := declares_iff.1 c
  rcases h with h | h
  · exact h r e
  · simp at h
/-- A check that fails is an ILLOP (R56). -/
theorem issue_need_false {k : Unit → M Go} {b : Bool} (al : Alone s) (hb : b = false) (h : m s = (need b >>= k) s) :
    issue i m s = .next (takeTrap s s.cur 0x01 (wordOf i)) :=
  issue_illop al.solo (by rw [h, hb, need_false_bind])

/-- Settles O35: each meaning comes through its checks to the entry of its command. -/
theorem patchCommands : Obligations.PatchCommands := by
  unfold Obligations.PatchCommands
  refine ⟨?full, ?status, ?plain, ?load, ?scales, ?run, ?drain, ?modes, ?lap⟩
  case full =>
    intro f s al on plain full
    refine ⟨issue_queue_full al full (mxcfgM_run on plain), issue_queue_full al full (mxwswM_run on plain),
      issue_queue_full al full (mxclrM_run on plain), fun ready => issue_hold (m := mxstM f) al.solo ?_⟩
    rw [mxstM_run on plain ready, bind_error (issueCmd_full full)]
  case status =>
    intro f s al on plain ready room
    refine issue_done (m := mxstM f) al (queued_cur s _) ?_
    rw [mxstM_run on plain ready, bind_ok (issueCmd_ok room), ← queued_cur s (.st (f.cmd.getLsbD 0))]
    rfl
  case plain =>
    intro f s al on plain room
    exact ⟨issue_queued al rfl room (mxcfgM_run on plain), issue_queued al rfl room (mxwswM_run on plain),
      issue_queued al rfl room (mxclrM_run on plain), fun off => issue_queued al rfl room (mxrecM_off on plain off),
      fun d set mode hd lo hi => issue_queued al rfl room (mxrecM_on on plain set mode hd lo hi)⟩
  case load =>
    intro f s a al on plain room ring ty sc i4 scales ha
    exact issue_queued al rfl room (mxwldM_run on plain ring scales ha)
  case scales =>
    intro f s n a al on plain room hn lo hi queue ha
    exact issue_queued al rfl room (mxscM_run on plain hn lo hi queue ha)
  case run =>
    intro f s rows r0 a al on plain room hr h0 src legal ha
    exact issue_queued al rfl room (mxrunM_run on plain hr h0 legal ha)
  case drain =>
    intro f s first rows a al on plain room hf hr ty fits legal mode c n
    refine ⟨fun ix depth zero => ?_, fun ix ha => ?_⟩
    · exact issue_queued (u := s) al rfl room
        (mxdrnM_run (toQueue := true) on plain (bne_iff_ne.2 ix) hf hr fits legal mode (fun _ => depth) zero room)
    · have aside : OnlyStores s (drainEmptied s false n a) := onlyStores_drainEmptied
      have room' : CmdRoom (drainEmptied s false n a) := by
        unfold CmdRoom here at *
        rwa [aside.cur, aside.pu]
      exact issue_queued al aside.cur room' (mxdrnM_run (toQueue := false) on plain (by rw [ix]; rfl) hf hr fits legal mode
        (fun h => by cases h) ha room)
  case modes =>
    intro f s n mt al on hn
    refine ⟨fun r declared turn room => issue_queued al rfl room ?_,
      fun h => issue_need_false al (declares_not h) (mxrgnM_run on mt hn), fun r declared turn room => issue_queued al rfl room ?_,
      fun h => issue_need_false al (declares_not h) (mxringM_run on mt hn)⟩
    · exact (mxrgnM_run on mt hn).trans (need_bind (declares_iff.2 ⟨turn, r, declared⟩) _)
    · exact (mxringM_run on mt hn).trans (need_bind (declares_iff.2 ⟨turn, r, declared⟩) _)
  case lap =>
    intro f s mt al on room
    exact ⟨fun ring => issue_queued al rfl room ((mxlapM_run on mt).trans (need_bind ring _)),
      fun ring => issue_need_false al ring (mxlapM_run on mt)⟩

end Sys2Proof.Spec
end

section
/-! PROOF. Commands to another tile's patch (R155-R157, R346, R347; O36): what the sender does at issue and on the reply, and what the
request meets where it arrives. -/

namespace Sys2Proof.Spec

open Sys2Proof.Machine

variable {s : State} {f : FE} {r : RCmd} {t : Nat}

/-! ## At the sender -/

/-- The request of an mxcmd is sent, and the core holds for its reply (R155). -/
def cmdSent (s : State) (f : FE) (t n p : Word) : State :=
  s.modTile s.cur fun x => ({ x with sch := { x.sch with cmdOut := some {
    target := t.toNat, cap := f.ix.toNat, nonce := n.setWidth 32, op := f.cmd.toNat, param := p
    car := x.csr.carry, pri := (x.sch.task.map (·.pri)).getD 0 } } } : Tile).perfAdd 5 1

section
variable (on : On f.p s) (mt : MTask s)
include on mt

section
variable {t n p : Word} (idle : (here s).sch.cmdOut = none) (ht : Holds s f.ga t) (hn : Holds s f.gb n) (hp : Holds s f.gc p)
include idle ht hn hp

theorem mxcmdM_sends (inside : t.toNat < 9216) (own : s.ownerOf t.toNat = s.ownerOf s.cur)
    (mode : f.cmd = 1 → 8 ≤ p.toNat % 16 → p.toNat % 16 ≤ 13 → ModeOk true s) :
    mxcmdM f s = .error (.sent (cmdSent s f t n p)) := by
  unfold here at idle
  rw [mxcmdM, on.run, bind_ok (needM_ok mt), getT_bind, idle]
  dsimp only
  rw [bind_ok ht.run, bind_ok hn.run, bind_ok hp.run, getS_bind]
  have reached : ¬ (!(decide (t.toNat < Config.numTiles) && s.ownerOf t.toNat == s.ownerOf s.cur)) = true := by
    rw [decide_eq_true (show t.toNat < Config.numTiles from inside), own, beq_self_eq_true]
    decide
  have modes : ModeOk (decide (f.cmd = 1) && decide (8 ≤ p.toNat % 16) && decide (p.toNat % 16 ≤ 13)) s := fun drains => by
    simp only [Bool.and_eq_true, decide_eq_true_eq] at drains
    obtain ⟨⟨op, lo⟩, hi⟩ := drains
    exact mode op lo hi rfl
  rw [if_neg reached, modes.run, modT_bind, BitVec.ofNat_toNat]
  rfl
theorem mxcmdM_owner (other : 9216 ≤ t.toNat ∨ s.ownerOf t.toNat ≠ s.ownerOf s.cur) :
    mxcmdM f s = .error (.trap 0x0F (BitVec.ofNat 64 t.toNat)) := by
  unfold here at idle
  rw [mxcmdM, on.run, bind_ok (needM_ok mt), getT_bind, idle]
  dsimp only
  rw [bind_ok ht.run, bind_ok hn.run, bind_ok hp.run, getS_bind]
  have missed : (!(decide (t.toNat < Config.numTiles) && s.ownerOf t.toNat == s.ownerOf s.cur)) = true := by
    rw [Bool.not_eq_true', Bool.and_eq_false_iff, decide_eq_false_iff_not, beq_eq_false_iff_ne]
    exact other.imp_left Nat.not_lt.2
  rw [if_pos missed, trap_bind]
end

section
variable (sent : (here s).sch.cmdOut = some r)
include sent

theorem mxcmdM_waits (wait : r.reply = none) : mxcmdM f s = .error .hold := by
  unfold here at sent
  rw [mxcmdM, on.run, bind_ok (needM_ok mt), getT_bind, sent]
  dsimp only
  rw [wait]
  rfl
theorem mxcmdM_accepted (ok : r.reply = some 1) :
    mxcmdM f s = .ok (.on, s.modTile s.cur fun x => { x with sch := { x.sch with cmdOut := none } }) := by
  unfold here at sent
  rw [mxcmdM, on.run, bind_ok (needM_ok mt), getT_bind, sent]
  dsimp only
  rw [ok]
  rfl
theorem mxcmdM_refused {v : BitVec 2} (reply : r.reply = some v) (hv : v ≠ 1) : mxcmdM f s =
    .error (.trap 0x0E (BitVec.ofNat 64 (r.target * 256 + r.cap + if v = 2 then 2 ^ 32 else 0))) := by
  unfold here at sent
  rw [mxcmdM, on.run, bind_ok (needM_ok mt), getT_bind, sent]
  dsimp only
  rw [reply]
  dsimp only
  rw [modT_bind, if_neg hv, trap_run, capTaddr]
  simp only [beq_iff_eq]
end
end

/-! ## At the target (R156, R347) -/

/-- The reply reaches the sender (R155). -/
def cmdReplied (s : State) (t : Nat) (r : RCmd) (v : BitVec 2) : State := s.modTile t fun x =>
  ({ x with sch := { x.sch with cmdOut := some { r with reply := some v } } } : Tile).perfAdd 6 1
/-- A capability that grants a request at its target: valid, of the request's nonce, with the operation's right (R156). -/
def CapGrants (s : State) (r : RCmd) : Prop :=
  let cap := tget 0 (s.tile r.target).eng.caps r.cap
  cap.getLsbD 63 = true ∧ cap.setWidth 32 = r.nonce ∧ cap.getLsbD (32 + r.op) = true ∧
    (s.tile r.target).view.rgn = false ∧ (s.tile r.target).view.ring = false
/-- The model's test of a request's capability and of the modes of its target. -/
def capRefuses (s : State) (r : RCmd) : Bool :=
  let x := s.tile r.target
  let cap := (tget 0 x.eng.caps r.cap).toNat
  !nbit cap 63 || nfld cap 0 32 != r.nonce.toNat || !nbit cap (32 + r.op) || x.view.rgn || x.view.ring
theorem capRefuses_iff : capRefuses s r = false ↔ CapGrants s r := by
  have nonce (cap : Word) : nfld cap.toNat 0 32 = r.nonce.toNat ↔ cap.setWidth 32 = r.nonce := by
    rw [← BitVec.toNat_inj, BitVec.toNat_setWidth, nfld, pow_zero, Nat.div_one]
  simp only [capRefuses, CapGrants, Bool.or_eq_false_iff, Bool.not_eq_false', bne_eq_false_iff_eq, nbit_toNat, nonce, and_assoc]

theorem exec_arrival_otherOwner (sent : (s.tile t).sch.cmdOut = some r) (wait : r.reply = none)
    (other : s.ownerOf r.target ≠ s.ownerOf t) : exec (.remoteCommandArrival t) s =
      .next (takeTrap (recordReject s t 2 0 (s.ownerOf r.target) r.target 0) t 0x0F
        (BitVec.ofNat 64 (2 ^ 63 + s.ownerOf r.target * 2 ^ 32 + r.target))) := by
  refine occur_some (f := evRemoteCommandArrival t) ?_
  simp only [evRemoteCommandArrival, sent, wait, Option.isSome_none, Bool.false_eq_true, if_false, bne_iff_ne.2 other, if_true]
  rfl

section
variable (sent : (s.tile t).sch.cmdOut = some r) (wait : r.reply = none) (own : s.ownerOf r.target = s.ownerOf t)
  (reach : s.unreachable r.target = false) (alive : (s.tile r.target).failStop = false) {c : PCmd}
  (cmd : remoteCmd s r.target r = some c)
include sent wait own reach alive cmd

theorem evRemoteCommandArrival_own : evRemoteCommandArrival t s =
    if capRefuses s r then some (cmdReplied s t r 0)
    else if 16 ≤ (s.tile r.target).pu.q.length then none
    else some (cmdReplied (enqueueCmd s r.target { cmd := c, car := r.car, pri := r.pri, remote := true }) t r 1) := by
  simp only [evRemoteCommandArrival, sent, wait, Option.isSome_none, Bool.false_eq_true, if_false, own, bne_self_eq_false, reach,
    alive, cmd]
  rfl
theorem exec_arrival_granted (grants : CapGrants s r) (room : (s.tile r.target).pu.q.length < 16) :
    exec (.remoteCommandArrival t) s =
      .next (cmdReplied (enqueueCmd s r.target { cmd := c, car := r.car, pri := r.pri, remote := true }) t r 1) := by
  refine occur_some (f := evRemoteCommandArrival t) ?_
  rw [evRemoteCommandArrival_own sent wait own reach alive cmd, capRefuses_iff.2 grants, if_neg (by decide),
    if_neg (Nat.not_le.2 room)]
theorem exec_arrival_refused (refuses : ¬ CapGrants s r) : exec (.remoteCommandArrival t) s = .next (cmdReplied s t r 0) := by
  refine occur_some (f := evRemoteCommandArrival t) ?_
  have refused : capRefuses s r = true := by simpa only [← capRefuses_iff, Bool.not_eq_false] using refuses
  rw [evRemoteCommandArrival_own sent wait own reach alive cmd, if_pos refused]
end

/-- Settles O36: the sender holds until the reply, and the target answers as its capability says. -/
theorem remoteCommands : Obligations.RemoteCommands := by
  unfold Obligations.RemoteCommands
  refine ⟨?sends, ?replied, ?otherOwner, ?arrives⟩
  case sends =>
    intro f s t n p mt al on ht hn hp idle
    exact ⟨fun inside own mode => issue_sent (m := mxcmdM f) al.solo (mxcmdM_sends on mt idle ht hn hp inside own mode),
      fun other => issue_trap (m := mxcmdM f) al.solo (mxcmdM_owner on mt idle ht hn hp other)⟩
  case replied =>
    intro f s r mt al on sent
    exact ⟨fun wait => issue_hold (m := mxcmdM f) al.solo (mxcmdM_waits on mt sent wait),
      fun ok => issue_done (m := mxcmdM f) al rfl (mxcmdM_accepted on mt sent ok),
      fun v reply hv => issue_trap (m := mxcmdM f) al.solo (mxcmdM_refused on mt sent reply hv)⟩
  case otherOwner => exact fun s t r sent wait other => exec_arrival_otherOwner sent wait other
  case arrives =>
    intro s t r c sent wait own reach alive cmd
    exact ⟨exec_arrival_granted sent wait own reach alive cmd, exec_arrival_refused sent wait own reach alive cmd⟩

end Sys2Proof.Spec
end

section
/-! PROOF. The command at the head of a patch's queue acts (R143, R148, R161; O54). -/

namespace Sys2Proof.Spec

open Sys2Proof.Machine

variable {s u : State} {t : Nat} {e : PEntry} {rest : List PEntry}

theorem exec_patchCommand (h : patchTry s t = .ok u) : exec (.patchCommand t) s = .next u :=
  occur_some (f := evPatchCommand t) (by rw [evPatchCommand, h, engGo])

/-! ## A head that may act -/

theorem HeadCmd.acts (h : HeadCmd s t e rest) :
    (s.tile t).pu.q = e :: rest ∧ headWaits s t e = false ∧ e.byTask = false ∧ paDue s t e = none := by
  obtain ⟨q, run, ⟨n, gate, awake⟩, grant, task, due⟩ := h
  have cells : (s.tile t).cellsAwake s.now = true := by
    rw [Tile.cellsAwake, gate]
    exact decide_eq_true awake
  have granted : (e.cmd.starts && !e.granted) = false := by
    cases starts : e.cmd.starts with
    | false => rfl
    | true =>
      rw [grant starts]
      rfl
  refine ⟨q, ?_, task, due⟩
  simp only [headWaits, enginesGo, run, cells, granted, Bool.true_or, Bool.not_true, Bool.and_false, Bool.or_self]

theorem exec_cfg {src : Nat} {ty : BitVec 4} (h : HeadCmd s t e rest) (cmd : e.cmd = .cfg src ty) : exec (.patchCommand t) s =
    .next (finishCmd (modPatch s t fun p => { p with fmts := tput p.fmts src ⟨ty, e.car.fmt8⟩ }) t) := by
  obtain ⟨q, acts, task, due⟩ := h.acts
  refine exec_patchCommand ?_
  simp only [patchTry, q, acts, task, due, cmd, Bool.false_eq_true, if_false]
theorem exec_wsw (h : HeadCmd s t e rest) (cmd : e.cmd = .wsw) (ring : (s.tile t).pu.st.ring = none)
    (loaded : (s.tile t).pu.st.shSt = 2) : exec (.patchCommand t) s =
    .next (finishCmd (modPatch s t fun p => { p with act := p.sh, sh := p.act, shSt := 0 }) t) := by
  obtain ⟨q, acts, task, due⟩ := h.acts
  refine exec_patchCommand ?_
  simp only [patchTry, q, acts, task, due, cmd, ring, loaded, Option.isSome_none, Bool.false_eq_true, if_false, if_true]
theorem exec_clr {set all : Bool} (h : HeadCmd s t e rest) (cmd : e.cmd = .clr set all) : exec (.patchCommand t) s =
    .next (finishCmd (modPatch s t fun p => { p with
      pa0 := if all || !set then {} else p.pa0, pa1 := if all || set then {} else p.pa1 }) t) := by
  obtain ⟨q, acts, task, due⟩ := h.acts
  refine exec_patchCommand ?_
  simp only [patchTry, q, acts, task, due, cmd, Bool.false_eq_true, if_false]
  cases set <;> cases all <;> rfl

/-! ## A row of a run (R133) -/

/-- Outside recurrence mode a run takes the row of its source (R153). -/
theorem feedBack_off {a : ActFmt} {r0 : Nat} {set : Bool} {row : List Val} (off : (s.tile t).pu.st.recu = none) :
    feedBack s t e a r0 set row = (row, s) := by
  simp only [feedBack, off]
theorem runTry_plain {src rows r0 : Nat} {addr : Word} {set zero sat : Bool} {bs : List Byte}
    (off : (s.tile t).pu.st.recu = none)
    (take : takeSource s t e src addr e.done (8 * tyWidth ((s.tile t).pu.st.fmt src).ty) = .ok (bs, u)) :
    runTry s t e src addr rows r0 set zero sat = .ok (
      let a := (s.tile t).pu.st.fmt src
      let p := (u.tile t).pu.st
      let acc := if zero then List.replicate 64 0 else (p.pa set).row (r0 + e.done)
      advanceCmd (spareCheck (putRow u t set (r0 + e.done) (rowAdd p.act a.ty (actVals a bs) sat acc)) t) t rows) := by
  have off' : (u.tile t).pu.st.recu = none := by rw [takeSource_pu take, off]
  simp only [runTry, runRow, take, feedBack_off off']
theorem exec_run {src rows r0 : Nat} {addr : Word} {set zero : Bool} {bs : List Byte} (h : HeadCmd s t e rest)
    (cmd : e.cmd = .run src addr rows r0 set zero false) (rgn : (s.tile t).pu.st.rgn = none) (recu : (s.tile t).pu.st.recu = none)
    (take : takeSource s t e src addr e.done (8 * tyWidth ((s.tile t).pu.st.fmt src).ty) = .ok (bs, u)) :
    let a := (s.tile t).pu.st.fmt src
    let p := (u.tile t).pu.st
    let acc := if zero then List.replicate 64 0 else (p.pa set).row (r0 + e.done)
    exec (.patchCommand t) s = .next (advanceCmd (spareCheck
      (putRow u t set (r0 + e.done) (rowAdd p.act a.ty (actVals a bs) false acc)) t) t rows) := by
  obtain ⟨q, acts, task, due⟩ := h.acts
  refine exec_patchCommand ?_
  simp only [patchTry, q, acts, task, due, cmd, rgn, Option.isSome_none, Bool.false_eq_true, if_false, runTry_plain recu take]

/-! ## The status for an MXST (R161) -/

/-- The register that has waited longest for a status. -/
theorem findIdx_status {l : List Pend} {n k : Nat} {d : RegRef} (at_ : l[n]? = some { dst := d, what := .status, stamp := k })
    (first : ∀ m, m < n → (l[m]?).map (·.what) ≠ some .status) : l.findIdx? (·.what == .status) = some n := by
  obtain ⟨lt, here⟩ := List.getElem?_eq_some_iff.1 at_
  refine List.findIdx?_eq_some_iff_getElem.2 ⟨lt, by rw [here]; rfl, fun m hm is => first m hm ?_⟩
  rw [List.getElem?_eq_getElem (hm.trans lt), Option.map_some, beq_iff_eq.1 is]
theorem giveStatus_task {x : Tile} {n k : Nat} {d : RegRef} (at_ : x.pend[n]? = some { dst := d, what := .status, stamp := k })
    (first : ∀ m, m < n → (x.pend[m]?).map (·.what) ≠ some .status) : x.giveStatus true =
      { x with pend := x.pend.set n { dst := d, what := .value (BitVec.ofNat 512 x.pu.st.status) 0, stamp := k } } := by
  simp only [Tile.giveStatus, if_true, findIdx_status at_ first, List.modify_eq_set_getElem?, at_, Option.map_some, Option.map_eq_map,
    Option.getD_some]

theorem modPatch_tile (s : State) (t : Nat) (f : Patch → Patch) :
    (modPatch s t f).tile t = { s.tile t with pu := { (s.tile t).pu with st := f (s.tile t).pu.st } } := State.tile_modTile ..
/-- The next command asks the pacer for nothing. -/
theorem askStart_none (h : ∀ b r, (s.tile t).pu.q = b :: r → b.cmd.starts = false) : askStart s t = s := by
  unfold askStart
  dsimp only
  split
  · rfl
  · rename_i b r q
    rw [if_pos (by rw [h b r q]; rfl)]
theorem rest_q (p : PatchUnit) (now : Nat) : (p.rest now).q = p.q := by
  unfold PatchUnit.rest
  split <;> rfl
theorem rest_st (p : PatchUnit) (now : Nat) : (p.rest now).st = p.st := by
  unfold PatchUnit.rest
  split <;> rfl
/-- A command that is complete leaves the queue; neither it nor the next begins with a start. -/
theorem finishCmd_tile (q : (s.tile t).pu.q = e :: rest) (next : ∀ b r, rest = b :: r → b.cmd.starts = false) :
    ((finishCmd s t).tile t).pu.q = rest ∧ ((finishCmd s t).tile t).pend = (s.tile t).pend ∧
      ((finishCmd s t).tile t).pu.st = (s.tile t).pu.st := by
  have quiet : finishCmd s t = _ := askStart_none (t := t) (by
    intro b r hq
    rw [State.tile_modTile, rest_q, q] at hq
    exact next b r hq)
  rw [quiet, State.tile_modTile, rest_q, rest_st, q]
  exact ⟨rfl, rfl, rfl⟩

theorem exec_st {n k : Nat} {d : RegRef} {clr : Bool} (q : (s.tile t).pu.q = e :: rest) (run : enginesRun s t = true)
    (cmd : e.cmd = .st clr) (task : e.byTask = true) (next : ∀ b r, rest = b :: r → b.cmd.starts = false)
    (mt : (s.tile t).isM = true) (at_ : (s.tile t).pend[n]? = some { dst := d, what := .status, stamp := k })
    (first : ∀ m, m < n → ((s.tile t).pend[m]?).map (·.what) ≠ some .status) :
    ∃ u, exec (.patchCommand t) s = .next u ∧ (u.tile t).pu.q = rest ∧
      (u.tile t).pend = (s.tile t).pend.set n { dst := d, what := .value (BitVec.ofNat 512 (s.tile t).pu.st.status) 0, stamp := k } ∧
      (u.tile t).pu.st = if clr then { (s.tile t).pu.st with flags := 0, nosh := false } else (s.tile t).pu.st := by
  have keeps : (s.modTile t Tile.keepPatch).tile t = s.tile t := by
    rw [State.tile_modTile, Tile.keepPatch, mt]
    rfl
  have tried : patchTry s t = .ok (stTry (s.modTile t Tile.keepPatch) t e clr) := by
    have acts : headWaits s t e = false := by
      simp only [headWaits, enginesGo, run, cmd, PCmd.cells, PCmd.starts, Bool.true_or, Bool.not_true, Bool.false_and, Bool.or_self]
    have due : paDue s t e = none := by
      simp only [paDue, paReads, cmd, List.findSome?_nil]
    simp only [patchTry, q, acts, task, due, cmd, Bool.false_eq_true, if_false, if_true]
  have given : ((s.modTile t Tile.keepPatch).modTile t (·.giveStatus true)).tile t = { s.tile t with
      pend := (s.tile t).pend.set n { dst := d, what := .value (BitVec.ofNat 512 (s.tile t).pu.st.status) 0, stamp := k } } := by
    rw [State.tile_modTile, keeps, giveStatus_task at_ first]
  refine ⟨_, exec_patchCommand tried, ?_⟩
  rw [stTry, task]
  cases clr with
  | false =>
    obtain ⟨queue, pend, st⟩ := finishCmd_tile ((congrArg (·.pu.q) given).trans q) next
    exact ⟨queue, pend.trans (congrArg (·.pend) given), st.trans (congrArg (·.pu.st) given)⟩
  | true =>
    simp only [if_true]
    obtain ⟨queue, pend, st⟩ := finishCmd_tile (s := modPatch _ t fun p => { p with flags := 0, nosh := false })
      (by rw [modPatch_tile, given]; exact q) next
    exact ⟨queue, by rw [pend, modPatch_tile, given], by rw [st, modPatch_tile, given]⟩

end Sys2Proof.Spec
end

section
/-! PROOF. The pacer grants starts and serves stops, and idle cells are gated and woken (R323, R324, R328; O54). -/

namespace Sys2Proof.Spec

open Sys2Proof.Machine

variable {s : State} {t f : Nat} {r : Req}

/-! ## The pacer -/

theorem nfld_low (x n : Nat) : nfld x 0 n = x % 2 ^ n := by rw [nfld, pow_zero, Nat.div_one]
theorem rateOf_eq (y : FieldSt) : rateOf y = Nat.max 1 (y.didt.toNat % 65536) := by
  rw [rateOf, nfld_low]
  rfl

/-- A run that has ended asks for its stop, unless a stop of its tile waits (R324). -/
theorem exec_runComplete (ran : (s.tile t).pu.ranAt ≠ none) (unasked : ∀ r ∈ (s.field (fieldOf t)).pacer.stops, r.tile ≠ t) :
    exec (.runComplete t) s = .next (s.modField (fieldOf t) fun y => { y with pacer := { y.pacer with
      stops := y.pacer.stops ++ [⟨t, 0, s.now⟩] } }) := by
  have run : (s.tile t).pu.ranAt.isNone = false := by
    rw [Option.isNone_eq_false_iff, Option.isSome_iff_ne_none]
    exact ran
  have waits : ((s.field (fieldOf t)).pacer.stops.any (·.tile == t)) = false :=
    List.any_eq_false.2 fun r hr => beq_iff_eq.not.2 (unasked r hr)
  refine occur_some (f := evRunComplete t) ?_
  simp only [evRunComplete, run, waits, Bool.or_self, Bool.false_eq_true, if_false]
theorem exec_pacerStop {rest : List Req} (stops : (s.field f).pacer.stops = r :: rest) (pace : paced s (s.field f).pacer = true) :
    exec (.pacerStop f) s = .next ((s.modField f fun y => { y with pacer := { y.pacer with
      stops := rest, lastAt := some s.now, lastRate := Nat.max 1 (y.didt.toNat % 65536), running := y.pacer.running - 1 } }).modTile r.tile
        fun x => { x with pu := { x.pu with ranAt := none } }) := by
  refine occur_some (f := evPacerStop f) ?_
  simp only [evPacerStop, stops, pace, Bool.not_true, Bool.false_eq_true, if_false, rateOf_eq]

/-- A field whose current is within LIMIT (R322). -/
theorem overLimit_false (h : fieldCurrent2 s f ≤ 2 * ((s.field f).icrit.toNat % 65536)) : overLimit s f = false := by
  rw [overLimit, limitOf, nfld_low]
  exact decide_eq_false (Nat.not_lt.2 h)
theorem field_modTile (s : State) (t f : Nat) (g : Tile → Tile) : (s.modTile t g).field f = s.field f := rfl
theorem tile_modField (s : State) (f t : Nat) (g : FieldSt → FieldSt) : (s.modField f g).tile t = s.tile t := rfl
theorem tile_count (s : State) (f t : Nat) (g : SwAcc → SwAcc) : (s.count f g).tile t = s.tile t := rfl
/-- A count in the millisecond that the stopwatch is in (R331). -/
theorem field_count {g : SwAcc → SwAcc} (h : (s.field f).sw.ms = s.now / 1000000) :
    (s.count f g).field f = { s.field f with sw := g (s.field f).sw } := by
  simp only [State.count, State.field_modField, h, if_true]
/-- A start is granted: the pacer counts a run, the stopwatch a grant, and the head of the patch's queue may begin (R323). -/
theorem exec_pacerGrant (stops : (s.field f).pacer.stops = []) (pace : paced s (s.field f).pacer = true)
    (current : fieldCurrent2 s f ≤ 2 * ((s.field f).icrit.toNat % 65536)) (ms : (s.field f).sw.ms = s.now / 1000000)
    (first : firstReq s.now (ageOf (s.field f)) (s.field f).pacer.starts = some r) : ∃ u, exec (.pacerGrant f) s = .next u ∧
      (u.field f).pacer = { (s.field f).pacer with
        starts := (s.field f).pacer.starts.erase r, lastAt := some s.now, lastRate := rateOf (s.field f)
        running := (s.field f).pacer.running + 1 } ∧
      (u.field f).sw.grant = (s.field f).sw.grant + 1 ∧
      ∀ e q, (s.tile r.tile).pu.q = e :: q → (u.tile r.tile).pu.q = { e with granted := true } :: q := by
  refine ⟨_, occur_some (f := evPacerGrant f) (by
    simp only [evPacerGrant, stops, List.isEmpty_nil, pace, overLimit_false current, first, Bool.not_true, Bool.or_self,
      Bool.false_eq_true, if_false]
    rfl), ?pacer, ?grant, ?head⟩
  case pacer | grant =>
    rw [field_modTile, field_count (by rw [State.field_modField]; exact ms), State.field_modField]
  case head =>
    intro e q hq
    simp only [State.tile_modTile, tile_count, tile_modField, hq]

/-! ## Gating and wakes -/

theorem exec_gate_idle {n : Nat} (awake : (s.tile t).pu.gate = .awake n) (idle : (s.tile t).pu.q = [])
    (hold : (s.field (fieldOf t)).pgctl.toNat % 65536 ≠ 0)
    (late : n + (s.field (fieldOf t)).pgctl.toNat % 65536 < s.now) : exec (.powerGate t) s =
      .next (s.modTile t fun x => { x with pu := { x.pu with gate := .gating (s.now + 64) false } }) := by
  have expired : ((s.field (fieldOf t)).pgctl.toNat % 2 ^ 16 != 0 && decide (n + (s.field (fieldOf t)).pgctl.toNat % 2 ^ 16 < s.now)) =
      true := Bool.and_eq_true_iff.2 ⟨bne_iff_ne.2 hold, decide_eq_true late⟩
  refine occur_some (f := evPowerGate t) ?_
  simp only [evPowerGate, awake, idle, nfld_low, List.isEmpty_nil, Bool.true_and, expired, if_true]
theorem exec_gate_ends {n : Nat} (gating : (s.tile t).pu.gate = .gating n false) (late : n ≤ s.now) : exec (.powerGate t) s =
    .next (s.modTile t fun x => { x with pu := { x.pu with gate := .gated false } }) := by
  refine occur_some (f := evPowerGate t) ?_
  simp only [evPowerGate, gating, Nat.not_lt.2 late, if_false, Bool.false_eq_true]
theorem modField_congr {g h : FieldSt → FieldSt} (e : g (s.field f) = h (s.field f)) : s.modField f g = s.modField f h := by
  rw [State.modField, State.modField, e]
/-- A wake that waits alone is one of those that a slot takes (R328). -/
theorem taken_alone {w at_ slot : Nat} (hw : 1 ≤ w) (h : at_ ≤ 64 * slot) :
    (([(t, at_)].take w).takeWhile fun e => decide (e.2 ≤ 64 * slot)).length = 1 := by
  rw [List.take_of_length_le (by simpa using hw),
    List.takeWhile_cons_of_pos (p := fun e : Nat × Nat => decide (e.2 ≤ 64 * slot)) (decide_eq_true h)]
  rfl
/-- A wake that waits alone is admitted at the next slot boundary after it (R328). -/
theorem exec_wakeAdmit {at_ slot : Nat} (wakes : (s.field f).wakes = [(t, at_)])
    (next : Nat.max ((s.field f).wakeSlot + 1) ((at_ + 63) / 64) = slot) (now : 64 * slot ≤ s.now) : exec (.wakeAdmit f) s =
      .next ((s.modTile t fun x => { x with pu := { x.pu with gate := .awake (64 * (slot + 1)) } }).modField f fun y =>
        { y with wakes := [], wakeSlot := slot }) := by
  have slotEnds : at_ ≤ 64 * slot := by
    have : (at_ + 63) / 64 ≤ slot := next ▸ Nat.le_max_right ..
    omega
  have last : (s.field f).wakes.drop 1 = [] := by
    rw [wakes]
    rfl
  refine occur_some (f := evWakeAdmit f) ?_
  simp only [evWakeAdmit, wakes, next, if_neg (Nat.not_lt.2 now), List.take_succ_cons, List.take_zero, List.foldl_cons, List.foldl_nil,
    taken_alone (Nat.le_trans (by decide) (Nat.le_max_left 4 _)) slotEnds]
  exact congrArg some (modField_congr (congrArg (fun l => { s.field f with wakes := l, wakeSlot := slot }) last))

/-- Settles O54: each event is enabled, and acts as the statement says. -/
theorem patchMoves : Obligations.PatchMoves := by
  unfold Obligations.PatchMoves
  refine ⟨?head, ?status, ?complete, ?stop, ?grant, ?idle, ?gated, ?wake⟩
  case head =>
    intro s t e rest h
    exact ⟨fun src ty cmd => exec_cfg h cmd, fun cmd ring loaded => exec_wsw h cmd ring loaded, fun set all cmd => exec_clr h cmd,
      fun src addr rows r0 set zero bs u cmd rgn recu take => exec_run h cmd rgn recu take⟩
  case status =>
    intro s t e rest n d k clr q run cmd task next mt at_ first
    exact exec_st q run cmd task next mt at_ first
  case complete => exact fun s t ran unasked => exec_runComplete ran unasked
  case stop => exact fun s f r rest stops pace => exec_pacerStop stops pace
  case grant =>
    intro s f r stops pace current ms first
    exact exec_pacerGrant stops pace current ms first
  case idle => exact fun s t n awake idle hold late => exec_gate_idle awake idle hold late
  case gated => exact fun s t n gating late => exec_gate_ends gating late
  case wake => exact fun s f t at_ wakes now => exec_wakeAdmit wakes rfl now

end Sys2Proof.Spec
end
